-- ==== Sys2Proof/Word.lean ====
section
/-! DEFINITION. The plain words of the engine: bytes, registers, 512-byte rows and the numbers of
its parts, with the saturating counter that the unit chapters use. -/

namespace Sys2Proof

abbrev Byte := BitVec 8
abbrev Word := BitVec 32
abbrev DWord := BitVec 64
/-- A 512-byte row: a Pannier row, a bank row of 128 words, or a vector register (R33, R72, R160). -/
abbrev Row := BitVec 4096

abbrev CoreId := BitVec 4
abbrev CtxId := BitVec 12
abbrev BasketId := BitVec 4
abbrev LinkId := BitVec 1
abbrev SReg := BitVec 5
abbrev WReg := BitVec 4
abbrev VReg := BitVec 5
abbrev FReg := BitVec 3
abbrev TagId := BitVec 5
abbrev AcId := BitVec 6
abbrev SegId := BitVec 3
abbrev Fmt := BitVec 4
/-- An offset in the 32 MiB block register space (R523). -/
abbrev RegOff := BitVec 25

/-- A 32-bit counter that saturates at 0xFFFF_FFFF. -/
def satAdd (c : Word) (n : Nat) : Word :=
  if c.toNat + n ≥ 0xFFFFFFFF then 0xFFFFFFFF else c + BitVec.ofNat 32 n

/-- The bits `[lo + w - 1 : lo]` of a word. -/
abbrev bits {n : Nat} (x : BitVec n) (lo w : Nat) : BitVec w := x.extractLsb' lo w

/-- `x` with its bits `[lo + w - 1 : lo]` replaced by `v`. -/
def putBits {n w : Nat} (x : BitVec n) (lo : Nat) (v : BitVec w) : BitVec n :=
  (x &&& ~~~((BitVec.allOnes w).setWidth n <<< lo)) ||| (v.setWidth n <<< lo)

/-- A Boolean as a bit field of width `w` at position `lo` of a 32-bit register. -/
def bitAt (b : Bool) (lo : Nat) : Word := if b then 1#32 <<< lo else 0

/-- A number as a field at position `lo` of a 32-bit register. -/
def natAt (v lo : Nat) : Word := BitVec.ofNat 32 v <<< lo

end Sys2Proof
end

