-- ==== Sys2Proof/Syntax.lean ====
section
/-! DEFINITION. The commands of the engine: one constructor of `Instr` for each row of
spec/opcode_table.json, with the operands the row's rule names. -/

namespace Sys2Proof

/-- The four initiator classes of a register access (R527). -/
inductive Initiator where
  | host | forge | pmgr | secp
deriving DecidableEq, Repr

/-- The answer of the memory system, or of a peer, to a request (R323, R324). -/
inductive Resp where
  | ok | error | none
deriving DecidableEq, Repr

/-- What a coded word turns out to hold when it is read (R72, R101, R162, R219, R246). -/
inductive Ecc where
  | clean | single | double
deriving DecidableEq, Repr

/-- Which of the eight codewords of a Pannier row turn out to hold a correctable and which an
uncorrectable error (R218), one bit a codeword. -/
structure RowEcc where
  single : Byte := 0
  double : Byte := 0
deriving DecidableEq, Repr

/-- Which of the four 64-bit words of a bundle turn out to hold a correctable and which an uncorrectable
error (R246), one bit a word. -/
structure WordEcc where
  single : BitVec 4 := 0
  double : BitVec 4 := 0
deriving DecidableEq, Repr

/-- A bundle without an error. -/
def WordEcc.clean : WordEcc := {}

/-- A row without an error. -/
def RowEcc.clean : RowEcc := {}

/-- What bank rows turn out to hold when they are read (R72): row 0 to 511 of acc0, 512 to 1,023 of
acc1. -/
abbrev BankEcc := List (BitVec 10 × Ecc)

/-- A register write as it arrives at the block (R9). -/
structure Access where
  init : Initiator
  off : RegOff
  size : BitVec 8
  value : Word
deriving DecidableEq, Repr

/-- A register read as it arrives at the block (R9). -/
structure ReadAccess where
  init : Initiator
  off : RegOff
  size : BitVec 8
deriving DecidableEq, Repr

/-- The place of a Weft slot: its core, whether another slot of the same bundle follows, what the
bundle's words turn out to hold (R246, R248; the slots' masks count together), and what the words of the
Braid's parameter store turn out to hold that the slot reads (R101). -/
structure At where
  core : CoreId
  more : Bool
  ecc : WordEcc
  pecc : Ecc := .clean
deriving DecidableEq, Repr

/-- The place of a VEC slot: as `At`, with the number of failed attempts (R174), how many of the words
that it reads need a correction, and whether one is uncorrectable: a word of the register file, or
(true) of the query buffer or the lists (R162, R181). -/
structure VAt where
  slot : At
  fails : BitVec 4
  vsingle : BitVec 12 := 0
  vdouble : Option Bool := none
deriving DecidableEq, Repr

/-- What the Vector Unit's words of one core turn out to hold where a YIELD saves them (R162, R186): how many
need a correction, and whether one is uncorrectable, as in `VAt`. -/
structure VuEcc where
  core : CoreId
  single : BitVec 16
  double : Option Bool
deriving DecidableEq, Repr

/-- The Stream format of the MEM slot (R260). -/
structure StreamOp where
  tag : TagId
  desc : Byte
  w : WReg
  ro : SReg
  rs : SReg
  nr : BitVec 10
  ac : AcId
  acen : Bool
  wpi : Bool
deriving DecidableEq, Repr

/-- The Remote format of the MEM slot (R260). -/
structure RemoteOp where
  tag : TagId
  w : WReg
  rd : SReg
  core : BitVec 4
  nr : BitVec 10
  ac : AcId
  wpi : Bool
deriving DecidableEq, Repr

/-- The TP format: a plain TMM (R283, R287). -/
structure TmmOp where
  afmt : Fmt
  mm1 : BitVec 9
  wa : WReg
  bank : Bool
  a0 : BitVec 9
  clr : Bool
  chen : Bool
  ch : BitVec 2
  last : Bool
  defer : Bool
  linked : Bool
  wo : WReg
  wx : WReg
deriving DecidableEq, Repr

/-- The TC format: a convolution TMM (R283, R288). -/
structure TmmCOp where
  afmt : Fmt
  mm1 : BitVec 9
  wd : WReg
  bank : Bool
  rp : SReg
  clr : Bool
  chen : Bool
  ch : BitVec 2
  last : Bool
  wo : WReg
  wx : WReg
deriving DecidableEq, Repr

/-- The operands of BRUN (R283, R294). -/
structure BrunOp where
  slot : BitVec 2
  accf : Bool
  wl : Bool
  bank : Bool
  a0 : BitVec 9
  mm1 : BitVec 9
  wo : WReg
  wx : WReg
deriving DecidableEq, Repr

/-- The VR format with one source (R303). -/
structure VUn where
  fmt : Fmt
  vd : VReg
  va : VReg
  pr : FReg
deriving DecidableEq, Repr

/-- The VR format with two sources (R303). -/
structure VBin where
  fmt : Fmt
  vd : VReg
  va : VReg
  vb : VReg
  pr : FReg
deriving DecidableEq, Repr

/-- The operands of VDW (R304). -/
structure VdwOp where
  afmt : Fmt
  wd : WReg
  rp : SReg
  mm1 : BitVec 7
  lg : BitVec 3
  ww : WReg
  bank : Bool
  clr : Bool
  chen : Bool
  ch : BitVec 2
  last : Bool
  wo : WReg
  wx : WReg
deriving DecidableEq, Repr

/-- A physical fault's effect on one result of a pass attempt: the physical row of the cell at fault where it is
one (R59), the group (L4 only), the result row (M is the check row), the column (128 is the check column of a
quadrant) and what is added. -/
structure PassFault where
  cell : Option Byte := none
  group : Nat
  row : Nat
  col : Nat
  delta : Word
deriving DecidableEq, Repr

/-- Bits that a read of a copy of a flash page finds wrong at one read-retry level (R452): the region, the
logical page, whether the copy is on module B, the level, and each bit by its codeword and its power of x. -/
structure PageErr where
  region : BitVec 2
  page : Nat
  modB : Bool
  level : BitVec 4
  flips : List (BitVec 4 × BitVec 14)
deriving DecidableEq, Repr

/-- An invalidation message of the V9 network (R317). -/
inductive InvKind where
  | range (space : BitVec 20) (lo hi : DWord)
  | space (space : BitVec 20)
  | all
deriving DecidableEq, Repr

/-- The engine memory request that an error or a missing response concerns (R320, R323, R324); `pte` is a
PTE read made for a command of the context. -/
inductive MemReq where
  | load (core : CoreId) (tag : TagId) (line : BitVec 12)
  | store (core : CoreId) (tag : TagId) (pa : DWord)
  | ring (ctx : CtxId)
  | descTable (ctx : CtxId) (pa : DWord)
  | save (ctx : CtxId) (pa : DWord) (write : Bool)
  | command (ctx : CtxId) (pa : DWord) (write : Bool)
  | pte (ctx : CtxId) (pa : DWord)
deriving DecidableEq, Repr

/-- A 64b/66b block of a lane (R414, R415): its sync header, 1 for data and 2 for control, and its payload as
the lane carries it, scrambled. -/
structure LaneBlock where
  lane : BitVec 3
  sync : BitVec 2
  payload : DWord
deriving DecidableEq, Repr

/-- A field carried by a TRAIN frame (R418). -/
structure TrainFrame where
  field : BitVec 4
  lane : BitVec 4
  value : BitVec 48
  echo : Bool
deriving DecidableEq, Repr

/-- What a start finds in a word of the Temper array (R536, R537): the copies with a correctable error, those
that do not decode any more, and whether its counter does not. -/
structure TemperErr where
  word : BitVec 12
  single : BitVec 3
  double : BitVec 3
  counter : Bool
deriving DecidableEq, Repr

/-- What a start-up meets outside the engine's logic (R518): lock, image authentication, the failing results
of each core whose calibration fails, the twenty sensor readings in 0.25 degree steps offset by -40 degrees
with the sensors whose self-test fails, and the errors of the Temper array. -/
structure StartInputs where
  lock : Bool
  authentic : Bool
  calFails : List (CoreId × List (Nat × Nat))
  readings : List (BitVec 11)
  selfTestFail : BitVec 20
  temper : List TemperErr
  version : Word
deriving DecidableEq, Repr

/-- One standing context of the plan (R393). -/
structure PlanCtx where
  index : BitVec 3
  prio : BitVec 2
  region : BitVec 3
  ingot : Word
  template : Bool
deriving DecidableEq, Repr

/-- The trigger of a schedule entry (R409). -/
inductive Trigger where
  | time (minutes offset : Nat)
  | scene (addr : Nat) (threshold : Word) (below : Bool) (hold : Nat)
deriving DecidableEq, Repr

/-- A schedule entry of the plan (R393, R409). -/
structure PlanEntry where
  trigger : Trigger
  change : List (BitVec 3 × Word)
deriving DecidableEq, Repr

/-- A Basket entry of the plan (R393). -/
structure PlanBasket where
  slot : BasketId
  minCores : Nat
  wantCores : Nat
  segs : BitVec 8
  rsvd : BitVec 8
  rate : BitVec 13
  depth : BitVec 13
  slice : BitVec 6
  regions : List Word
  fallback : Option (BitVec 4)
  ctxs : List PlanCtx
  entries : List PlanEntry
deriving DecidableEq, Repr

/-- A route entry of the plan (R393). -/
structure PlanRoute where
  first : BitVec 9
  last : BitVec 9
  basket : BasketId
  template : BitVec 6
deriving DecidableEq, Repr

/-- The standing plan (R393); the spec gives its parts and no binary layout. -/
structure Plan where
  version : Word
  baskets : List PlanBasket
  routes : List PlanRoute
deriving DecidableEq, Repr

/-- A command of a frame template (R22): its context, its 64 bytes, and where the handle and the
descriptor's address are filled in. -/
structure TemplateCmd where
  ctx : Nat
  bytes : BitVec 512
  handleAt : Option Nat
  descAt : Option Nat
deriving DecidableEq, Repr

/-- What the Forge reads at a start (R407): the plan, where the carve-out's parts are laid out, and
the Ingots whose signature or ECC fails, and the frame templates by index. -/
structure ForgeInputs where
  plan : Option Plan
  badIngots : List Word
  templates : List (Nat × List TemplateCmd)
deriving DecidableEq, Repr

/-- One command. Each constructor is the row of the table that its docstring or name spells. -/
inductive Instr where
  -- registers (00, 19)
  | registerWrite (a : Access)
  | scWrite (a : Access)
  | crRead (a : ReadAccess)
  | mwWrite (a : Access)
  | loReadLatch (a : ReadAccess)
  | twValueWrite (a : Access)
  | twLapse (off : RegOff)
  | tvScrub (off : RegOff) (f0 f1 f2 : Word)
  -- Frame Port and Region Unit (07)
  | frameHandle (h : Word) (outside : List Host.Cell)
  | frameRelease (h : Word) (ecc : Ecc)
  | releaseFailed (h : Word)
  | frameStale (h : Word)
  | regionAccept (ecc : Ecc)
  | crop
  | decode
  | suppress
  | iou
  | regionComplete (pipe : BitVec 2) (resp : Resp)
  -- Pannier (08)
  | scrubVisit (core : CoreId) (seg : SegId) (ecc : RowEcc)
  | mapOut (a : Access)
  | mapOutCopy (core : CoreId) (seg : SegId)
  | panGroupWrite (a : Access)
  | segmentSweep (core : CoreId) (seg : SegId)
  | panWindowRead (init : Initiator) (off : BitVec 28) (size : BitVec 8) (ecc : RowEcc)
  | panWindowWrite (init : Initiator) (off : BitVec 28) (size : BitVec 8) (data : BitVec 512)
  | panWindowWritePerform (core : CoreId)
  | remoteRowArrival (core : CoreId) (tag : TagId)
  | remoteReadServe (core : CoreId) (tag : TagId) (ecc : RowEcc)
  | remoteReadRowReturn (core : CoreId) (tag : TagId)
  | forgeRowRepair (core : CoreId) (seg : SegId) (index : BitVec 12) (listed : Bool)
  -- dispatch
  | dispatch (b : BasketId) (ecc : Ecc)
  | listBuild (ctx : CtxId) (lost : List DWord)
  -- CTL slot (09)
  | add (at_ : At) (rd ra rb : SReg)
  | sub (at_ : At) (rd ra rb : SReg)
  | and (at_ : At) (rd ra rb : SReg)
  | or (at_ : At) (rd ra rb : SReg)
  | xor (at_ : At) (rd ra rb : SReg)
  | shl (at_ : At) (rd ra rb : SReg)
  | shr (at_ : At) (rd ra rb : SReg)
  | sra (at_ : At) (rd ra rb : SReg)
  | mul (at_ : At) (rd ra rb : SReg)
  | divu (at_ : At) (rd ra rb : SReg)
  | remu (at_ : At) (rd ra rb : SReg)
  | min (at_ : At) (rd ra rb : SReg)
  | max (at_ : At) (rd ra rb : SReg)
  | slt (at_ : At) (rd ra rb : SReg)
  | sltu (at_ : At) (rd ra rb : SReg)
  | addi (at_ : At) (rd ra : SReg) (imm : BitVec 30)
  | subi (at_ : At) (rd ra : SReg) (imm : BitVec 30)
  | andi (at_ : At) (rd ra : SReg) (imm : BitVec 30)
  | ori (at_ : At) (rd ra : SReg) (imm : BitVec 30)
  | xori (at_ : At) (rd ra : SReg) (imm : BitVec 30)
  | shli (at_ : At) (rd ra : SReg) (imm : BitVec 30)
  | shri (at_ : At) (rd ra : SReg) (imm : BitVec 30)
  | srai (at_ : At) (rd ra : SReg) (imm : BitVec 30)
  | muli (at_ : At) (rd ra : SReg) (imm : BitVec 30)
  | divui (at_ : At) (rd ra : SReg) (imm : BitVec 30)
  | remui (at_ : At) (rd ra : SReg) (imm : BitVec 30)
  | mini (at_ : At) (rd ra : SReg) (imm : BitVec 30)
  | maxi (at_ : At) (rd ra : SReg) (imm : BitVec 30)
  | slti (at_ : At) (rd ra : SReg) (imm : BitVec 30)
  | sltui (at_ : At) (rd ra : SReg) (imm : BitVec 30)
  | lih (at_ : At) (rd ra : SReg) (imm : BitVec 30)
  | srd (at_ : At) (rd : SReg) (imm : BitVec 30)
  | wset (at_ : At) (w : WReg) (ra : SReg)
  | wadd (at_ : At) (w : WReg) (ra : SReg)
  | wrd (at_ : At) (w : WReg) (rd : SReg)
  | beq (at_ : At) (ra rb : SReg) (target : BitVec 13)
  | bne (at_ : At) (ra rb : SReg) (target : BitVec 13)
  | blt (at_ : At) (ra rb : SReg) (target : BitVec 13)
  | bge (at_ : At) (ra rb : SReg) (target : BitVec 13)
  | bltu (at_ : At) (ra rb : SReg) (target : BitVec 13)
  | bgeu (at_ : At) (ra rb : SReg) (target : BitVec 13)
  | jmp (at_ : At) (target : BitVec 13)
  | call (at_ : At) (target : BitVec 13)
  | ret (at_ : At)
  | loop (at_ : At) (lc : BitVec 2) (ra : SReg) (fin : BitVec 13)
  | loopi (at_ : At) (lc : BitVec 2) (fin : BitVec 13) (count : BitVec 20)
  | weftEnd (at_ : At)
  | taskEnd (ctx : CtxId)
  -- MEM slot (09)
  | mld (at_ : At) (o : StreamOp)
  | mst (at_ : At) (o : StreamOp)
  | mlda (at_ : At) (o : StreamOp)
  | msta (at_ : At) (o : StreamOp)
  | flush (at_ : At) (tag : TagId) (all : Bool)
  | rwr (at_ : At) (o : RemoteOp)
  | rrd (at_ : At) (o : RemoteOp)
  | lineRequestIssue (core : CoreId) (tag : TagId) (ecc : RowEcc) (tecc : Ecc)
  | loadLineReturn (core : CoreId) (tag : TagId) (line : BitVec 12)
  | flushReadbackDone (core : CoreId) (tag : TagId) (resp : Resp)
  -- SYN slot (09)
  | waitAc (at_ : At) (ac : AcId) (count : BitVec 16) (reg : Bool)
  | waitT (at_ : At) (tag : TagId) (f : Bool)
  | waitTm (at_ : At) (rs : SReg) (f : Bool)
  | acsig (at_ : At) (ac : AcId) (core : BitVec 4) (count : BitVec 12)
  | acsigDelivery (core : CoreId)
  | yield (at_ : At)
  | yieldBarrier (ctx : CtxId) (ecc : List VuEcc)
  | live (at_ : At) (ra rb : SReg)
  | liveClr (at_ : At)
  | fence (at_ : At) (mask : BitVec 6)
  | noYield (core : CoreId)
  -- TEN slot (10)
  | tmmI8 (at_ : At) (o : TmmOp)
  | tmmI4 (at_ : At) (o : TmmOp)
  | tmmL4 (at_ : At) (o : TmmOp)
  | tmmF8 (at_ : At) (o : TmmOp)
  | tmmBf16 (at_ : At) (o : TmmOp)
  | tmmF16 (at_ : At) (o : TmmOp)
  | tmmCI8 (at_ : At) (o : TmmCOp)
  | tmmCI4 (at_ : At) (o : TmmCOp)
  | tmmCL4 (at_ : At) (o : TmmCOp)
  | tmmCF8 (at_ : At) (o : TmmCOp)
  | tmmCBf16 (at_ : At) (o : TmmCOp)
  | tmmCF16 (at_ : At) (o : TmmCOp)
  | tlw (at_ : At) (tfmt : Fmt) (wt : WReg) (wpi : Bool)
  | tlwLoadDone (core : CoreId)
  | tmodeN (at_ : At)
  | tmodeW (at_ : At)
  | taclr (at_ : At) (bank : Bool) (a0 nm1 : BitVec 9)
  | lineSlotFill (core : CoreId)
  | passVerdict (core : CoreId) (faults : List PassFault) (ecc : BankEcc)
  | epilogueRowWrite (core : CoreId) (slot : BitVec 2) (ecc : Ecc)
  | bpld (at_ : At) (wp : WReg) (soff nm1 : BitVec 7)
  | bset (at_ : At) (slot : BitVec 2) (doff : BitVec 12)
  | barm (at_ : At) (slot : BitVec 2)
  | brun (at_ : At) (o : BrunOp) (ecc : BankEcc)
  | bnorm (at_ : At) (slot : BitVec 2)
  | rcall (at_ : At) (rs : SReg) (ac : AcId)
  | sapp (at_ : At) (reg : Bool) (ws : WReg) (nm1 : Byte) (ac : AcId)
  | sappAccept (core : CoreId)
  -- VEC slot (06, 10)
  | vld (at_ : VAt) (v : VReg) (w : WReg) (wpi : Bool) (ecc : RowEcc)
  | vst (at_ : VAt) (v : VReg) (w : WReg) (wpi : Bool)
  | vlda (at_ : VAt) (v : VReg) (bank : Bool) (row : BitVec 9) (ecc : Ecc)
  | vsta (at_ : VAt) (v : VReg) (bank : Bool) (row : BitVec 9)
  | vmov (at_ : VAt) (o : VUn)
  | vbc (at_ : VAt) (fmt : Fmt) (vd : VReg) (rs : SReg) (pr : FReg)
  | vext (at_ : VAt) (fmt : Fmt) (rd : SReg) (va : VReg) (lane : BitVec 9)
  | vadd (at_ : VAt) (o : VBin)
  | vsub (at_ : VAt) (o : VBin)
  | vmul (at_ : VAt) (o : VBin)
  | vmulh (at_ : VAt) (o : VBin)
  | vadds (at_ : VAt) (o : VBin)
  | vsubs (at_ : VAt) (o : VBin)
  | vmin (at_ : VAt) (o : VBin)
  | vmax (at_ : VAt) (o : VBin)
  | vabs (at_ : VAt) (o : VUn)
  | vneg (at_ : VAt) (o : VUn)
  | vshl (at_ : VAt) (o : VBin)
  | vshr (at_ : VAt) (o : VBin)
  | vand (at_ : VAt) (o : VBin)
  | vor (at_ : VAt) (o : VBin)
  | vxor (at_ : VAt) (o : VBin)
  | vnot (at_ : VAt) (o : VUn)
  | vdot4 (at_ : VAt) (o : VBin)
  | vfma (at_ : VAt) (o : VBin) (vc : VReg)
  | vdiv (at_ : VAt) (o : VBin)
  | vsqrt (at_ : VAt) (o : VUn)
  | vrcp (at_ : VAt) (o : VUn)
  | vrsqrt (at_ : VAt) (o : VUn)
  | vexp (at_ : VAt) (o : VUn)
  | vcmp (at_ : VAt) (fmt : Fmt) (fd : FReg) (va vb : VReg) (pr : FReg) (cond : BitVec 3)
  | vsel (at_ : VAt) (o : VBin)
  | vcvt (at_ : VAt) (o : VUn) (src : Fmt) (p : BitVec 3)
  | vrsum (at_ : VAt) (o : VUn) (lg : BitVec 4)
  | vrmax (at_ : VAt) (o : VUn) (lg : BitVec 4)
  | vrmin (at_ : VAt) (o : VUn) (lg : BitVec 4)
  | vrargmax (at_ : VAt) (o : VUn) (lg : BitVec 4)
  | vrargmin (at_ : VAt) (o : VUn) (lg : BitVec 4)
  | vlutB (at_ : VAt) (vd va : VReg) (pr : FReg) (off : BitVec 12)
  | vlutF32 (at_ : VAt) (vd va : VReg) (pr : FReg) (off : BitVec 12)
  | vperm (at_ : VAt) (o : VBin)
  | vqld (at_ : VAt) (w : WReg) (half : Bool) (q : BitVec 6) (ecc : RowEcc)
  | vtkcfg (at_ : VAt) (nq : BitVec 7) (k : BitVec 9)
  | vsimI8 (at_ : VAt) (va : VReg) (half : Bool) (rt : SReg)
  | vtkrd (at_ : VAt) (vd : VReg) (q : BitVec 6) (r : BitVec 2)
  | vdw (at_ : VAt) (o : VdwOp)
  | dwWindowFill (core : CoreId)
  | vdwCommit (core : CoreId) (fails : BitVec 4) (ecc : BankEcc)
  -- repair and diagnostics (03)
  | repairHoldRelease (core : CoreId)
  | diagStart (init : Initiator) (core : CoreId)
  | calibrationStart (init : Initiator) (core : CoreId)
  | diagDone (core : CoreId) (fails : List (Nat × Nat))
  | calibrationDone (core : CoreId) (fails : List (Nat × Nat))
  | spareSwitch (a : Access)
  | forgeRepair (core : CoreId) (hard : Bool) (fails calFails : List (Nat × Nat))
  -- ATU (11)
  | atuSpaceCommit (init : Initiator)
  | pteReadResponse (walker : BitVec 4) (resp : Resp)
  | faultRetry (init : Initiator) (id : BitVec 6)
  | faultAbort (init : Initiator) (id : BitVec 6)
  | faultTimeout (id : BitVec 6) (ecc : Ecc)
  | memResponseTimeout (r : MemReq)
  | memErrorResponse (r : MemReq)
  | invalidation (k : InvKind) (outside : List Host.Cell)
  | invalidationAck
  | creditAdd
  | atuBwWrite (a : Access)
  | atuDisable (a : Access)
  -- contexts and commands (12)
  | contextValidSet (init : Initiator) (ctx : CtxId) (b : BasketId) (prio : BitVec 2) (grant : Bool)
  | contextValidClear (init : Initiator) (ctx : CtxId)
  | stop (init : Initiator) (ctx : CtxId)
  | start (init : Initiator) (ctx : CtxId)
  | teardown (init : Initiator) (ctx : CtxId)
  | reset (init : Initiator) (ctx : CtxId)
  | contextTeardown (ctx : CtxId) (code reason : Byte)
  | doorbell (init : Initiator) (ctx : CtxId) (wr : Word) (outside : List Host.Cell)
  | commandFetch (ctx : CtxId) (ecc : Ecc)
  | cmdExec (ctx : CtxId)
  | copy (ctx : CtxId)
  | fenceWait (ctx : CtxId)
  | fenceSignal (ctx : CtxId)
  | region (ctx : CtxId)
  | store (ctx : CtxId)
  | barrier (ctx : CtxId)
  | commandComplete (ctx : CtxId)
  | barrierRelease (ctx : CtxId)
  | barrierTimeout (ctx : CtxId)
  | fenceAtomicResponse (resp : Resp)
  | fenceReadResponse (addr : DWord) (resp : Resp) (ecc : Ecc) (outside : List Host.Cell)
  | fenceTimeout (ctx : CtxId)
  | watchPoll (outside : List Host.Cell)
  | fuNotify (init : Initiator) (outside : List Host.Cell)
  | vectorUnmask (init : Initiator) (vec : BitVec 5)
  | msiWriteError (vec : BitVec 5)
  | geqRingWrite (ecc : Ecc)
  | geqWriteError
  | geqEnable (init : Initiator)
  -- mailbox and Baskets (12, 13)
  | basketCreate
  | basketDestroy
  | contextBind
  | contextUnbind
  | storeGrant (ctx : CtxId) (grant : Bool)
  | spaceFlags (slot : BitVec 12) (engine forge : Bool)
  | adoptFresh
  | adoptResume
  | adoptPlan (f : ForgeInputs)
  | fwUpdate (authentic : Bool) (version : Word)
  | coreReadmit (fails vfails calFails : List (Nat × Nat))
  | coreRetire
  | query
  | mbxUnsupportedOp
  | mbxRspAck (init : Initiator)
  | basketValidate (init : Initiator) (b : BasketId)
  | basketFree (init : Initiator) (b : BasketId)
  | basketDrain (init : Initiator) (b : BasketId)
  | basketUndrain (init : Initiator) (b : BasketId)
  | drainDone (b : BasketId)
  | basketReset (a : Access)
  | sliceExpiry (ctx : CtxId)
  -- standing operation (14)
  | hostReset
  | quietLimitExpiry
  | hostQuiet
  | forgeStart (f : ForgeInputs)
  | standingRestart (ctx : CtxId)
  | sceneSample
  | timeTrigger (b : BasketId) (entry : BitVec 4)
  | ingotSwitch (b : BasketId) (badIngots : List Word)
  -- Plait links (15)
  | linkEnable (init : Initiator) (l : LinkId)
  | linkDisable (init : Initiator) (l : LinkId)
  | linkRetrainRequest (init : Initiator) (l : LinkId)
  | linkReset (a : Access)
  | linkDetect (l : LinkId)
  | linkAlign (l : LinkId) (skew : List (BitVec 6))
  | alignTimeout (l : LinkId)
  | trainFrame (l : LinkId) (f : TrainFrame)
  | trainTimeout (l : LinkId)
  | retrainTimeout (l : LinkId)
  | linkAutoRestart (l : LinkId)
  | laneLockLoss (l : LinkId)
  | flitReceive (l : LinkId) (blocks : List LaneBlock)
  | retryRequestTimeout (l : LinkId)
  | ackStallTimeout (l : LinkId)
  | apertureLine (l : LinkId)
  | runTimeout (l : LinkId) (core : CoreId)
  | winWrite (l : LinkId) (resp : Resp) (ecc : Ecc)
  | winRead (l : LinkId) (resp : Resp)
  | fenceSig (l : LinkId) (resp : Resp)
  | msg (l : LinkId)
  | completion (l : LinkId)
  | transactionTimeout (l : LinkId) (tag : BitVec 10)
  | pltMsgGo (init : Initiator) (l : LinkId) (forge : Bool)
  | windowOpen (init : Initiator) (l : LinkId) (w : BitVec 6)
  | windowClose (init : Initiator) (l : LinkId) (w : BitVec 6)
  | xtCommit (init : Initiator) (l : LinkId) (hi : Word)
  -- Ingot Store (16)
  | storeMount (badTargets : BitVec 16) (errs : List PageErr)
  | storeUnmount
  | statusPoll (ch ce lun : Nat) (status : Byte)
  | nandOpTimeout (ch ce lun : Nat)
  | nandOpComplete (ch ce lun : Nat) (fail : Bool)
  | zqCalibrationTimer
  | journalCommit
  | journalAppend (ctx : CtxId)
  | galleryAppend (ctx : CtxId)
  | journalRead (ctx : CtxId) (errs : List PageErr)
  | galleryRead (ctx : CtxId) (errs : List PageErr)
  | search (ctx : CtxId) (errs : List PageErr)
  | commit (ctx : CtxId)
  | ingotWrite (ctx : CtxId)
  | ingotRead (ctx : CtxId) (errs : List PageErr)
  | ingotDelete (ctx : CtxId)
  | planWrite (ctx : CtxId) (p : Plan)
  | format (ctx : CtxId) (badBlocks : List Nat)
  | moduleOut (ctx : CtxId)
  | moduleIn (ctx : CtxId) (badTargets : BitVec 16) (badBlocks : List Nat)
  | mirrorRebuilt
  | eraseArm (a : Access)
  | eraseArmExpiry
  | storeRefresh (block : Nat) (corrected : Nat)
  | storeHoursTick
  -- service (17)
  | vdiagStart (init : Initiator) (core : CoreId)
  | vdiagDone (core : CoreId) (fail : Option (BitVec 2 × BitVec 9))
  | packetResend (link : Nat) (again : Bool)
  | svcWdog (init : Initiator) (value : Word)
  | forgeWatchdogExpiry
  | forgeRecovered
  | handoverReady
  | handoverTimeout
  | replaceReminder
  -- power, clocks, reset (18)
  | domainOn (init : Initiator) (d : Byte)
  | powerAck (d : Byte)
  | pwrSeqTimeout (d : Byte)
  | forceOff (a : Access)
  | powerPeriod (stat dyn : Nat)
  | pwrBudgetWrite (init : Initiator) (v : Word)
  | thermalSample (readings : List (BitVec 11)) (selfTestFail : BitVec 20)
  | pllUnlock
  | pllRelock
  | pllUnlockTimeout
  | blockColdReset (i : StartInputs)
  | blockWarmReset (i : StartInputs)
  | coreReset (init : Initiator) (core : CoreId)
  | storeReset (init : Initiator)
  -- Temper (19)
  | temperCommit (a : Access)
  | temperCommitDone (failA failB : BitVec 3)
  -- telemetry (20)
  | snapshotArm (init : Initiator)
  | snapshot
  | traceEnable (init : Initiator)
  | traceLineTimeout
  | traceLineWrite (resp : Resp)
  | powerLoss (step : BitVec 3) (torn : Option Word)
  | quiescenceTimeout
deriving DecidableEq, Repr

end Sys2Proof
end

