-- ==== Sys2Proof/Machine/Float.lean ====
section
/-! DEFINITION. Number formats (02): exact values, rounding to each format, and the conversions. A
floating-point value is held exactly, as a sign, a whole number and a power of two. -/

namespace Sys2Proof.Machine

/-- A floating-point value: NaN, an infinity, or `(-1)^neg * m * 2^e`. -/
inductive Fv where
  | nan
  | inf (neg : Bool)
  | fin (neg : Bool) (m : Nat) (e : Int)
deriving DecidableEq, Repr

def Fv.zero : Fv := .fin false 0 0

/-- Powers of two with an integer exponent, split into what multiplies and what divides. -/
def pow2 (e : Int) : Nat := 2 ^ e.toNat

/-- Bits that a number takes. -/
def bitLen (m : Nat) : Nat := if m = 0 then 0 else Nat.log2 m + 1

/-- `m / 2^k` rounded to nearest, ties to even. -/
def rneShift (m k : Nat) : Nat :=
  let q := m / 2 ^ k
  let r := m % 2 ^ k
  if k = 0 then m
  else if r > 2 ^ (k - 1) ∨ (r = 2 ^ (k - 1) ∧ q % 2 = 1) then q + 1 else q

/-- `m / 2^k` rounded up. -/
def upShift (m k : Nat) : Nat := if m % 2 ^ k = 0 then m / 2 ^ k else m / 2 ^ k + 1

/-- An IEEE layout: mantissa bits and exponent bits. -/
structure Ieee where
  mb : Nat
  eb : Nat
deriving DecidableEq, Repr

def ieee32 : Ieee := { mb := 23, eb := 8 }
def ieee64 : Ieee := { mb := 52, eb := 11 }
def ieeeBf16 : Ieee := { mb := 7, eb := 8 }
def ieeeF16 : Ieee := { mb := 10, eb := 5 }
def ieeeE5M2 : Ieee := { mb := 2, eb := 5 }

def Ieee.bias (f : Ieee) : Nat := 2 ^ (f.eb - 1) - 1

/-- The value of an encoding (R38, R39). -/
def decIeee (f : Ieee) (x : Nat) : Fv :=
  let man := x % 2 ^ f.mb
  let ex := x / 2 ^ f.mb % 2 ^ f.eb
  let neg := decide (x / 2 ^ (f.mb + f.eb) % 2 = 1)
  if ex = 2 ^ f.eb - 1 then (if man = 0 then .inf neg else .nan)
  else if ex = 0 then .fin neg man (1 - (f.bias : Int) - f.mb)
  else .fin neg (2 ^ f.mb + man) ((ex : Int) - f.bias - f.mb)

/-- The exponent of the last place when `m * 2^e` is rounded to `f`. -/
def lastPlace (f : Ieee) (m : Nat) (e : Int) : Int :=
  max (e + bitLen m - (f.mb + 1)) (1 - (f.bias : Int) - f.mb)

/-- `m * 2^e` in units of the last place `q`, by a rounding of what falls below it. -/
def roundTo (rnd : Nat → Nat → Nat) (m : Nat) (e q : Int) : Nat :=
  if q ≤ e then m * pow2 (e - q) else rnd m (q - e).toNat

/-- Exponent field and mantissa field of `n` units of the last place `q`, as one number; the
mantissa's carry moves into the exponent by itself. -/
def packUnits (f : Ieee) (n : Nat) (q : Int) : Nat :=
  let sub := 1 - (f.bias : Int) - f.mb
  if n < 2 ^ f.mb then n else (q - sub).toNat * 2 ^ f.mb + n

/-- The encoding of a value (R38, R40, R46): `rnd` rounds what falls below the last place; a magnitude
beyond the largest finite value becomes infinity; every NaN is the canonical one. -/
def encIeeeBy (rnd : Nat → Nat → Nat) (f : Ieee) : Fv → Nat
  | .nan => (2 ^ f.eb - 1) * 2 ^ f.mb + 2 ^ (f.mb - 1)
  | .inf neg => (if neg then 2 ^ (f.mb + f.eb) else 0) + (2 ^ f.eb - 1) * 2 ^ f.mb
  | .fin neg m e =>
    let q := lastPlace f m e
    let x := packUnits f (roundTo rnd m e q) q
    (if neg then 2 ^ (f.mb + f.eb) else 0) + min x ((2 ^ f.eb - 1) * 2 ^ f.mb)

def encIeee (f : Ieee) (v : Fv) : Nat := encIeeeBy rneShift f v

/-- E4M3 (R38): no infinity; the one NaN has exponent and mantissa all ones. -/
def decE4M3 (x : Nat) : Fv :=
  let man := x % 8
  let ex := x / 8 % 16
  let neg := decide (x / 128 % 2 = 1)
  if ex = 15 ∧ man = 7 then .nan
  else if ex = 0 then .fin neg man (-9)
  else .fin neg (8 + man) ((ex : Int) - 10)

/-- To E4M3 (R50): magnitudes above 448 and infinities give 448 of their sign. -/
def encE4M3 : Fv → Nat
  | .nan => 0x7F
  | .inf neg => (if neg then 128 else 0) + 0x7E
  | .fin neg m e =>
    let f : Ieee := { mb := 3, eb := 4 }
    let q := lastPlace f m e
    (if neg then 128 else 0) + min (packUnits f (roundTo rneShift m e q) q) 0x7E

-- ---------------------------------------------------------------- exact arithmetic (R46, R49)

def Fv.isNan : Fv → Bool
  | .nan => true
  | _ => false

def Fv.isInf : Fv → Bool
  | .inf _ => true
  | _ => false

def Fv.isZero : Fv → Bool
  | .fin _ 0 _ => true
  | _ => false

def Fv.neg : Fv → Fv
  | .nan => .nan
  | .inf n => .inf (!n)
  | .fin n m e => .fin (!n) m e

def Fv.abs : Fv → Fv
  | .nan => .nan
  | .inf _ => .inf false
  | .fin _ m e => .fin false m e

def fvMul : Fv → Fv → Fv
  | .nan, _ => .nan
  | _, .nan => .nan
  | .inf n, .inf k => .inf (n != k)
  | .inf n, .fin k m _ => if m = 0 then .nan else .inf (n != k)
  | .fin k m _, .inf n => if m = 0 then .nan else .inf (n != k)
  | .fin n m e, .fin k p f => .fin (n != k) (m * p) (e + f)

/-- A signed whole number at an exponent. -/
def signedAt (neg : Bool) (m : Nat) (e lo : Int) : Int :=
  let v : Int := (m * pow2 (e - lo) : Nat)
  if neg then -v else v

def fvAdd : Fv → Fv → Fv
  | .nan, _ => .nan
  | _, .nan => .nan
  | .inf n, .inf k => if n = k then .inf n else .nan
  | .inf n, .fin .. => .inf n
  | .fin .., .inf n => .inf n
  | .fin n m e, .fin k p f =>
    let lo := min e f
    let v := signedAt n m e lo + signedAt k p f lo
    if v = 0 then .fin (n && k) 0 lo else .fin (decide (v < 0)) v.natAbs lo

def fvSub (a b : Fv) : Fv := fvAdd a b.neg

/-- A whole number as a value; zero is +0. -/
def fvInt (v : Int) : Fv := .fin (decide (v < 0)) v.natAbs 0

/-- A quotient that rounds as the exact one does: enough bits and a mark of the rest. -/
def fvDiv : Fv → Fv → Fv
  | .nan, _ => .nan
  | _, .nan => .nan
  | .inf _, .inf _ => .nan
  | .inf n, .fin k _ _ => .inf (n != k)
  | .fin n _ _, .inf k => .fin (n != k) 0 0
  | .fin n m e, .fin k p f =>
    if p = 0 then (if m = 0 then .nan else .inf (n != k))
    else
      let sh := 128 + bitLen p
      let num := m * 2 ^ sh
      .fin (n != k) (2 * (num / p) + (if num % p = 0 then 0 else 1)) (e - f - sh - 1)

/-- Bits of the integer square root, from bit `n` down. -/
def isqrtFrom (x : Nat) : Nat → Nat → Nat
  | 0, r => r
  | n + 1, r =>
    let t := r + 2 ^ n
    isqrtFrom x n (if t * t ≤ x then t else r)

def isqrt (x : Nat) : Nat := isqrtFrom x (bitLen x / 2 + 1) 0

/-- A square root that rounds as the exact one does. -/
def fvSqrt : Fv → Fv
  | .nan => .nan
  | .inf n => if n then .nan else .inf false
  | .fin n m e =>
    if m = 0 then .fin n 0 e
    else if n then .nan
    else
      let odd := decide (e % 2 = 1)
      let m1 := (if odd then 2 * m else m) * 2 ^ 128
      let e1 := (if odd then e - 1 else e) - 128
      let r := isqrt m1
      .fin false (2 * r + (if r * r = m1 then 0 else 1)) (e1 / 2 - 1)

/-- A reciprocal square root that rounds as the exact one does; of +0 it is +inf, of -0 -inf. -/
def fvRsqrt : Fv → Fv
  | .nan => .nan
  | .inf n => if n then .nan else .fin false 0 0
  | .fin n m e =>
    if m = 0 then .inf n
    else if n then .nan
    else
      let odd := decide (e % 2 = 1)
      let m1 := if odd then 2 * m else m
      let e1 := if odd then e - 1 else e
      let k := 128 + bitLen m1
      let r := isqrt (2 ^ (2 * k) / m1)
      .fin false (2 * r + (if r * r * m1 = 2 ^ (2 * k) then 0 else 1)) (-(e1 / 2) - k - 1)

/-- `a < b` for values that are not NaN. -/
def fvLt : Fv → Fv → Bool
  | .nan, _ => false
  | _, .nan => false
  | .inf n, .inf k => n && !k
  | .inf n, .fin .. => n
  | .fin .., .inf k => !k
  | .fin n m e, .fin k p f =>
    let lo := min e f
    decide (signedAt n m e lo < signedAt k p f lo)

/-- `a = b` for values that are not NaN; the zeros are equal. -/
def fvEq : Fv → Fv → Bool
  | .nan, _ => false
  | _, .nan => false
  | .inf n, .inf k => n == k
  | .inf _, .fin .. => false
  | .fin .., .inf _ => false
  | .fin n m e, .fin k p f =>
    let lo := min e f
    decide (signedAt n m e lo = signedAt k p f lo)

def fvLe (a b : Fv) : Bool := fvLt a b || fvEq a b

-- ---------------------------------------------------------------- FP32 words

def dec32 (x : Word) : Fv := decIeee ieee32 x.toNat
def enc32 (v : Fv) : Word := BitVec.ofNat 32 (encIeee ieee32 v)
/-- Rounding to FP32, kept as a value. -/
def rne32 (v : Fv) : Fv := dec32 (enc32 v)
def rne64 (v : Fv) : Fv := decIeee ieee64 (encIeee ieee64 v)

def f32Nan : Word := 0x7FC00000
def f32Add (a b : Word) : Word := enc32 (fvAdd (dec32 a) (dec32 b))
def f32Mul (a b : Word) : Word := enc32 (fvMul (dec32 a) (dec32 b))

-- ---------------------------------------------------------------- formats by code (R31)

def fmtI8 : Fmt := 0
def fmtU8 : Fmt := 1
def fmtI4 : Fmt := 2
def fmtL4 : Fmt := 3
def fmtE4 : Fmt := 4
def fmtE5 : Fmt := 5
def fmtBf16 : Fmt := 6
def fmtF16 : Fmt := 7
def fmtF32 : Fmt := 8
def fmtI32 : Fmt := 9
def fmtI16 : Fmt := 10

/-- A reserved format code (R32). -/
def fmtReserved (f : Fmt) : Bool := decide (f.toNat ≥ 11)

def fmtBits (f : Fmt) : Nat :=
  if f = 2 ∨ f = 3 then 4
  else if f = 6 ∨ f = 7 ∨ f = 10 then 16
  else if f = 8 ∨ f = 9 then 32
  else 8

def fmtFloat (f : Fmt) : Bool := decide (4 ≤ f.toNat ∧ f.toNat ≤ 8)
def fmtInt (f : Fmt) : Bool := decide (f = 0 ∨ f = 1 ∨ f = 2 ∨ f = 9 ∨ f = 10)

/-- The value of a floating-point encoding. -/
def decFloat (f : Fmt) (x : Nat) : Fv :=
  if f = 4 then decE4M3 x
  else if f = 5 then decIeee ieeeE5M2 x
  else if f = 6 then decIeee ieeeBf16 x
  else if f = 7 then decIeee ieeeF16 x
  else decIeee ieee32 x

/-- A value rounded into a floating-point format (R50). -/
def encFloat (f : Fmt) (v : Fv) : Nat :=
  if f = 4 then encE4M3 v
  else if f = 5 then encIeee ieeeE5M2 v
  else if f = 6 then encIeee ieeeBf16 v
  else if f = 7 then encIeee ieeeF16 v
  else encIeee ieee32 v

/-- The range of an integer format (R34). -/
def intMin (f : Fmt) : Int := if f = 1 then 0 else -(2 ^ (fmtBits f - 1) : Nat)
def intMax (f : Fmt) : Int := if f = 1 then 255 else (2 ^ (fmtBits f - 1) : Nat) - 1

/-- The integer that an encoding stands for (R34). -/
def decInt (f : Fmt) (x : Nat) : Int :=
  let w := fmtBits f
  let v := x % 2 ^ w
  if f = 1 ∨ v < 2 ^ (w - 1) then v else (v : Int) - (2 ^ w : Nat)

def encInt (f : Fmt) (v : Int) : Nat := (v % (2 ^ fmtBits f : Nat)).toNat

/-- The integer that a 4-bit Lattice-4 code decodes to (R35). -/
def latticeOf (c : Nat) : Int :=
  ([0, 2, 4, 6, 9, 13, 19, 28, -32, -28, -19, -13, -9, -6, -4, -2] : List Int).getD (c % 16) 0

/-- Numeric events of R41: saturations, NaNs converted to an integer, overflows to infinity. -/
structure NumEv where
  sat : Nat := 0
  nan : Nat := 0
  ovf : Nat := 0
deriving DecidableEq, Repr

def NumEv.add (a b : NumEv) : NumEv :=
  { sat := a.sat + b.sat, nan := a.nan + b.nan, ovf := a.ovf + b.ovf }

/-- The integer nearest to a finite value, ties to even. -/
def roundInt (neg : Bool) (m : Nat) (e : Int) : Int :=
  let v : Nat := if 0 ≤ e then m * pow2 e else rneShift m (-e).toNat
  if neg then -(v : Int) else v

/-- Saturation to an integer format (R50). -/
def satInt (f : Fmt) (v : Int) : Int × NumEv :=
  if v > intMax f then (intMax f, { sat := 1 })
  else if v < intMin f then (intMin f, { sat := 1 })
  else (v, {})

/-- From a float to an integer format (R50). That an infinity counts as a saturation (R41) is the model's
choice (DESIGN CHOICE, log 78). -/
def floatToInt (f : Fmt) : Fv → Int × NumEv
  | .nan => (0, { nan := 1 })
  | .inf neg => (if neg then intMin f else intMax f, { sat := 1 })
  | .fin neg m e => satInt f (roundInt neg m e)

/-- From a float to a floating-point format (R50), with its events: a finite value that becomes
infinite, or one beyond the range of E4M3. That an infinity and every magnitude above 448, also one that
rounds to 448, count as saturations of E4M3 is the model's choice (DESIGN CHOICE, log 78). -/
def floatToFloat (f : Fmt) (v : Fv) : Nat × NumEv :=
  let x := encFloat f v
  if f = 4 then
    match v with
    | .nan => (x, {})
    | .inf _ => (x, { sat := 1 })
    | .fin _ m e => (x, if fvLt (.fin false 448 0) (.fin false m e) then { sat := 1 } else {})
  else
    match v with
    | .fin .. => (x, if (decFloat f x).isInf then { ovf := 1 } else {})
    | _ => (x, {})

/-- A value of the machine: an integer or a float. -/
inductive Num where
  | int (v : Int)
  | flt (v : Fv)
deriving DecidableEq, Repr

/-- The number that an encoding of format `f` stands for; Lattice-4 codes stand for no result. -/
def decNum (f : Fmt) (x : Nat) : Num :=
  if fmtFloat f then .flt (decFloat f x) else .int (decInt f x)

/-- A number as an exact float. -/
def Num.toFv : Num → Fv
  | .int v => fvInt v
  | .flt v => v

/-- The conversion of a number into a format (R50). An integer that goes to BF16, FP16 or an FP8 format,
for which R50 has no row, is rounded to FP32 first (DESIGN CHOICE, log 78). -/
def convNum (f : Fmt) : Num → Nat × NumEv
  | .int v =>
    if fmtFloat f then floatToFloat f (rne32 (fvInt v))
    else let r := satInt f v; (encInt f r.1, r.2)
  | .flt v =>
    if fmtFloat f then floatToFloat f v
    else let r := floatToInt f v; (encInt f r.1, r.2)

-- ---------------------------------------------------------------- elements of a row (R33)

/-- Element `i` of width `w` bits. -/
def elem {n : Nat} (r : BitVec n) (w i : Nat) : Nat := (r.extractLsb' (w * i) w).toNat

/-- A row of elements of width `w`, the first one lowest. -/
def packNat (w : Nat) : List Nat → Nat
  | [] => 0
  | x :: l => x % 2 ^ w + 2 ^ w * packNat w l

def packRow (w : Nat) (l : List Nat) : Row := BitVec.ofNat 4096 (packNat w l)

/-- The elements of a row. -/
def rowElems (w : Nat) (r : Row) : List Nat := (List.range (4096 / w)).map (elem r w)

def rowWords (r : Row) : List Word := (rowElems 32 r).map (BitVec.ofNat 32)
def wordsRow (l : List Word) : Row := packRow 32 (l.map BitVec.toNat)

/-- Byte `i` of a row. -/
def rowByte (r : Row) (i : Nat) : Byte := BitVec.ofNat 8 (elem r 8 i)

/-- Byte `i` of a row replaced. -/
def setRowByte (r : Row) (i : Nat) (b : Byte) : Row := putBits r (8 * i) b

end Sys2Proof.Machine
end

