-- ==== Sys2Proof/Config.lean ====
section
/-! DEFINITION. What the spec leaves to no rule: the free values. An opaque constant has no body,
so no statement can rest on its value. -/

namespace Sys2Proof

/-- What stands in a byte that a failed engine write addressed (R324). FREE VALUE, log 7. -/
opaque Config.failedByte : Nat → Byte

/-- The data words of the Forge's answer to a QUERY (R358 names no layout). FREE VALUE, log 8. -/
opaque Config.queryWord : Nat → Word

/-- The residual elements that a RESID after NORM adds in a BNORM (R123 keeps no residual pointer for
it). FREE VALUE, log 16. -/
opaque Config.bnormResid : Nat → Nat

/-- What a VRMAX or VRMIN leaves for a group with no enabled element (R170 gives a value for the
arg-reductions alone). FREE VALUE, log 18. -/
opaque Config.emptyGroup : Nat → Word

/-- The STATUS that PLT_MSG_STATUS shows for a MSG whose completion never came (R431 numbers no status
for it). FREE VALUE, log 22. -/
opaque Config.lostStatus : Nat → Byte

/-- A byte of a peer's memory that a unit other than a core's stream reads through an aperture
(R425). FREE VALUE, log 23. -/
opaque Config.peerByte : Nat → Byte

/-- A byte of a line of Region output that no output fills (R326; DESIGN CHOICE, log 85). -/
opaque Config.fillByte : Nat → Byte

/-- T and SENSOR of THERM_STATUS when no sensor gives a valid reading (R512 takes the highest valid one).
FREE VALUE, log 86. -/
opaque Config.noSensor : Nat → BitVec 16

/-- The FP32 score that a NaN score of a SUPPRESS candidate ranks as, by position in the list (R207 orders
scores and gives a NaN no place). FREE VALUE, log 29. -/
opaque Config.nanScore : Nat → Word

end Sys2Proof
end

