-- ==== Sys2Proof/Machine/State.lean ====
section
/-! DEFINITION. The state of the engine: every register, buffer, table and unit that the chapters of
spec/ give it, as plain data, each field at its reset value by default. -/

namespace Sys2Proof.Machine

/-- A sparse table: (key, value) pairs, keys strictly rising, none equal to what an unlisted key
reads as. -/
abbrev SMap (α : Type) := List (Nat × α)

/-- Reasons for which a step could stop the engine. R8 leaves no behaviour undefined and no command
raises one of these; `outsideModel` is kept so that the type has a member, and nothing answers it. -/
inductive Fault where
  /-- Raised by no command; safe. -/
  | outsideModel
deriving DecidableEq, Repr

/-- Reasons for which the model gives a command no meaning. -/
inductive Refusal where
  /-- The command has no meaning in this model yet; raised by exec's refused arms alone; safe. -/
  | notModelled (mnemonic : String)
deriving DecidableEq, Repr

/-- A sequence-cleared status (R10): status bits and sequence number. -/
structure Sc where
  bits : BitVec 24 := 0
  seq : Byte := 0
deriving DecidableEq, Repr

/-- A pending twin write (R11): who opened it, with what value, in which core cycle, and what
TMP_DATA held then (R539). -/
structure Twin where
  init : Initiator
  value : Word
  cycle : Nat
  latched : Word
deriving DecidableEq, Repr

/-- Time: the timebase (R7), and the core and fabric cycles that have passed, each with the root
cycles left over (R5, R6). -/
structure Clock where
  tb : DWord := 0
  coreCyc : Nat := 0
  coreRem : Nat := 0
  fabCyc : Nat := 0
  fabRem : Nat := 0
deriving DecidableEq, Repr

/-- The initiator's side: the word and the window bytes that the last read returned, the LO/HI
latches by offset and initiator (R533), the Pannier window read that waits, by offset and size (R238),
and the masked-write registers by offset (R530). -/
structure Port where
  rdata : Word := 0
  wdata : BitVec 512 := 0
  latch : SMap (Option Word) := []
  winWait : Option (Nat × Nat) := none
  masked : SMap (BitVec 16) := []
deriving DecidableEq, Repr

-- ---------------------------------------------------------------- the core

/-- A w register (R247): ROW in [14:0], its reserved bit 15 held 0 (R8), and STRIDE. -/
structure WVal where
  row : BitVec 16 := 0
  stride : BitVec 16 := 1
deriving DecidableEq, Repr

/-- An active loop (R255): register, first body bundle, END, remaining count. -/
structure LoopRec where
  lc : BitVec 2
  first : BitVec 13
  fin : BitVec 13
  count : Word
deriving DecidableEq, Repr

inductive SeqRun where
  | idle | running | atYield | stopped
deriving DecidableEq, Repr

/-- A placement of items from a w register (R285), with the register as read at issue. -/
structure Placement where
  row : Nat
  stride : Int
  size : Nat
deriving DecidableEq, Repr

/-- A weight tile (R61, R66): its format, first relative row and mode, and the rows as the registers
hold them; `zero` is the tile of INT8 zeros. -/
structure Tile where
  fmt : Fmt := 0
  row : Nat := 0
  wale : Bool := false
  zero : Bool := true
  data : List Row := []
deriving DecidableEq, Repr

/-- The shadow registers (R63, R65): the tile a TLW named, and whether its load has finished. -/
structure Shadow where
  tile : Tile
  ready : Bool
deriving DecidableEq, Repr

/-- A convolution descriptor, decoded (R136). -/
structure ConvDesc where
  layIn : Nat
  layOut : Nat
  fmtIn : Fmt
  kh : Nat
  kw : Nat
  sy : Nat
  sx : Nat
  dy : Nat
  dx : Nat
  edge : Bool
  fold : Nat
  flat : Bool
  padT : Nat
  padB : Nat
  padL : Nat
  padR : Nat
  cin : Nat
  nOut : Nat
  h : Nat
  w : Nat
  yFirst : Nat
  hHeld : Nat
  inBase : Nat
  inLp : Nat
  outLp : Nat
  inPp : Nat
  outPp : Nat
deriving DecidableEq, Repr

/-- The parameters of a convolution pass (R140) beside its descriptor and the descriptor's row. -/
structure ConvPass where
  descRow : Nat
  desc : ConvDesc
  y : Nat
  x0 : Nat
  ky : Nat
  kx0 : Nat
  b : Nat
deriving DecidableEq, Repr

/-- Where a pass takes its activation rows from: rows placed by R285, or the feeder (R140). -/
inductive ActSrc where
  | plain (p : Placement)
  | conv (c : ConvPass)
deriving DecidableEq, Repr

/-- The six pass formats of R42. -/
inductive PassFmt where
  | i8 | i4 | l4 | f8 | bf16 | f16
deriving DecidableEq, Repr

/-- A line slot of the feeder or of the depthwise window (R147, R148, R179): the line, channel block and
descriptor that it holds, the K positions of the passes it serves, the pixels, and the address rows it
was filled from. -/
structure LineSlot where
  desc : ConvDesc
  kPass : Nat
  line : Int
  block : Nat
  xlo : Int
  xhi : Int
  rows : List Nat
deriving DecidableEq, Repr

/-- An uncommitted pass (R67, R71, R81): `no` is its place in the issue order of its core (R73, R99), and
`slot` the line slot that it uses (R148). -/
structure Pass where
  no : Nat
  slot : Option LineSlot
  fmt : PassFmt
  afmt : Fmt
  tile : Tile
  takesTile : Bool
  wale : Bool
  m : Nat
  src : ActSrc
  bank : Bool
  a0 : Nat
  clr : Bool
  linked : Bool
  chain : Option (BitVec 2)
  last : Bool
  defer : Bool
  out : Placement
  aux : Placement
  attempts : Nat
  held : List Nat
deriving DecidableEq, Repr

/-- What a syndrome capture holds (R83, R94). -/
structure Syndrome where
  info : Word := 0
  row : Word := 0
  cols : BitVec 128 := 0
  col4 : Word := 0
  tick : Word := 0
deriving DecidableEq, Repr

inductive TaSt where
  | service | draining | hold | uncal | retired
deriving DecidableEq, Repr

/-- Which unit put the core into repair hold (R82, R174, R180). -/
inductive HoldBy where
  | array | vector | depthwise
deriving DecidableEq, Repr

/-- The Tensor Array of one core (03). `accErrs` marks the bank rows that hold a word with an error, by
row, acc1 from 512 on (R72). `calRun` says that the last run started is a calibration (R96), `calOk` that the
array has passed calibration as it stands (R90), and `repairDue` that the Forge drains the core for a repair
(R84). -/
structure Ta where
  st : TaSt := .hold
  wale : Bool := false
  repairHold : Option HoldBy := none
  active : Tile := {}
  shadow : Option Shadow := none
  passes : List Pass := []
  event : Sc := {}
  checkCnt : Word := 0
  replayLimit : BitVec 3 := 3
  syn : Syndrome := {}
  spareCtl : BitVec 7 := 0
  repairMap : Word := 0
  skewSel : BitVec 7 := 0
  diagKind : Bool := false
  diagBusy : Bool := false
  diagStatus : BitVec 19 := 0
  colCounts : List (DWord × Nat) := []
  acc0 : SMap Row := []
  acc1 : SMap Row := []
  accErrs : SMap Ecc := []
  calOk : Bool := false
  calRun : Bool := false
  repairDue : Bool := false
deriving DecidableEq, Repr

/-- A ROWSTAT entry (R115). -/
structure RowStat where
  a : Word := 0
  b : Word := 0
  c : Word := 0x3F800000
  count : Word := 0
  uses : Byte := 0
deriving DecidableEq, Repr

/-- A STAT record (R52, R53). -/
structure StatRec where
  cols : Row := 0
  nanCols : Bool := false
  tensor : Word := 0
  nanTensor : Bool := false
deriving DecidableEq, Repr

/-- A pending entry of deferred normalisation (R123). -/
structure PendEntry where
  out : Placement
  rows : Nat
  fmt : Fmt
  first : Nat
  count : Nat
deriving DecidableEq, Repr

/-- Where result rows of an invocation go: placed by R285, or a feature map (R142). -/
inductive OutMap where
  | placed
  | map (d : ConvDesc) (y x0 : Nat) (chBase nOut : Nat)
deriving DecidableEq, Repr

/-- One epilogue invocation (R100, R294): its place in the issue order, its slot, the bank rows that it
reads (R73), the committed rows themselves and whether their words are FP32, where the results go; once
its start has been decided (R122), how it runs; how many of its rows have passed the chain, the result
rows that they made, and how many Pannier rows have been written. -/
structure Invocation where
  no : Nat
  slot : BitVec 2
  wide : Bool
  float : Bool
  firstAct : Nat
  bank : Bool
  lo : Nat
  hi : Nat
  rows : List (List Word)
  out : Placement
  aux : Placement
  target : OutMap
  defer : Bool
  ran : Bool := false
  deferred : Bool := false
  taken : Nat := 0
  results : List (List Nat) := []
  written : Nat := 0
deriving DecidableEq, Repr

/-- A chain slot (R97, R102): the 48-byte descriptor. -/
structure ChainSlot where
  valid : Bool := false
  desc : BitVec 384 := 0
deriving DecidableEq, Repr

/-- The Braid unit of one core (04). The parameter store is held as rows of 512 bytes. -/
structure Braid where
  pstore : SMap Row := []
  slots : SMap ChainSlot := []
  rowstat : SMap RowStat := []
  stat : SMap StatRec := []
  pend : SMap (List PendEntry) := []
deriving DecidableEq, Repr

/-- The convolution feeder of one core (05). The list of slots is in order of use, latest first, that of
kept descriptors in order of reading. `wanted` is the line of a fill that has not ended, `filled` the slot
that was filled for the pass that still waits. -/
structure Cnv where
  slots : List LineSlot := []
  descs : List Nat := []
  fault : BitVec 7 := 0
  fillCnt : Word := 0
  reuseCnt : Word := 0
  wanted : Option LineSlot := none
  filled : Option LineSlot := none
deriving DecidableEq, Repr

/-- A VDW pass in flight (R175, R180), with its place in the issue order and the window slots it uses. -/
structure DwPass where
  no : Nat
  slots : List LineSlot
  pc : Nat
  afmt : Fmt
  conv : ConvPass
  m : Nat
  t : Nat
  g : Nat
  j : Nat
  w0 : Nat
  bank : Bool
  a0 : Nat
  clr : Bool
  chain : Option (BitVec 2)
  last : Bool
  out : Placement
  aux : Placement
  attempts : Nat
  held : List Nat
deriving DecidableEq, Repr

/-- The registers and lists of the Vector Unit that a YIELD saves (R186). -/
structure VuRegs where
  v : SMap Row := []
  q : SMap (BitVec 2048) := []
  nq : BitVec 7 := 0
  k : BitVec 9 := 0
  armed : Bool := false
  lists : SMap (List (Word × Word)) := []
deriving DecidableEq, Repr

/-- The Vector Unit of one core (06). -/
structure Vu where
  regs : VuRegs := {}
  win : List LineSlot := []
  wanted : Option LineSlot := none
  dw : List DwPass := []
  fault : BitVec 7 := 0
  checkCnt : Word := 0
  eccCnt : Word := 0
  holds : List DWord := []
  diagBusy : Bool := false
  diagStatus : BitVec 13 := 0
deriving DecidableEq, Repr

/-- A host window write in the buffer (R238). -/
structure WinWrite where
  row : Nat
  off : Nat
  size : Nat
  data : BitVec 512
deriving DecidableEq, Repr

/-- The Pannier of one core (08). Rows and their errors, by codeword (R218), are kept by physical row,
segment times 4,096 plus index; spares have the indexes from 3,072. -/
structure Pan where
  rows : SMap Row := []
  errs : SMap RowEcc := []
  ready : BitVec 8 := 0
  retired : BitVec 8 := 0
  event : Sc := {}
  group : BitVec 16 := 0xFFFF
  scrubEn : Bool := true
  scrubShift : BitVec 5 := 16
  winEn : Bool := false
  winWrite : Bool := false
  fault : BitVec 5 := 0
  errAddr : Word := 0
  ceCnt : SMap Word := []
  mapCtl : BitVec 15 := 0
  mapSel : BitVec 9 := 0
  map : SMap (BitVec 13) := []
  copying : Option (Nat × Nat) := none
  scrubPos : SMap Nat := []
  scrubAt : SMap DWord := []
  corrected : List (DWord × Nat) := []
  wbuf : List WinWrite := []
  ac : SMap Word := []
  ovf : DWord := 0
deriving DecidableEq, Repr

inductive TagSt where
  | idle | active | sent | done
deriving DecidableEq, Repr

inductive TagKind where
  | none | load | store | rwrite | rread
deriving DecidableEq, Repr

/-- A line of a store that went to an aperture and has not been written there (R264, R427), with the slot
and epoch it was translated under. -/
structure StoreLine where
  line : Nat
  slot : Nat
  epoch : DWord
deriving DecidableEq, Repr

/-- A line that a store sent to memory, and when (R264, R323). -/
structure SentLine where
  pa : DWord
  sent : DWord
deriving DecidableEq, Repr

/-- A stream tag and its stream (R261 to R264). -/
structure Tag where
  st : TagSt := .idle
  kind : TagKind := .none
  rows : Nat := 0
  p0 : Nat := 0
  pstep : Int := 0
  a0 : DWord := 0
  astep : DWord := 0
  desc : Option Nat := none
  base : DWord := 0
  ac : Option AcId := none
  rcore : Nat := 0
  rrow : Nat := 0
  issued : Nat := 0
  back : List Nat := []
  landed : List Nat := []
  buf : SMap Row := []
  ports : SMap SentLine := []
  aperture : List StoreLine := []
  flushPend : Bool := false
  order : Nat := 0
deriving DecidableEq, Repr

/-- A line request in flight (R263, R317): tag, line, physical address, the slot and epoch it was
translated under, the line as memory held it when the request left (R16), and when that was (R323). A line
is `dead` once its stream is gone: it is out until its return, which reaches no row. -/
structure InLine where
  tag : TagId
  line : Nat
  pa : DWord
  slot : Nat
  epoch : DWord
  data : BitVec 1024
  sent : DWord
  dead : Bool := false
deriving DecidableEq, Repr

/-- A store of an earlier use of a tag, not yet flushed (R264): the last line by port. -/
structure Orphan where
  tag : Nat
  order : Nat
  ports : SMap SentLine
  aperture : List StoreLine
  flushPend : Bool
deriving DecidableEq, Repr

/-- A descriptor table entry (R259). -/
structure Desc where
  base : DWord := 0
  length : BitVec 48 := 0
  read : Bool := false
  write : Bool := false
  valid : Bool := false
deriving DecidableEq, Repr

/-- An entry of a TLB (R316): slot, virtual page (4 KiB number), level, the leaf's PTE. -/
structure TlbEntry where
  slot : Nat
  vpn : Nat
  level : Nat
  pte : DWord
deriving DecidableEq, Repr

/-- An ACSIG under way (R268): target task core, counter, amount, and the order of the next stream at
its issue. -/
structure AcSig where
  core : Nat
  ac : AcId
  count : Nat
  order : Nat
deriving DecidableEq, Repr

/-- The memory stream engine of one core (09, 11). -/
structure MemUnit where
  tags : SMap Tag := []
  orphans : List Orphan := []
  lines : List InLine := []
  nextOrder : Nat := 0
  lineCnt : Word := 0
  fault : BitVec 18 := 0
  creditWait : Bool := false
  granted : Bool := false
  descs : SMap Desc := []
  ndesc : Nat := 0
  utlb : List TlbEntry := []
  epoch : DWord := 0
  signals : List AcSig := []
deriving DecidableEq, Repr

/-- A call that left the core and is outstanding (R299): an RCALL by its number and ordinal, or a SAPP
with its region, placement, count, records as they stood (they are held), counter, ordinal and sequence
number. -/
inductive OutCall where
  | region (id ord : Nat)
  | append (gallery : Bool) (p : Placement) (count : Nat) (recs : List (List Byte)) (ac : AcId)
      (ord seq : Nat)
deriving DecidableEq, Repr

/-- The restart image of a core (R272). -/
structure Restart where
  pc : BitVec 13 := 0
  s : SMap DWord := []
  w : SMap WVal := []
  f : SMap (BitVec 512) := []
  loops : List LoopRec := []
  ret : List (BitVec 14) := []
  ac : SMap Word := []
  ovf : DWord := 0
  wale : Bool := false
  braid : Braid := {}
  vu : VuRegs := {}
  prot : List (Nat × Nat) := []
  pend : List (Nat × Nat) := []
  ord : Nat := 0
  sent : List Nat := []
deriving DecidableEq, Repr

/-- The sequencer of one core (09). -/
structure Seq where
  run : SeqRun := .idle
  pc : BitVec 13 := 0
  pcOver : Bool := false
  ended : Bool := false
  image : SMap (BitVec 256) := []
  length : Nat := 0
  s : SMap DWord := []
  w : SMap WVal := []
  f : SMap (BitVec 512) := []
  ret : List (BitVec 14) := []
  loops : List LoopRec := []
  ord : Nat := 0
  livePend : List (Nat × Nat) := []
  prot : List (Nat × Nat) := []
  restart : Restart := {}
  watchdog : Nat := 0
  wdRun : Bool := false
  startCyc : Nat := 0
  calls : List OutCall := []
  fault : BitVec 23 := 0
  eccCnt : Word := 0
  yieldCnt : Word := 0
deriving DecidableEq, Repr

/-- One compute core: its task (context and task core number), the number of passes and invocations it
has issued, and its units. -/
structure Core where
  task : Option (Nat × Nat) := none
  issueNo : Nat := 0
  seq : Seq := {}
  mem : MemUnit := {}
  ta : Ta := {}
  brd : Braid := {}
  invs : List Invocation := []
  brdFault : BitVec 12 := 0
  brdCnt : Word := 0
  cnv : Cnv := {}
  vu : Vu := {}
  pan : Pan := {}
deriving DecidableEq, Repr

-- ---------------------------------------------------------------- contexts and commands

inductive CtxState where
  | free | stopped | idle | ready | running | saved | fenceWait | faultWait | faultPending
  | detached | teardown | error
deriving DecidableEq, Repr

/-- An EXEC command (R342). -/
structure ExecCmd where
  cores : Nat
  ndesc : Nat
  entry : Nat
  length : Nat
  image : DWord
  descTable : DWord
  rows : Nat
  declared : Word
  args : List DWord
  search : Bool
deriving DecidableEq, Repr

/-- A decoded ring command (R342). -/
inductive Cmd where
  | exec (e : ExecCmd)
  | copy (src dst : DWord) (len : Nat)
  | fenceWait (addr value : DWord) (timeout : Nat)
  | fenceSignal (intr fail : Bool) (addr value : DWord)
  | region (req : DWord)
  | store (subop : Nat) (req : DWord)
  | barrier (target : Nat) (count : Word) (timeout : Nat)
deriving DecidableEq, Repr

inductive TaskPhase where
  | waiting | running | saved
deriving DecidableEq, Repr

/-- An extent of a translation list (R312). -/
structure Extent where
  start : Nat
  len : Nat
  pa : Nat
  read : Bool
  write : Bool
  present : Bool
deriving DecidableEq, Repr

/-- A translation list (R312). -/
structure TList where
  extents : List Extent := []
  cover : Nat := 0
  stamp : DWord := 0
deriving DecidableEq, Repr

/-- The work of a core that a save with FULL leaves as it was (R89, R380): the replay queue with its tiles,
the VDW passes, the epilogues, the streams and signals, the calls, the orders of issue, and whether the
core waits at a YIELD or has ended (log 12). -/
structure Unfinished where
  passes : List Pass := []
  shadow : Option Shadow := none
  dw : List DwPass := []
  invs : List Invocation := []
  issueNo : Nat := 0
  tags : SMap Tag := []
  orphans : List Orphan := []
  signals : List AcSig := []
  lines : List InLine := []
  nextOrder : Nat := 0
  calls : List OutCall := []
  atYield : Bool := false
  ended : Bool := false
deriving DecidableEq, Repr

/-- What the layout of a save area (R379) gives no place: the USES bytes of ROWSTAT, the set-up of the
top-k lists, and for a save with FULL the core's unfinished work (log 12). -/
structure Kept where
  uses : SMap Byte := []
  nq : BitVec 7 := 0
  k : BitVec 9 := 0
  armed : Bool := false
  work : Unfinished := {}
deriving DecidableEq, Repr

/-- An EXEC's task: its command, phase, cores in task order, range, measured times and lists, and how many
SAPPs it has issued since its last YIELD (R298), now and when a save with FULL was taken. -/
structure Task where
  cmd : ExecCmd
  phase : TaskPhase
  start : DWord
  cores : List Nat
  base : Nat
  bound : Nat
  dispatched : Nat
  slice : Nat
  expired : Option DWord
  preempt : Bool
  overrun : Nat
  full : Bool
  rowsSaved : BitVec 16
  lists : SMap TList
  kept : SMap Kept
  ordinal : Nat
  sappSeq : Nat := 0
  sappFull : Nat := 0
deriving DecidableEq, Repr

/-- A context entry with its scheduling entry (R335, R336, R391). `ending` is what a teardown in progress still
has to report: code, reason, the core that recorded the fault, payload bytes 24 to 31 (R351). -/
structure Ctx where
  valid : Bool := false
  basket : BasketId := 0
  prio : BitVec 2 := 2
  grant : Bool := false
  space : BitVec 20 := 0
  vec : BitVec 5 := 0
  ringBase : DWord := 0
  ringLog2 : BitVec 5 := 4
  rd : Word := 0
  wr : Word := 0
  saveBase : DWord := 0
  state : CtxState := .free
  faultLost : Bool := false
  code : Byte := 0
  reason : Byte := 0
  done : Word := 0
  faultRd : Word := 0
  stopPend : Bool := false
  trail : Bool := false
  cur : Option Cmd := none
  started : Bool := false
  finished : Bool := false
  cmdTick : DWord := 0
  task : Option Task := none
  unread : List SentLine := []
  lastFault : Option (Nat × Nat) := none
  faultReps : Nat := 0
  withdrawn : Bool := false
  sappPair : Option (Nat × Nat) := none
  acLate : SMap (List (Nat × Nat)) := []
  lateCalls : SMap (List OutCall) := []
  affinity : BitVec 16 := 0
  region : BitVec 3 := 0
  sizeKib : BitVec 20 := 0
  ratio : BitVec 16 := 0
  thresh : BitVec 16 := 512
  ovr : Word := 0
  slowSaid : Bool := false
  ending : Option (Nat × Nat × Option Nat × DWord) := none
deriving DecidableEq, Repr

/-- An interrupt vector (R359). -/
structure Vec where
  addr : DWord := 0
  data : Word := 0
  mask : Bool := true
deriving DecidableEq, Repr

/-- A GEQ entry (R354). -/
structure GeqEntry where
  code : BitVec 16
  cls : Byte
  lostBefore : Bool
  replace : Bool
  forge : Bool
  source : Nat
  ctx : BitVec 16
  tick : DWord
  obj : DWord
  detail : DWord
deriving DecidableEq, Repr

/-- The command processor: contexts, interrupts and the host's presence (12). -/
structure Cp where
  ctxs : SMap Ctx := []
  detached : Bool := false
  intPend : Sc := {}
  intErr : Word := 0
  vecs : SMap Vec := []
  rr : SMap Nat := []
  occ : SMap Nat := []
  dispatchNo : Nat := 0
deriving DecidableEq, Repr

/-- The GEQ (12, R356). -/
structure Geq where
  staging : List GeqEntry := []
  lostPend : Bool := false
  enable : Bool := false
  base : DWord := 0
  log2 : BitVec 5 := 12
  wr : Word := 0
  rd : Word := 0
  lost : Word := 0
  writeErr : Bool := false
deriving DecidableEq, Repr

/-- The Forge mailbox and inbox (R358, R359): `taken` holds the words of a request that the Forge has taken
and not answered yet. -/
structure Mbx where
  req : SMap Word := []
  taken : Option (SMap Word) := none
  rsp : SMap Word := []
  reqBusy : Bool := false
  rspValid : Bool := false
  forgeReady : Bool := false
  handover : Bool := false
  inbox : List GeqEntry := []
deriving DecidableEq, Repr

/-- A wait on a fence (R349). -/
structure FWait where
  ctx : Nat
  value : DWord
  deadline : Option DWord
deriving DecidableEq, Repr

/-- Who signals a fence (R347, R351, R193, R428, R431). -/
inductive SigSrc where
  | command (ctx : Nat) | teardown (ctx : Nat) | frame
deriving DecidableEq, Repr

structure Signal where
  src : SigSrc
  addr : DWord
  word : DWord
  intr : Option Nat
deriving DecidableEq, Repr

/-- The Fence Unit (12): waits whose first read is under way, the watch list, the overflow list, the
signals handed over. -/
structure Fu where
  reading : List (DWord × FWait) := []
  watch : List (DWord × List FWait) := []
  overflow : List (DWord × FWait) := []
  overflowPos : Nat := 0
  staleCnt : Word := 0
  signals : List Signal := []
deriving DecidableEq, Repr

/-- A Basket (13). -/
structure Basket where
  valid : Bool := false
  standing : Bool := false
  drain : Bool := false
  slice : BitVec 6 := 4
  cores : BitVec 16 := 0
  segs : BitVec 8 := 0
  rsvd : BitVec 8 := 0
  drained : Bool := false
  preemptCnt : Word := 0
  evictCnt : Word := 0
  regions : SMap Word := []
deriving DecidableEq, Repr

-- ---------------------------------------------------------------- ATU

/-- A slot of the space table (R305). -/
structure Space where
  id : BitVec 20 := 0
  valid : Bool := false
  engine : Bool := false
  forge : Bool := false
  root : DWord := 0
  epoch : DWord := 0
deriving DecidableEq, Repr

/-- The line request or Region read that a walk serves. -/
inductive WalkFor where
  | line (core : Nat) (tag : TagId)
deriving DecidableEq, Repr

/-- A walk in progress (R309, R311); `pa` are the physical windows as they stood when it began (R334). -/
structure Walk where
  slot : Nat
  va : DWord
  store : Bool
  level : Nat
  table : Nat
  forLine : WalkFor
  waiting : List WalkFor
  pa : SMap Word
deriving DecidableEq, Repr

/-- A page fault of a context: slot, page address, store or load, reason, whether the Region Unit
raised it, the cores concerned (R320, R321). -/
structure FaultHit where
  ctx : Nat
  slot : Nat
  page : DWord
  store : Bool
  reason : Nat
  region : Bool
  cores : BitVec 16
deriving DecidableEq, Repr

/-- An open fault record (R321). -/
structure FaultRec where
  slot : Nat
  page : DWord
  store : Bool
  reason : Nat
  region : Bool
  cores : BitVec 16
  ctxs : List Nat
  opened : DWord
deriving DecidableEq, Repr

/-- The bandwidth of a Basket (R331, R334): RATE and DEPTH, which every addition of credit reads, its
credit in lines (below 0 while lines that one command takes at once are owed, log 5), the cores that
wait for a line's credit with the fabric cycle from which they wait, and the core that its round-robin
pointer favours (R12). -/
structure Bw where
  rate : BitVec 13 := 0
  depth : BitVec 13 := 256
  credit : Int := 0
  waiters : List (Nat × Nat) := []
  rr : Nat := 0
deriving DecidableEq, Repr

/-- The ATU (11). `walkQueue` are the walks that wait for a free walker, in order of arrival (R311);
`creditAt` is the fabric cycle of the last addition of credit (R331); `allEpoch` counts the messages for all
spaces, a part of every slot's epoch (R317). -/
structure Atu where
  slots : SMap Space := []
  sel : BitVec 12 := 0
  stId : Word := 0
  stLo : Word := 0
  stHi : Word := 0
  disable : Bool := false
  respId : BitVec 6 := 0
  respAct : BitVec 2 := 0
  timeout : Word := 100000000
  retries : BitVec 5 := 16
  pa : SMap Word := []
  bw : SMap Bw := []
  walks : SMap (Option Walk) := []
  walkQueue : List Walk := []
  creditAt : Nat := 0
  allEpoch : DWord := 0
  stlb : List TlbEntry := []
  faults : SMap (Option FaultRec) := []
  pendFault : List FaultHit := []
  inv : List (Option Nat × DWord) := []
  invCnt : Word := 0
  walkCnt : Word := 0
  missCnt : Word := 0
  faultCnt : Word := 0
deriving DecidableEq, Repr

-- ---------------------------------------------------------------- Frame Port, Region Unit

inductive FrameSt where
  | owned | borrowed | staleOwned | staleBorrowed
deriving DecidableEq, Repr

/-- An entry of the handle table (R191); FREE entries are not listed. -/
structure FrameEntry where
  handle : Word
  stream : BitVec 16
  st : FrameSt
  basket : BasketId
  relCtx : CtxId
  refs : Nat
  armed : Bool
  tick : DWord
  fence : Option (DWord × DWord)
deriving DecidableEq, Repr

/-- The Frame Port (07). -/
structure Fp where
  enable : Bool := false
  owner : Byte := 0
  descBase : DWord := 0
  poolBase : DWord := 0
  poolLimit : DWord := 0
  releaseAddr : DWord := 0
  holdLimit : Word := 0
  dropCnt : Word := 0
  routeSel : BitVec 9 := 0
  routes : SMap (BitVec 23) := []
  table : List FrameEntry := []
  templates : SMap (List TemplateCmd) := []
deriving DecidableEq, Repr

/-- Where a Region command came from (R197). -/
inductive RegionSrc where
  | ring | core (c : Nat) (taskCore : Nat) (ac : AcId) (ord : Nat)
deriving DecidableEq, Repr

/-- A Region command: its number, context, source, request block address and bytes (R197), whether its
completion still counts (R277), and whether its context has been torn down since (R211). -/
structure RegionCmd where
  id : Nat
  counts : Bool
  torn : Bool := false
  ctx : Nat
  basket : Nat
  src : RegionSrc
  req : DWord
  block : BitVec 512
  block2 : BitVec 512
deriving DecidableEq, Repr

/-- A command that a pipeline has run (R198): items, items dropped, the physical address of the last line of its
output where there is one, and the tick at which that was written. -/
structure RegionRun where
  cmd : RegionCmd
  items : Nat
  dropped : Nat
  last : Option DWord
  sent : DWord
deriving DecidableEq, Repr

/-- The Region Unit (07): commands handed over, accepted queues, running commands by pipeline. -/
structure Ru where
  next : Nat := 0
  calls : List RegionCmd := []
  queue : List (Nat × RegionCmd) := []
  running : SMap (Option RegionRun) := []
  rr : SMap Nat := []
  pixcap : SMap Word := []
  csc : SMap Word := []
deriving DecidableEq, Repr

-- ---------------------------------------------------------------- Plait

/-- A line that a transaction carries: tag, stream, line number, and the slot and epoch that it was translated
under (R317). -/
structure LineRef where
  tag : TagId
  order : Nat
  line : Nat
  slot : Nat
  epoch : DWord
deriving DecidableEq, Repr

/-- A transaction at the sender (R430): generation, kind, window, offset, lines, context, core, the
stream lines it carries, when it was sent, the signal it stands for. -/
structure Txn where
  gen : Nat
  type : Byte
  window : Nat
  offset : Nat
  lines : Nat
  ctx : Nat
  core : Nat
  refs : List LineRef
  sent : DWord
  sig : Option Signal
deriving DecidableEq, Repr

/-- An aperture line handed to the link (R425): context, core, the line, window, offset, the data of a
store. -/
structure ApLine where
  ctx : Nat
  core : Nat
  ref : LineRef
  store : Bool
  window : Nat
  offset : Nat
  data : BitVec 1024
deriving DecidableEq, Repr

/-- A run being gathered (R426). -/
structure Run where
  core : Nat
  lines : List ApLine
  last : Nat
deriving DecidableEq, Repr

/-- A flit (R421): header fields and body. -/
structure Flit where
  seq : Byte
  vc : BitVec 2
  kind : BitVec 2
  body : BitVec 1024
deriving DecidableEq, Repr

/-- A request that this side has accepted and is applying (R431): its command body, its lines, those
written, and how many rows or lines still lie ahead. -/
structure Inbound where
  body : BitVec 1024
  total : Nat
  applied : Nat
  status : Byte
deriving DecidableEq, Repr

/-- An inbound window (R433, R443). -/
structure PltWin where
  opened : Bool := false
  kind : Bool := false
  perm : BitVec 3 := 0
  g : BitVec 5 := 9
  engine : Bool := false
  first : BitVec 10 := 0
  count : BitVec 11 := 1
  owner : CtxId := 0
  owned : Bool := false
  ac : AcId := 0
  acen : Bool := false
  acCore : BitVec 4 := 0
  late : BitVec 16 := 0
deriving DecidableEq, Repr

inductive LinkSt where
  | down | detect | align | train | active | retrain
deriving DecidableEq, Repr

/-- One Plait link (15). Of the sublayer under the flits (R414, R415): by lane the words received and not
yet taken, the states of the descrambler and of the scrambler and the block errors; the lanes of the next
words received and sent; the words of a flit that has not come whole; `out`, the blocks that the last sending
put on the lanes. Further the presets asked of the peer and by it, the VC of the next credit report, and
whether the next header asks for a replay. -/
structure Link where
  enable : Bool := false
  auto : Bool := true
  st : LinkSt := .down
  since : DWord := 0
  session : BitVec 16 := 0
  lastDown : BitVec 3 := 0
  event : Sc := {}
  peerId : Word := 0
  peerLink : Bool := false
  rtt : BitVec 16 := 0
  crcCnt : Word := 0
  replayCnt : Word := 0
  retrainCnt : Word := 0
  txCnt : Word := 0
  rxCnt : Word := 0
  outBase : Word := 0
  msgData : SMap Word := []
  msgForge : Bool := false
  msgBusy : Bool := false
  msgStatus : Byte := 0
  wins : SMap PltWin := []
  table : SMap DWord := []
  xtSel : BitVec 10 := 0
  xtLo : Word := 0
  skew : SMap (BitVec 6) := []
  got : SMap (BitVec 48) := []
  echoed : BitVec 16 := 0
  preset : SMap (BitVec 4) := []
  laneWords : SMap (List DWord) := []
  descr : SMap (BitVec 58) := []
  blockErrs : SMap Word := []
  rxLane : BitVec 3 := 0
  rxWords : List DWord := []
  txPreset : SMap (BitVec 4) := []
  scr : SMap (BitVec 58) := []
  txLane : BitVec 3 := 0
  out : List LaneBlock := []
  credTurn : BitVec 2 := 0
  retryDue : Bool := false
  doneIn : Bool := false
  doneOut : Bool := false
  trainFails : Nat := 0
  spent : Bool := false
  expect : Byte := 0
  nextSeq : Byte := 0
  retryBuf : List Flit := []
  retryOut : Bool := false
  retryAt : Nat := 0
  sameAck : Nat := 0
  lastAck : Byte := 0
  ackAt : Nat := 0
  credits : SMap Nat := []
  credSeen : SMap Byte := []
  freed : SMap Byte := []
  aligned : Bool := false
  inb : Option Inbound := none
  rxBuf : List Flit := []
  txQueue : List Flit := []
  apLines : List ApLine := []
  runs : List Run := []
  txns : SMap (Option Txn) := []
  gens : SMap Nat := []
deriving DecidableEq, Repr

-- ---------------------------------------------------------------- Ingot Store

/-- A block of NAND (R463): region (4 is none), 1 for factory bad and 2 for grown bad, erase count,
corrected bits, STORE_HOURS and wall-clock second of its oldest page (R469). -/
structure Block where
  region : Nat := 4
  bad : Nat := 0
  erases : Nat := 0
  corrected : Nat := 0
  hours : Word := 0
  wall : Nat := 0
deriving DecidableEq, Repr

/-- A stripe (R454): its first logical page, how many pages it takes, and its blocks. -/
structure Stripe where
  first : Nat
  cap : Nat
  blocks : List Nat
deriving DecidableEq, Repr

/-- What the metadata of a page records (R453). -/
structure PageMeta where
  region : Byte := 0
  kind : Byte := 0
  page : Word := 0
  seq : DWord := 0
  hours : Word := 0
  gen : Word := 0
deriving DecidableEq, Repr

/-- A sealed log page: its metadata, its records, the modules that hold it, and the blocks whose program has
not reported success. -/
structure LogPage where
  md : PageMeta := {}
  recs : List (List Byte)
  onA : Bool
  onB : Bool
  todo : List Nat
deriving DecidableEq, Repr

/-- A log region (R455 to R459): its stripes, at most `share` of them, the live pages from `firstPage`
on, the records of the open page, and the first page that no commit covers. -/
structure LogRegion where
  share : Nat := 0
  stripes : List Stripe := []
  firstPage : Nat := 0
  pages : List LogPage := []
  open_ : List (List Byte) := []
  committed : Nat := 0
deriving DecidableEq, Repr

/-- A queued NAND operation (R446, R447, R465): program of a page or erase, its block, the log region
and page it serves, its class, and, once it runs, when it started and whether it was repeated. -/
structure NandOp where
  erase : Bool
  block : Nat
  gallery : Bool
  page : Nat
  cls : Nat
  started : Option DWord
  retried : Bool
deriving DecidableEq, Repr

/-- An Ingot, or the plan record: the metadata of its first page, its bytes, and the modules that hold it. -/
structure Image where
  md : PageMeta := {}
  bytes : List Byte
  onA : Bool
  onB : Bool
deriving DecidableEq, Repr

/-- A durable checkpoint (R463): its Map page, the write sequence number, and what a mount brings back. -/
structure Checkpoint where
  gen : Word
  page : Nat
  seq : DWord
  time : DWord
  anchor : Option (DWord × DWord)
  journal : Nat × Nat
  gallery : Nat × Nat
  ingots : SMap (Option Image)
  plan : Option Plan
  onA : Bool
  onB : Bool
deriving DecidableEq, Repr

/-- A STORE command under way (R473): the ring index it stands at, its request block, for an append the
records not yet copied once its buffer has been read, whether it waits for a commit (of the page given,
for an append), and, once it has one, its result: status, items, holes. -/
structure StoreReq where
  rd : Word
  block : BitVec 512
  taken : Bool := false
  left : List (List Byte) := []
  waits : Bool := false
  page : Option (Bool × Nat) := none
  result : Option (Nat × Nat × Nat) := none
deriving DecidableEq, Repr

/-- The Ingot Store (16). The pages, images, blocks and checkpoints are what the flash holds; they
survive every reset. `flash` holds the checkpoint of each root slot. -/
structure Store where
  enable : Bool := false
  st : BitVec 2 := 0
  outA : Bool := false
  outB : Bool := false
  rebuilding : Bool := false
  copiedGen : Option Word := none
  spareLow : Bool := false
  commitBusy : Bool := false
  blank : Bool := false
  event : Sc := {}
  commitTicks : Word := 200000000
  armedUntil : Option DWord := none
  gen : Word := 0
  timeOff : DWord := 0
  ceCnt : Word := 0
  ueCnt : Word := 0
  lastStart : Option DWord := none
  early : Bool := false
  targets : BitVec 16 := 0
  ops : List NandOp := []
  zqTick : DWord := 0
  hoursTick : DWord := 0
  blocks : SMap Block := []
  mapStripes : List Stripe := []
  mapNext : Nat := 0
  writeSeq : DWord := 0
  ingotNext : Nat := 0
  ingotShare : Nat := 0
  journal : LogRegion := {}
  gallery : LogRegion := {}
  ingots : SMap (Option Image) := []
  plan : Option Plan := none
  anchor : Option (DWord × DWord) := none
  reqs : SMap (Option StoreReq) := []
  flash : SMap (Option Checkpoint) := []
deriving DecidableEq, Repr

-- ---------------------------------------------------------------- the rest

/-- An Ingot switch between its two halves (R410): the entry switched to, whether the new contexts are
in force, whether the lack of a free index has been logged, and the contexts that go out. -/
structure SwitchRec where
  entry : BitVec 4
  placed : Bool := false
  said : Bool := false
  out : List Nat := []
deriving DecidableEq, Repr

/-- Standing operation (14). -/
structure Sb where
  standing : BitVec 16 := 0
  hostQuiet : Bool := true
  planValid : Bool := false
  timeCertain : Bool := false
  parked : BitVec 16 := 0
  quietLimit : Word := 2000000
  logWr : Word := 0
  restartCnt : Word := 0
  switchCnt : Word := 0
  entry : SMap (BitVec 4) := []
  switching : SMap (Option SwitchRec) := []
  teardowns : SMap (List DWord) := []
  fallback : BitVec 16 := 0
  plan : Option Plan := none
  bound : SMap Nat := []
  alloc : Nat := 0
  samples : SMap Nat := []
  sampled : Option DWord := none
  fired : List (Nat × Nat) := []
  hostResetTick : Option DWord := none
  wall : Option (DWord × DWord) := none
  starts : Word := 0
deriving DecidableEq, Repr

/-- A live update under way (R491). -/
structure Update where
  tag : BitVec 16
  version : Word
  authentic : Bool
  loaded : Bool
  since : DWord
deriving DecidableEq, Repr

/-- Service (17). `tableCnt` counts the corrected words of the tables of R488; no register shows it (log 63). -/
structure Svc where
  half : Bool := false
  recovering : Bool := false
  halted : Bool := false
  held : Bool := false
  replace : BitVec 6 := 0
  version : Word := 0
  wdog : DWord := 0
  lastRecovery : Option DWord := none
  reminder : DWord := 0
  update : Option Update := none
  meshRetired : BitVec 40 := 0
  resends : SMap Nat := []
  tableCnt : Word := 0
deriving DecidableEq, Repr

/-- A request to the power manager's sequencer (R503). -/
structure SeqReq where
  domain : Nat
  on : Bool
  since : DWord
deriving DecidableEq, Repr

/-- Power, clocks and temperature (18). -/
structure Pwr where
  budget : BitVec 10 := 600
  div : BitVec 2 := 0
  gate : BitVec 3 := 0
  unmet : Bool := false
  est : BitVec 10 := 0
  stat : Nat := 0
  dyn : Nat := 0
  floor : BitVec 10 := 0
  event : Sc := {}
  forceOff : Byte := 0
  en : BitVec 224 := 1#224 <<< 209
  on : BitVec 224 := 1#224 <<< 209
  reqs : List SeqReq := []
  queue : List (Nat × Bool) := []
  limit : Byte := 105
  t : BitVec 11 := 0
  sensor : BitVec 5 := 0
  temps : SMap (BitVec 11) := []
  valid : BitVec 20 := 0
  invalid : BitVec 20 := 0
  sel : BitVec 5 := 0
  high : Bool := false
  trip : Bool := false
  lock : Bool := false
  unlocks : BitVec 16 := 0
  lostSince : Option DWord := none
  rstCore : BitVec 4 := 0
  warm : Bool := false
  coldAsk : Bool := false
  period : DWord := 0
  thermAt : DWord := 0
deriving DecidableEq, Repr

/-- A word of the Temper array (R536): its three copies, `none` where undecodable, its commits, its
failed copies, and what the last start found. -/
structure TWord where
  c0 : Option Word := some 0
  c1 : Option Word := some 0
  c2 : Option Word := some 0
  count : Word := 0
  failed : BitVec 3 := 0
  corrected : BitVec 3 := 0
  unreadable : Bool := false
  lastTick : Option DWord := none
deriving DecidableEq, Repr

/-- The Temper registers (19). -/
structure Temper where
  words : SMap TWord := []
  shadow : SMap Word := []
  busy : Option (Nat × Word) := none
  since : DWord := 0
  loaded : Bool := false
  lastFail : Bool := false
  unreadable : BitVec 13 := 0
  data : Word := 0
  commit : BitVec 12 := 0
  last : BitVec 12 := 0
  sel : BitVec 12 := 0
  wait : List (Nat × Word) := []
deriving DecidableEq, Repr

/-- A trace record (R557). -/
structure TraceRec where
  tick : DWord
  type : Byte
  lostBefore : Bool
  source : BitVec 16
  ctx : BitVec 16
  mask : BitVec 16
  payload : BitVec 128
deriving DecidableEq, Repr

/-- Telemetry (20). `lineAt` is the fabric cycle of the last trace line (R555). -/
structure Tel where
  counters : SMap DWord := []
  shadows : SMap DWord := []
  traceEn : Bool := false
  pending : Option DWord := none
  late : Bool := false
  lateNext : Bool := false
  seq : BitVec 16 := 0
  tick : DWord := 0
  period : Word := 0
  taken : DWord := 0
  mask : Word := 0
  base : DWord := 0
  log2 : BitVec 5 := 12
  wr : Word := 0
  rd : Word := 0
  lost : Word := 0
  lostPend : Bool := false
  queue : List TraceRec := []
  lineAt : Option Nat := none
deriving DecidableEq, Repr

/-- The whole engine, the host memory it reaches, and the commands that wait. `bundles` holds, for each
core, the slots of a bundle that have been presented while more of them follow (R248). -/
structure State where
  pending : List Instr := []
  mem : List Host.Cell := []
  clk : Clock := {}
  port : Port := {}
  twins : SMap (Option Twin) := []
  cores : SMap Core := []
  bundles : SMap (List Instr) := []
  cp : Cp := {}
  geq : Geq := {}
  mbx : Mbx := {}
  fu : Fu := {}
  baskets : SMap Basket := []
  atu : Atu := {}
  fp : Fp := {}
  ru : Ru := {}
  links : SMap Link := []
  store : Store := {}
  sb : Sb := {}
  svc : Svc := {}
  pwr : Pwr := {}
  temper : Temper := {}
  tel : Tel := {}
  freeCount : Nat := 0
deriving DecidableEq, Repr

/-- The Temper words of an engine with all sixteen cores enabled and nothing else recorded:
DESIGN CHOICE, log 9 (the array's contents are the device's own). -/
def Temper.initial : Temper where
  words := [(7, { c0 := some 0xFFFF, c1 := some 0xFFFF, c2 := some 0xFFFF })]
  shadow := [(7, 0xFFFF)]

/-- The engine right after reset: every register at the reset value of its table. -/
def State.reset : State where
  temper := Temper.initial

abbrev Out := Host.Outcome State Fault Refusal

end Sys2Proof.Machine
end

