-- ==== Sys2Proof/Machine/Ops.lean ====
section
/-! DEFINITION. The named operations that every family of commands shares: sparse tables and memory,
accessors of the engine's parts, the counters of telemetry, entries of the GEQ, interrupts,
sequence-cleared registers and twin writes. -/

namespace Sys2Proof.Machine

-- ---------------------------------------------------------------- sparse tables

/-- What key `k` reads as: the listed value, or `d`. -/
def mget {α : Type} (d : α) : SMap α → Nat → α
  | [], _ => d
  | (a, v) :: m, k => if a = k then v else mget d m k

/-- The table without key `k`. -/
def mdel {α : Type} : SMap α → Nat → SMap α
  | [], _ => []
  | (a, v) :: m, k => if a = k then mdel m k else (a, v) :: mdel m k

/-- The table with `v` at key `k`, in its place. -/
def mins {α : Type} : SMap α → Nat → α → SMap α
  | [], k, v => [(k, v)]
  | (a, w) :: m, k, v =>
    if k < a then (k, v) :: (a, w) :: m
    else if a = k then (k, v) :: m
    else (a, w) :: mins m k v

/-- The table in which `k` reads as `v`; a value equal to the default is not listed. -/
def mset {α : Type} [DecidableEq α] (d : α) (m : SMap α) (k : Nat) (v : α) : SMap α :=
  if v = d then mdel m k else mins m k v

/-- The canonical form: keys strictly rising, no value equal to the default. -/
def mwf {α : Type} [DecidableEq α] (d : α) : SMap α → Bool
  | [] => true
  | (a, v) :: m => decide (v ≠ d) && m.all (fun e => decide (a < e.1)) && mwf d m

def popcount {n : Nat} (x : BitVec n) : Nat := ((List.range n).filter (fun i => x.getLsbD i)).length

-- ---------------------------------------------------------------- memory

/-- A byte of host memory; one that nothing has written reads as zero (DESIGN CHOICE, log 1). -/
def rdByte (m : List Host.Cell) (a : Nat) : Byte := mget 0 m a

def wrByte (m : List Host.Cell) (a : Nat) (v : Byte) : List Host.Cell := mset 0 m a v

/-- The canonical form of memory. -/
def memWf (m : List Host.Cell) : Bool := mwf (0 : Byte) m

/-- `n` bytes of memory from `a` on, as one little-endian number. -/
def rdNat (m : List Host.Cell) (a : Nat) : Nat → Nat
  | 0 => 0
  | n + 1 => (rdByte m a).toNat + 256 * rdNat m (a + 1) n

/-- Memory with the `n` low bytes of `v` from `a` on, little-endian. -/
def wrNat (m : List Host.Cell) (a : Nat) : Nat → Nat → List Host.Cell
  | 0, _ => m
  | n + 1, v => wrNat (wrByte m a (BitVec.ofNat 8 v)) (a + 1) n (v / 256)

/-- A bit string from bytes, lowest first. -/
def natOfBytes : List Byte → Nat
  | [] => 0
  | b :: l => b.toNat + 256 * natOfBytes l

/-- Writes of other masters, one byte each (log 6). -/
def wrCells (m : List Host.Cell) : List Host.Cell → List Host.Cell
  | [] => m
  | (a, v) :: l => wrCells (wrByte m a v) l

/-- An engine write of `n` bytes at `a` that the memory system answers with an error, or not at all:
each byte holds a free value (R324, log 7). -/
def scramble (s : State) (a n : Nat) : State :=
  { s with
    mem := wrNat s.mem a n (natOfBytes ((List.range n).map (fun i => Config.failedByte (s.freeCount + i))))
    freeCount := s.freeCount + n }

def rd32 (m : List Host.Cell) (a : Nat) : Word := BitVec.ofNat 32 (rdNat m a 4)
def rd64 (m : List Host.Cell) (a : Nat) : DWord := BitVec.ofNat 64 (rdNat m a 8)
def wr32 (m : List Host.Cell) (a : Nat) (v : Word) : List Host.Cell := wrNat m a 4 v.toNat
def wr64 (m : List Host.Cell) (a : Nat) (v : DWord) : List Host.Cell := wrNat m a 8 v.toNat

/-- The bytes of a bit string, lowest first. -/
def bytesOf {n : Nat} (v : BitVec n) : Nat → List Byte
  | 0 => []
  | k + 1 => v.setWidth 8 :: bytesOf (v >>> 8) k

def ofBytes (w : Nat) (l : List Byte) : BitVec w := BitVec.ofNat w (natOfBytes l)

/-- The `n` low bytes of a number, lowest first. -/
def leBytes : Nat → Nat → List Byte
  | 0, _ => []
  | n + 1, v => BitVec.ofNat 8 v :: leBytes n (v / 256)

def wrBytes (m : List Host.Cell) (a : Nat) : List Byte → List Host.Cell
  | [] => m
  | b :: l => wrBytes (wrByte m a b) (a + 1) l

def rdBytes (m : List Host.Cell) (a : Nat) : Nat → List Byte
  | 0 => []
  | n + 1 => rdByte m a :: rdBytes m (a + 1) n

-- ---------------------------------------------------------------- parts of the engine

def coreOf (s : State) (c : Nat) : Core := mget {} s.cores c
def setCore (s : State) (c : Nat) (k : Core) : State := { s with cores := mset {} s.cores c k }
def updCore (s : State) (c : Nat) (f : Core → Core) : State := setCore s c (f (coreOf s c))

def ctxOf (s : State) (c : Nat) : Ctx := mget {} s.cp.ctxs c
def setCtx (s : State) (c : Nat) (k : Ctx) : State :=
  { s with cp := { s.cp with ctxs := mset {} s.cp.ctxs c k } }
def updCtx (s : State) (c : Nat) (f : Ctx → Ctx) : State := setCtx s c (f (ctxOf s c))

def bskOf (s : State) (b : Nat) : Basket := mget {} s.baskets b
def setBsk (s : State) (b : Nat) (k : Basket) : State :=
  { s with baskets := mset {} s.baskets b k }
def updBsk (s : State) (b : Nat) (f : Basket → Basket) : State := setBsk s b (f (bskOf s b))

def linkOf (s : State) (l : Nat) : Link := mget {} s.links l
def setLink (s : State) (l : Nat) (k : Link) : State := { s with links := mset {} s.links l k }
def updLink (s : State) (l : Nat) (f : Link → Link) : State := setLink s l (f (linkOf s l))

def updTa (s : State) (c : Nat) (f : Ta → Ta) : State :=
  updCore s c (fun k => { k with ta := f k.ta })
def updPan (s : State) (c : Nat) (f : Pan → Pan) : State :=
  updCore s c (fun k => { k with pan := f k.pan })
def updSeq (s : State) (c : Nat) (f : Seq → Seq) : State :=
  updCore s c (fun k => { k with seq := f k.seq })
def updMem (s : State) (c : Nat) (f : MemUnit → MemUnit) : State :=
  updCore s c (fun k => { k with mem := f k.mem })

/-- The timebase (R7). -/
def now (s : State) : DWord := s.clk.tb

/-- Whether power domain `d` is on (R501). -/
def domOn (s : State) (d : Nat) : Bool := s.pwr.on.getLsbD d

/-- A shadow of the Temper array (R537). -/
def temperWord (s : State) (w : Nat) : Word := mget 0 s.temper.shadow w

/-- Whether the enabled-core configuration enables core `c` (R535); a configuration that the last start
could not read enables every core (R496). -/
def coreEnabled (s : State) (c : Nat) : Bool :=
  (mget {} s.temper.words 7).unreadable || (temperWord s 7).getLsbD c

-- ---------------------------------------------------------------- telemetry counters

/-- `n` events of telemetry counter `i` (R549): none is counted while domain 216 is off. -/
def count (s : State) (i n : Nat) : State :=
  if domOn s 216 then
    { s with tel := { s.tel with
        counters := mset 0 s.tel.counters i (mget 0 s.tel.counters i + BitVec.ofNat 64 n) } }
  else s

/-- `n` events of the counter `i` of core `c` (R549). -/
def countCore (s : State) (c i n : Nat) : State := count s (16 * c + i) n

/-- The CONTEXT field of an entry or a record (R354). -/
def ctxField : Option Nat → BitVec 16
  | some c => BitVec.ofNat 16 c
  | none => 0xFFFF

/-- Records that the trace ring holds (R559). -/
def traceSize (s : State) : Nat := 2 ^ s.tel.log2.toNat

/-- Records in order of tick and, within a tick, of source (R21, R555); none passes a PAD. -/
def traceInsert (e : TraceRec) : List TraceRec → List TraceRec
  | [] => [e]
  | x :: l =>
    if x.tick = e.tick ∧ e.source.toNat < x.source.toNat ∧ l.all (fun y => decide (y.type ≠ 0)) ∧ x.type ≠ 0
    then e :: x :: l
    else x :: traceInsert e l

/-- A trace record (R555, R556): dropped and counted when the ring has no place left for it or more
than 16 records wait. -/
def trace (s : State) (type source : Nat) (ctx : Option Nat) (mask : BitVec 16)
    (payload : BitVec 128) : State :=
  if s.tel.traceEn && s.tel.mask.getLsbD type then
    if (s.tel.wr - s.tel.rd).toNat + s.tel.queue.length ≥ traceSize s ∨ s.tel.queue.length > 16 then
      { s with tel := { s.tel with lost := satAdd s.tel.lost 1, lostPend := true } }
    else
      { s with tel := { s.tel with
          lostPend := false
          queue := traceInsert {
              tick := now s, type := BitVec.ofNat 8 type, lostBefore := s.tel.lostPend
              source := BitVec.ofNat 16 source
              ctx := ctxField ctx, mask := mask, payload := payload } s.tel.queue } }
  else s

-- ---------------------------------------------------------------- the GEQ

/-- The class of each code (R355, R392, R444, R481, R500, R522). -/
def codeClass (code : Nat) : Byte :=
  if code < 0x20 then 1
  else if code ∈ [0x140, 0x187, 0x1D5, 0x1D6] then 3
  else if code ∈ [0x100, 0x110, 0x112, 0x114, 0x134, 0x150, 0x153, 0x160, 0x162, 0x171, 0x173,
      0x177, 0x180, 0x181, 0x183, 0x184, 0x188, 0x189, 0x18A, 0x18B, 0x1C2, 0x1D0, 0x1D3, 0x1E1,
      0x1E3, 0x1E7] then 0
  else 2

/-- Whether context `c` belongs to a standing Basket or uses a FORGE space (R354). -/
def ctxForge (s : State) (c : Nat) : Bool :=
  let k := ctxOf s c
  k.valid && ((bskOf s k.basket.toNat).standing ||
    s.atu.slots.any (fun p => p.2.valid && p.2.forge && decide (p.2.id = k.space)))

/-- Whether the next entry finds staging full (R356). -/
def geqFull (s : State) : Bool := decide (s.geq.staging.length ≥ 256)

/-- The entries in order of tick and, within a tick, of source (R21). -/
def geqInsert (e : GeqEntry) : List GeqEntry → List GeqEntry
  | [] => [e]
  | x :: l => if x.tick = e.tick ∧ e.source < x.source then e :: x :: l else x :: geqInsert e l

/-- The 32 bytes of an entry as one number (R354). -/
def entryNat (e : GeqEntry) (phase : Bool) : Nat :=
  let flag (b : Bool) (k : Nat) : Nat := if b then 2 ^ k else 0
  e.code.toNat + e.cls.toNat * 2 ^ 16 +
    (flag phase 0 + flag e.lostBefore 1 + flag e.replace 2 + flag e.forge 3) * 2 ^ 24 +
    e.source * 2 ^ 32 + e.ctx.toNat * 2 ^ 48 + e.tick.toNat * 2 ^ 64 + e.obj.toNat * 2 ^ 128 +
    e.detail.toNat * 2 ^ 192

/-- First byte of the carve-out and the first one past it (R543). -/
def carveLo (s : State) : Nat := (temperWord s 5).toNat * 2 ^ 24
def carveHi (s : State) : Nat := carveLo s + (temperWord s 6).toNat * 2 ^ 24

/-- The Forge appends an entry to the standing event log (R397): the entry, the write count, and the
tick of each lap of 1,024; the index's own layout is the model's (log 13). -/
def eventLog (s : State) (e : GeqEntry) : State :=
  let n := s.sb.logWr.toNat
  let a := carveLo s
  let m := wrNat s.mem (a + 0x1000 + 32 * (n % 4096)) 32 (entryNat e (decide (n / 4096 % 2 = 0)))
  let m := if n % 1024 = 0 then wr64 m (a + 0x21008 + 8 * (n / 1024 % 4)) e.tick else m
  let m := wr32 m (a + 0x21000) (s.sb.logWr + 1)
  { s with mem := m, sb := { s.sb with logWr := s.sb.logWr + 1 } }

/-- An entry routed to the Forge's inbox of 256 entries (R358); one that finds it full goes to the
GEQ with FORGE set. -/
def inboxRoom (s : State) : Bool := decide (s.mbx.inbox.length < 256)

/-- An entry enters staging, or is dropped and counted when staging is full (R356). While the host is
gone, an entry with FORGE set goes through the inbox to the event log (R401). -/
def geqPut (s : State) (e : GeqEntry) : State :=
  if s.cp.detached && e.forge && inboxRoom s then eventLog s e
  else if geqFull s then
    { s with geq := { s.geq with lost := satAdd s.geq.lost 1, lostPend := true } }
  else
    { s with geq := { s.geq with
        lostPend := false
        staging := geqInsert { e with lostBefore := s.geq.lostPend } s.geq.staging } }

/-- An entry for the Forge's inbox (R321, R358). -/
def inboxPut (s : State) (e : GeqEntry) : State :=
  if inboxRoom s then { s with mbx := { s.mbx with inbox := s.mbx.inbox ++ [e] } }
  else geqPut s { e with forge := true }

/-- The entry of a code, with the fields that R354 and R562 give every entry. -/
def geqEntry (s : State) (code source : Nat) (ctx : Option Nat) (obj detail : DWord)
    (replace forge : Bool) : GeqEntry where
  code := BitVec.ofNat 16 code
  cls := codeClass code
  lostBefore := false
  replace := replace
  forge := forge || (match ctx with | some c => ctxForge s c | none => false)
  source := source
  ctx := ctxField ctx
  tick := now s
  obj := obj
  detail := detail

/-- A unit reports an entry (R21). -/
def post (s : State) (code source : Nat) (ctx : Option Nat) (obj detail : DWord) : State :=
  geqPut s (geqEntry s code source ctx obj detail false false)

/-- A replacement request (R483): an entry with REPLACE set and the bit of SVC_REPLACE. -/
def postReplace (s : State) (code source : Nat) (obj detail : DWord) (bit : Nat) : State :=
  let s := geqPut s (geqEntry s code source none obj detail true false)
  { s with svc := { s.svc with replace := s.svc.replace ||| (1#6 <<< bit) } }

/-- An entry that concerns Basket `b` (R354): FORGE is set for a standing one. -/
def postBsk (s : State) (code source b : Nat) (obj detail : DWord) : State :=
  geqPut s (geqEntry s code source none obj detail false (bskOf s b).standing)

def srcCp : Nat := 16
def srcAtu : Nat := 17
def srcFu : Nat := 18
def srcFp : Nat := 19
def srcRu : Nat := 20
def srcForge : Nat := 21
def srcStore : Nat := 22
def srcLink (l : Nat) : Nat := 23 + l
def srcPwr : Nat := 25
def srcTemper : Nat := 26
def srcHost : Nat := 27
def srcTel : Nat := 28
def srcGeq : Nat := 29

/-- What the code of a table's word tells the unit that reads it (R488): a corrected error is counted, an
uncorrectable one makes the entry TABLE_ECC. -/
def tableEcc (s : State) (source : Nat) (ctx : Option Nat) : Ecc → State
  | .clean => s
  | .single => { s with svc := { s.svc with tableCnt := satAdd s.svc.tableCnt 1 } }
  | .double => post s 0x1D7 source ctx 0 0

-- ---------------------------------------------------------------- sequence-cleared registers

/-- An event of a sequence-cleared register (R10, R528): the bits of `m` are set and the sequence
number advances by one. -/
def scEvent (r : Sc) (m : BitVec 24) : Sc := { bits := r.bits ||| m, seq := r.seq + 1 }

/-- A write of a sequence-cleared register (R10, R528). -/
def scClear (r : Sc) (v : Word) : Sc :=
  if bits v 24 8 = r.seq then { r with bits := r.bits &&& ~~~(bits v 0 24) } else r

/-- What a read of a sequence-cleared register returns (R10). -/
def scRead (r : Sc) : Word := r.seq ++ r.bits

-- ---------------------------------------------------------------- interrupts

/-- The MSI of vector `v`: one 32-bit write of its data (R353). -/
def sendMsi (s : State) (v : Nat) : State :=
  let k := mget {} s.cp.vecs v
  { s with mem := wr32 s.mem k.addr.toNat k.data }

/-- An event of vector `v` (R353): the MSI is sent when the bit was 0 and the vector is unmasked. -/
def intEvent (s : State) (v : Nat) : State :=
  if v < 24 then
    let was := s.cp.intPend.bits.getLsbD v
    let s' := { s with cp := { s.cp with intPend := scEvent s.cp.intPend (1#24 <<< v) } }
    if was || (mget {} s.cp.vecs v).mask then s' else sendMsi s' v
  else s

-- ---------------------------------------------------------------- register accesses

def initNo : Initiator → Nat
  | .host => 0 | .forge => 1 | .pmgr => 2 | .secp => 3

/-- The unit whose registers hold offset `o` (R523). -/
def unitOf (o : Nat) : Nat :=
  if o < 0x100000 then srcHost
  else if o < 0x200000 then srcForge
  else if o < 0x400000 then srcCp
  else if o < 0x600000 then srcAtu
  else if o < 0x800000 then srcFu
  else if o < 0xA00000 then srcGeq
  else if o < 0xC00000 then srcPwr
  else if o < 0xE00000 then srcTemper
  else if o < 0x1000000 then srcTel
  else if o < 0x1100000 then (o - 0x1000000) / 0x10000
  else if o < 0x1400000 then srcHost
  else if o < 0x1500000 then (if o < 0x1401000 then srcFp else srcRu)
  else if o < 0x1580000 then srcLink 0
  else if o < 0x1700000 then srcLink 1
  else srcStore

/-- An entry REG_RESERVED (0x100), REG_REFUSED (0x101) or TW_ABORT (0x102) about the register at
`off`, with the value and the initiator (R562). -/
def postReg (s : State) (code off : Nat) (value : Word) (i : Initiator) : State :=
  post s code (unitOf off) none (BitVec.ofNat 64 off)
    (value.setWidth 64 ||| BitVec.ofNat 64 (initNo i) <<< 32)

def regReserved (s : State) (off : Nat) (v : Word) (i : Initiator) : State := postReg s 0x100 off v i
def regRefused (s : State) (off : Nat) (v : Word) (i : Initiator) : State := postReg s 0x101 off v i
def twAbort (s : State) (off : Nat) (v : Word) (i : Initiator) : State := postReg s 0x102 off v i

/-- An access that R9 performs: 32 bits on a 4-byte aligned address. -/
def plainAccess (off : RegOff) (size : Byte) : Bool := decide (size = 4 ∧ off.toNat % 4 = 0)

-- ---------------------------------------------------------------- twin writes

def twinOf (s : State) (off : Nat) : Option Twin := mget none s.twins off
def setTwin (s : State) (off : Nat) (t : Option Twin) : State :=
  { s with twins := mset none s.twins off t }

/-- A value write of the TW register at `off` (R11). -/
def twValue (s : State) (off : Nat) (i : Initiator) (v latched : Word) : State :=
  let fresh : Twin := { init := i, value := v, cycle := s.clk.coreCyc, latched := latched }
  match twinOf s off with
  | none => setTwin s off (some fresh)
  | some p =>
    if p.init = i then setTwin (twAbort s off p.value i) off (some fresh)
    else regRefused s off v i

/-- The end of core cycle T + 1,024 has passed for a pending twin write (R11, R531). -/
def twLapsed (s : State) (p : Twin) : Bool := decide (s.clk.coreCyc > p.cycle + 1024)

/-- A pending twin write that has lapsed goes, with its entry TW_ABORT (R11). -/
def twExpire (s : State) (off : Nat) : State :=
  match twinOf s off with
  | none => s
  | some p => if twLapsed s p then setTwin (twAbort s off p.value p.init) off none else s

/-- A complement write of the TW register at `off` (R11): the pending write that it completes, if
it completes one, and the state after it. -/
def twComplement (s : State) (off : Nat) (i : Initiator) (v : Word) : Option Twin × State :=
  let s := twExpire s off
  match twinOf s off with
  | none => (none, twAbort s off v i)
  | some p =>
    if p.init ≠ i then (none, regRefused s off v i)
    else if v = ~~~p.value then (some p, setTwin s off none)
    else (none, setTwin (twAbort s off p.value i) off none)

end Sys2Proof.Machine
end

