-- ==== Sys2Proof/Machine/Translate.lean ====
section
/-! DEFINITION. Address translation (11): windows and carve-out, the Sv48 walk, the TLBs, translation
lists, Basket credits. -/

namespace Sys2Proof.Machine

-- ---------------------------------------------------------------- R308

def inWindow (pa : SMap Word) (w lo hi : Nat) : Bool :=
  decide ((mget 0 pa (2 * w)).toNat ≤ lo / 2 ^ 24 ∧ hi / 2 ^ 24 < (mget 0 pa (2 * w + 1)).toNat)

/-- The bytes `lo` to `hi` lie inside one of the four windows of `pa`. -/
def inWindowsOf (pa : SMap Word) (lo hi : Nat) : Bool :=
  inWindow pa 0 lo hi || inWindow pa 1 lo hi || inWindow pa 2 lo hi || inWindow pa 3 lo hi

/-- The same for the windows as they stand. -/
def inWindows (s : State) (lo hi : Nat) : Bool := inWindowsOf s.atu.pa lo hi

def carveHit (s : State) (lo hi : Nat) : Bool := decide (lo < carveHi s ∧ carveLo s ≤ hi)

/-- A range of physical addresses passes R308 under the windows of `pa`. -/
def physOkOf (s : State) (pa : SMap Word) (engine : Bool) (lo hi : Nat) : Bool :=
  inWindowsOf pa lo hi && (engine || !carveHit s lo hi)

/-- A range of physical addresses passes R308 for a space with or without ENGINE. -/
def physOk (s : State) (engine : Bool) (lo hi : Nat) : Bool :=
  inWindows s lo hi && (engine || !carveHit s lo hi)

def spaceOf (s : State) (slot : Nat) : Space := mget {} s.atu.slots slot

/-- The epoch of a slot (R306, R317). -/
def epochOf (s : State) (slot : Nat) : DWord := (spaceOf s slot).epoch + s.atu.allEpoch

/-- The valid slot that holds a space ID (R305). -/
def slotOfId (s : State) (id : BitVec 20) : Option Nat :=
  (s.atu.slots.find? (fun p => p.2.valid && decide (p.2.id = id))).map (·.1)

def slotOfCtx (s : State) (c : Nat) : Option Nat := slotOfId s (ctxOf s c).space

def slotEngine (s : State) : Option Nat → Bool
  | some k => (spaceOf s k).engine
  | none => false

/-- The check of an untranslated access for context `c` (R308, R340). -/
def ctxPhysOk (s : State) (c lo hi : Nat) : Bool := physOk s (slotEngine s (slotOfCtx s c)) lo hi

-- ---------------------------------------------------------------- R309

/-- The reasons of a page fault, numbered in the order of R320 (DESIGN CHOICE, log 10). -/
def pfInvalid : Nat := 1
def pfPerm : Nat := 2
def pfAd : Nat := 3
def pfAttr : Nat := 4
def pfMisaligned : Nat := 5

def pteV (p : DWord) : Bool := p.getLsbD 0
def pteR (p : DWord) : Bool := p.getLsbD 1
def pteW (p : DWord) : Bool := p.getLsbD 2
def pteX (p : DWord) : Bool := p.getLsbD 3
def pteU (p : DWord) : Bool := p.getLsbD 4
def pteA (p : DWord) : Bool := p.getLsbD 6
def pteD (p : DWord) : Bool := p.getLsbD 7
def ptePpn (p : DWord) : Nat := (bits p 10 44).toNat

inductive PteOut where
  | fault (reason : Nat)
  | next (table : Nat)
  | leaf
deriving DecidableEq, Repr

/-- What one PTE at a level says, before the tests of U, R, W, A and D (R309). -/
def pteStep (p : DWord) (level : Nat) : PteOut :=
  if !pteV p || (!pteR p && pteW p) then .fault pfInvalid
  else if p.getLsbD 63 || decide (bits p 54 7 ≠ 0) || p.getLsbD 62 then .fault pfAttr
  else if !pteR p && !pteX p then
    if decide (level = 0) || pteU p || pteA p || pteD p then .fault pfInvalid
    else .next (ptePpn p * 4096)
  else if level > 0 ∧ ptePpn p % 2 ^ (9 * level) ≠ 0 then .fault pfMisaligned
  else .leaf

/-- The tests of a leaf that depend on the access (R309). -/
def leafFault (p : DWord) (store : Bool) : Option Nat :=
  if !pteU p then some pfPerm
  else if !store && !pteR p then some pfPerm
  else if store && !pteW p then some pfPerm
  else if !pteA p || (store && !pteD p) then some pfAd
  else none

/-- Bits [63:47] are all equal (R309). -/
def canonical (va : Nat) : Bool := decide (va < 2 ^ 47 ∨ 2 ^ 64 - 2 ^ 47 ≤ va ∧ va < 2 ^ 64)

/-- Result of a lookup: a leaf with its level, or one of the outcomes of R320. -/
inductive Leaf where
  | leaf (pte : DWord) (level : Nat)
  | page (reason : Nat)
  | access (reason : Nat)
deriving DecidableEq, Repr

/-- Where the PTE of `va` at a level lies. -/
def pteAddr (table va level : Nat) : Nat := table + 8 * (va / 2 ^ (12 + 9 * level) % 512)

/-- A walk from `table` down, `n` levels left, with the PTE reads it made (R309, R308). -/
def walkFrom (s : State) (pa : SMap Word) (engine : Bool) (va : Nat) : Nat → Nat → Leaf × Nat
  | 0, _ => (.page pfInvalid, 0)
  | l + 1, table =>
    let a := pteAddr table va l
    if physOkOf s pa engine a (a + 7) then
      match pteStep (rd64 s.mem a) l with
      | .fault r => (.page r, 1)
      | .leaf => (.leaf (rd64 s.mem a) l, 1)
      | .next t => let r := walkFrom s pa engine va l t; (r.1, r.2 + 1)
    else (.access 2, 0)

def rootTable (k : Space) : Nat := (bits k.root 0 44).toNat * 4096

-- ---------------------------------------------------------------- R316

def tlbHits (slot va : Nat) (e : TlbEntry) : Bool :=
  decide (e.slot = slot ∧ e.vpn = va / 2 ^ (12 + 9 * e.level))

def tlbFind (t : List TlbEntry) (slot va : Nat) : Option TlbEntry := t.find? (tlbHits slot va)

/-- Without the last entry that `p` holds of. -/
def dropLastOf (p : TlbEntry → Bool) (t : List TlbEntry) : List TlbEntry :=
  (t.reverse.eraseP p).reverse

/-- The set of a shared TLB entry: page number modulo 512 (DESIGN CHOICE, log 11). -/
def stlbSet (e : TlbEntry) : Nat := e.vpn % 512

/-- An entry becomes the most recent of its set of 8 ways, in the place of the entry that served `va`
whatever its page size (R316); else the least recent one of a full set leaves. -/
def stlbPut (t : List TlbEntry) (e : TlbEntry) (va : Nat) : List TlbEntry :=
  let rest := t.filter (fun x => !tlbHits e.slot va x)
  if (rest.filter (fun x => decide (stlbSet x = stlbSet e))).length ≥ 8 then
    e :: dropLastOf (fun x => decide (stlbSet x = stlbSet e)) rest
  else e :: rest

/-- The same for the 64 entries of a micro-TLB (log 11). -/
def utlbPut (t : List TlbEntry) (e : TlbEntry) (va : Nat) : List TlbEntry :=
  (e :: t.filter (fun x => !tlbHits e.slot va x)).take 64

def tlbEntry (slot va : Nat) (pte : DWord) (level : Nat) : TlbEntry :=
  { slot := slot, vpn := va / 2 ^ (12 + 9 * level), level := level, pte := pte }

-- ---------------------------------------------------------------- credits (R331)

def bwOf (s : State) (b : Nat) : Bw := mget {} s.atu.bw b
def setBw (s : State) (b : Nat) (w : Bw) : State :=
  { s with atu := { s.atu with bw := mset {} s.atu.bw b w } }

/-- A request of a Basket finds credit (R331). -/
def hasCredit (s : State) (b : Nat) : Bool := decide (1 ≤ (bwOf s b).credit)

/-- `n` lines of a Basket's credit are taken; more than there are leave a debt (log 5). -/
def takeCredit (s : State) (b n : Nat) : State :=
  let w := bwOf s b
  setBw s b { w with credit := w.credit - n }

-- ---------------------------------------------------------------- whole lookups

def walkDone (s : State) : State :=
  count { s with atu := { s.atu with walkCnt := satAdd s.atu.walkCnt 1 } } 259 1

def stlbMiss (s : State) : State :=
  count { s with atu := { s.atu with missCnt := satAdd s.atu.missCnt 1 } } 260 1

/-- The walk that serves a slot and a 4 KiB page (R311). -/
def walkOf (s : State) (slot va : Nat) : Option (Nat × Walk) :=
  (List.range 16).findSome? (fun i =>
    match mget none s.atu.walks i with
    | some w => if w.slot = slot ∧ w.va.toNat / 4096 = va / 4096 then some (i, w) else none
    | none => none)

/-- A walker is free, so a unit that translates whole pages at once can walk (R311). -/
def walkerFree (s : State) : Bool :=
  (List.range 16).any (fun i => (mget none s.atu.walks i).isNone)

/-- The next walk that waits takes a walker that has become free (R311). -/
def freeWalker (s : State) (i : Nat) : State :=
  match s.atu.walkQueue with
  | [] => { s with atu := { s.atu with walks := mset none s.atu.walks i none } }
  | w :: q => { s with atu := { s.atu with walks := mset none s.atu.walks i (some w), walkQueue := q } }

/-- A whole walk for Basket `b`: from the root of a slot, or, where a walk of the same page is in progress,
the rest of that one, whose lines then find the leaf (R311). Its outcome; the PTE reads' credit is taken and
the leaf put into the shared TLB. -/
def walkNow (s : State) (b slot va : Nat) : Leaf × State :=
  let k := spaceOf s slot
  let w := walkOf s slot va
  let r := match w with
    | some (_, w) => walkFrom s w.pa k.engine va (w.level + 1) w.table
    | none => walkFrom s s.atu.pa k.engine va 4 (rootTable k)
  let s := match w with
    | some (i, _) => freeWalker s i
    | none => s
  let s := walkDone (takeCredit s b r.2)
  match r.1 with
  | .leaf pte l =>
    (r.1, { s with atu := { s.atu with stlb := stlbPut s.atu.stlb (tlbEntry slot va pte l) va } })
  | _ => (r.1, s)

/-- One leaf through the shared TLB, or by a walk on a miss (R313); `fits` says whether a hit serves
the access, and a hit that does not is walked again (R316). -/
def lookupLeaf (s : State) (b : Nat) (slot : Option Nat) (va : Nat) (fits : DWord → Bool) :
    Leaf × State :=
  if s.atu.disable then (.access 4, s)
  else match slot with
    | none => (.access 1, s)
    | some k =>
      if !canonical va then (.access 3, s)
      else match tlbFind s.atu.stlb k va with
        | some e =>
          if fits e.pte then
            (.leaf e.pte e.level, { s with atu := { s.atu with stlb := stlbPut s.atu.stlb e va } })
          else walkNow s b k va
        | none => walkNow (stlbMiss s) b k va

/-- Lookups of these addresses can be made now: every one hits, or a walker is free and the Basket has credit for
the PTE reads (R311, R331). -/
def mayLookup (s : State) (b : Nat) (slot : Option Nat) (l : List Nat) : Bool :=
  (walkerFree s && hasCredit s b) || (match slot with
    | some k => l.all (fun va => (tlbFind s.atu.stlb k va).isSome)
    | none => true)

/-- Result of a translation: a physical address, or one of the outcomes of R320. -/
inductive Xlat where
  | ok (pa : Nat)
  | page (reason : Nat)
  | access (reason : Nat)
deriving DecidableEq, Repr

/-- The physical address of `va` in a leaf. -/
def leafPa (pte : DWord) (level va : Nat) : Nat := ptePpn pte * 4096 + va % 2 ^ (12 + 9 * level)

/-- What a leaf gives an access (R309, R308). -/
def leafXlat (s : State) (engine : Bool) (pte : DWord) (level va : Nat) (store : Bool) : Xlat :=
  match leafFault pte store with
  | some r => .page r
  | none =>
    let pa := leafPa pte level va
    if physOk s engine pa pa then .ok pa else .access 2

/-- A translation made at once through the shared TLB: Region, COPY, image and request reads. -/
def translate (s : State) (b : Nat) (slot : Option Nat) (va : Nat) (store : Bool) : Xlat × State :=
  let r := lookupLeaf s b slot va (fun p => (leafFault p store).isNone)
  match r.1 with
  | .leaf pte l => (leafXlat r.2 (slotEngine s slot) pte l va store, r.2)
  | .page q => (.page q, r.2)
  | .access q => (.access q, r.2)

/-- Translates each of `n` pages of 4 KiB from the page of `va` on; the first that fails stops it. -/
def translateAll (s : State) (b : Nat) (slot : Option Nat) (store : Bool) :
    Nat → Nat → Option (Nat × Xlat) × State
  | 0, _ => (none, s)
  | n + 1, va =>
    let r := translate s b slot va store
    match r.1 with
    | .ok _ => translateAll r.2 b slot store n ((va / 4096 + 1) * 4096)
    | x => (some (va, x), r.2)

/-- The link and the offset in its aperture that a physical address names (R425). -/
def apertureOf (s : State) (pa : Nat) : Option (Nat × Nat) :=
  ([0, 1].find? (fun l =>
    let b := (linkOf s l).outBase.toNat * 2 ^ 24
    decide (b ≠ 0 ∧ b ≤ pa ∧ pa < b + 2 ^ 36))).map
    (fun l => (l, pa - (linkOf s l).outBase.toNat * 2 ^ 24))

/-- A byte that a unit reads at a physical address: memory, or the peer's free byte (log 23). -/
def busByte (s : State) (pa : Nat) : Byte :=
  if (apertureOf s pa).isSome then Config.peerByte (s.freeCount * 2 ^ 56 + pa) else rdByte s.mem pa

/-- Reads `n` bytes at virtual addresses through the leaves as they stand (R309), once every page has
been translated. -/
def rdVirt (s : State) (b : Nat) (slot : Option Nat) : Nat → Nat → List Byte
  | 0, _ => []
  | n + 1, va =>
    (match (translate s b slot va false).1 with
      | .ok pa => busByte s pa
      | _ => 0) :: rdVirt s b slot n (va + 1)

-- ---------------------------------------------------------------- lists (R312, R313)

/-- The extent that a lookup at offset `off` yields (R313). -/
def lookupExtent (s : State) (slot : Option Nat) (base length off : Nat) : Leaf → Extent
  | .leaf pte l =>
    let va := base + off
    let size := 2 ^ (12 + 9 * l)
    let n := min ((va / size + 1) * size - base) length - off
    let pa := leafPa pte l va
    if pteU pte && pteA pte && physOk s (slotEngine s slot) pa (pa + n - 1) then
      { start := off, len := n, pa := pa, read := pteR pte, write := pteW pte && pteD pte
        present := true }
    else
      { start := off, len := min ((va / 4096 + 1) * 4096 - base) length - off, pa := 0
        read := false, write := false, present := false }
  | _ =>
    { start := off, len := min (((base + off) / 4096 + 1) * 4096 - base) length - off, pa := 0
      read := false, write := false, present := false }

/-- Whether extent `e` continues extent `l` (R312); lengths are in bytes up to the LENGTH. -/
def extentJoins (l e : Extent) : Bool :=
  decide (l.start + l.len = e.start) && l.present == e.present && l.read == e.read &&
    l.write == e.write && (!l.present || decide (l.pa + l.len = e.pa))

def extentAdd (l : List Extent) (e : Extent) : Option (List Extent) :=
  match l.getLast? with
  | some x =>
    if extentJoins x e then some (l.dropLast ++ [{ x with len := x.len + e.len }])
    else if l.length ≥ 16 then none else some (l ++ [e])
  | none => some [e]

/-- Lookups of one list (R313): `n` left, with the list so far; the lookups left afterwards. A hit that lacks
A = 1 is walked again (R316); `lost` are the pages whose lookup meets a MEM_ERROR. -/
def buildList (b : Nat) (slot : Option Nat) (lost : List DWord) (base length : Nat) :
    Nat → Nat → TList → State → TList × Nat × State
  | 0, budget, t, s => (t, budget, s)
  | n + 1, budget, t, s =>
    if t.cover ≥ length ∨ budget = 0 then (t, budget, s)
    else
      let r := lookupLeaf s b slot (base + t.cover) (fun p => pteU p && pteA p)
      let page : DWord := BitVec.ofNat 64 ((base + t.cover) / 4096 * 4096)
      let e := lookupExtent r.2 slot base length t.cover (if lost.contains page then .access 0 else r.1)
      match extentAdd t.extents e with
      | none => (t, budget - 1, r.2)
      | some l =>
        buildList b slot lost base length n (budget - 1)
          { extents := l, cover := t.cover + e.len
            stamp := match slot with | some k => epochOf s k | none => 0 } r.2

/-- Whether a descriptor is valid (R259). -/
def descBaseOk (d : Desc) : Bool :=
  d.valid && canonical d.base.toNat && decide (d.base.toNat % 128 = 0)

/-- The lists of a task's valid descriptors in table order, `budget` lookups in all (R313). -/
def buildLists (b : Nat) (slot : Option Nat) (lost : List DWord) :
    List (Nat × Desc) → Nat → SMap TList → State → SMap TList × State
  | [], _, acc, s => (acc, s)
  | (i, d) :: l, budget, acc, s =>
    if descBaseOk d then
      let r := buildList b slot lost d.base.toNat d.length.toNat 64 budget {} s
      buildLists b slot lost l r.2.1 (mset {} acc i r.1) r.2.2
    else buildLists b slot lost l budget acc s

/-- The extent of a list that holds an offset, when it is present and permits the access (R314). -/
def listHit (t : TList) (o : Nat) (store : Bool) : Option Nat :=
  if o < t.cover then
    match t.extents.find? (fun e => decide (e.start ≤ o ∧ o < e.start + e.len)) with
    | some e =>
      if e.present && (if store then e.write else e.read) then some (e.pa + (o - e.start)) else none
    | none => none
  else none

end Sys2Proof.Machine
end

