-- ==== Sys2Proof/Machine/Rows.lean ====
section
/-! DEFINITION. Rows of the Pannier (08): addresses, spares, error marks, arrival counters, and the
range of the task that a core runs. -/

namespace Sys2Proof.Machine

-- ---------------------------------------------------------------- addresses (R216)

/-- The width of the group that holds segment `g` (R241). -/
def groupWidth (grp : BitVec 16) (g : Nat) : Nat := 2 ^ (bits grp (2 * g) 2).toNat

/-- The first segment of the group that holds segment `g`. -/
def groupFirst (grp : BitVec 16) (g : Nat) : Nat := g / groupWidth grp g * groupWidth grp g

/-- A set of width fields that describes aligned groups (R241): every segment of a group has the
group's width. -/
def groupsAligned (grp : BitVec 16) : Bool :=
  (List.range 8).all (fun g => (List.range 8).all (fun h =>
    !decide (groupFirst grp g ≤ h ∧ h < groupFirst grp g + groupWidth grp g) ||
      decide (groupWidth grp h = groupWidth grp g)))

/-- Segment and index of an address row (R216). -/
def rowPlace (grp : BitVec 16) (a : Nat) : Nat × Nat :=
  let g := groupFirst grp (a / 3072)
  let w := groupWidth grp (a / 3072)
  let o := a - 3072 * g
  (g + o % w, o / w)

/-- The spare that serves a working row, if one does (R222). -/
def spareOf (p : Pan) (seg index : Nat) : Option Nat :=
  (List.range 48).find? (fun k =>
    let e := mget 0 p.map (seg * 48 + k)
    e.getLsbD 12 && decide ((bits e 0 12).toNat = index))

/-- The place of a row in the tables of physical rows. -/
def physRow (p : Pan) (seg index : Nat) : Nat :=
  seg * 4096 + match spareOf p seg index with
    | some k => 3072 + k
    | none => index

def addrRow (p : Pan) (a : Nat) : Nat :=
  let x := rowPlace p.group a
  physRow p x.1 x.2

def rowAt (p : Pan) (a : Nat) : Row := mget 0 p.rows (addrRow p a)

/-- The errors of a row that has gained some (R218): a codeword with two is uncorrectable, and an
uncorrectable one shows no correctable error. -/
def eccMerge (a b : RowEcc) : RowEcc :=
  let d := a.double ||| b.double
  { single := (a.single ||| b.single) &&& ~~~d, double := d }

/-- The outcome of a read of a row (R219). -/
def eccKind (e : RowEcc) : Ecc :=
  if e.double ≠ 0 then .double else if e.single ≠ 0 then .single else .clean

/-- The first failing codeword of a read (R241): of the uncorrectable ones where there is one (DESIGN
CHOICE, log 70), else of the correctable ones. -/
def eccFirst (e : RowEcc) : Nat :=
  let m := if e.double ≠ 0 then e.double else e.single
  ((List.range 8).find? (fun j => m.getLsbD j)).getD 0

/-- The errors of an address row (R218). -/
def errAt (p : Pan) (a : Nat) : RowEcc := mget .clean p.errs (addrRow p a)

/-- A row write generates every check bit afresh (R218). -/
def setPhys (p : Pan) (k : Nat) (v : Row) : Pan :=
  { p with rows := mset 0 p.rows k v, errs := mdel p.errs k }

def setRowAt (p : Pan) (a : Nat) (v : Row) : Pan := setPhys p (addrRow p a) v

def eccMax : Ecc → Ecc → Ecc
  | .double, _ => .double
  | _, .double => .double
  | .single, _ => .single
  | _, .single => .single
  | .clean, .clean => .clean

/-- The records of a read of physical row `k` that turns up the errors `e` beside those already there
(R218, R219): the errors stay in the row; the count of the segment, the capture and the event. -/
def noteEcc (p : Pan) (k : Nat) (e : RowEcc) : Pan :=
  let seg := k / 4096
  let idx := k % 4096
  let spare := decide (idx ≥ 3072)
  let f := eccMerge (mget .clean p.errs k) e
  let capture : Word :=
    natAt (if spare then idx - 3072 else idx) 0 ||| natAt seg 12 ||| bitAt spare 15 |||
      natAt (eccFirst f) 16 ||| bitAt (decide (eccKind f = .double)) 19 ||| bitAt true 31
  let p := { p with errs := mset .clean p.errs k f
                    errAddr := if eccKind f = .clean ∨ p.errAddr.getLsbD 31 then p.errAddr else capture }
  match eccKind f with
  | .clean => p
  | .single => { p with ceCnt := mset 0 p.ceCnt seg (satAdd (mget 0 p.ceCnt seg) 1)
                        event := scEvent p.event 1 }
  | .double => { p with event := scEvent p.event 2 }

/-- A read of physical row `k` of core `c` that turns up the errors `e`: its data, its outcome, and the
records (R219). -/
def readPhys (s : State) (c k : Nat) (e : RowEcc) : Row × Ecc × State :=
  let p := (coreOf s c).pan
  let f := eccKind (eccMerge (mget .clean p.errs k) e)
  let s := updPan s c (fun p => noteEcc p k e)
  (mget 0 p.rows k, f, if f = .single then countCore s c 10 1 else s)

/-- A read of address row `a`. -/
def readRow (s : State) (c a : Nat) (e : RowEcc) : Row × Ecc × State :=
  readPhys s c (addrRow (coreOf s c).pan a) e

/-- Reads of address rows by a unit whose command names no errors: each row with an error is recorded
(R219) as far as the first uncorrectable one, and the answer says whether there is one. -/
def senseRows (s : State) (c : Nat) : List Nat → Bool × State
  | [] => (false, s)
  | a :: l =>
    if errAt (coreOf s c).pan a = .clean then senseRows s c l
    else
      let r := readRow s c a .clean
      if r.2.1 = .double then (true, r.2.2) else senseRows r.2.2 c l

-- ---------------------------------------------------------------- service (R235)

def segOn (s : State) (c g : Nat) : Bool := domOn s (13 * c + 5 + g)

def segInService (s : State) (c g : Nat) : Bool :=
  let p := (coreOf s c).pan
  segOn s c g && p.ready.getLsbD g && !p.retired.getLsbD g

/-- The group that holds segment `g` of core `c` is in service. -/
def groupInService (s : State) (c g : Nat) : Bool :=
  let grp := (coreOf s c).pan.group
  (List.range 8).all (fun h =>
    !decide (groupFirst grp g ≤ h ∧ h < groupFirst grp g + groupWidth grp g) || segInService s c h)

/-- The segments that hold address rows `lo` to `hi` (R216): for each group met, the segments of the
rows in it. -/
def segOfRows (grp : BitVec 16) (lo hi g : Nat) : Bool :=
  let f := groupFirst grp g
  let w := groupWidth grp g
  let a := max lo (3072 * f)
  let b := min hi (3072 * (f + w) - 1)
  decide (a ≤ b) && (decide (b - a + 1 ≥ w) ||
    (List.range w).any (fun i => decide (a + i ≤ b) && decide ((rowPlace grp (a + i)).1 = g)))

-- ---------------------------------------------------------------- the task of a core

/-- The context whose task core `c` runs, with the task. -/
def taskOf (s : State) (c : Nat) : Option (Nat × Task) :=
  match (coreOf s c).task with
  | some (x, _) => (ctxOf s x).task.map (fun t => (x, t))
  | none => none

def baseOf (s : State) (c : Nat) : Nat :=
  match taskOf s c with | some (_, t) => t.base | none => 0
def boundOf (s : State) (c : Nat) : Nat :=
  match taskOf s c with | some (_, t) => t.bound | none => 0

/-- The cores of the task that core `c` runs, in task order. -/
def taskCores (s : State) (c : Nat) : List Nat :=
  match taskOf s c with | some (_, t) => t.cores | none => []

/-- A footprint of relative rows inside the task's range (R224). -/
def rowsIn (s : State) (c : Nat) (rows : List Int) : Bool :=
  rows.all (fun r => decide (0 ≤ r ∧ r < boundOf s c))

/-- The same for `n` rows from `r` on, `step` apart: it is enough to look at both ends. -/
def spanIn (bound : Nat) (r step : Int) (n : Nat) : Bool :=
  decide (0 ≤ r ∧ r < bound ∧ 0 ≤ r + (n - 1 : Nat) * step ∧ r + (n - 1 : Nat) * step < bound)

def relRow (s : State) (c r : Nat) : Row := rowAt (coreOf s c).pan (baseOf s c + r)

/-- A write to address row `a` invalidates every line slot filled from it and every kept descriptor
read from it (R149, R179). -/
def noteWrite (k : Core) (a : Nat) : Core :=
  { k with
    cnv := { k.cnv with slots := k.cnv.slots.filter (fun x => !x.rows.contains a)
                        descs := k.cnv.descs.filter (fun x => decide (x ≠ a)) }
    vu := { k.vu with win := k.vu.win.filter (fun x => !x.rows.contains a) } }

/-- A write of a whole address row. -/
def writeRow (s : State) (c a : Nat) (v : Row) : State :=
  updCore s c (fun k => noteWrite { k with pan := setRowAt k.pan a v } a)

def setRelRow (s : State) (c r : Nat) (v : Row) : State := writeRow s c (baseOf s c + r) v

-- ---------------------------------------------------------------- holds (R74, R263, R290, R296)

/-- Rows of a tile (R61, R62): 32 for 8-bit, INT4 elements, 36 for Lattice-4, 64 for 16-bit. -/
def tileRows (f : Fmt) : Nat :=
  if f = 3 then 36 else if f = 6 ∨ f = 7 then 64 else 32

/-- A store or remote write keeps row `i` of its source held until it has read the row. -/
def streamHolds (t : Tag) (r : Nat) : Bool :=
  decide (t.st = .active) && (t.kind == .store || t.kind == .rwrite) &&
    (List.range t.rows).any (fun i =>
      !t.landed.contains i && decide ((t.p0 : Int) + i * t.pstep = (r : Int)))

/-- Whether relative row `r` of core `k` is held (R74). -/
def heldRow (k : Core) (r : Nat) : Bool :=
  k.ta.passes.any (fun p => p.held.contains r) ||
  k.vu.dw.any (fun p => p.held.contains r) ||
  (match k.ta.shadow with
    | some h => decide (h.tile.row ≤ r ∧ r < h.tile.row + tileRows h.tile.fmt)
    | none => false) ||
  k.mem.tags.any (fun e => streamHolds e.2 r) ||
  k.seq.calls.any (fun o => match o with
    | .append _ p count _ _ _ _ =>
      (List.range count).any (fun j =>
        decide ((p.row : Int) + (j / (512 / p.size) : Nat) * p.stride = (r : Int)))
    | .region .. => false)

/-- Whether address row `a` of core `c` is held by the task that the core runs. -/
def heldAddr (s : State) (c a : Nat) : Bool :=
  match taskOf s c with
  | some (_, t) =>
    decide (t.base ≤ a ∧ a < t.base + t.bound) && heldRow (coreOf s c) (a - t.base)
  | none => false

/-- Relative row `r` lies in the protected set (R274). -/
def protectedRow (k : Core) (r : Nat) : Bool :=
  k.seq.prot.any (fun p => decide (p.1 ≤ r ∧ r < p.1 + p.2))

-- ---------------------------------------------------------------- arrival counters (R232)

/-- An addition of `n` to counter `i`. -/
def acAdd (ac : SMap Word) (ovf : DWord) (i n : Nat) : SMap Word × DWord :=
  let v := (mget 0 ac i).toNat + n
  if v > 0xFFFFFFFF then (mset 0 ac i 0xFFFFFFFF, ovf ||| (1#64 <<< i))
  else (mset 0 ac i (BitVec.ofNat 32 v), ovf)

def acInc (s : State) (c i n : Nat) : State :=
  updPan s c (fun p => let r := acAdd p.ac p.ovf i n; { p with ac := r.1, ovf := r.2 })

/-- The core on which task core `t` of context `x` is resident. -/
def residentCore (s : State) (x t : Nat) : Option Nat :=
  (s.cores.find? (fun e => decide (e.2.task = some (x, t)))).map (·.1)

/-- An increment for the resume of task core `t` of context `x` (R234). -/
def acKeep (s : State) (x t i n : Nat) : State :=
  updCtx s x (fun k => { k with acLate := mset [] k.acLate t (mget [] k.acLate t ++ [(i, n)]) })

/-- The context's restart point is a save with FULL (R380). -/
def fullPoint (s : State) (x : Nat) : Bool := match (ctxOf s x).task with
  | some t => t.full
  | none => false

/-- An increment addressed to task core `t` of context `x`: to its counter where it is resident, else kept
for its resume (R234); a context without a task takes none. One that is no result of the interval's work
(`old`) outlives a roll-back, so the restart point has it too (R277, R380). -/
def acIncCtx (s : State) (x t i n : Nat) (old : Bool) : State :=
  match residentCore s x t with
  | some c =>
    let s := acInc s c i n
    if !old then s
    else if fullPoint s x then acKeep s x t i n
    else updSeq s c (fun q =>
      let r := acAdd q.restart.ac q.restart.ovf i n
      { q with restart := { q.restart with ac := r.1, ovf := r.2 } })
  | none => if (ctxOf s x).task.isSome then acKeep s x t i n else s

end Sys2Proof.Machine
end

