-- ==== Sys2Proof/Machine/Lines.lean ====
section
/-! DEFINITION. Stream tags and their lines (09): where a row of a stream lies, how a returned line
reaches the Pannier, and when a tag changes its state. -/

namespace Sys2Proof.Machine

def tagOf (s : State) (c t : Nat) : Tag := mget {} (coreOf s c).mem.tags t
def setTag (s : State) (c t : Nat) (x : Tag) : State :=
  updMem s c (fun m => { m with tags := mset {} m.tags t x })

/-- Pannier row of row `i` of a stream, relative to the base (R261). -/
def tagRow (t : Tag) (i : Nat) : Nat := ((t.p0 : Int) + i * t.pstep).toNat

/-- Virtual address of line `n` of a stream (R261, R263). -/
def tagVa (t : Tag) (n : Nat) : Nat :=
  (t.a0.toNat + (n / 4) * t.astep.toNat + 128 * (n % 4)) % 2 ^ 64

def isLoad (t : Tag) : Bool := t.kind == .load
def isStore (t : Tag) : Bool := t.kind == .store

/-- A counter increment by a row of a stream (R263). -/
def tagCount (s : State) (c : Nat) (t : Tag) : State :=
  match t.ac with
  | some a => acInc s c a.toNat 1
  | none => s

/-- A tag whose rows have all landed goes to DONE (R264). -/
def tagLanded (t : Tag) : Tag :=
  if t.landed.length ≥ t.rows then { t with st := .done, buf := [] } else t

/-- A whole row of a load stands in the buffer: it is written into the Pannier, and counts unless the
work is being rolled back (R263, R277). -/
def landRow (s : State) (c tg i : Nat) (counts : Bool) : State :=
  let t := tagOf s c tg
  let s := setRelRow s c (tagRow t i) (mget 0 t.buf i)
  let s := setTag s c tg (tagLanded { t with landed := i :: t.landed, buf := mdel t.buf i })
  if counts then tagCount s c t else s

/-- A line of a load returns with its data. -/
def lineBack (s : State) (c tg n : Nat) (data : BitVec 1024) (counts : Bool) : State :=
  let t := tagOf s c tg
  let i := n / 4
  let t := { t with back := n :: t.back
                    buf := mset 0 t.buf i (putBits (mget 0 t.buf i) (1024 * (n % 4)) data) }
  let s := setTag s c tg t
  if (List.range 4).all (fun j => t.back.contains (4 * i + j)) then landRow s c tg i counts else s

/-- Whether the return of line `n` completes a row that a hold keeps from being written (R74). -/
def lineHeld (s : State) (c tg n : Nat) : Bool :=
  let t := tagOf s c tg
  let i := n / 4
  (List.range 4).all (fun j => decide (4 * i + j = n) || t.back.contains (4 * i + j)) &&
    heldRow (coreOf s c) (tagRow t i)

def rdLine (m : List Host.Cell) (pa : Nat) : BitVec 1024 := BitVec.ofNat 1024 (rdNat m pa 128)
def wrLine (m : List Host.Cell) (pa : Nat) (d : BitVec 1024) : List Host.Cell :=
  wrNat m pa 128 d.toNat

/-- A line in flight whose data has come, or comes at once: one of memory. -/
def lineHere (s : State) (l : InLine) : Bool := !l.dead && (apertureOf s l.pa.toNat).isNone

def killLines (l : List InLine) : List InLine := l.map (fun x => { x with dead := true })

/-- The aperture lines of stores whose tags are given up, as dead lines (R317). -/
def strayStores (m : MemUnit) : List InLine :=
  let one (tg : Nat) (x : StoreLine) : InLine :=
    { tag := BitVec.ofNat 5 tg, line := x.line, pa := 0, slot := x.slot, epoch := x.epoch, data := 0
      sent := 0, dead := true }
  m.tags.flatMap (fun e => e.2.aperture.map (one e.1)) ++
    m.orphans.flatMap (fun o => o.aperture.map (one o.tag))

/-- Line requests in flight (R263, R281): load lines, and store lines that a peer has not written. -/
def inFlight (m : MemUnit) : Nat :=
  m.lines.length + (strayStores m).length

/-- The lines in flight complete at a roll-back (R277): their data arrives, no increment is made. Lines of an
aperture are the peer's and reach no row any more. -/
def completeLines (s : State) (c : Nat) : State :=
  let s' := ((coreOf s c).mem.lines.filter (lineHere s)).foldl
    (fun s l => lineBack s c l.tag.toNat l.line l.data false) s
  updMem s' c (fun m => { m with
    lines := killLines (m.lines.filter (fun l => l.dead || (apertureOf s l.pa.toNat).isSome)) })

/-- A core that is saved with FULL takes the lines that arrive, but for those that a held row keeps back
(R74, R89). -/
def landLines (s : State) (c : Nat) : State :=
  ((coreOf s c).mem.lines.filter (lineHere s)).foldl (fun s l =>
    if lineHeld s c l.tag.toNat l.line then s
    else lineBack (updMem s c (fun m => { m with lines := m.lines.erase l })) c l.tag.toNat l.line l.data true) s

/-- The response of a line whose stream is gone has come: it is no longer out. -/
def dropDead (m : MemUnit) (tag : TagId) (line : Nat) : MemUnit :=
  { m with lines := m.lines.eraseP (fun l => l.dead && decide (l.tag = tag ∧ l.line = line)) }

/-- Where the lines of context `x` at a link belong once its task has moved from some cores to others. -/
def moveCore (x : Nat) (l : List (Nat × Nat)) (ctx core : Nat) : Nat :=
  if ctx = x then ((l.find? (fun p => decide (p.1 = core))).map (·.2)).getD core else core

/-- A task resumed from a save with FULL has its aperture lines still at the links (R89): they follow it. -/
def moveLines (s : State) (x : Nat) (l : List (Nat × Nat)) : State :=
  let ap (a : ApLine) : ApLine := { a with core := moveCore x l a.ctx a.core }
  let run (r : Run) : Run := match r.lines with
    | [] => r
    | a :: _ => { r with core := moveCore x l a.ctx r.core, lines := r.lines.map ap }
  { s with links := s.links.map (fun e => (e.1, { e.2 with
      apLines := e.2.apLines.map ap
      runs := e.2.runs.map run
      txns := e.2.txns.map (fun t => (t.1, t.2.map (fun y => { y with core := moveCore x l y.ctx y.core }))) })) }

/-- The last lines that a store sent, for its read-back (R264, R327). -/
def portLines (t : Tag) : List SentLine := t.ports.map (·.2)

/-- The last lines of every store of a core that has not been flushed (R327). -/
def unreadLines (m : MemUnit) : List SentLine :=
  (m.tags.filter (fun e => isStore e.2 && (e.2.st == .sent || e.2.st == .active))).flatMap
    (fun e => portLines e.2) ++ m.orphans.flatMap (fun o => o.ports.map (·.2))

/-- Tags after a roll-back or at a restart image: a store still SENT keeps its state, every other tag
is IDLE (R272). -/
def keepSent (tags : SMap Tag) : SMap Tag := tags.filter (fun e => isStore e.2 && e.2.st == .sent)

end Sys2Proof.Machine
end

