-- ==== Sys2Proof/Machine/Save.lean ====
section
/-! DEFINITION. The save area (13, R376 to R380): the bytes that a stopped task leaves there and what a
resume reads back. -/

namespace Sys2Proof.Machine

/-- Writes `n` items, each by `f`. -/
def eachOf {α : Type} (n : Nat) (f : Nat → α → α) (x : α) : α :=
  (List.range n).foldl (fun x i => f i x) x

/-- The table of `f 0` to `f (n - 1)` without its default values. -/
def tabulate {α : Type} [DecidableEq α] (d : α) (n : Nat) (f : Nat → α) : SMap α :=
  ((List.range n).map (fun i => (i, f i))).filter (fun e => !decide (e.2 = d))

/-- Bytes of one task core's block, and of a save area (R377). -/
def blockBytes (l : Nat) : Nat := (794624 + 512 * l + 4095) / 4096 * 4096
def saveBytes (n l : Nat) : Nat := 4096 + n * blockBytes l
def blockAt (base l i : Nat) : Nat := base + 4096 + i * blockBytes l

-- ---------------------------------------------------------------- the restart image (R272)

/-- The image of a core as it stands (R272), issue to go on at bundle `pc`. -/
def imageOf (k : Core) (pc : BitVec 13) (prot pend : List (Nat × Nat)) (ord : Nat) : Restart where
  pc := pc
  s := k.seq.s
  w := k.seq.w
  f := k.seq.f
  loops := k.seq.loops
  ret := k.seq.ret
  ac := k.pan.ac
  ovf := k.pan.ovf
  wale := k.ta.wale
  braid := k.brd
  vu := k.vu.regs
  prot := prot
  pend := pend
  ord := ord
  sent := (keepSent k.mem.tags).map (·.1)

-- ---------------------------------------------------------------- writing

abbrev Bytes := List Host.Cell

def putW (a n v : Nat) (m : Bytes) : Bytes := wrNat m a n v

def wvalWord (w : WVal) : Nat := w.row.toNat + 65536 * w.stride.toNat

/-- LC0 to LC3 (R379): END, remaining count, first body bundle with the active bit and the rank. -/
def putLoop (a : Nat) (loops : List LoopRec) (i : Nat) (m : Bytes) : Bytes :=
  match loops.findIdx? (fun r => decide (r.lc.toNat = i)) with
  | some rank =>
    match loops[rank]? with
    | some r =>
      putW (a + 16 * i) 4 r.fin.toNat (putW (a + 16 * i + 4) 4 r.count.toNat
        (putW (a + 16 * i + 8) 8 (r.first.toNat + 2 ^ 16 + rank * 2 ^ 17) m))
    | none => m
  | none => putW (a + 16 * i) 16 0 m

def putRanges (a : Nat) (l : List (Nat × Nat)) (m : Bytes) : Bytes :=
  eachOf 16 (fun i m =>
    let p := l.getD i (0, 0)
    putW (a + 8 * i) 4 p.1 (putW (a + 8 * i + 4) 4 p.2 m)) m

def putRowStat (a : Nat) (r : RowStat) (m : Bytes) : Bytes :=
  putW a 4 r.a.toNat (putW (a + 4) 4 r.b.toNat (putW (a + 8) 4 r.c.toNat
    (putW (a + 12) 4 r.count.toNat m)))

def putStat (a : Nat) (r : StatRec) (m : Bytes) : Bytes :=
  putW a 512 r.cols.toNat (putW (a + 512) 4 (if r.nanCols then 1 else 0)
    (putW (a + 516) 4 r.tensor.toNat (putW (a + 520) 56 (if r.nanTensor then 1 else 0) m)))

/-- A pending entry in 32 bytes; the order of its fields there is the model's (log 12). -/
def putPend (a : Nat) (p : PendEntry) (m : Bytes) : Bytes :=
  putW a 4 p.out.row (putW (a + 4) 4 (p.out.stride % 2 ^ 32).toNat (putW (a + 8) 4 p.out.size
    (putW (a + 12) 4 p.rows (putW (a + 16) 4 p.fmt.toNat (putW (a + 20) 4 p.first
      (putW (a + 24) 4 p.count (putW (a + 28) 4 1 m)))))))

/-- The Braid state in the layout of R129. -/
def putBraid (a : Nat) (b : Braid) (m : Bytes) : Bytes :=
  let m := eachOf 128 (fun i m => putW (a + 512 * i) 512 (mget 0 b.pstore i).toNat m) m
  let m := eachOf 2048 (fun i m => putRowStat (a + 0x10000 + 16 * i) (mget {} b.rowstat i) m) m
  let m := eachOf 4 (fun i m => putStat (a + 0x18000 + 576 * i) (mget {} b.stat i) m) m
  let m := eachOf 4 (fun i m =>
    let s := mget {} b.slots i
    putW (a + 0x18900 + 64 * i) 48 s.desc.toNat
      (putW (a + 0x18900 + 64 * i + 48) 16 (if s.valid then 1 else 0) m)) m
  let m := eachOf 32 (fun i m =>
    match (mget [] b.pend (i / 8))[i % 8]? with
    | some p => putPend (a + 0x18A00 + 32 * i) p m
    | none => putW (a + 0x18A00 + 32 * i) 32 0 m) m
  putW (a + 0x18E00) 512 0 m

/-- v0 to v31, the query buffer, and the top-k lists when armed (R186, R379). -/
def putVu (a : Nat) (v : VuRegs) (m : Bytes) : Bytes :=
  let m := eachOf 32 (fun i m => putW (a + 0x1A000 + 512 * i) 512 (mget 0 v.v i).toNat m) m
  let m := eachOf 64 (fun i m => putW (a + 0x1E000 + 256 * i) 256 (mget 0 v.q i).toNat m) m
  if v.armed then
    eachOf 16384 (fun i m =>
      let e := (mget [] v.lists (i / 256)).getD (i % 256) (0x80000000, 0xFFFFFFFF)
      putW (a + 0x22000 + 8 * i) 4 e.1.toNat (putW (a + 0x22000 + 8 * i + 4) 4 e.2.toNat m)) m
  else m

/-- A task core's block (R379) from its image; the tags saved are `done` for flushed stores. -/
def putImage (a : Nat) (r : Restart) (m : Bytes) : Bytes :=
  let m := putW a 8 (r.pc.toNat + if r.wale then 2 ^ 16 else 0) m
  let m := eachOf 31 (fun i m => putW (a + 8 + 8 * i) 8 (mget 0 r.s (i + 1)).toNat m) m
  let m := eachOf 16 (fun i m => putW (a + 0x100 + 4 * i) 4 (wvalWord (mget {} r.w i)) m) m
  let m := eachOf 7 (fun i m => putW (a + 0x140 + 64 * i) 64 (mget 0 r.f (i + 1)).toNat m) m
  let m := eachOf 4 (putLoop (a + 0x300) r.loops) m
  let m := eachOf 16 (fun i m => putW (a + 0x340 + 4 * i) 4 (r.ret.getD i 0).toNat m) m
  let m := putW (a + 0x380) 4 r.ret.length m
  let m := eachOf 64 (fun i m => putW (a + 0x388 + 4 * i) 4 (mget 0 r.ac i).toNat m) m
  let m := putW (a + 0x488) 8 r.ovf.toNat m
  let m := eachOf 32 (fun i m => putW (a + 0x490 + i) 1 (if r.sent.contains i then 3 else 0) m) m
  let m := putRanges (a + 0x4C0) r.prot m
  putVu a r.vu (putBraid (a + 0x1000) r.braid m)

/-- A tag's state in a save with FULL (R379). -/
def tagByte (t : Tag) : Nat := match t.st with
  | .idle => 0
  | .active => 1
  | .sent => 2
  | .done => 3

/-- What a save with FULL adds (R380): the tags as they stand, pending LIVE ranges, both banks, rows 0 to
L - 1. -/
def putFull (a l : Nat) (k : Core) (base : Nat) (m : Bytes) : Bytes :=
  let m := eachOf 32 (fun i m => putW (a + 0x490 + i) 1 (tagByte (mget {} k.mem.tags i)) m) m
  let m := putRanges (a + 0x540) k.seq.livePend m
  let m := eachOf 512 (fun i m => putW (a + 0x42000 + 512 * i) 512 (mget 0 k.ta.acc0 i).toNat m) m
  let m := eachOf 512 (fun i m => putW (a + 0x82000 + 512 * i) 512 (mget 0 k.ta.acc1 i).toNat m) m
  eachOf l (fun i m => putW (a + 0xC2000 + 512 * i) 512 (rowAt k.pan (base + i)).toNat m) m

/-- The rows of ranges, written at their places of a block (R369, R379). -/
def putRows (a base : Nat) (p : Pan) (ranges : List (Nat × Nat)) (m : Bytes) : Bytes :=
  ranges.foldl (fun m g => eachOf g.2 (fun i m =>
    putW (a + 0xC2000 + 512 * (g.1 + i)) 512 (rowAt p (base + (g.1 + i))).toNat m) m) m

/-- The header (R378). -/
def putHeader (base ctx n l : Nat) (full : Bool) (ord : Nat) (saved : BitVec 16) (start : DWord)
    (ovr : Nat) (cores : List Nat) (m : Bytes) : Bytes :=
  let m := putW base 4096 0 m
  let m := putW base 4 1 m
  let m := putW (base + 4) 4 ctx m
  let m := putW (base + 8) 4 (n + 32 * l + if full then 2 ^ 21 else 0) m
  let m := putW (base + 0x10) 8 ord m
  let m := putW (base + 0x18) 4 saved.toNat m
  let m := putW (base + 0x20) 8 start.toNat m
  let m := putW (base + 0x28) 8 ovr m
  eachOf 16 (fun i m => putW (base + 0x30 + i) 1 (cores.getD i 0xFF) m) m

-- ---------------------------------------------------------------- reading back

def getN (m : Bytes) (a n : Nat) : Nat := rdNat m a n

def getLoop (m : Bytes) (a i : Nat) : Option (Nat × LoopRec) :=
  let x := getN m (a + 16 * i + 8) 4
  if x / 2 ^ 16 % 2 = 1 then
    some (x / 2 ^ 17 % 4, { lc := BitVec.ofNat 2 i, first := BitVec.ofNat 13 x
                            fin := BitVec.ofNat 13 (getN m (a + 16 * i) 4)
                            count := rd32 m (a + 16 * i + 4) })
  else none

/-- The active loops in order of their start. -/
def getLoops (m : Bytes) (a : Nat) : List LoopRec :=
  let l := (List.range 4).filterMap (getLoop m a)
  (List.range 4).flatMap (fun k => (l.filter (fun e => decide (e.1 = k))).map (·.2))

def getRanges (m : Bytes) (a : Nat) : List (Nat × Nat) :=
  ((List.range 16).map (fun i => (getN m (a + 8 * i) 4, getN m (a + 8 * i + 4) 4))).filter
    (fun p => decide (p.2 ≠ 0))

def getRowStat (m : Bytes) (a : Nat) (uses : Byte) : RowStat where
  a := rd32 m a
  b := rd32 m (a + 4)
  c := rd32 m (a + 8)
  count := rd32 m (a + 12)
  uses := uses

def getStat (m : Bytes) (a : Nat) : StatRec where
  cols := BitVec.ofNat 4096 (getN m a 512)
  nanCols := (rd32 m (a + 512)).getLsbD 0
  tensor := rd32 m (a + 516)
  nanTensor := (rd32 m (a + 520)).getLsbD 0

def getPend (m : Bytes) (a : Nat) : Option PendEntry :=
  if (rd32 m (a + 28)).getLsbD 0 then
    some { out := { row := getN m a 4, stride := (rd32 m (a + 4)).toInt, size := getN m (a + 8) 4 }
           rows := getN m (a + 12) 4, fmt := BitVec.ofNat 4 (getN m (a + 16) 4)
           first := getN m (a + 20) 4, count := getN m (a + 24) 4 }
  else none

def getBraid (m : Bytes) (a : Nat) (uses : SMap Byte) : Braid where
  pstore := tabulate 0 128 (fun i => BitVec.ofNat 4096 (getN m (a + 512 * i) 512))
  rowstat := tabulate {} 2048 (fun i => getRowStat m (a + 0x10000 + 16 * i) (mget 0 uses i))
  stat := tabulate {} 4 (fun i => getStat m (a + 0x18000 + 576 * i))
  slots := tabulate {} 4 (fun i =>
    { valid := (rd32 m (a + 0x18900 + 64 * i + 48)).getLsbD 0
      desc := BitVec.ofNat 384 (getN m (a + 0x18900 + 64 * i) 48) })
  pend := tabulate [] 4 (fun i =>
    (List.range 8).filterMap (fun j => getPend m (a + 0x18A00 + 32 * (8 * i + j))))

def getVu (m : Bytes) (a : Nat) (e : Kept) : VuRegs where
  v := tabulate 0 32 (fun i => BitVec.ofNat 4096 (getN m (a + 0x1A000 + 512 * i) 512))
  q := tabulate 0 64 (fun i => BitVec.ofNat 2048 (getN m (a + 0x1E000 + 256 * i) 256))
  nq := e.nq
  k := e.k
  armed := e.armed
  lists :=
    if e.armed then tabulate [] 64 (fun i =>
      ((List.range 256).map (fun j =>
        let x := a + 0x22000 + 8 * (256 * i + j)
        (rd32 m x, rd32 m (x + 4)))).filter (fun p => !decide (p = (0x80000000, 0xFFFFFFFF))))
    else []

/-- A task core's image as a block holds it; the ordinal is the header's. -/
def getImage (m : Bytes) (a ord : Nat) (full : Bool) (e : Kept) : Restart where
  pc := BitVec.ofNat 13 (getN m a 8)
  s := tabulate 0 32 (fun i => if i = 0 then 0 else rd64 m (a + 8 * i))
  w := tabulate {} 16 (fun i =>
    { row := BitVec.ofNat 16 (getN m (a + 0x100 + 4 * i) 2 % 32768)
      stride := BitVec.ofNat 16 (getN m (a + 0x102 + 4 * i) 2) })
  f := tabulate 0 8 (fun i =>
    if i = 0 then 0 else BitVec.ofNat 512 (getN m (a + 0x140 + 64 * (i - 1)) 64))
  loops := getLoops m (a + 0x300)
  ret := (List.range (min 16 (getN m (a + 0x380) 4))).map
    (fun i => BitVec.ofNat 14 (getN m (a + 0x340 + 4 * i) 4))
  ac := tabulate 0 64 (fun i => rd32 m (a + 0x388 + 4 * i))
  ovf := rd64 m (a + 0x488)
  wale := (rd32 m a).getLsbD 16
  braid := getBraid m (a + 0x1000) e.uses
  vu := getVu m a e
  prot := getRanges m (a + 0x4C0)
  pend := if full then getRanges m (a + 0x540) else []
  ord := ord
  sent := []

/-- What a core keeps beside its block (log 12). -/
def keptOf (r : Restart) : Kept where
  uses := (r.braid.rowstat.map (fun e => (e.1, e.2.uses))).filter (fun e => decide (e.2 ≠ 0))
  nq := r.vu.nq
  k := r.vu.k
  armed := r.vu.armed

/-- Rows of a block put back, each at the new base plus its relative row (R226). -/
def getRows (m : Bytes) (a base : Nat) (ranges : List (Nat × Nat)) (p : Pan) : Pan :=
  ranges.foldl (fun p g => eachOf g.2 (fun i p =>
    setRowAt p (base + (g.1 + i))
      (BitVec.ofNat 4096 (getN m (a + 0xC2000 + 512 * (g.1 + i)) 512))) p) p

/-- A bank of a block (R379). -/
def getBank (m : Bytes) (a : Nat) : SMap Row :=
  tabulate 0 512 (fun i => BitVec.ofNat 4096 (getN m (a + 512 * i) 512))

end Sys2Proof.Machine
end

