-- ==== Sys2Proof/Machine/Contexts.lean ====
section
/-! DEFINITION. Contexts (12): their states, the teardown, and the switching out of a task. -/

namespace Sys2Proof.Machine

-- ---------------------------------------------------------------- states (R336, R337)

def ctxStanding (s : State) (c : Nat) : Bool := (bskOf s (ctxOf s c).basket.toNat).standing

/-- The host is gone for context `c` (R338). -/
def hostGone (s : State) (c : Nat) : Bool := s.cp.detached && !ctxStanding s c

def setState (s : State) (c : Nat) (st : CtxState) : State := updCtx s c (fun k => { k with state := st })

/-- Address of ring slot `i` (R335). -/
def ringAddr (k : Ctx) (i : Word) : Nat :=
  k.ringBase.toNat + 64 * (i.toNat % 2 ^ k.ringLog2.toNat)

/-- Opcode of the command in a ring slot, as memory holds it. -/
def ringOp (s : State) (k : Ctx) (i : Word) : Nat := (rdByte s.mem (ringAddr k i)).toNat

/-- Where a context goes whose command has completed: STOPPED when a STOP is pending, DETACHED when the host
is gone (R337, R338), else IDLE or READY. -/
def toIdle (s : State) (c : Nat) : State :=
  let k := ctxOf s c
  if k.stopPend then setCtx s c { k with state := .stopped, stopPend := false, trail := false }
  else if hostGone s c then setCtx s c { k with state := .detached, trail := false }
  else setState s c (if k.rd = k.wr then .idle else .ready)

/-- Where a context goes that is released from FENCE_WAIT: IDLE, or RUNNING for its next command, in whose
place it enters DETACHED when the host is gone (R337, R338). -/
def fromWait (s : State) (c : Nat) : State :=
  let k := ctxOf s c
  if k.rd = k.wr then setState s c .idle
  else if hostGone s c then setCtx s c { k with state := .detached, trail := false }
  else setState s c .running

-- ---------------------------------------------------------------- cores of a task

/-- A core that has given up its task: no pass, invocation, stream or call is left on it; line requests that
have left stay out until their response (R317, R351). A core that was draining is drained (R84, R92). -/
def coreRelease (k : Core) : Core :=
  { k with
    task := none
    seq := { k.seq with run := .idle, calls := [], wdRun := false, ended := false, prot := [], livePend := [] }
    mem := { k.mem with tags := [], orphans := [], lines := killLines k.mem.lines ++ strayStores k.mem
                        creditWait := false, granted := false, signals := [] }
    ta := { k.ta with passes := [], shadow := none
                      st := if k.ta.st == .draining then .hold else k.ta.st }
    invs := []
    cnv := { k.cnv with wanted := none, filled := none }
    vu := { k.vu with dw := [], wanted := none } }

def releaseCores (s : State) (l : List Nat) : State := l.foldl (fun s c => updCore s c coreRelease) s

def dropBundles (s : State) (l : List Nat) : State :=
  { s with bundles := s.bundles.filter (fun e => !l.contains e.1) }

/-- Occupants by core and region (R368): the context plus one, none where unlisted. -/
def occKey (core region : Nat) : Nat := core * 8 + region
def occOf (s : State) (core region : Nat) : Option Nat :=
  match mget 0 s.cp.occ (occKey core region) with
  | 0 => none
  | n + 1 => some n
def occCode : Option Nat → Nat
  | some c => c + 1
  | none => 0
def setOcc (s : State) (core region : Nat) (o : Option Nat) : State :=
  { s with cp := { s.cp with occ := mset 0 s.cp.occ (occKey core region) (occCode o) } }

/-- A context loses its occupancy on every core (R389). -/
def dropOcc (s : State) (c : Nat) : State :=
  { s with cp := { s.cp with occ := s.cp.occ.filter (fun e => decide (e.2 ≠ c + 1)) } }

-- ---------------------------------------------------------------- teardown (R351)

/-- The handle that a request block names (R197). -/
def blockHandle (b : BitVec 512) : Option Word := if b.getLsbD 5 then some (bits b 96 32) else none

/-- The entry of a handle in the table (R191). -/
def frameOf (s : State) (h : Word) : Option FrameEntry :=
  s.fp.table.find? (fun e => decide (e.handle = h))

def updFrames (s : State) (f : FrameEntry → FrameEntry) : State :=
  { s with fp := { s.fp with table := s.fp.table.map f } }

/-- A command that names a handle completes or is discarded (R193). -/
def dropRef (s : State) (b : BitVec 512) : State :=
  match blockHandle b with
  | some h => updFrames s (fun e => if e.handle = h then { e with refs := e.refs - 1 } else e)
  | none => s

/-- Region commands of a context whose completion no longer counts: all of them, or those issued by its
cores after the YIELD of ordinal `ord` but for the calls `keep` (R277). -/
def muteRegion (ru : Ru) (c : Nat) (ord : Option Nat) (keep : List Nat) : Ru :=
  let f (r : RegionCmd) : RegionCmd :=
    if r.ctx = c then
      match ord, r.src with
      | none, _ => { r with counts := false }
      | some o, .core _ _ _ q => if q = o ∧ !keep.contains r.id then { r with counts := false } else r
      | some _, .ring => r
    else r
  { ru with
    calls := ru.calls.map f
    queue := ru.queue.map (fun e => (e.1, f e.2))
    running := ru.running.map (fun e => (e.1, e.2.map (fun x => { x with cmd := f x.cmd }))) }

/-- What the store holds of a context's command. -/
def dropStoreReq (s : State) (c : Nat) : State :=
  { s with store := { s.store with reqs := mset none s.store.reqs c none } }

/-- The queued Region commands of a context are discarded, with their references (R211). -/
def dropRegion (s : State) (c : Nat) : State :=
  let gone := s.ru.queue.filter (fun e => decide (e.2.ctx = c))
  let s := gone.foldl (fun s e => dropRef (dropRef s e.2.block) e.2.block2) s
  let ru := muteRegion s.ru c none []
  { s with ru := { ru with
      running := ru.running.map (fun e => (e.1, e.2.map (fun x =>
        if x.cmd.ctx = c then { x with cmd := { x.cmd with torn := true } } else x)))
      calls := s.ru.calls.filter (fun r => decide (r.ctx ≠ c))
      queue := s.ru.queue.filter (fun e => decide (e.2.ctx ≠ c)) } }

/-- Fault record memberships of a context are removed. -/
def dropFaults (s : State) (c : Nat) : State :=
  { s with atu := { s.atu with
      faults := s.atu.faults.map (fun e =>
        (e.1, e.2.map (fun f => { f with ctxs := f.ctxs.filter (fun x => decide (x ≠ c)) })))
      pendFault := s.atu.pendFault.filter (fun h => decide (h.ctx ≠ c)) } }

/-- Watch entries that still hold a wait. -/
def keepWaits (w : List (DWord × List FWait)) : List (DWord × List FWait) :=
  w.filter (fun e => !e.2.isEmpty)

/-- Freed watch entries go to the fences of the oldest overflow waits, each with every overflow wait on
that fence (R350); `n` is the most that can be freed. -/
def promoteWaits : Nat → Fu → Fu
  | 0, f => f
  | n + 1, f =>
    if f.watch.length < 512 then
      match f.overflow with
      | [] => f
      | (a, _) :: _ =>
        promoteWaits n { f with
          watch := f.watch ++ [(a, (f.overflow.filter (fun e => decide (e.1 = a))).map (·.2))]
          overflow := f.overflow.filter (fun e => decide (e.1 ≠ a)) }
    else f

/-- The watch-list and overflow waits of a context are removed. -/
def dropWaits (f : Fu) (c : Nat) : Fu :=
  promoteWaits 512 { f with
    reading := f.reading.filter (fun e => decide (e.2.ctx ≠ c))
    watch := keepWaits (f.watch.map (fun e => (e.1, e.2.filter (fun w => decide (w.ctx ≠ c)))))
    overflow := f.overflow.filter (fun e => decide (e.2.ctx ≠ c)) }

/-- The inbound windows that a context owns are closed (R434). -/
def closeWindows (s : State) (c : Nat) : State :=
  { s with links := s.links.map (fun e => (e.1, { e.2 with
      wins := e.2.wins.map (fun w =>
        (w.1, if w.2.owned && decide (w.2.owner.toNat = c) then { w.2 with opened := false }
              else w.2)) })) }

/-- The frame entries whose release context is torn down are armed (R193). -/
def armFrames (s : State) (c : Nat) : State :=
  updFrames s (fun e => if e.relCtx.toNat = c then { e with armed := true } else e)

/-- The failed signals that a teardown makes (R351, step 4): one for each FENCE_SIGNAL from RD to
WR - 1. -/
def failedSignals (s : State) (c : Nat) : List Signal :=
  let k := ctxOf s c
  (List.range ((k.wr - k.rd).toNat)).filterMap (fun i =>
    let a := ringAddr k (k.rd + BitVec.ofNat 32 i)
    let vec (intr : Bool) : Option Nat := if intr then some k.vec.toNat else none
    match (if i = 0 then k.cur else none) with
    | some (.fenceSignal intr _ addr value) =>
      some { src := .teardown c, addr := addr, word := value ||| (1#64 <<< 63), intr := vec intr }
    | some _ => none
    | none =>
      if ctxPhysOk s c a (a + 63) && decide ((rdByte s.mem a).toNat = 4) then
        some { src := .teardown c, addr := rd64 s.mem (a + 8)
               word := rd64 s.mem (a + 16) ||| (1#64 <<< 63)
               intr := vec ((rdByte s.mem (a + 1)).getLsbD 0) }
      else none)

/-- Payload bytes 16 to 23 of a task fault (R354). -/
def faultObj (k : Ctx) (reason : Nat) (core : Option Nat) : DWord :=
  BitVec.ofNat 64 (reason + (match core with | some c => c | none => 0xFF) * 256 +
    k.basket.toNat * 2 ^ 16 + k.rd.toNat * 2 ^ 32)

/-- The states from which a context can be torn down (R337, R352). -/
def canTear (k : Ctx) : Bool :=
  k.valid && !(k.state == .free || k.state == .teardown || k.state == .error)

/-- A failed signal of a teardown of context `c` still stands: with the Fence Unit, or at a link. -/
def tearSignals (s : State) (c : Nat) : Bool :=
  s.fu.signals.any (fun g => decide (g.src = .teardown c)) ||
    s.links.any (fun e => e.2.txns.any (fun t => match t.2 with
      | some x => x.sig.any (fun g => decide (g.src = .teardown c))
      | none => false))

/-- The last steps of a teardown, once its signals have been made: the entry, and ERROR (R351, R337). -/
def endTeardown (s : State) (c : Nat) : State :=
  match (ctxOf s c).ending with
  | none => s
  | some (code, reason, core, detail) =>
    if tearSignals s c then s
    else
      let lost := geqFull s
      let s := post s code srcCp (some c) (faultObj (ctxOf s c) reason core) detail
      let s := trace (count s 258 1) 5 srcCp (some c) 0 (BitVec.ofNat 128 (code + reason * 2 ^ 16))
      updCtx s c (fun k => { k with
        state := .error, code := BitVec.ofNat 8 code, reason := BitVec.ofNat 8 reason
        faultLost := k.faultLost || lost, faultRd := k.rd, ending := none })

/-- The teardown of context `c` (R351): code, reason, the core that recorded the fault, and payload
bytes 24 to 31. It stays in TEARDOWN until its failed signals have been made. -/
def tearDown (s : State) (c code reason : Nat) (core : Option Nat) (detail : DWord) : State :=
  let k := ctxOf s c
  if canTear k then
    let cores := match k.task with | some t => (if t.phase = .running then t.cores else []) | none => []
    let s := dropStoreReq (releaseCores (dropBundles s cores) cores) c
    let s := closeWindows (dropOcc (armFrames (dropFaults (dropRegion s c) c) c) c) c
    let sigs := failedSignals s c
    let s := { s with fu := { dropWaits s.fu c with
                              signals := s.fu.signals.filter (fun g => decide (g.src ≠ .command c))
                                ++ sigs } }
    endTeardown (updCtx s c (fun k => { k with
      state := .teardown, faultLost := false, stopPend := false, trail := false, cur := none
      started := false, finished := false, task := none, unread := [], acLate := [], lateCalls := []
      sappPair := none, lastFault := none, faultReps := 0, withdrawn := false
      ending := some (code, reason, core, detail) })) c
  else s

-- task fault codes (R355)
def tfIllegal : Nat := 1
def tfPannierBound : Nat := 2
def tfConvShape : Nat := 3
def tfRowstat : Nat := 4
def tfNoYield : Nat := 5
def tfPageFault : Nat := 6
def tfAccess : Nat := 7
def tfMemError : Nat := 8
def tfMemPerm : Nat := 9
def tfMemRange : Nat := 10
def tfMemAlign : Nat := 11
def tfAccEcc : Nat := 12
def tfBraidEcc : Nat := 13
def tfVuEcc : Nat := 14
def tfPanEcc : Nat := 15
def tfSeqEcc : Nat := 16
def tfArrivalOvf : Nat := 17
def tfStack : Nat := 18
def tfLiveWrite : Nat := 19
def tfRegionBad : Nat := 20
def tfFenceFailed : Nat := 21
def tfFenceTimeout : Nat := 22
def tfCmdBad : Nat := 23
def tfStoreDenied : Nat := 24
def tfTeardown : Nat := 25

/-- A fault that the command processor finds, with no core and no address. -/
def cmdFault (s : State) (c code reason : Nat) : State := tearDown s c code reason none 0

/-- The context of the task that core `c` runs is torn down, the core having recorded the fault; the
detail is its fault register. -/
def coreFault (s : State) (c code reason : Nat) (reg : Word) : State :=
  match (coreOf s c).task with
  | some (x, _) => tearDown s x code reason (some c) (reg.setWidth 64)
  | none => s

-- ---------------------------------------------------------------- unit fault registers

/-- SEQ_FAULT (R281). -/
def seqFaultReg (code reason slot : Nat) (pc : BitVec 13) : BitVec 23 :=
  BitVec.ofNat 23 (code + reason * 8 + slot * 128 + pc.toNat * 1024)

/-- The CODE field of SEQ_FAULT for a task fault (R281). -/
def seqCode (code : Nat) : Nat :=
  if code = tfIllegal then 1 else if code = tfPannierBound then 2 else if code = tfNoYield then 3
  else if code = tfStack then 4 else if code = tfSeqEcc then 5 else 6

/-- A fault that the sequencer records, of slot `slot` (R279). -/
def seqFault (s : State) (c code reason slot : Nat) : State :=
  let r := seqFaultReg (seqCode code) reason slot (coreOf s c).seq.pc
  coreFault (updSeq s c (fun q => { q with fault := r })) c code reason (r.setWidth 32)

/-- The fault register of the Pannier (R241). -/
def panFault (s : State) (c code reason : Nat) : State :=
  let k := if code = tfPannierBound then 1 else if code = tfPanEcc then 2 else 3
  let r : BitVec 5 := BitVec.ofNat 5 (k + reason * 4)
  coreFault (updPan s c (fun p => { p with fault := r })) c code reason (r.setWidth 32)

/-- The fault register of the memory streams (R281). -/
def memFault (s : State) (c code reason tag desc : Nat) : State :=
  let k := if code = tfIllegal then 1 else if code = tfMemPerm then 2 else if code = tfMemRange then 3
    else 4
  let r : BitVec 18 := BitVec.ofNat 18 (k + reason * 8 + tag * 32 + desc * 1024)
  coreFault (updMem s c (fun m => { m with fault := r })) c code reason (r.setWidth 32)

/-- The fault register of the Braid unit (R132). -/
def brdFaultAt (s : State) (c code reason slot stage : Nat) : State :=
  let k := if code = tfRowstat then 1 else if code = tfBraidEcc then 2 else if code = tfIllegal then 3
    else 4
  let r : BitVec 12 :=
    BitVec.ofNat 12 (slot + stage * 4 + k * 32 + (if code = tfRowstat then reason else 0) * 512)
  coreFault (updCore s c (fun x => { x with brdFault := r })) c code reason (r.setWidth 32)

/-- The fault register of the Vector Unit (R187). -/
def vuFault (s : State) (c code reason : Nat) : State :=
  let k := if code = tfIllegal then 1 else if code = tfConvShape then 2 else if code = tfPannierBound
    then 3 else 4
  let r : BitVec 7 := BitVec.ofNat 7 (k + reason * 8)
  coreFault (updCore s c (fun x => { x with vu := { x.vu with fault := r } })) c code reason
    (r.setWidth 32)

/-- A fault with a physical or virtual address in its entry (R354). -/
def addrFault (s : State) (c code reason : Nat) (core : Option Nat) (addr : Nat) : State :=
  tearDown s c code reason core (BitVec.ofNat 64 addr)

-- ---------------------------------------------------------------- saves (R376, R380)

/-- Task cores and cores of a task, in task order. -/
def taskPairs (t : Task) : List (Nat × Nat) := (List.range t.cores.length).zip t.cores

/-- A core stops: lines in flight complete, at a roll-back without a count; uncommitted work and unfinished
epilogues are discarded (R277). A save with FULL keeps them (R89). -/
def stopCore (full : Bool) (s : State) (c : Nat) : State :=
  if full then landLines s c else completeLines s c

/-- What a save with FULL leaves as it was on a core (R89, R380): its queue is issued again at the resume. -/
def unfinishedOf (k : Core) : Unfinished where
  passes := k.ta.passes.map (fun p => { p with attempts := 0 })
  shadow := k.ta.shadow
  dw := k.vu.dw.map (fun p => { p with attempts := 0 })
  invs := k.invs
  issueNo := k.issueNo
  tags := k.mem.tags
  orphans := k.mem.orphans
  signals := k.mem.signals
  lines := k.mem.lines.filter (fun l => !l.dead)
  nextOrder := k.mem.nextOrder
  calls := k.seq.calls
  atYield := k.seq.run == .atYield
  ended := k.seq.ended

/-- The image that a save of core `c` writes: its restart image, or its live registers for a save with
FULL (R379). -/
def savedImage (k : Core) (full : Bool) : Restart :=
  if full then imageOf k k.seq.pc k.seq.prot k.seq.livePend k.seq.ord else k.seq.restart

/-- The save set of context `c` written to its save area: header, then each core's block (R378 to
R380). -/
def writeSave (s : State) (c : Nat) (t : Task) (full : Bool) : State :=
  let k := ctxOf s c
  let a := k.saveBase.toNat
  let n := t.cores.length
  let saved : BitVec 16 := if full then BitVec.ofNat 16 (2 ^ n - 1) else 0
  let ord := match t.cores with
    | x :: _ => (savedImage (coreOf s x) full).ord
    | [] => 0
  let m := (taskPairs t).foldl (fun m p =>
    let x := coreOf s p.2
    let b := blockAt a t.bound p.1
    let m := putImage b (savedImage x full) m
    if full then putFull b t.bound x t.base m else m) s.mem
  let m := putHeader a c n t.bound full ord saved t.start t.overrun t.cores m
  let kept := (taskPairs t).map (fun p =>
    let x := coreOf s p.2
    (p.1, { keptOf (savedImage x full) with work := if full then unfinishedOf x else {} }))
  let s := { s with mem := m }
  updCtx s c (fun k => { k with
    acLate := []
    task := some { t with phase := .saved, full := full, rowsSaved := saved, kept := kept
                          ordinal := ord, expired := none, preempt := false, lists := []
                          sappSeq := if full then t.sappSeq else 0, sappFull := t.sappSeq } })

/-- A call issued in the interval of ordinal `ord`. -/
def callIn (ord : Nat) : OutCall → Bool
  | .region _ o => o == ord
  | .append _ _ _ _ _ o _ => o == ord

/-- The calls of task core `i` that a save with FULL, the restart point of its task, holds (R380). -/
def fullCalls (t : Task) (i : Nat) : List OutCall := if t.full then (mget {} t.kept i).work.calls else []

/-- The calls of a task's cores that run on across a switch (R271): at a roll-back those of the
discarded interval are dropped (R277). -/
def keepCalls (s : State) (t : Task) (rollback : Bool) : SMap (List OutCall) :=
  (taskPairs t).map (fun p =>
    let q := (coreOf s p.2).seq
    (p.1, if rollback then q.calls.filter (fun o => !callIn q.ord o || (fullCalls t p.1).contains o)
      else q.calls))

/-- The Region commands among the calls that a roll-back keeps. -/
def keptIds (l : SMap (List OutCall)) : List Nat :=
  l.flatMap (fun e => e.2.filterMap (fun o => match o with
    | .region id _ => some id
    | .append .. => none))

/-- A call of task core `i` of context `x`, issued in the interval of ordinal `ord`, is no work of the part
that a roll-back of the task would discard (R277, R380). -/
def callOld (s : State) (x i ord : Nat) (p : OutCall → Bool) : Bool :=
  match residentCore s x i, (ctxOf s x).task with
  | some c, some t => decide ((coreOf s c).seq.ord ≠ ord) || (fullCalls t i).any p
  | _, _ => true

/-- The ordinal of the interval in which a task stands. -/
def taskOrd (s : State) (t : Task) : Nat :=
  match t.cores with
  | c :: _ => (coreOf s c).seq.ord
  | [] => 0

/-- The context leaves its cores (R376, R277): they are stopped, the save set is written, or kept as it
stands while a FULL save is the restart point (R380), and the cores go back to the Basket. A save area
that fails R308 tears the context down (R381). -/
def switchOut (s : State) (c : Nat) (rollback full : Bool) : State :=
  match (ctxOf s c).task with
  | some t =>
    let s := t.cores.foldl (stopCore full) s
    let calls := keepCalls s t rollback
    let s := updCtx s c (fun k => { k with lateCalls := calls })
    let s := if rollback then
        { s with ru := muteRegion s.ru c (some (taskOrd s t)) (keptIds calls) } else s
    let a := (ctxOf s c).saveBase.toNat
    let n := saveBytes t.cores.length t.bound
    if t.full && !full then
      let s := updCtx s c (fun k => { k with task := some { t with
        phase := .saved, expired := none, preempt := false, lists := [], sappSeq := t.sappFull } })
      releaseCores (dropBundles s t.cores) t.cores
    else if ctxPhysOk s c a (a + n - 1) then
      let s := writeSave (takeCredit s (ctxOf s c).basket.toNat (n / 128)) c t full
      releaseCores (dropBundles s t.cores) t.cores
    else addrFault s c tfAccess 2 none a
  | none => s

end Sys2Proof.Machine
end

