-- ==== Sys2Proof/Machine/Operands.lean ====
section
/-! DEFINITION. Weft operands: registers, the placement of rows, and the issue of a bundle (09, 10). -/

namespace Sys2Proof.Machine

-- ---------------------------------------------------------------- registers (R247)

/-- An s register: s0 reads as zero. -/
def sReg (k : Core) (r : SReg) : DWord := if r = 0 then 0 else mget 0 k.seq.s r.toNat

/-- A write of an s register: s0 discards it. -/
def setS (s : State) (c : Nat) (r : SReg) (v : DWord) : State :=
  if r = 0 then s else updSeq s c (fun q => { q with s := mset 0 q.s r.toNat v })

def wReg (k : Core) (w : WReg) : WVal := mget {} k.seq.w w.toNat
def setW (s : State) (c : Nat) (w : WReg) (v : WVal) : State :=
  updSeq s c (fun q => { q with w := mset {} q.w w.toNat v })

/-- ROW [14:0] of a w register. -/
def wRow (v : WVal) : Nat := v.row.toNat % 32768

/-- The register with its ROW advanced, modulo 32,768. -/
def wAdvance (v : WVal) (n : Int) : WVal :=
  { v with row := BitVec.ofNat 16 ((wRow v + n) % 32768).toNat }

/-- A predicate: f0 reads as all ones (R161). -/
def fReg (k : Core) (f : FReg) : BitVec 512 :=
  if f = 0 then BitVec.allOnes 512 else mget 0 k.seq.f f.toNat
def setF (s : State) (c : Nat) (f : FReg) (v : BitVec 512) : State :=
  if f = 0 then s else updSeq s c (fun q => { q with f := mset 0 q.f f.toNat v })

-- ---------------------------------------------------------------- placement (R285)

def placement (v : WVal) (size : Nat) : Placement :=
  { row := wRow v, stride := v.stride.toInt, size := size }

/-- Rows of item `j`: the first relative row, as an integer, and how many. -/
def itemRow (p : Placement) (j : Nat) : Int :=
  if p.size ≤ 512 then p.row + (j / (512 / p.size) : Nat) * p.stride
  else p.row + (j * p.size / 512 : Nat) * p.stride

/-- The relative rows that items 0 to n - 1 occupy. -/
def itemRows (p : Placement) (n : Nat) : List Int :=
  let rows := if p.size ≤ 512 then (n + 512 / p.size - 1) / (512 / p.size) else n * (p.size / 512)
  (List.range rows).map (fun i => (p.row : Int) + i * p.stride)

/-- The relative rows of an item. -/
def rowsOfItem (p : Placement) (j : Nat) : List Int :=
  if p.size ≤ 512 then [itemRow p j]
  else (List.range (p.size / 512)).map (fun (i : Nat) => itemRow p j + i * p.stride)

/-- Byte at which item `j` starts inside its row. -/
def itemByte (p : Placement) (j : Nat) : Nat :=
  if p.size ≤ 512 then j % (512 / p.size) * p.size else 0

/-- The bytes of item `j` as one number, of `p.size` bytes. -/
def itemBits (s : State) (c : Nat) (p : Placement) (j : Nat) : Nat :=
  if p.size ≤ 512 then
    (relRow s c (itemRow p j).toNat).toNat / 2 ^ (8 * itemByte p j) % 2 ^ (8 * p.size)
  else
    (List.range (p.size / 512)).foldr (fun i acc =>
      (relRow s c (itemRow p j + i * p.stride).toNat).toNat + 2 ^ 4096 * acc) 0

-- ---------------------------------------------------------------- slots

/-- What a slot does when its bundle is presented: it waits (a WAIT.T may start a flush meanwhile,
R267), it issues (with the bundle that a branch names), a check of its operands fails with a task
fault, or its execution stops the bundle (an uncorrectable word, a repair hold). A fault and a stop
apply to the state before the bundle (R249). -/
inductive SlotRes where
  | wait (f : State → State)
  | next (s : State) (target : Option Nat)
  | fault (f : State → State)
  | stop (f : State → State)

/-- A presented slot: its core, its place in the order of R249, whether another follows, what the bundle's
words turn out to hold, whether it must be alone (R271), the registers and tags it writes, and
what it does, from the state before the bundle and the state so far. -/
structure SlotInfo where
  core : Nat
  no : Nat
  more : Bool
  ecc : WordEcc
  alone : Bool
  writes : List (Nat × Nat)
  run : State → State → SlotRes

def slotAt (a : At) (no : Nat) (writes : List (Nat × Nat)) (run : State → State → SlotRes) :
    SlotInfo :=
  { core := a.core.toNat, no := no, more := a.more, ecc := a.ecc, alone := false, writes := writes
    run := run }

/-- The keys of the registers that a slot writes (R249), s0 and f0 among them: two slots that name one of
these as their destination write the same register, whatever becomes of the write. -/
def wrS (r : SReg) : List (Nat × Nat) := [(0, r.toNat)]
def wrW (w : WReg) (on : Bool) : List (Nat × Nat) := if on then [(1, w.toNat)] else []
def wrF (f : FReg) : List (Nat × Nat) := [(2, f.toNat)]
def wrTag (t : TagId) : List (Nat × Nat) := [(3, t.toNat)]

def slotCtl : Nat := 0
def slotMem : Nat := 1
def slotTen : Nat := 2
def slotVec : Nat := 3
def slotSyn : Nat := 4

/-- ILLEGAL of a slot, recorded by the sequencer (R279, R289, R301). -/
def illegal (c reason slot : Nat) : SlotRes := .fault (fun s => seqFault s c tfIllegal reason slot)

-- ---------------------------------------------------------------- the bundle

/-- The core issues bundles: it runs a task, is not at a barrier, past END or in repair hold. -/
def canIssue (s : State) (c : Nat) : Bool :=
  let k := coreOf s c
  k.seq.run == .running && !k.seq.ended && k.ta.repairHold.isNone && (taskOf s c).isSome

inductive BundleRes where
  | wait (f : State → State)
  | next (s : State) (target : Option Nat)
  | fault (f : State → State)

/-- What the slots of a bundle give together: what a wait does meanwhile, the first check that fails and the
first execution that stops, each in the order of R249, and otherwise the state after them and the bundle
that a branch names. -/
structure SlotSum where
  waits : Option (State → State) := none
  fault : Option (State → State) := none
  stop : Option (State → State) := none
  cur : State
  target : Option Nat := none

/-- A check that fails, behind those that failed before. -/
def SlotSum.failBy (x : SlotSum) (f : State → State) : SlotSum := { x with fault := x.fault.or (some f) }

/-- One more slot: whether it must be alone, the two-writers check, then what it does itself (R249, R271). -/
def slotStep (old : State) (n : Nat) (seen : List (Nat × Nat)) (i : SlotInfo) (x : SlotSum) : SlotSum :=
  let x := if i.alone && decide (n ≠ 1) then x.failBy (fun s => seqFault s i.core tfIllegal 7 i.no) else x
  let x := if i.writes.any seen.contains then x.failBy (fun s => seqFault s i.core tfIllegal 2 i.no) else x
  match i.run old x.cur with
  | .fault f => x.failBy f
  | .stop f => { x with stop := x.stop.or (some f) }
  | .wait f => { x with waits := x.waits.or (some f) }
  | .next s t => { x with cur := s, target := t.or x.target }

/-- The slots of a bundle in the order of R249; slots out of that order hold it. -/
def sumSlots (old : State) (n : Nat) : List SlotInfo → Nat → List (Nat × Nat) → SlotSum → SlotSum
  | [], _, _, x => x
  | i :: l, place, seen, x =>
    if i.no < place then { x with waits := some id }
    else sumSlots old n l (i.no + 1) (seen ++ i.writes) (slotStep old n seen i x)

/-- A bundle is presented: a slot that waits holds all of it; in the cycle in which it could issue, the first
check that fails decides, then an execution that stops; otherwise every slot has taken effect (R248,
R249). -/
def runSlots (old : State) (l : List SlotInfo) : BundleRes :=
  let x := sumSlots old l.length l 0 [] { cur := old }
  match x.waits, x.fault, x.stop with
  | some f, _, _ => .wait f
  | none, some f, _ => .fault f
  | none, none, some f => .fault f
  | none, none, none => .next x.cur x.target

/-- The loop-back test (R256) at bundle `pc`, the loop started last first: the loops after it and the
next bundle. -/
def loopBack (pc : BitVec 13) : List LoopRec → List LoopRec × Option (BitVec 13)
  | [] => ([], none)
  | r :: l =>
    if r.fin = pc then
      if r.count.toNat > 1 then ({ r with count := r.count - 1 } :: l, some r.first)
      else loopBack pc l
    else let x := loopBack pc l; (r :: x.1, x.2)

/-- The program counter after an issued bundle (R254, R256); bundle 8,192 lies beyond every image. -/
def advance (q : Seq) (target : Option Nat) : Seq :=
  match target with
  | some t => { q with pc := BitVec.ofNat 13 t, pcOver := decide (t ≥ 8192) }
  | none =>
    let x := loopBack q.pc q.loops.reverse
    let t := match x.2 with | some f => f.toNat | none => q.pc.toNat + 1
    { q with loops := x.1.reverse, pc := BitVec.ofNat 13 t, pcOver := decide (t ≥ 8192) }

/-- What the words of a bundle turn out to hold, by all of its slots. -/
def bundleEcc (l : List SlotInfo) : WordEcc :=
  l.foldl (fun e i => { single := e.single ||| i.ecc.single, double := e.double ||| i.ecc.double }) {}

/-- Words of a bundle that needed a correction (R246). -/
def eccCount (e : WordEcc) : Nat := popcount ((e.single &&& ~~~e.double).setWidth 16)

/-- The first slot with bits in an uncorrectable word (DESIGN CHOICE, log 81). -/
def eccSlot (e : WordEcc) : Nat := ((List.range 4).find? (fun i => e.double.getLsbD i)).getD 0

/-- The bundle of core `c` has issued. -/
def issued (s : State) (c : Nat) (l : List SlotInfo) (target : Option Nat) : State :=
  let s := countCore (updSeq s c (fun q => advance q target)) c 1 1
  if l.any (fun i => decide (i.no = slotVec)) then countCore s c 12 1 else s

/-- A fetch beyond the image (R245). -/
def pastImage (s : State) (c : Nat) : Bool :=
  let q := (coreOf s c).seq
  q.pcOver || decide (q.pc.toNat ≥ q.length)

/-- A bundle is fetched: corrections are counted; past the image, or with an uncorrectable word, it is a
fault (R245, R246); otherwise `run` goes on. -/
def fetchBundle (s : State) (c : Nat) (e : WordEcc) (run : State → State) : State :=
  if s.pwr.lostSince.isSome then s
  else if pastImage s c then seqFault s c tfIllegal 3 slotCtl
  else
    let s := updSeq s c (fun q => { q with eccCnt := satAdd q.eccCnt (eccCount e) })
    if e.double ≠ 0 then seqFault s c tfSeqEcc 1 (eccSlot e) else run s

/-- A whole bundle is presented to core `c`. -/
def runBundle (s : State) (c : Nat) (l : List SlotInfo) : State :=
  fetchBundle s c (bundleEcc l) (fun s =>
    match runSlots s l with
    | .wait f => f s
    | .fault f => f s
    | .next s' t => issued s' c l t)

def setOpen (s : State) (c : Nat) (l : List Instr) : State :=
  { s with bundles := mset [] s.bundles c l }

/-- A slot command: with another slot to follow it is kept; the last one presents the bundle. -/
def issueBy (slotOf : Instr → Option SlotInfo) (i : Instr) (s : State) : State :=
  match slotOf i with
  | none => s
  | some x =>
    let l := mget [] s.bundles x.core ++ [i]
    if canIssue s x.core then
      if x.more then setOpen s x.core l
      else runBundle (setOpen s x.core []) x.core (l.filterMap slotOf)
    else setOpen s x.core []

end Sys2Proof.Machine
end

