-- ==== Sys2Proof/Machine/Chain.lean ====
section
/-! DEFINITION. Braid chains (04): the descriptor, its rules, and what each stage computes. -/

namespace Sys2Proof.Machine

-- ---------------------------------------------------------------- the descriptor (R102 to R104)

structure Stage where
  kind : Nat
  ofmt : Fmt
  poff : Nat
  percol : Bool
  mode : Nat
  arg : Nat
deriving DecidableEq, Repr

structure Chain where
  pro : List Stage
  epi : List Stage
  sfmt : Fmt
  link : Bool
deriving DecidableEq, Repr

def stageOf (w : Word) : Stage where
  kind := (bits w 0 4).toNat
  ofmt := bits w 4 4
  poff := (bits w 8 12).toNat
  percol := w.getLsbD 20
  mode := (bits w 21 3).toNat
  arg := (bits w 24 8).toNat

def chainNpro (d : BitVec 384) : Nat := (bits d 0 2).toNat
def chainNepi (d : BitVec 384) : Nat := (bits d 2 4).toNat

def chainStages (d : BitVec 384) (first n : Nat) : List Stage :=
  (List.range n).map (fun i => stageOf (bits d (32 + 32 * (first + i)) 32))

def chainOf (d : BitVec 384) : Chain where
  pro := chainStages d 0 (chainNpro d)
  epi := chainStages d (chainNpro d) (chainNepi d)
  sfmt := bits d 6 4
  link := d.getLsbD 10

/-- A word of the parameter store, at a byte offset that is a multiple of 4. -/
def pWord (b : Braid) (o : Nat) : Word :=
  BitVec.ofNat 32 (elem (mget 0 b.pstore (o / 512)) 32 (o % 512 / 4))

/-- First parameter byte of a stage. -/
def Stage.at (s : Stage) (o : Nat) : Nat := 16 * s.poff + o

def nTotal (b : Braid) (s : Stage) : Nat := (pWord b (s.at 0)).toNat
def linkUses (b : Braid) (s : Stage) : Nat := (pWord b (s.at 4)).toNat

def rowstatOf (c : Chain) : Option Stage := c.epi.find? (fun s => decide (s.kind = 8))
def normOf (c : Chain) : Option Stage := c.epi.find? (fun s => decide (s.kind = 9))

/-- Parameter bytes of a stage (R104) for rows of `width` columns; the M indices of GATHER are those of
the pass. -/
def paramBytes (b : Braid) (c : Chain) (s : Stage) (width m : Nat) : Nat :=
  match s.kind with
  | 2 => 2 * m
  | 3 => 512
  | 4 | 5 | 11 => if s.percol then 4 * width else 4
  | 6 => if s.mode = 1 then 8 else if s.mode = 2 then 2064 else 0
  | 7 => 4
  | 8 => 16
  | 9 => if s.mode = 0 then 16 + 8 * (match rowstatOf c with | some r => nTotal b r | none => 0) else 0
  | _ => 0

-- ---------------------------------------------------------------- R105

def kindPro (k : Nat) : Bool := decide (1 ≤ k ∧ k ≤ 3)
def kindEpi (k : Nat) : Bool := decide (4 ≤ k ∧ k ≤ 13)

/-- A stage whose own word breaks a rule: kind, mode, format codes, POOL2 width. That the residual of
RESID may not be Lattice-4 (ARG 3) is the model's choice (DESIGN CHOICE, log 77): R104 lists no accepted
codes for it. -/
def stageBad (sfmt : Fmt) (s : Stage) : Bool :=
  !(kindPro s.kind || kindEpi s.kind) ||
  !(decide (s.ofmt = 6 ∨ s.ofmt = 8 ∨ s.ofmt = 9 ∨ s.ofmt = 10) || decide (s.ofmt = sfmt)) ||
  (match s.kind with
    | 3 => !decide (s.arg % 16 ≤ 2)
    | 6 => decide (s.mode > 2)
    | 7 => decide (s.arg % 16 ≥ 11 ∨ s.arg % 16 = 3)
    | 8 => decide (s.mode > 1)
    | 9 => decide (s.mode > 2)
    | 11 => decide (s.arg % 16 ≥ 11 ∨ s.arg % 16 = 3) ||
        !(decide (s.ofmt = 8) || decide (s.ofmt.toNat = s.arg % 16))
    | 12 => decide (s.arg = 0 ∨ s.arg > 128)
    | _ => false)

def hasKind (l : List Stage) (k : Nat) : Bool := l.any (fun s => decide (s.kind = k))
def kindCount (l : List Stage) (k : Nat) : Nat := (l.filter (fun s => decide (s.kind = k))).length

/-- Index of the first stage of a list that `p` holds of, counted from `first`. -/
def stageAt (first : Nat) (l : List Stage) (p : Stage → Bool) : Option Nat :=
  (l.findIdx? p).map (fun i => first + i)

/-- The stages of a chain, prologue first, as BRD_FAULT numbers them (R132). -/
def Chain.all (c : Chain) : List Stage := c.pro ++ c.epi

/-- Index of the first stage of a kind. -/
def stageNo (c : Chain) (k : Nat) : Nat := (stageAt 0 c.all (fun s => decide (s.kind = k))).getD 0

/-- The first stage whose kind already stands before it, of the kinds that R104 allows once. -/
def twiceAt : Nat → List Nat → List Stage → Option Nat
  | _, _, [] => none
  | i, seen, s :: l =>
    if [1, 2, 3, 8, 9, 10, 12, 13].contains s.kind && seen.contains s.kind then some i
    else twiceAt (i + 1) (s.kind :: seen) l

/-- A stage whose parameters run past the end of the store. -/
def paramAtEnd (b : Braid) (c : Chain) (width m : Nat) (s : Stage) : Bool :=
  let n := paramBytes b c s width m
  decide (n ≠ 0 ∧ s.at n > 65536)

/-- Stage `i` is at fault where the condition holds. -/
def faultIf (p : Bool) (i : Nat) : Option Nat := if p then some i else none

/-- Every NORM follows the ROWSTAT it needs. -/
def normFollows : List Stage → Bool → Bool → Bool
  | [], _, _ => true
  | s :: l, sum, mx =>
    if s.kind = 8 then normFollows l (sum || decide (s.mode = 0)) (mx || decide (s.mode = 1))
    else if s.kind = 9 then
      (decide (s.mode = 2) || (decide (s.mode = 0) && sum) || (decide (s.mode = 1) && mx)) &&
        normFollows l sum mx
    else normFollows l sum mx

/-- What BSET refuses in a descriptor (R105), in the order of the rule: the stage that BRD_FAULT names,
the first one that breaks the rule, 0 where no stage does (DESIGN CHOICE, log 80). -/
def chainBadAt (b : Braid) (d : BitVec 384) : Option Nat :=
  let c := chainOf d
  let np := c.pro.length
  let pooled := hasKind c.epi 12 || hasKind c.epi 13
  [faultIf (decide (bits d 11 21 ≠ 0) || decide (chainNepi d > 8) ||
      decide (chainNpro d + chainNepi d > 8) || decide (c.sfmt.toNat ≥ 11)) 0,
    stageAt 0 c.all (stageBad c.sfmt),
    stageAt 0 c.pro (fun s => !kindPro s.kind),
    stageAt np c.epi (fun s => !kindEpi s.kind),
    twiceAt 0 [] c.all,
    stageAt 0 c.all (paramAtEnd b c 128 0),
    faultIf (!normFollows c.epi false false) (stageNo c 9),
    faultIf (c.epi.dropLast.any (fun s => decide (s.kind = 13))) (stageNo c 13),
    faultIf (pooled && (hasKind c.epi 8 || hasKind c.epi 9) || (hasKind c.epi 12 && hasKind c.epi 13))
      (stageNo c (if hasKind c.epi 12 then 12 else 13)),
    faultIf (c.link && !c.epi.any (fun s => decide (s.kind = 8 ∧ s.mode = 1))) 0,
    faultIf (c.link && hasKind c.epi 9) (stageNo c 9),
    faultIf (decide (c.sfmt = 3)) 0,
    if c.sfmt = 9 then stageAt 0 c.all (fun s => fmtFloat s.ofmt) else none].findSome? id

def slotChain (b : Braid) (sl : Nat) : Option Chain :=
  let s := mget {} b.slots sl
  if s.valid then some (chainOf s.desc) else none

-- ---------------------------------------------------------------- the exponential (R114)

/-- 2^(j/256) with 200 fraction bits, from the integer 256th root of 2^j. -/
def root256 : Nat → Nat → Nat
  | 0, x => x
  | n + 1, x => root256 n (isqrt x)

/-- T[j], rounded to FP32: `2^j` at 2^(256 * 64), its eight square roots leave 64 fraction bits. -/
def expT (j : Nat) : Fv := rne32 (.fin false (2 * root256 8 (2 ^ j * 2 ^ (256 * 64)) + 1) (-65))

def expTable : Nat → Fv := fun j => if j % 256 = 0 then .fin false (2 ^ (j / 256)) 0 else expT j

def expD (j : Nat) : Fv := rne32 (fvSub (expTable (j + 1)) (expTable j))

/-- The integer part, rounding down, of a finite value. -/
def floorFv : Fv → Int
  | .fin neg m e =>
    let v : Int := if neg then -(m : Int) else m
    if 0 ≤ e then v * (pow2 e : Nat) else v.fdiv (pow2 (-e) : Nat)
  | _ => 0

def fvScale : Fv → Int → Fv
  | .fin n m e, k => .fin n m (e + k)
  | x, _ => x

/-- exp_b of an FP32 argument that is not positive. -/
def expB (z : Fv) : Fv :=
  match z with
  | .nan => .nan
  | .inf _ => .zero
  | _ =>
    let t := rne32 (fvMul z (dec32 0x3FB8AA3B))
    if fvLt t (fvInt (-150)) then .zero
    else
      let i := floorFv t
      let f256 := fvScale (fvSub t (fvInt i)) 8
      let j := floorFv f256
      let g := fvSub f256 (fvInt j)
      let v := rne32 (fvAdd (expTable j.toNat) (rne32 (fvMul (expD j.toNat) g)))
      rne32 (fvScale v i)

-- ---------------------------------------------------------------- elements

/-- Conversion of a number into a stage's OFMT, with its events (R107, R50). -/
def toFmt (f : Fmt) (x : Num) : Nat × NumEv := convNum f x

/-- What the FP32 path receives: floats as they are, integers rounded (R107). -/
def fp32In (f : Fmt) (x : Nat) : Fv := if fmtFloat f then decFloat f x else rne32 (fvInt (decInt f x))

/-- The integer path is taken (R107). -/
def intPath (f : Fmt) (s : Stage) : Bool :=
  fmtInt f && fmtInt s.ofmt &&
    (decide (s.kind = 5 ∨ s.kind = 7 ∨ s.kind = 12 ∨ s.kind = 13 ∨ s.kind = 10) ||
      (decide (s.kind = 6) && decide (s.mode ≤ 1)))

/-- Two's complement addition modulo 2^32. -/
def wrap32 (v : Int) : Int := (BitVec.ofInt 32 v).toInt

/-- The larger of two values: NaN wins, +0 is larger than -0. -/
def fvMax (a b : Fv) : Fv :=
  if a.isNan || b.isNan then .nan
  else if fvLt a b then b
  else if fvLt b a then a
  else match a with
    | .fin true 0 _ => b
    | _ => a

def fvMin (a b : Fv) : Fv :=
  if a.isNan || b.isNan then .nan
  else if fvLt b a then b
  else if fvLt a b then a
  else match a with
    | .fin true 0 _ => a
    | _ => b

def numMax (a b : Num) : Num :=
  match a, b with
  | .int x, .int y => .int (max x y)
  | x, y => .flt (fvMax x.toFv y.toFv)

/-- The ACT table (R110). -/
def actTable (b : Braid) (o : Nat) (x : Fv) : Fv :=
  if x.isNan then .nan
  else
    let p (k : Nat) : Fv := dec32 (pWord b (o + k))
    let u := rne32 (fvMul (rne32 (fvSub x (p 0))) (p 4))
    if u.isNan then .nan
    else
      let u := fvMin (fvMax u .zero) (fvInt 256)
      let i := min (floorFv u).toNat 255
      let f := rne32 (fvSub u (fvInt i))
      rne32 (fvAdd (p (16 + 8 * i)) (rne32 (fvMul (p (20 + 8 * i)) f)))

/-- What a stage reads beside its input: the Braid's store and the residual element. -/
structure StageCtx where
  braid : Braid
  resid : Nat → Nat → Nat

def paramAt (b : Braid) (s : Stage) (n : Nat) : Word := pWord b (s.at (if s.percol then 4 * n else 0))

def addEv (a : List (Nat × NumEv)) : List Nat × NumEv :=
  (a.map (·.1), a.foldl (fun e x => e.add x.2) {})

/-- One element through SCALE, BIAS, ACT, RESID or QUANT: column `n` of result row `j`. A floating-point
residual on the integer path is converted to INT32, saturating, before the addition (DESIGN CHOICE, log
77). -/
def elemStage (x : StageCtx) (s : Stage) (f : Fmt) (j n v : Nat) : Nat × NumEv :=
  let b := x.braid
  if intPath f s then
    let a := decInt f v
    match s.kind with
    | 5 => toFmt s.ofmt (.int (wrap32 (a + (paramAt b s n).toInt)))
    | 6 =>
      if s.mode = 0 then toFmt s.ofmt (.int (max a 0))
      else toFmt s.ofmt (.int (min (max a (pWord b (s.at 0)).toInt) (pWord b (s.at 4)).toInt))
    | 7 =>
      let r := x.resid j n
      let fr := BitVec.ofNat 4 s.arg
      let rv : Int × NumEv := if fmtFloat fr then floatToInt 9 (decFloat fr r) else (decInt fr r, {})
      let o := toFmt s.ofmt (.int (wrap32 (a + rv.1)))
      (o.1, rv.2.add o.2)
    | _ => toFmt s.ofmt (.int a)
  else
    let a := fp32In f v
    match s.kind with
    | 4 => toFmt s.ofmt (.flt (rne32 (fvMul a (dec32 (paramAt b s n)))))
    | 5 => toFmt s.ofmt (.flt (rne32 (fvAdd a (dec32 (paramAt b s n)))))
    | 6 =>
      toFmt s.ofmt (.flt (
        if s.mode = 0 then (if a.isNan then .nan else if fvLt .zero a then a else .zero)
        else if s.mode = 1 then
          (if a.isNan then .nan
            else fvMin (fvMax a (dec32 (pWord b (s.at 0)))) (dec32 (pWord b (s.at 4))))
        else actTable b (s.at 0) a))
    | 7 =>
      let r := fp32In (BitVec.ofNat 4 s.arg) (x.resid j n)
      toFmt s.ofmt (.flt (rne32 (fvAdd a (rne32 (fvMul r (dec32 (pWord b (s.at 0))))))))
    | 11 =>
      let q : Fmt := BitVec.ofNat 4 s.arg
      let y := rne32 (fvMul a (dec32 (paramAt b s n)))
      let r := toFmt q (.flt y)
      if s.ofmt = q then r
      else let w := toFmt s.ofmt (decNum q r.1); (w.1, r.2.add w.2)
    | _ => toFmt s.ofmt (.flt a)

/-- A row through such a stage. -/
def rowStage (x : StageCtx) (s : Stage) (f : Fmt) (j : Nat) (row : List Nat) : List Nat × NumEv :=
  addEv (row.mapIdx (fun n v => elemStage x s f j n v))

-- ---------------------------------------------------------------- POOL2, TWR (R112)

/-- The element-wise maximum of rows, in `f`, then in the stage's OFMT. -/
def poolRows (f ofmt : Fmt) (rows : List (List Nat)) : List Nat × NumEv :=
  match rows with
  | [] => ([], {})
  | r :: l =>
    addEv (r.mapIdx (fun n v =>
      toFmt ofmt (l.foldl (fun a q => numMax a (decNum f (q.getD n 0))) (decNum f v))))

/-- POOL2: `w` is W; a group is 2W rows, and output row j of it joins rows 2j, 2j + 1, W + 2j and
W + 2j + 1. -/
def pool2 (w : Nat) (f ofmt : Fmt) (rows : List (List Nat)) : List (List Nat) × NumEv :=
  let out := (List.range (rows.length / 4)).map (fun i =>
    let g := i / (w / 2)
    let j := i % (w / 2)
    let at_ (k : Nat) : List Nat := rows.getD (2 * w * g + k) []
    poolRows f ofmt [at_ (2 * j), at_ (2 * j + 1), at_ (w + 2 * j), at_ (w + 2 * j + 1)])
  (out.map (·.1), out.foldl (fun e x => e.add x.2) {})

/-- TWR: column n of each block of 128 rows becomes result row n; missing rows give zeros. -/
def twr (rows : List (List Nat)) : List (List Nat) :=
  (List.range ((rows.length + 127) / 128)).flatMap (fun b =>
    (List.range 128).map (fun n =>
      (List.range 128).map (fun i => (rows.getD (128 * b + i) []).getD n 0)))

-- ---------------------------------------------------------------- STAT (R52, R53)

/-- The magnitude that a STAT stage sees, FP32 rounded up; none for NaN. -/
def statMag (f : Fmt) (v : Nat) : Option Fv :=
  match decNum f v with
  | .int a => some (decIeee ieee32 (encIeeeBy upShift ieee32 (.fin false a.natAbs 0)))
  | .flt x => if x.isNan then none else some (rne32 x.abs)

def maxWord (w : Word) (v : Fv) : Word := if fvLt (dec32 w) v then enc32 v else w

def statElem (f : Fmt) (r : StatRec) (n v : Nat) : StatRec :=
  match statMag f v with
  | none => { r with nanCols := true, nanTensor := true }
  | some m =>
    let w := BitVec.ofNat 32 (elem r.cols 32 (n % 128))
    { r with cols := putBits r.cols (32 * (n % 128)) (maxWord w m), tensor := maxWord r.tensor m }

/-- A row through STAT: the record takes it in; the values pass (R53); with more than 128 columns,
column n counts in channel n mod 128 (DESIGN CHOICE, log 15). -/
def statRow (f : Fmt) (r : StatRec) (row : List Nat) : StatRec :=
  (row.mapIdx (fun n v => (n, v))).foldl (fun r x => statElem f r x.1 x.2) r

-- ---------------------------------------------------------------- ROWSTAT, NORM (R116, R117)

/-- ROWSTAT SUM of a row: the entry after it. -/
def sumRow (f : Fmt) (e : RowStat) (row : List Nat) : RowStat :=
  let r := row.foldl (fun (a : Fv × Fv) v =>
    let x := fp32In f v
    (rne32 (fvAdd a.1 x), rne32 (fvAdd a.2 (rne32 (fvMul x x))))) (dec32 e.a, dec32 e.b)
  { e with a := enc32 r.1, b := enc32 r.2, count := e.count + BitVec.ofNat 32 row.length }

def isNegInf : Fv → Bool
  | .inf true => true
  | _ => false

/-- ROWSTAT MAXEXP of a row: the entry after it and the exponentials. -/
def maxExpRow (f : Fmt) (link : Bool) (uses : Nat) (e : RowStat) (row : List Nat) :
    RowStat × List Fv :=
  let xs := row.map (fp32In f)
  let m := dec32 e.a
  let mn := fvMax m (xs.foldl fvMax (.inf true))
  let dead := isNegInf mn
  let c : Fv := if dead then fvInt 1 else if isNegInf m then .zero else expB (rne32 (fvSub m mn))
  let es := xs.map (fun x => if dead then Fv.zero else expB (rne32 (fvSub x mn)))
  let s := match es with
    | [] => Fv.zero
    | a :: l => l.foldl (fun s x => rne32 (fvAdd s x)) a
  let e := { e with
    a := enc32 mn
    b := enc32 (rne32 (fvAdd (rne32 (fvMul (dec32 e.b) c)) s))
    count := e.count + BitVec.ofNat 32 row.length }
  (if link then { e with c := enc32 c, uses := BitVec.ofNat 8 uses } else e, es)

/-- One element through NORM: `k` is the column across the whole row, `n` N_TOTAL. -/
def normElem (b : Braid) (s : Stage) (e : RowStat) (n k : Nat) (x : Fv) : Fv :=
  match s.mode with
  | 0 =>
    let nt := rne32 (fvInt n)
    let mu := rne32 (fvDiv (dec32 e.a) nt)
    let q := rne32 (fvDiv (dec32 e.b) nt)
    let v := rne32 (fvSub q (rne32 (fvMul mu mu)))
    let v := if v.isNan then .nan else if fvLt .zero v then v else .zero
    let rho := rne32 (fvRsqrt (rne32 (fvAdd v (dec32 (pWord b (s.at 0))))))
    let g := dec32 (pWord b (s.at (16 + 4 * k)))
    let bt := dec32 (pWord b (s.at (16 + 4 * n + 4 * k)))
    rne32 (fvAdd (rne32 (fvMul (rne32 (fvMul (rne32 (fvSub x mu)) rho)) g)) bt)
  | 1 => rne32 (fvDiv (expB (rne32 (fvSub x (dec32 e.a)))) (dec32 e.b))
  | _ => if e.b = 0 then .zero else rne32 (fvDiv x (dec32 e.b))

end Sys2Proof.Machine
end

