-- ==== Sys2Proof/Machine/Feeder.lean ====
section
/-! DEFINITION. Convolution descriptors, their checks, the places of feature maps and the line slots of
the feeder (05). -/

namespace Sys2Proof.Machine

-- ---------------------------------------------------------------- feature maps (R133)

/-- Channels of a plane: layout 0 is C32, 1 is C16. -/
def laySize (lay : Nat) : Nat := if lay = 0 then 32 else 16

/-- Pixels of a row, for elements of `e` bytes. -/
def layPixels (lay e : Nat) : Nat := 512 / (laySize lay * e)

/-- Row and bit offset of element (y, x, ch) of a map whose line `y` stands at line position `y`. -/
def mapPlace (lay e base lp pp y x ch : Nat) : Nat × Nat :=
  let gs := laySize lay
  let ppr := layPixels lay e
  (base + ch / gs * pp + y * lp + x / ppr, 8 * ((x % ppr * gs + ch % gs) * e))

-- ---------------------------------------------------------------- the descriptor (R136)

/-- A 32-bit word of a row. -/
def descWord (r : Row) (i : Nat) : Word := BitVec.ofNat 32 (elem r 32 i)

def strideOf (n : Nat) : Nat := 2 ^ n

def convDescOf (r : Row) : ConvDesc :=
  let w (i : Nat) : Word := descWord r i
  let f (i lo n : Nat) : Nat := (bits (w i) lo n).toNat
  { layIn := f 0 0 2, layOut := f 0 2 2, fmtIn := bits (w 0) 4 4, kh := f 0 8 3, kw := f 0 11 3
    sy := strideOf (f 0 14 2), sx := strideOf (f 0 16 2), dy := strideOf (f 0 18 2)
    dx := strideOf (f 0 20 2), edge := (w 0).getLsbD 22, fold := strideOf (f 0 23 2)
    flat := (w 0).getLsbD 25, padT := f 1 0 3, padB := f 1 3 3, padL := f 1 6 3, padR := f 1 9 3
    cin := f 2 0 16, nOut := f 2 16 8, h := f 3 0 16, w := f 3 16 16, yFirst := f 4 0 16
    hHeld := f 4 16 16, inBase := f 5 0 15, inLp := f 6 0 12, outLp := f 6 16 12, inPp := f 7 0 15
    outPp := f 7 16 15 }

/-- The stored activation formats that a descriptor may name. -/
def fmtInOk (f : Fmt) : Bool := decide (f = 0 ∨ f = 1 ∨ f = 4 ∨ f = 5 ∨ f = 6 ∨ f = 7)

/-- A reserved value in a descriptor (R137); the depthwise path ignores the output fields (R175). -/
def descReserved (r : Row) (dw : Bool) : Bool :=
  let d := convDescOf r
  let w (i : Nat) : Word := descWord r i
  decide (d.layIn ≥ 2) || (!dw && decide (d.layOut ≥ 2)) || !fmtInOk d.fmtIn || decide (d.kh = 0 ∨ d.kw = 0) ||
  decide (d.sy = 8 ∨ d.sx = 8) || decide (bits (w 0) 26 6 ≠ 0) || decide (bits (w 1) 12 20 ≠ 0) ||
  decide (d.cin = 0) || (!dw && decide (d.nOut = 0 ∨ d.nOut > 128)) ||
  decide (bits (w 2) 24 8 ≠ 0) ||
  decide (bits (w 5) 15 17 ≠ 0) || decide (bits (w 6) 12 4 ≠ 0 ∨ bits (w 6) 28 4 ≠ 0) ||
  (w 7).getLsbD 15 || (w 7).getLsbD 31

def fmtBytes (f : Fmt) : Nat := fmtBits f / 8

/-- The descriptor as the feeder uses it: a FLAT map is one line (R155). -/
def flatDesc (d : ConvDesc) : ConvDesc :=
  if d.flat then { d with h := 1, w := d.hHeld * d.w, yFirst := 0, hHeld := 1 } else d

/-- Output lines and pixels (R138). -/
def outSize (size pad dil k stride : Nat) : Int :=
  ((size : Int) + pad - dil * (k - 1 : Nat) - 1).fdiv stride + 1

def hOut (d : ConvDesc) : Int := outSize d.h (d.padT + d.padB) d.dy d.kh d.sy
def wOut (d : ConvDesc) : Int := outSize d.w (d.padL + d.padR) d.dx d.kw d.sx

/-- A line of `w` pixels fills whole rows, and takes `lp` of them. -/
def wholeRows (w lp ppr : Nat) : Bool := decide (w % ppr = 0 ∧ lp = w / ppr)

/-- The conditions of FLAT (R155); without an output format there is no output PPR to hold them to. -/
def flatOk (d : ConvDesc) (outE : Option Nat) : Bool :=
  !d.flat ||
  (decide (d.kh = 1 ∧ d.kw = 1 ∧ d.sy = 1 ∧ d.sx = 1 ∧ d.padT = 0 ∧ d.padB = 0 ∧
      d.padL = 0 ∧ d.padR = 0 ∧ d.yFirst = 0 ∧ d.hHeld = d.h) &&
    wholeRows d.w d.inLp (layPixels d.layIn (fmtBytes d.fmtIn)) &&
    (match outE with
      | some e => wholeRows d.w d.outLp (layPixels d.layOut e)
      | none => true))

-- ---------------------------------------------------------------- what a pass reads (R140, R147)

/-- Line y of a pass. -/
def passLine (p : ConvPass) : Int := p.y * p.desc.sy - p.desc.padT + p.ky * p.desc.dy
def passLo (p : ConvPass) : Int := p.x0 * p.desc.sx - p.desc.padL
def passHi (p : ConvPass) (m : Nat) : Int :=
  (p.x0 + m - 1 : Nat) * p.desc.sx - p.desc.padL + p.desc.dx * (p.desc.kw - 1 : Nat)

def clampTo (v : Int) (n : Nat) : Nat := (max 0 (min v (n - 1 : Nat))).toNat

/-- The image line that a pass reads, if it reads one. -/
def sourceLine (d : ConvDesc) (y : Int) : Option Nat :=
  if 0 ≤ y ∧ y < d.h then some y.toNat else if d.edge then some (clampTo y d.h) else none

def lineHeldBy (d : ConvDesc) (y : Nat) : Bool := decide (d.yFirst ≤ y ∧ y < d.yFirst + d.hHeld)

/-- The pixels read of a span, first and last. -/
def sourceSpan (d : ConvDesc) (lo hi : Int) : Option (Nat × Nat) :=
  if d.edge then some (clampTo lo d.w, clampTo hi d.w)
  else if hi < 0 ∨ (d.w : Int) ≤ lo then none
  else some (clampTo lo d.w, clampTo hi d.w)

/-- The relative rows of a line over a span, for channels `c0` to `c1 - 1` (R147). -/
def spanRows (d : ConvDesc) (y : Int) (lo hi : Int) (c0 c1 : Nat) : List Nat :=
  match sourceLine d y, sourceSpan d lo hi with
  | some yy, some (a, b) =>
    let gs := laySize d.layIn
    let ppr := layPixels d.layIn (fmtBytes d.fmtIn)
    let g0 := c0 / gs
    let g1 := (c1 + gs - 1) / gs
    (List.range (g1 - g0)).flatMap (fun g => (List.range (b / ppr - a / ppr + 1)).map (fun i =>
      d.inBase + (g0 + g) * d.inPp + (yy - d.yFirst) * d.inLp + a / ppr + i))
  | _, _ => []

/-- Channels of a pass: the block of K_PASS, cut at C_IN. -/
def passChans (p : ConvPass) (kPass : Nat) : Nat × Nat :=
  (p.b * kPass, min p.desc.cin ((p.b + 1) * kPass))

/-- A tap of the run lies inside the image, or takes an edge pixel of it (R145, R147). -/
def tapInside (p : ConvPass) (m : Nat) : Bool :=
  p.desc.edge || (List.range m).any (fun i => (List.range p.desc.kw).any (fun kx =>
    let x : Int := (p.x0 + i : Nat) * p.desc.sx - p.desc.padL + (kx * p.desc.dx : Nat)
    decide (0 ≤ x ∧ x < p.desc.w)))

/-- The rows of a pass's line over its span; a line that no tap reaches is not read (R145). -/
def convRows (p : ConvPass) (m kPass : Nat) : List Nat :=
  let c := passChans p kPass
  if tapInside p m then spanRows p.desc (passLine p) (passLo p) (passHi p m) c.1 c.2 else []

/-- K position `k` of activation row `m` of a convolution pass (R140, R146). -/
def convElem (s : State) (c : Nat) (p : ConvPass) (kPass m k : Nat) : Nat :=
  let d := p.desc
  let q := kPass / d.fold
  let kx := p.kx0 + k / q
  let ch := k % q + p.b * kPass
  let y := passLine p
  let x : Int := (p.x0 + m : Nat) * d.sx - d.padL + kx * d.dx
  if kx ≥ d.kw ∨ ch ≥ d.cin then 0
  else if (y < 0 ∨ (d.h : Int) ≤ y ∨ x < 0 ∨ (d.w : Int) ≤ x) ∧ !d.edge then 0
  else
    let e := fmtBytes d.fmtIn
    let pl := mapPlace d.layIn e d.inBase d.inLp d.inPp (clampTo y d.h - d.yFirst) (clampTo x d.w) ch
    (relRow s c pl.1).toNat / 2 ^ pl.2 % 2 ^ (8 * e)

-- ---------------------------------------------------------------- where a pass writes (R142, R144)

/-- The relative rows of a run of `m` pixels from `x0` on line `y` of an output map with elements of
`e` bytes: plane, row within the line. -/
def runRows (d : ConvDesc) (base y x0 m e nOut chBase : Nat) : List Nat :=
  let gs := laySize d.layOut
  let ppr := layPixels d.layOut e
  let g0 := chBase / gs
  let g1 := (chBase + nOut + gs - 1) / gs
  (List.range (g1 - g0)).flatMap (fun g =>
    (List.range ((x0 + m - 1) / ppr - x0 / ppr + 1)).map (fun i =>
      base + (g0 + g) * d.outPp + y * d.outLp + x0 / ppr + i))

-- ---------------------------------------------------------------- issue checks (R151)

/-- A fault of the feeder: code 1 ILLEGAL, 2 CONV_SHAPE, 3 PANNIER_BOUND, with its reason. -/
structure CnvBad where
  code : Nat
  reason : Nat
deriving DecidableEq, Repr

def firstBad : List (Bool × Nat × Nat) → Option CnvBad
  | [] => none
  | (b, c, r) :: l => if b then some { code := c, reason := r } else firstBad l

/-- Pixels that a slot holds (R147). -/
def slotPixels (kPass e : Nat) : Nat := 73728 / (kPass * e)

/-- The checks of a convolution pass: `outE` is the element size of the chain that it names, if it
names one, `res` those of its RESIDs, `chainBad` says that its chain or flags are not permitted. -/
def convFault (p : ConvPass) (r : Row) (raw : ConvDesc) (bound m kPass : Nat) (afmt : Fmt)
    (wale chainBad last : Bool) (outE : Option Nat) (res : List Nat) (out aux : Nat) : Option CnvBad :=
  let d := p.desc
  let nb := if d.fold = 1 then (d.cin + kPass - 1) / kPass else 1
  let lo := passLo p
  let hi := passHi p m
  let aligned : Bool := match outE with
    | some e =>
      let ppr := layPixels d.layOut e
      decide (p.x0 % ppr = 0 ∧ ((p.x0 + m) % ppr = 0 ∨ (p.x0 + m : Int) = wOut d))
    | none => true
  let inside (l : List Nat) : Bool := l.all (fun x => decide (x < bound))
  firstBad [
    (descReserved r false, 1, 1),
    (decide ((raw.dy > 1 ∧ raw.sy > 1) ∨ (raw.dx > 1 ∧ raw.sx > 1)), 1, 2),
    (decide (raw.fold > 1 ∧ raw.cin > kPass / raw.fold), 1, 3),
    (!flatOk raw outE, 1, 4),
    (wale, 1, 5),
    (decide (hi - lo + 1 > slotPixels kPass (fmtBytes d.fmtIn)), 1, 6),
    (!aligned, 1, 7),
    (decide (p.ky ≥ d.kh ∨ p.kx0 ≥ d.kw ∨ p.b ≥ nb), 1, 8),
    (decide (d.fmtIn ≠ afmt), 1, 9),
    (chainBad, 1, 10),
    (decide (hOut d ≤ 0 ∨ raw.h = 0), 2, 1),
    (decide (wOut d ≤ 0 ∨ raw.w = 0), 2, 2),
    (decide ((p.y : Int) ≥ hOut d), 2, 3),
    (decide ((p.x0 + m : Int) > wOut d), 2, 4),
    (tapInside p m && (match sourceLine d (passLine p) with
      | some y => !lineHeldBy d y
      | none => false), 2, 5),
    (decide (raw.yFirst + raw.hHeld > raw.h ∨ raw.hHeld = 0), 2, 6),
    (!inside (convRows p m kPass), 3, 2),
    (last && (!(match outE with
        | some e => inside (runRows d out p.y p.x0 m e d.nOut 0)
        | none => true) ||
      !(res.all (fun e => inside (runRows d aux p.y p.x0 m e d.nOut 0)))), 3, 3)]

/-- CNV_FAULT and the task fault of the feeder (R151). -/
def cnvFault (s : State) (c : Nat) (b : CnvBad) : State :=
  let r : BitVec 7 := BitVec.ofNat 7 (b.code + b.reason * 4)
  let code := if b.code = 1 then tfIllegal else if b.code = 2 then tfConvShape else tfPannierBound
  coreFault (updCore s c (fun k => { k with cnv := { k.cnv with fault := r } })) c code b.reason
    (r.setWidth 32)

-- ---------------------------------------------------------------- line slots (R147 to R150)

/-- The line and span that a pass needs, filled from rows that start at `base`. -/
def needOf (base : Nat) (p : ConvPass) (m kPass : Nat) : LineSlot where
  desc := p.desc
  kPass := kPass
  line := passLine p
  block := p.b
  xlo := passLo p
  xhi := passHi p m
  rows := (convRows p m kPass).map (fun r => base + r)

/-- A slot serves a pass (R148): it holds its line, block and descriptor over a range that covers its
span, for passes of the same K positions. -/
def slotCovers (x need : LineSlot) : Bool :=
  decide (x.desc = need.desc ∧ x.kPass = need.kPass ∧ x.line = need.line ∧ x.block = need.block ∧
    x.xlo ≤ need.xlo ∧ need.xhi ≤ x.xhi)

/-- The slot that serves a pass: the one used last. -/
def slotFor (l : List LineSlot) (need : LineSlot) : Option LineSlot := l.find? (fun x => slotCovers x need)

/-- The slot used becomes the first of the list. -/
def useSlot (l : List LineSlot) (need : LineSlot) : List LineSlot :=
  match slotFor l need with
  | some x => x :: l.erase x
  | none => l

/-- Without the last element that `p` holds of; none when every element is kept. -/
def evictSlot (p : LineSlot → Bool) (l : List LineSlot) : Option (List LineSlot) :=
  match l.reverse.find? p with
  | some x => some (l.reverse.erase x).reverse
  | none => none

/-- A slot is filled for `need`: a free one of the seven, else the least recently used one that no pass
holds (R148); none while all are held. -/
def fillSlot (held : LineSlot → Bool) (l : List LineSlot) (need : LineSlot) :
    Option (List LineSlot) :=
  if l.length < 7 then some (need :: l)
  else (evictSlot (fun x => !held x) l).map (fun l => need :: l)

/-- The feeder keeps the last four descriptors that it has read (R135); one that it keeps is not read
again. -/
def keepDesc (l : List Nat) (a : Nat) : List Nat := if l.contains a then l else (a :: l).take 4

/-- A read of these address rows by a unit of core `c`, which stops at an uncorrectable one (R219):
PAN_ECC of the core's task, or what the rest of the work answers. -/
def readRows (s : State) (c : Nat) (rows : List Nat) (f : State → State) : State :=
  let r := senseRows s c rows
  if r.1 then panFault r.2 c tfPanEcc 1 else f r.2

end Sys2Proof.Machine
end

