-- ==== Sys2Proof/Machine/Faults.lean ====
section
/-! DEFINITION. Translation faults and their records (11, R320 to R324). -/

namespace Sys2Proof.Machine

/-- The age at which a request counts as failed, in ticks (R323). -/
def respLimit : Nat := 1000000

/-- A request sent at `sent` can fail in this way now: with an error response at any time, without a response
once its time has passed (R323). -/
def mayFail (s : State) (silent : Bool) (sent : DWord) : Bool :=
  !silent || decide ((now s - sent).toNat ≥ respLimit)

def recOf (s : State) (id : Nat) : Option FaultRec := mget none s.atu.faults id
def setRec (s : State) (id : Nat) (r : Option FaultRec) : State :=
  { s with atu := { s.atu with faults := mset none s.atu.faults id r } }

/-- The open record of a slot and page. -/
def recAt (s : State) (slot : Nat) (page : DWord) : Option Nat :=
  (List.range 64).find? (fun i =>
    match recOf s i with
    | some r => decide (r.slot = slot ∧ r.page = page)
    | none => false)

def freeRec (s : State) : Option Nat := (List.range 64).find? (fun i => (recOf s i).isNone)

/-- The space of a slot sends its page requests to the Forge (R307). -/
def slotForge (s : State) (slot : Nat) : Bool := (spaceOf s slot).forge

/-- Payload bytes 16 to 23 of a PAGE_FAULT request (R354). -/
def recObj (id : Nat) (r : FaultRec) : DWord :=
  r.page ||| BitVec.ofNat 64 (id + (if r.store then 64 else 0) + if r.region then 128 else 0)

/-- Payload bytes 24 to 31 of a PAGE_FAULT request (R354). -/
def recDetail (s : State) (r : FaultRec) : DWord :=
  ((spaceOf s r.slot).id.setWidth 64) ||| (r.cores.setWidth 64 <<< 32)

/-- The contexts of a record are torn down with PAGE_FAULT (R322, R323). -/
def abortCtxs (s : State) (r : FaultRec) : State :=
  r.ctxs.foldl (fun s c => addrFault s c tfPageFault r.reason none r.page.toNat) s

/-- A record treated as ABORT because nobody saw its request (R323): its contexts carry FAULT_LOST. -/
def abortLost (s : State) (r : FaultRec) : State :=
  r.ctxs.foldl (fun s c => updCtx s c (fun k =>
    if k.state = .error ∨ k.state = .teardown then { k with faultLost := true } else k)) (abortCtxs s r)

/-- The host is gone for the space of a slot (R401). -/
def slotAbandoned (s : State) (slot : Nat) : Bool := s.cp.detached && !slotForge s slot

/-- A request to the Forge finds its inbox and the GEQ both full; one to the host finds the GEQ full. -/
def requestLost (s : State) (slot : Nat) : Bool := geqFull s && !(slotForge s slot && inboxRoom s)

/-- A record opens under a free ID with one PAGE_FAULT entry (R321); it is treated as ABORT at once, and stays
free, when the entry is dropped (R323) or the host is gone (R401). -/
def openRec (s : State) (id : Nat) (h : FaultHit) (others : List FaultHit) : State :=
  let all := h :: others
  let r : FaultRec := {
    slot := h.slot, page := h.page, store := all.any (·.store), reason := h.reason
    region := h.region, cores := all.foldl (fun m x => m ||| x.cores) 0
    ctxs := all.map (·.ctx), opened := now s }
  let s := { s with atu := { s.atu with faultCnt := satAdd s.atu.faultCnt 1 } }
  let e := geqEntry s 0x140 srcAtu (some h.ctx) (recObj id r) (recDetail s r) false (slotForge s h.slot)
  let s := all.foldl (fun s x => setState s x.ctx .faultWait) s
  if slotAbandoned s h.slot then abortCtxs s r
  else
    let s' := if slotForge s h.slot then inboxPut s e else geqPut s e
    if requestLost s h.slot then abortLost s' r else setRec s' id (some r)

/-- A fault joins an open record (R321). -/
def joinRec (s : State) (id : Nat) (h : FaultHit) : State :=
  match recOf s id with
  | some r =>
    setState (setRec s id (some { r with
      store := r.store || h.store, cores := r.cores ||| h.cores, ctxs := r.ctxs ++ [h.ctx] }))
      h.ctx .faultWait
  | none => s

/-- The pending faults of a slot and page. -/
def pendingOn (s : State) (slot : Nat) (page : DWord) : List FaultHit :=
  s.atu.pendFault.filter (fun x => decide (x.slot = slot ∧ x.page = page))

/-- Pending faults leave the list; of their contexts those with a STOP pending are stopped, since this is
their transition out of FAULT_PENDING (R337). The others go on to a record. -/
def takePending (s : State) (l : List FaultHit) : List FaultHit × State :=
  let s := { s with atu := { s.atu with pendFault := s.atu.pendFault.filter (fun x => !l.contains x) } }
  (l.filter (fun h => !(ctxOf s h.ctx).stopPend),
    (l.filter (fun h => (ctxOf s h.ctx).stopPend)).foldl (fun s h =>
      updCtx s h.ctx (fun k => { k with state := .stopped, stopPend := false })) s)

/-- A freed ID goes to the context that has waited longest in FAULT_PENDING, with every other pending
context of the same slot and page (R321); while the record it gets is treated as ABORT at once, or its
contexts are all stopped, the next one gets it. `n` is how many can get it. -/
def assignPending : Nat → State → Nat → State
  | 0, s, _ => s
  | n + 1, s, id =>
    match s.atu.pendFault with
    | [] => s
    | h :: _ =>
      let r := takePending s (pendingOn s h.slot h.page)
      match r.1 with
      | [] => assignPending n r.2 id
      | x :: l =>
        let s := openRec r.2 id x l
        if (recOf s id).isNone then assignPending n s id else s

/-- A record becomes free. -/
def closeRec (s : State) (id : Nat) : State :=
  assignPending s.atu.pendFault.length (setRec s id none) id

/-- A page fault of a context (R321): with the repeat limit of R323, the roll-back of R277, and the
record it joins, opens or waits for. -/
def pageFault (s : State) (h : FaultHit) : State :=
  let k := ctxOf s h.ctx
  let key := (h.slot, h.page.toNat)
  let reps := if k.lastFault = some key then k.faultReps + 1 else 1
  let s := updCtx s h.ctx (fun k => { k with lastFault := some key, faultReps := reps })
  if reps ≥ s.atu.retries.toNat then addrFault s h.ctx tfPageFault h.reason none h.page.toNat
  else
    let running : Bool := match k.task with | some t => t.phase == .running | none => false
    let s := if running then switchOut s h.ctx true false else s
    if canTear (ctxOf s h.ctx) then
      match recAt s h.slot h.page with
      | some id => joinRec s id h
      | none =>
        match freeRec s with
        | some id =>
          let r := takePending s (pendingOn s h.slot h.page)
          openRec r.2 id h r.1
        | none =>
          setState { s with atu := { s.atu with pendFault := s.atu.pendFault ++ [h] } }
            h.ctx .faultPending
    else s

/-- A translation of core `c`'s context that does not end in an address (R320): `va` is what was
translated, `pte` says that `va` is a physical address. -/
def pageOf (va : Nat) : DWord := BitVec.ofNat 64 (va / 4096 * 4096)

def xlatFault (s : State) (x : Nat) (core : Option Nat) (va : Nat) (store region : Bool) :
    Xlat → State
  | .ok _ => s
  | .access r => addrFault s x tfAccess r core va
  | .page r =>
    pageFault s {
      ctx := x, slot := (slotOfCtx s x).getD 0, page := pageOf va, store := store, reason := r
      region := region
      cores := match core with | some c => 1#16 <<< c | none => 0 }

end Sys2Proof.Machine
end

