-- ==== Sys2Proof/Machine/Streams.lean ====
section
/-! DEFINITION. The MEM slot and the memory stream engine (09, R259 to R265; 08, R229, R230; 11, R314
to R316, R331). -/

namespace Sys2Proof.Machine

-- ---------------------------------------------------------------- issue

/-- What a store keeps to be flushed when its tag is named again (R264). -/
def orphanOf (tg : Nat) (t : Tag) : List Orphan :=
  if isStore t && t.st == .sent then
    [{ tag := tg, order := t.order, ports := t.ports, aperture := t.aperture, flushPend := t.flushPend }]
  else []

/-- A stream starts on a tag. -/
def startStream (s : State) (c tg : Nat) (x : Tag) : State :=
  updMem s c (fun m => { m with
    tags := mset {} m.tags tg { x with order := m.nextOrder }
    nextOrder := m.nextOrder + 1
    orphans := m.orphans ++ orphanOf tg (mget {} m.tags tg) })

/-- The step between rows: s[RS], or 512 when RS names s0 (R261). -/
def streamStep (k : Core) (rs : SReg) : DWord := if rs = 0 then 512 else sReg k rs

/-- A stream that a MEM slot describes (R261), with the registers as they stood before the bundle. -/
def streamTag (k : Core) (o : StreamOp) (store absolute : Bool) : Tag :=
  let w := wReg k o.w
  let b := if absolute then 0 else (mget {} k.mem.descs o.desc.toNat).base
  { st := .active, kind := if store then .store else .load
    rows := o.nr.toNat + 1, p0 := wRow w, pstep := w.stride.toInt
    a0 := b + sReg k o.ro, astep := streamStep k o.rs
    desc := if absolute then none else some o.desc.toNat
    base := b
    ac := if o.acen then some o.ac else none }

/-- The checks of R262 at orders 1 and 2, then those at orders 3 to 5 with LIVE (R274). -/
def streamFault (s : State) (c : Nat) (o : StreamOp) (store absolute : Bool) :
    Option (State → State) :=
  let k := coreOf s c
  let d := mget {} k.mem.descs o.desc.toNat
  let fault (code reason : Nat) : Option (State → State) :=
    some (fun s => memFault s c code reason o.tag.toNat o.desc.toNat)
  let n := o.nr.toNat
  let off : Int := (sReg k o.ro).toNat
  let step : Int := (streamStep k o.rs).toInt
  let t := streamTag k o store absolute
  if absolute && decide (o.desc ≠ 0) then fault tfIllegal 1
  else if !absolute && decide (o.desc.toNat ≥ k.mem.ndesc) then fault tfIllegal 2
  else if !absolute && !descBaseOk d then fault tfMemPerm 3
  else if !absolute && !store && !d.read then fault tfMemPerm 1
  else if !absolute && store && !d.write then fault tfMemPerm 2
  else if !absolute && !decide (0 ≤ off + n * step ∧ off + 512 ≤ d.length.toNat ∧
      off + n * step + 512 ≤ d.length.toNat) then fault tfMemRange 1
  else if decide (t.a0.toNat % 128 ≠ 0 ∨ (n ≠ 0 ∧ t.astep.toNat % 128 ≠ 0)) then fault tfMemAlign 1
  else if !spanIn (boundOf s c) t.p0 t.pstep (n + 1) then
    some (fun s => panFault s c tfPannierBound 1)
  else if !store && (List.range (n + 1)).any (fun i => protectedRow k (tagRow t i)) then
    some (fun s => seqFault s c tfLiveWrite 1 slotMem)
  else none

/-- The post-increment of a w register (R261). -/
def postInc (s : State) (c : Nat) (w : WReg) (v : WVal) (on : Bool) (n : Int) : State :=
  if on then setW s c w (wAdvance v n) else s

def slotStream (a : At) (o : StreamOp) (store absolute : Bool) : SlotInfo :=
  slotAt a slotMem (wrTag o.tag ++ wrW o.w o.wpi) (fun old cur =>
    let c := a.core.toNat
    let k := coreOf old c
    if (tagOf old c o.tag.toNat).st == .active then .wait id
    else match streamFault old c o store absolute with
      | some f => .fault f
      | none =>
        let v := wReg k o.w
        let s := startStream cur c o.tag.toNat (streamTag k o store absolute)
        .next (postInc s c o.w v o.wpi ((o.nr.toNat + 1 : Nat) * v.stride.toInt)) none)

def slotMld (a : At) (o : StreamOp) : SlotInfo := slotStream a o false false
def slotMst (a : At) (o : StreamOp) : SlotInfo := slotStream a o true false
def slotMlda (a : At) (o : StreamOp) : SlotInfo := slotStream a o false true
def slotMsta (a : At) (o : StreamOp) : SlotInfo := slotStream a o true true

/-- The rows that a remote stream names on the other core (R261). -/
def remoteTag (k : Core) (o : RemoteOp) (write : Bool) : Tag :=
  let w := wReg k o.w
  { st := .active, kind := if write then .rwrite else .rread
    rows := o.nr.toNat + 1, p0 := wRow w, pstep := w.stride.toInt
    ac := some o.ac, rcore := o.core.toNat, rrow := (sReg k o.rd).toNat }

/-- The checks of a remote stream (R229, R242, R274). -/
def remoteFault (s : State) (c : Nat) (o : RemoteOp) (write : Bool) : Option (State → State) :=
  let k := coreOf s c
  let t := remoteTag k o write
  if o.core.toNat ≥ (taskCores s c).length then some (fun s => panFault s c tfPannierBound 2)
  else if !(spanIn (boundOf s c) t.p0 t.pstep t.rows && decide (t.rrow + t.rows ≤ boundOf s c)) then
    some (fun s => panFault s c tfPannierBound 3)
  else if !write && (List.range t.rows).any (fun i => protectedRow k (tagRow t i)) then
    some (fun s => seqFault s c tfLiveWrite 1 slotMem)
  else none

def slotRemote (a : At) (o : RemoteOp) (write : Bool) : SlotInfo :=
  slotAt a slotMem (wrTag o.tag ++ wrW o.w o.wpi) (fun old cur =>
    let c := a.core.toNat
    let k := coreOf old c
    if (tagOf old c o.tag.toNat).st == .active then .wait id
    else match remoteFault old c o write with
      | some f => .fault f
      | none =>
        let v := wReg k o.w
        let s := startStream cur c o.tag.toNat (remoteTag k o write)
        .next (postInc s c o.w v o.wpi ((o.nr.toNat + 1 : Nat) * v.stride.toInt)) none)

def slotRwr (a : At) (o : RemoteOp) : SlotInfo := slotRemote a o true
def slotRrd (a : At) (o : RemoteOp) : SlotInfo := slotRemote a o false

/-- A flush of the store that a tag holds is asked for (R264); of any other tag nothing happens. -/
def flushTag (m : MemUnit) (tg : Nat) : MemUnit :=
  let t := mget {} m.tags tg
  if isStore t && (t.st == .active || t.st == .sent) then
    { m with tags := mset {} m.tags tg { t with flushPend := true } }
  else m

/-- A flush of every store of the core that has not been flushed. -/
def flushAll (m : MemUnit) : MemUnit :=
  let m := (List.range 32).foldl flushTag m
  { m with orphans := m.orphans.map (fun o => { o with flushPend := true }) }

def slotFlush (a : At) (tag : TagId) (all : Bool) : SlotInfo :=
  slotAt a slotMem [] (fun _ cur =>
    .next (updMem cur a.core.toNat (fun m => if all then flushAll m else flushTag m tag.toNat)) none)

-- ---------------------------------------------------------------- credit (R331)

/-- A core that begins to wait for credit, behind those that began in earlier fabric cycles and, within one, in
the order of the round-robin pointer (R331, R12). -/
def joinWaiters (rr c t : Nat) : List (Nat × Nat) → List (Nat × Nat)
  | [] => [(c, t)]
  | (d, u) :: l =>
    if u = t ∧ (c + 16 - rr) % 16 < (d + 16 - rr) % 16 then (c, t) :: (d, u) :: l
    else (d, u) :: joinWaiters rr c t l

/-- The core takes a line's credit, or joins those who wait for one. -/
def lineCredit (s : State) (c b : Nat) : State :=
  let m := (coreOf s c).mem
  let w := bwOf s b
  if m.granted then s
  else if m.creditWait then s
  else if w.credit ≥ 1 ∧ w.waiters = [] then
    updMem (setBw s b { w with credit := w.credit - 1, rr := (c + 1) % 16 }) c
      (fun m => { m with granted := true })
  else
    updMem (setBw s b { w with waiters := joinWaiters w.rr c s.clk.fabCyc w.waiters }) c
      (fun m => { m with creditWait := true })

-- ---------------------------------------------------------------- translation of a line

/-- What became of the translation of a line: an address, a walk to wait for, or a fault. -/
inductive LineX where
  | pa (a : Nat)
  | wait
  | fault (x : Xlat)
deriving DecidableEq, Repr

def setWalk (s : State) (i : Nat) (w : Option Walk) : State :=
  { s with atu := { s.atu with walks := mset none s.atu.walks i w } }

def walkServes (w : Walk) (f : WalkFor) : Bool := w.forLine == f || w.waiting.contains f

/-- A walk of a slot and page, in progress or waiting for a walker, with a line that it is to serve. -/
def joinWalk (slot va : Nat) (f : WalkFor) (w : Walk) : Walk :=
  if w.slot = slot ∧ w.va.toNat / 4096 = va / 4096 ∧ !walkServes w f then
    { w with waiting := w.waiting ++ [f] } else w

/-- A line starts a walk, joins the one of its page, or waits with others, in order of arrival, for one of
the 16 walkers (R311). -/
def startWalk (s : State) (slot va : Nat) (store : Bool) (f : WalkFor) : State :=
  let new : Walk := {
    slot := slot, va := BitVec.ofNat 64 va, store := store, level := 3, table := rootTable (spaceOf s slot)
    forLine := f, waiting := [], pa := s.atu.pa }
  match walkOf s slot va with
  | some (i, w) => setWalk s i (some (joinWalk slot va f w))
  | none =>
    if s.atu.walkQueue.any (fun w => decide (w.slot = slot ∧ w.va.toNat / 4096 = va / 4096)) then
      { s with atu := { s.atu with walkQueue := s.atu.walkQueue.map (joinWalk slot va f) } }
    else match (List.range 16).find? (fun i => (mget none s.atu.walks i).isNone) with
      | some i => setWalk s i (some new)
      | none => { s with atu := { s.atu with walkQueue := s.atu.walkQueue ++ [new] } }

/-- A leaf from the shared TLB, or a walk for it (R316). -/
def sharedXlat (s : State) (slot va : Nat) (store : Bool) (f : WalkFor) (micro : Option Nat) :
    LineX × State :=
  match tlbFind s.atu.stlb slot va with
  | some e =>
    if (leafFault e.pte store).isNone then
      let s := { s with atu := { s.atu with stlb := stlbPut s.atu.stlb e va } }
      let s := match micro with
        | some c => updMem s c (fun m => { m with utlb := utlbPut m.utlb e va })
        | none => s
      match leafXlat s (spaceOf s slot).engine e.pte e.level va store with
      | .ok a => (.pa a, s)
      | x => (.fault x, s)
    else (.wait, startWalk s slot va store f)
  | none =>
    let s' := startWalk s slot va store f
    (.wait, if s' = s then s' else stlbMiss s')

/-- The translation of a line of a stream (R314, R316): through the descriptor's list, rebuilt when it
is empty or stale; through the micro-TLB for an absolute address; else through the shared TLB. -/
def lineXlat (s : State) (c tg n : Nat) (t : Tag) (x : Nat) (k : Task) : LineX × State :=
  let va := tagVa t n
  let store := isStore t
  let f : WalkFor := .line c (BitVec.ofNat 5 tg)
  if s.atu.disable then (.fault (.access 4), s)
  else match slotOfCtx s x with
    | none => (.fault (.access 1), s)
    | some slot =>
      if !canonical va then (.fault (.access 3), s)
      else match t.desc with
        | some d =>
          let l := mget {} k.lists d
          let e := mget {} (coreOf s c).mem.descs d
          let b := (ctxOf s x).basket.toNat
          let r :=
            if l.extents.isEmpty || decide (l.stamp ≠ (coreOf s c).mem.epoch) then
              let r := buildList b (some slot) [] e.base.toNat e.length.toNat 64 64 {} s
              (r.1, updCtx r.2.2 x (fun q => { q with
                task := some { k with lists := mset {} k.lists d r.1 } }))
            else (l, s)
          match listHit r.1 (va - t.base.toNat) store with
          | some a => (.pa a, r.2)
          | none => sharedXlat r.2 slot va store f none
        | none =>
          let m := (coreOf s c).mem
          match tlbFind m.utlb slot va with
          | some e =>
            if (leafFault e.pte store).isNone then
              let s := updMem s c (fun m => { m with utlb := utlbPut m.utlb e va })
              match leafXlat s (spaceOf s slot).engine e.pte e.level va store with
              | .ok a => (.pa a, s)
              | y => (.fault y, s)
            else (.wait, startWalk s slot va store f)
          | none => sharedXlat s slot va store f (some c)

-- ---------------------------------------------------------------- lines

/-- An earlier stream still has a line to this address to send (R265). -/
def lineBlocked (m : MemUnit) (t : Tag) (va : Nat) : Bool :=
  m.tags.any (fun e => e.2.st == .active && (isLoad e.2 || isStore e.2) &&
    decide (e.2.order < t.order) &&
    (List.range (4 * e.2.rows)).any (fun n => decide (e.2.issued ≤ n ∧ tagVa e.2 n = va)))

/-- Lines of a store that the link has not yet taken (R427). -/
def atLink (s : State) (c tg order : Nat) : Bool :=
  s.links.any (fun e => e.2.apLines.any (fun a =>
    a.store && decide (a.core = c ∧ a.ref.tag.toNat = tg ∧ a.ref.order = order)))

/-- A store whose lines have all been accepted goes to SENT (R264). -/
def sentCheck (s : State) (c tg : Nat) : State :=
  let t := tagOf s c tg
  if isStore t && t.st == .active && decide (t.issued ≥ 4 * t.rows) && !atLink s c tg t.order then
    setTag s c tg { t with st := .sent, buf := [] }
  else s

/-- The line request has left: it is counted and the credit used (R281, R331). -/
def lineLeft (s : State) (c tg n : Nat) (t : Tag) : State :=
  let s := setTag s c tg { t with issued := n + 1 }
  let s := updMem s c (fun m => { m with lineCnt := satAdd m.lineCnt 1, granted := false })
  countCore s c 11 1

/-- A load line leaves for `pa`. -/
def sendLoad (s : State) (c tg n : Nat) (t : Tag) (x pa : Nat) : State :=
  let slot := (slotOfCtx s x).getD 0
  let s := lineLeft s c tg n t
  let s := updMem s c (fun m => { m with lines := m.lines ++ [{
    tag := BitVec.ofNat 5 tg, line := n, pa := BitVec.ofNat 64 pa, slot := slot
    epoch := epochOf s slot, data := rdLine s.mem pa, sent := now s }] })
  match apertureOf s pa with
  | some (l, o) => updLink s l (fun k => { k with apLines := k.apLines ++ [{
      ctx := x, core := c, store := false
      ref := { tag := BitVec.ofNat 5 tg, order := t.order, line := n, slot := slot, epoch := epochOf s slot }
      window := o / 2 ^ 30, offset := o % 2 ^ 30, data := 0 }] })
  | none => s

/-- A store line leaves for `pa`: into memory at once, or to the link (R425, log 4). -/
def sendStore (s : State) (c tg n : Nat) (t : Tag) (x pa : Nat) : State :=
  let d : BitVec 1024 := bits (mget 0 t.buf (n / 4)) (1024 * (n % 4)) 1024
  let slot := (slotOfCtx s x).getD 0
  let s := match apertureOf s pa with
    | some (l, o) =>
      let s := lineLeft s c tg n { t with
        aperture := t.aperture ++ [{ line := n, slot := slot, epoch := epochOf s slot }] }
      updLink s l (fun k => { k with apLines := k.apLines ++ [{
        ctx := x, core := c, store := true
        ref := { tag := BitVec.ofNat 5 tg, order := t.order, line := n, slot := slot, epoch := epochOf s slot }
        window := o / 2 ^ 30, offset := o % 2 ^ 30, data := d }] })
    | none =>
      let s := lineLeft s c tg n { t with
        ports := mins t.ports (pa / 128 % 8) { pa := BitVec.ofNat 64 pa, sent := now s } }
      { s with mem := wrLine s.mem pa d }
  sentCheck s c tg

/-- The row of a store is read with its first line: it is released and counts (R263); an
uncorrectable row tears the context down (R219). -/
def storeRow (s : State) (c tg i : Nat) (ecc : RowEcc) : Bool × State :=
  let t := tagOf s c tg
  if t.landed.contains i then (true, s)
  else
    let r := readRow s c (baseOf s c + tagRow t i) ecc
    if r.2.1 = .double then (false, panFault r.2.2 c tfPanEcc 1)
    else
      let s := setTag r.2.2 c tg { t with landed := i :: t.landed, buf := [(i, r.1)] }
      (true, tagCount s c t)

/-- The TLB entries and the list that could serve a line are purged, when a word of them cannot be read: the
line walks (R488). -/
def purgeLine (s : State) (c x slot : Nat) (t : Tag) (va : Nat) : State :=
  let s := { s with atu := { s.atu with stlb := s.atu.stlb.filter (fun e => !tlbHits slot va e) } }
  let s := updMem s c (fun m => { m with utlb := m.utlb.filter (fun e => !tlbHits slot va e) })
  match t.desc with
  | some d => updCtx s x (fun k => { k with task := k.task.map (fun q => { q with lists := mdel q.lists d }) })
  | none => s

/-- What the codes of the ATU's tables tell a line's translation (R488). -/
def lineTables (s : State) (c x : Nat) (t : Tag) (va : Nat) (tecc : Ecc) : State :=
  let s := tableEcc s srcAtu (some x) tecc
  match tecc, slotOfCtx s x with
  | .double, some slot => purgeLine s c x slot t va
  | _, _ => s

/-- LINE_REQUEST_ISSUE: the next line of a tag's stream; `ecc` is what the row of a store turns out to hold,
`tecc` what the tables of the translation do. -/
def lineRequestIssue (core : CoreId) (tag : TagId) (ecc : RowEcc) (tecc : Ecc) (s : State) : State :=
  let c := core.toNat
  let tg := tag.toNat
  let t := tagOf s c tg
  let m := (coreOf s c).mem
  match taskOf s c with
  | none => s
  | some (x, k) =>
    let n := t.issued
    if t.st == .active && (isLoad t || isStore t) && decide (n < 4 * t.rows) &&
        decide (inFlight m < 256) && !lineBlocked m t (tagVa t n) then
      let s := lineCredit s c (ctxOf s x).basket.toNat
      if (coreOf s c).mem.granted then
        let s := lineTables s c x t (tagVa t n) tecc
        let r := lineXlat s c tg n t x ((ctxOf s x).task.getD k)
        match r.1 with
        | .wait => r.2
        | .fault y => xlatFault r.2 x (some c) (tagVa t n) (isStore t) false y
        | .pa a =>
          if isStore t then
            let q := storeRow r.2 c tg (n / 4) ecc
            if q.1 then sendStore q.2 c tg n (tagOf q.2 c tg) x a else q.2
          else sendLoad r.2 c tg n t x a
      else s
    else s

/-- LOAD_LINE_RETURN: a line of a load comes back from memory; one that completes a held row waits, and one
whose stream is gone reaches no row. -/
def loadLineReturn (core : CoreId) (tag : TagId) (line : BitVec 12) (s : State) : State :=
  let c := core.toNat
  match (coreOf s c).mem.lines.find? (fun l => decide (l.tag = tag ∧ l.line = line.toNat)) with
  | none => s
  | some l =>
    let free (s : State) : State := updMem s c (fun m => { m with lines := m.lines.erase l })
    if (apertureOf s l.pa.toNat).isSome then s
    else if l.dead then free s
    else if lineHeld s c tag.toNat line.toNat then s
    else lineBack (free s) c tag.toNat line.toNat l.data true

/-- MEM_ERROR of a context's request (R320, R323): reason 1, or 3 for no response. -/
def respReason : Resp → Nat
  | .ok => 0
  | .error => 1
  | .none => 3

/-- FLUSH_READBACK_DONE: every read-back of a flush has returned; with an aperture line still without its
COMPLETION the flush waits (R427). An error fails it (R264). -/
def flushReadbackDone (core : CoreId) (tag : TagId) (resp : Resp) (s : State) : State :=
  let c := core.toNat
  let m := (coreOf s c).mem
  let fail (ports : SMap SentLine) (s : State) : State :=
    match (coreOf s c).task with
    | some (x, _) => addrFault s x tfMemError (respReason resp) (some c)
        ((ports.map (fun e => e.2.pa.toNat)).headD 0)
    | none => s
  match m.orphans.find? (fun o => decide (o.tag = tag.toNat) && o.flushPend) with
  | some o =>
    if !o.aperture.isEmpty then s
    else if resp = .ok then updMem s c (fun m => { m with orphans := m.orphans.erase o })
    else fail o.ports s
  | none =>
    let t := tagOf s c tag.toNat
    if isStore t && t.st == .sent && t.flushPend && t.aperture.isEmpty then
      if resp = .ok then setTag s c tag.toNat { t with st := .done, flushPend := false, ports := [] }
      else fail t.ports s
    else s

-- ---------------------------------------------------------------- remote rows (R230)

/-- The core on which task core `t` of the task of core `c` stands. -/
def taskCoreAt (s : State) (c t : Nat) : Option Nat := (taskCores s c)[t]?

/-- An earlier stream of a core to the same other core still has a row to bring in the same direction (R229,
R265): rows between two cores stay in order (R16). -/
def remoteBehind (m : MemUnit) (t : Tag) (kind : TagKind) : Bool :=
  m.tags.any (fun e => e.2.st == .active && e.2.kind == kind &&
    decide (e.2.rcore = t.rcore ∧ e.2.order < t.order))

/-- A remote write reads row `i` of its source, which is released with it (R230, R263); none where the row is
uncorrectable, with the state that the read leaves. -/
def rwrRead (s : State) (c tg i : Nat) : Bool × State :=
  let t := tagOf s c tg
  if t.landed.contains i then (true, s)
  else
    let r := readRow s c (baseOf s c + tagRow t i) .clean
    if r.2.1 = .double then (false, r.2.2)
    else (true, setTag r.2.2 c tg { t with landed := i :: t.landed, buf := mset 0 t.buf i r.1 })

/-- Row `i` of a remote write is written at its target, with the increment of the named counter (R230). -/
def rwrLand (s : State) (c tg d i : Nat) : State :=
  let t := tagOf s c tg
  let s := setRelRow s d (t.rrow + i) (mget 0 t.buf i)
  let s := match t.ac with | some a => acInc s d a.toNat 1 | none => s
  let done := decide (i + 1 ≥ t.rows)
  setTag s c tg { t with
    issued := i + 1, st := if done then .done else .active, buf := if done then [] else mdel t.buf i }

/-- REMOTE_ROW_ARRIVAL: the next row of a remote write arrives at its target, behind the rows that the core
sent there earlier (R229, R230): against the target's protected set (R274) and behind its holds. A row whose
way is barred leaves the source free: the next row of the source is read on ahead (R263). -/
def remoteRowArrival (core : CoreId) (tag : TagId) (s : State) : State :=
  let c := core.toNat
  let tg := tag.toNat
  let t := tagOf s c tg
  match taskCoreAt s c t.rcore with
  | none => s
  | some d =>
    if t.st == .active && t.kind == .rwrite && decide (t.issued < t.rows) then
      let i := t.issued
      let barred := remoteBehind (coreOf s c).mem t .rwrite || heldRow (coreOf s d) (t.rrow + i)
      if protectedRow (coreOf s d) (t.rrow + i) && !remoteBehind (coreOf s c).mem t .rwrite then
        seqFault s d tfLiveWrite 2 slotMem
      else
        let n := if barred then t.landed.length else i
        if n ≥ t.rows then s
        else
          let r := rwrRead s c tg n
          if !r.1 then panFault r.2 c tfPanEcc 1
          else if barred then r.2
          else rwrLand r.2 c tg d i
    else s

/-- REMOTE_READ_SERVE: the target reads the next row asked for and sends it back (R230), behind what the core
asked of it, and sent to it, earlier (R16); an uncorrectable row is PAN_ECC of the requesting task (R219). -/
def remoteReadServe (core : CoreId) (tag : TagId) (ecc : RowEcc) (s : State) : State :=
  let c := core.toNat
  let t := tagOf s c tag.toNat
  let m := (coreOf s c).mem
  let unserved (e : Nat × Tag) : Bool :=
    e.2.st == .active && e.2.kind == .rread &&
      decide (e.2.rcore = t.rcore ∧ e.2.order < t.order ∧ e.2.issued < e.2.rows)
  match taskCoreAt s c t.rcore with
  | none => s
  | some d =>
    if t.st == .active && t.kind == .rread && decide (t.issued < t.rows) && !m.tags.any unserved &&
        !remoteBehind m t .rwrite then
      let r := readRow s d (baseOf s d + (t.rrow + t.issued)) ecc
      if r.2.1 = .double then panFault r.2.2 c tfPanEcc 2
      else setTag r.2.2 c tag.toNat { t with issued := t.issued + 1, buf := mset 0 t.buf t.issued r.1 }
    else s

/-- REMOTE_READ_ROW_RETURN: the oldest row on its way back from a core is written at the issuing core
(R230, R16). -/
def remoteReadRowReturn (core : CoreId) (tag : TagId) (s : State) : State :=
  let c := core.toNat
  let t := tagOf s c tag.toNat
  let i := t.landed.length
  if t.st == .active && t.kind == .rread && decide (i < t.issued) &&
      !remoteBehind (coreOf s c).mem t .rread && !heldRow (coreOf s c) (tagRow t i) then
    landRow s c tag.toNat i true
  else s

end Sys2Proof.Machine
end

