-- ==== Sys2Proof/Machine/Sync.lean ====
section
/-! DEFINITION. The synchronisation slot (09, R266 to R274, R278; 08, R233). -/

namespace Sys2Proof.Machine

-- ---------------------------------------------------------------- what has completed (R270)

/-- Whether every earlier instruction of FENCE class `i` has completed on a core (R270, R299). -/
def classDone (k : Core) (i : Nat) : Bool :=
  match i with
  | 0 => k.ta.passes.isEmpty
  | 1 => k.invs.isEmpty
  | 2 => k.vu.dw.isEmpty
  | 3 => k.mem.tags.all (fun e => !(e.2.st == .active && (e.2.kind == .load || e.2.kind == .rread)))
  | 4 => k.mem.tags.all (fun e => !(e.2.st == .active && (e.2.kind == .store || e.2.kind == .rwrite)))
  | 5 => k.seq.calls.isEmpty
  | _ => true

/-- The classes of a mask have all completed. -/
def quiet (k : Core) (mask : Nat) : Bool :=
  (List.range 6).all (fun i => !decide (mask / 2 ^ i % 2 = 1) || classDone k i)

-- ---------------------------------------------------------------- waits

/-- WAIT.AC (R233): ARRIVAL_OVF on a counter with its OVF flag set; else the bundle waits until the
counter holds the count, which it then gives up. -/
def slotWaitAc (a : At) (ac : AcId) (count : BitVec 16) (reg : Bool) : SlotInfo :=
  slotAt a slotSyn [] (fun old cur =>
    let c := a.core.toNat
    let k := coreOf old c
    if reg && decide (count.toNat ≥ 32) then illegal c 1 slotSyn
    else if k.pan.ovf.getLsbD ac.toNat then .fault (fun s => panFault s c tfArrivalOvf 1)
    else
      let n : Nat := if reg then ((sReg k (BitVec.ofNat 5 count.toNat)).setWidth 32).toNat else count.toNat
      if (mget 0 k.pan.ac ac.toNat).toNat < n then .wait id
      else .next (updPan cur c (fun p => { p with
        ac := mset 0 p.ac ac.toNat (mget 0 p.ac ac.toNat - BitVec.ofNat 32 n) })) none)

/-- Whether WAIT.T proceeds on a tag (R267). -/
def tagPasses (m : MemUnit) (f : Bool) (tg : Nat) : Bool :=
  let t := mget {} m.tags tg
  if f then t.st == .idle || t.st == .done else !(t.st == .active)

/-- WAIT.T on a list of tags; with F set it asks for the flushes itself while it waits. -/
def waitTags (c : Nat) (k : Core) (f : Bool) (tags : List Nat) (cur : State) : SlotRes :=
  if tags.all (tagPasses k.mem f) then .next cur none
  else .wait (fun s => if f then updMem s c (fun m => tags.foldl flushTag m) else s)

def slotWaitT (a : At) (tag : TagId) (f : Bool) : SlotInfo :=
  slotAt a slotSyn [] (fun old cur =>
    waitTags a.core.toNat (coreOf old a.core.toNat) f [tag.toNat] cur)

def slotWaitTm (a : At) (rs : SReg) (f : Bool) : SlotInfo :=
  slotAt a slotSyn [] (fun old cur =>
    let k := coreOf old a.core.toNat
    let m := sReg k rs
    waitTags a.core.toNat k f ((List.range 32).filter (fun i => m.getLsbD i)) cur)

-- ---------------------------------------------------------------- signals (R268)

def slotAcsig (a : At) (ac : AcId) (core : BitVec 4) (count : BitVec 12) : SlotInfo :=
  slotAt a slotSyn [] (fun old cur =>
    let c := a.core.toNat
    if count = 0 ∨ core.toNat ≥ (taskCores old c).length then illegal c 6 slotSyn
    else .next (updMem cur c (fun m => { m with signals := m.signals ++ [{
      core := core.toNat, ac := ac, count := count.toNat
      order := (coreOf old c).mem.nextOrder }] })) none)

/-- Every earlier-issued remote write to the signal's core is DONE. -/
def sigReady (m : MemUnit) (g : AcSig) : Bool :=
  m.tags.all (fun e => !(e.2.st == .active && e.2.kind == .rwrite &&
    decide (e.2.rcore = g.core ∧ e.2.order < g.order)))

/-- An increment reaches its counter. -/
def deliver (s : State) (c : Nat) (g : AcSig) : State :=
  match taskCoreAt s c g.core with
  | some d => acInc s d g.ac.toNat g.count
  | none => s

/-- ACSIG_DELIVERY: the oldest signal of a core that may be sent reaches the target's counter. -/
def acsigDelivery (core : CoreId) (s : State) : State :=
  let c := core.toNat
  let m := (coreOf s c).mem
  match m.signals.find? (sigReady m) with
  | some g => deliver (updMem s c (fun m => { m with signals := m.signals.erase g })) c g
  | none => s

/-- Every signal of a core reaches its counter; at a barrier no remote write is left. -/
def deliverAll (s : State) (c : Nat) : State :=
  let l := (coreOf s c).mem.signals
  l.foldl (fun s g => deliver s c g) (updMem s c (fun m => { m with signals := [] }))

-- ---------------------------------------------------------------- YIELD, LIVE, FENCE

/-- YIELD (R271): alone in its bundle; it drains as FENCE 0b011111 does, then stands at the barrier,
untimed (R278). -/
def slotYield (a : At) : SlotInfo :=
  { slotAt a slotSyn [] (fun old cur =>
      if quiet (coreOf old a.core.toNat) 0b011111 then
        .next (updSeq cur a.core.toNat (fun q => { q with run := .atYield, wdRun := false })) none
      else .wait id) with alone := true }

/-- LIVE (R273): relative rows s[RA] to s[RA] + s[RB] - 1, both unsigned, the sum formed exactly. -/
def slotLive (a : At) (ra rb : SReg) : SlotInfo :=
  slotAt a slotSyn [] (fun old cur =>
    let c := a.core.toNat
    let k := coreOf old c
    let r := (sReg k ra).toNat
    let n := (sReg k rb).toNat
    if n = 0 then .next cur none
    else if k.seq.livePend.length ≥ 16 then illegal c 5 slotSyn
    else if r + n > boundOf old c then .fault (fun s => seqFault s c tfPannierBound 1 slotSyn)
    else .next (updSeq cur c (fun q => { q with livePend := q.livePend ++ [(r, n)] })) none)

def slotLiveClr (a : At) : SlotInfo :=
  slotAt a slotSyn [] (fun _ cur =>
    .next (updSeq cur a.core.toNat (fun q => { q with livePend := [] })) none)

def slotFence (a : At) (mask : BitVec 6) : SlotInfo :=
  slotAt a slotSyn [] (fun old cur =>
    if quiet (coreOf old a.core.toNat) mask.toNat then .next cur none else .wait id)

/-- NO_YIELD (R278): a tile watchdog at 20,000 ticks. -/
def noYield (core : CoreId) (s : State) : State :=
  let q := (coreOf s core.toNat).seq
  if q.wdRun && decide (q.watchdog ≥ 20000) && (coreOf s core.toNat).ta.repairHold.isNone then
    seqFault s core.toNat tfNoYield 1 slotCtl
  else s

end Sys2Proof.Machine
end

