-- ==== Sys2Proof/Machine/Braid.lean ====
section
/-! DEFINITION. The Braid unit at work (04; 10, R285, R286, R293, R294): epilogues, deferred
normalisation, and the Braid instructions. -/

namespace Sys2Proof.Machine

-- ---------------------------------------------------------------- banks

def bankOf (k : Core) (bank : Bool) : SMap Row := if bank then k.ta.acc1 else k.ta.acc0
def bankRow (k : Core) (bank : Bool) (r : Nat) : Row := mget 0 (bankOf k bank) r

/-- The key of a bank row in the table of errors: acc1 from 512 on. -/
def bankKey (bank : Bool) (r : Nat) : Nat := if bank then 512 + r else r

/-- A write of a bank row, which also ends an error in it (R72). -/
def setBankRow (s : State) (c : Nat) (bank : Bool) (r : Nat) (v : Row) : State :=
  updTa s c (fun t =>
    let t := { t with accErrs := mdel t.accErrs (bankKey bank r) }
    if bank then { t with acc1 := mset 0 t.acc1 r v } else { t with acc0 := mset 0 t.acc0 r v })

/-- Errors that turn up in bank rows: they stay until the row is written (R72). -/
def noteBank (e : BankEcc) (t : Ta) : Ta :=
  e.foldl (fun t x =>
    let k := x.1.toNat
    let v : Ecc := match x.2, mget .clean t.accErrs k with
      | .clean, y => y
      | .single, .double => .double
      | y, _ => y
    { t with accErrs := mset .clean t.accErrs k v }) t

/-- A read of bank rows (R72): each row with a correctable error is reported; the answer says whether one
is uncorrectable. -/
def readBank (s : State) (c : Nat) : List Nat → Bool × State
  | [] => (false, s)
  | k :: l =>
    match mget .clean (coreOf s c).ta.accErrs k with
    | .clean => readBank s c l
    | .single => readBank (updTa s c (fun t => { t with event := scEvent t.event 32 })) c l
    | .double => (true, s)

/-- Bank rows of a pass: four a row in Wale mode (R67). -/
def passSpan (p : Pass) : Nat := if p.wale then 4 * p.m else p.m
def dwSpan (p : DwPass) : Nat := if fmtBits p.afmt = 8 then 2 * p.m else p.m

/-- Two spans of bank rows have a row in common. -/
def spansMeet (bank b : Bool) (lo hi l h : Nat) : Bool := bank == b && decide (l < hi ∧ lo < h)

/-- An uncommitted pass issued before `no` writes one of the bank rows `lo` to `hi - 1` (R73). -/
def writesBefore (k : Core) (no : Nat) (bank : Bool) (lo hi : Nat) : Bool :=
  k.ta.passes.any (fun p => decide (p.no < no) && spansMeet bank p.bank lo hi p.a0 (p.a0 + passSpan p)) ||
  k.vu.dw.any (fun p => decide (p.no < no) && spansMeet bank p.bank lo hi p.a0 (p.a0 + dwSpan p))

/-- The first bank row that an invocation has still to read; a depthwise one, which joins two bank rows,
counts as reading all of its rows. -/
def Invocation.next (i : Invocation) : Nat :=
  let m := i.rows.length
  if i.wide then i.lo + 4 * i.taken else if i.hi - i.lo = m then i.lo + i.taken else i.lo

/-- An invocation issued before `no` has still to read one of these bank rows (R73, R118). -/
def readsBefore (k : Core) (no : Nat) (bank : Bool) (lo hi : Nat) : Bool :=
  k.invs.any (fun i => decide (i.no < no ∧ i.taken < i.rows.length) &&
    spansMeet bank i.bank lo hi i.next i.hi)

/-- An uncommitted pass writes one of the bank rows (R73). -/
def bankPending (k : Core) (bank : Bool) (lo hi : Nat) : Bool := writesBefore k k.issueNo bank lo hi

/-- A write that is issued now has to wait for these bank rows (R73): for the commits and for the reads
that were issued before it. -/
def bankInUse (k : Core) (bank : Bool) (lo hi : Nat) : Bool :=
  bankPending k bank lo hi || readsBefore k k.issueNo bank lo hi

/-- An invocation of slot `sl` has not finished: an epilogue, or a pass that names the slot (R99). -/
def slotBusy (k : Core) (sl : BitVec 2) : Bool :=
  k.invs.any (fun i => decide (i.slot = sl)) ||
  k.ta.passes.any (fun p => decide (p.chain = some sl)) ||
  k.vu.dw.any (fun p => decide (p.chain = some sl))

def anyBusy (k : Core) : Bool :=
  !k.invs.isEmpty || k.ta.passes.any (fun p => p.chain.isSome) ||
    k.vu.dw.any (fun p => p.chain.isSome)

def statEntry (b : Braid) (sl : Nat) (i : Nat) : RowStat := mget {} b.rowstat (512 * sl + i)
def setEntry (b : Braid) (sl i : Nat) (e : RowStat) : Braid :=
  { b with rowstat := mset {} b.rowstat (512 * sl + i) e }

-- ---------------------------------------------------------------- result rows (R285, R286)

/-- The bytes of result rows of `w` elements. -/
def rowSize (w : Nat) (f : Fmt) : Nat := (w * fmtBits f + 7) / 8

/-- How the results of an invocation lie in Pannier rows: how many rows they make, and for each its number
relative to the base, how many result rows must have passed the chain before it is whole, and its bytes
from the result rows; positions that no result reaches are zero (R286). -/
structure PanPlan where
  count : Nat
  addr : Nat → Nat
  need : Nat → Nat
  data : Nat → List (List Nat) → Row

/-- Results placed by R285, `total` of them. -/
def placedPlan (p : Placement) (wbits total : Nat) : PanPlan :=
  if p.size ≤ 512 then
    let n := 512 / p.size
    { count := (total + n - 1) / n
      addr := fun q => ((p.row : Int) + q * p.stride).toNat
      need := fun q => min total (n * (q + 1))
      data := fun q rows =>
        BitVec.ofNat 4096 (packNat (8 * p.size) (((rows.drop (n * q)).take n).map (packNat wbits))) }
  else
    let k := p.size / 512
    { count := total * k
      addr := fun q => (itemRow p (q / k) + (q % k : Nat) * p.stride).toNat
      need := fun q => q / k + 1
      data := fun q rows =>
        BitVec.ofNat 4096 (packNat wbits (rows.getD (q / k) []) / 2 ^ (4096 * (q % k))) }

/-- A run of `total` pixels of a feature map (R142): whole rows, zeros past the channels and past the
run. -/
def mapPlan (d : ConvDesc) (base y x0 nOut : Nat) (f : Fmt) (total : Nat) : PanPlan :=
  let e := fmtBytes f
  let gs := laySize d.layOut
  let ppr := layPixels d.layOut e
  let planes := (nOut + gs - 1) / gs
  { count := ((x0 + total - 1) / ppr - x0 / ppr + 1) * planes
    addr := fun q => base + q % planes * d.outPp + y * d.outLp + x0 / ppr + q / planes
    need := fun q => min total ((x0 / ppr + q / planes + 1) * ppr - x0)
    data := fun q rows =>
      let xs := (x0 / ppr + q / planes) * ppr
      packRow (8 * e) ((List.range (ppr * gs)).map (fun j =>
        let ch := q % planes * gs + j % gs
        if ch < nOut ∧ x0 ≤ xs + j / gs then (rows.getD (xs + j / gs - x0) []).getD ch 0 else 0)) }

/-- The residual element of result row `j`, column `n` (R111, R144). -/
def residElem (s : State) (c : Nat) (i : Invocation) (f : Fmt) (w j n : Nat) : Nat :=
  match i.target with
  | .placed =>
    let p : Placement := { i.aux with size := rowSize w f }
    itemBits s c p j / 2 ^ (fmtBits f * n) % 2 ^ fmtBits f
  | .map d y x0 chBase _ =>
    let pl := mapPlace d.layOut (fmtBytes f) i.aux.row d.outLp d.outPp y (x0 + j) (chBase + n)
    (relRow s c pl.1).toNat / 2 ^ pl.2 % 2 ^ fmtBits f

-- ---------------------------------------------------------------- the epilogue

/-- Rows on their way through a chain; `base` is the number of the first of them. -/
structure EpiSt where
  braid : Braid
  base : Nat
  rows : List (List Nat)
  fmt : Fmt
  ev : NumEv

def convRow (ofmt f : Fmt) (row : List Nat) : List Nat × NumEv :=
  addEv (row.map (fun v => toFmt ofmt (decNum f v)))

def mapEv (l : List (List Nat × NumEv)) (e : NumEv) : List (List Nat) × NumEv :=
  (l.map (·.1), l.foldl (fun e x => e.add x.2) e)

/-- A row as the FP32 path hands it on (R107). -/
def fltRow (ofmt f : Fmt) (row : List Nat) : List Nat × NumEv :=
  addEv (row.map (fun v => toFmt ofmt (.flt (fp32In f v))))

/-- ROWSTAT over rows, each with its own entry. -/
def rowstatStage (c : Chain) (sl first : Nat) (s : Stage) (st : EpiSt) : EpiSt :=
  let uses := linkUses st.braid s
  let r := (st.rows.zipIdx).foldl (fun (a : Braid × List (List Nat × NumEv)) x =>
    let j := first + st.base + x.2
    let e := statEntry a.1 sl j
    if s.mode = 0 then (setEntry a.1 sl j (sumRow st.fmt e x.1), a.2 ++ [fltRow s.ofmt st.fmt x.1])
    else
      let q := maxExpRow st.fmt c.link uses e x.1
      (setEntry a.1 sl j q.1,
        a.2 ++ [addEv (q.2.map (fun v => toFmt s.ofmt (.flt v)))])) (st.braid, [])
  let o := mapEv r.2 st.ev
  { st with braid := r.1, rows := o.1, fmt := s.ofmt, ev := o.2 }

/-- NORM over rows; `before` is COUNT before the tile, by row, `src` the slot whose entries serve. -/
def normStage (c : Chain) (src first : Nat) (before : List Nat) (s : Stage) (st : EpiSt) : EpiSt :=
  let n := match rowstatOf c with | some r => nTotal st.braid r | none => 0
  let o := mapEv ((st.rows.zipIdx).map (fun x =>
    let e := statEntry st.braid src (first + st.base + x.2)
    addEv (x.1.mapIdx (fun i v =>
      toFmt s.ofmt (.flt (normElem st.braid s e n (before.getD x.2 0 + i) (fp32In st.fmt v))))))) st.ev
  { st with rows := o.1, fmt := s.ofmt, ev := o.2 }

/-- One epilogue stage over rows. -/
def epiStage (resid : Fmt → Nat → Nat → Nat → Nat) (c : Chain) (sl first : Nat)
    (before : List Nat) (s : Stage) (st : EpiSt) : EpiSt :=
  match s.kind with
  | 8 => rowstatStage c sl first s st
  | 9 => normStage c (if s.mode = 2 then s.arg % 4 else sl) first before s st
  | 10 =>
    let r := st.rows.foldl (statRow st.fmt) (mget {} st.braid.stat sl)
    let o := mapEv (st.rows.map (convRow s.ofmt st.fmt)) st.ev
    { st with
      braid := { st.braid with stat := mset {} st.braid.stat sl r }, rows := o.1, fmt := s.ofmt
      ev := o.2 }
  | 12 =>
    let r := pool2 (2 * s.arg) st.fmt s.ofmt st.rows
    { st with base := st.base / 4, rows := r.1, fmt := s.ofmt, ev := st.ev.add r.2 }
  | 13 =>
    let o := mapEv (st.rows.map (convRow s.ofmt st.fmt)) st.ev
    { st with rows := twr o.1, fmt := s.ofmt, ev := o.2 }
  | _ =>
    let x : StageCtx := {
      braid := st.braid
      resid := fun j n =>
        resid (BitVec.ofNat 4 s.arg) ((st.rows.getD j []).length) (st.base + j) n }
    let o := mapEv (st.rows.mapIdx (fun j r => rowStage x s st.fmt j r)) st.ev
    { st with rows := o.1, fmt := s.ofmt, ev := o.2 }

def epiStages (resid : Fmt → Nat → Nat → Nat → Nat) (c : Chain) (sl first : Nat)
    (before : List Nat) (l : List Stage) (st : EpiSt) : EpiSt :=
  l.foldl (fun st s => epiStage resid c sl first before s st) st

/-- The last conversion, to SFMT (R107). -/
def toSfmt (f : Fmt) (st : EpiSt) : EpiSt :=
  let o := mapEv (st.rows.map (convRow f st.fmt)) st.ev
  { st with rows := o.1, fmt := f, ev := o.2 }

/-- What the start of an epilogue decides (R121, R122). -/
inductive EpiPlan where
  | whole
  | defer
  | bad (reason stage : Nat)
deriving DecidableEq, Repr

/-- COUNT before the tile, by row. -/
def countsOf (b : Braid) (sl first m : Nat) : List Nat :=
  (List.range m).map (fun i => (statEntry b sl (first + i)).count.toNat)

/-- The test of R122 for counts that reach `n`. -/
def normTest (n : Nat) (counts : List Nat) (defer : Bool) : EpiPlan :=
  if counts.any (fun x => decide (x > n)) then .bad 2 0
  else if counts.all (fun x => decide (x = n)) then .whole
  else if defer then .defer
  else .bad 1 0

/-- The decision for a chain with NORM, LAYER or SOFTMAX on its own slot, DIVIDE on the source slot's
COUNT, to which its own tile adds nothing unless it is the same slot (log 15). -/
def normPlan (b : Braid) (c : Chain) (i : Invocation) : EpiPlan :=
  let m := i.rows.length
  let w := (i.rows.headD []).length
  match normOf c with
  | none => .whole
  | some s =>
    let src := if s.mode = 2 then s.arg % 4 else i.slot.toNat
    let own := decide (src = i.slot.toNat) && (rowstatOf c).isSome
    match (if own then some c else slotChain b src).bind rowstatOf with
    | none => .bad 1 0
    | some r =>
      let n := nTotal b r
      normTest n ((countsOf b src i.firstAct m).map (fun x => if own then x + w else x))
        (i.defer && decide (s.mode ≠ 2))

/-- A MAXEXP update would meet a row that still owes uses (R121). -/
def usesOwed (b : Braid) (c : Chain) (i : Invocation) : Bool :=
  c.epi.any (fun s => decide (s.kind = 8 ∧ s.mode = 1)) &&
    (List.range i.rows.length).any (fun j =>
      decide ((statEntry b i.slot.toNat (i.firstAct + j)).uses ≠ 0))

def epiPlan (b : Braid) (c : Chain) (i : Invocation) : EpiPlan :=
  match normPlan b c i with
  | .bad r _ => .bad r (stageNo c 9)
  | p =>
    if usesOwed b c i then .bad 4 (stageNo c 8)
    else if p == .defer && decide ((mget [] b.pend i.slot.toNat).length ≥ 8) then .bad 3 (stageNo c 9)
    else p

def beforeNorm (c : Chain) : List Stage := c.epi.takeWhile (fun s => decide (s.kind ≠ 9))
def fromNorm (c : Chain) : List Stage := c.epi.dropWhile (fun s => decide (s.kind ≠ 9))

/-- The format of a pending row: OFMT of the stage before NORM (R122). -/
def pendFmt (c : Chain) : Fmt := match (beforeNorm c).getLast? with
  | some s => s.ofmt
  | none => 8

/-- Events of R41 counted by the core. -/
def countEv (s : State) (c : Nat) (e : NumEv) : State :=
  countCore (countCore (countCore s c 6 e.sat) c 7 e.nan) c 8 e.ovf

/-- The stages that an invocation runs, and the format of what they make. -/
def invStages (ch : Chain) (i : Invocation) : List Stage := if i.deferred then beforeNorm ch else ch.epi
def invFmt (ch : Chain) (i : Invocation) : Fmt := if i.deferred then pendFmt ch else ch.sfmt

/-- Rows that go through a chain together: the 2W rows of a POOL2 group, the block of a TWR, else one. -/
def chunkRows (ch : Chain) (left : Nat) : Nat :=
  match ch.epi.find? (fun s => decide (s.kind = 12)) with
  | some s => min left (4 * s.arg)
  | none => if hasKind ch.epi 13 then min left 128 else min left 1

/-- Relative rows that hold the residual of result row `j`. -/
def residRows (i : Invocation) (f : Fmt) (j : Nat) : List Nat :=
  let w := (i.rows.headD []).length
  match i.target with
  | .placed => (rowsOfItem { i.aux with size := rowSize w f } j).map Int.toNat
  | .map d y x0 chBase nOut => runRows d i.aux.row y (x0 + j) 1 (fmtBytes f) nOut chBase

/-- The residual rows that the next `n` rows of an invocation read (R111). -/
def residReads (ch : Chain) (i : Invocation) (n : Nat) : List Nat :=
  let l := invStages ch i
  ((l.zipIdx).flatMap (fun x =>
    if x.1.kind = 7 then
      let pooled := hasKind (l.take x.2) 12
      (List.range (if pooled then n / 4 else n)).flatMap (fun j =>
        residRows i (BitVec.ofNat 4 x.1.arg) ((if pooled then i.taken / 4 else i.taken) + j))
    else [])).eraseDups

/-- The bank rows that the next `n` rows of an invocation are read from. -/
def bankReads (i : Invocation) (n : Nat) : List Nat :=
  let m := i.rows.length
  (List.range n).flatMap (fun j =>
    let r := i.taken + j
    (if i.wide then (List.range 4).map (fun q => i.lo + 4 * r + q)
      else if i.hi - i.lo = m then [i.lo + r] else [i.lo + r, i.lo + m + r]).map (bankKey i.bank))

/-- The next rows of an invocation pass the chain (R100, R111): its records, its events, its results. -/
def takeChunk (s : State) (c : Nat) (ch : Chain) (i : Invocation) (n : Nat) : Invocation × State :=
  let b := (coreOf s c).brd
  let sl := i.slot.toNat
  let rows := (i.rows.drop i.taken).take n
  let before := countsOf b sl (i.firstAct + i.taken) rows.length
  let st : EpiSt := { braid := b, base := i.taken, rows := rows.map (fun r => r.map BitVec.toNat)
                      fmt := if i.float then 8 else 9, ev := {} }
  let resid := fun g w j n => residElem s c i g w j n
  let st := epiStages resid ch sl i.firstAct before (invStages ch i) st
  let st := if i.deferred then st else toSfmt ch.sfmt st
  ({ i with taken := i.taken + n, results := i.results ++ st.rows },
    countEv (updCore s c (fun k => { k with brd := st.braid })) c st.ev)

/-- Rows pass the chain until `need` result rows have; none where a word of the bank or a residual row
cannot be read (R72, R219). -/
def takeRows (c : Nat) (ch : Chain) (need : Nat) : Nat → Invocation → State → Option Invocation × State
  | 0, i, s => (some i, s)
  | fuel + 1, i, s =>
    if i.results.length ≥ need ∨ i.taken ≥ i.rows.length then (some i, s)
    else
      let n := chunkRows ch (i.rows.length - i.taken)
      let b := readBank s c (bankReads i n)
      if b.1 then (none, coreFault b.2 c tfAccEcc 1 0)
      else
        let q := senseRows b.2 c ((residReads ch i n).map (fun r => baseOf s c + r))
        if q.1 then (none, panFault q.2 c tfPanEcc 1)
        else
          let r := takeChunk q.2 c ch i n
          takeRows c ch need fuel r.1 r.2

/-- The first `i` of a list becomes `j`. -/
def swapInv (i j : Invocation) : List Invocation → List Invocation
  | [] => []
  | x :: l => if x = i then j :: l else x :: swapInv i j l

def setInv (s : State) (c : Nat) (i j : Invocation) : State :=
  updCore s c (fun k => { k with invs := swapInv i j k.invs })

def dropInv (s : State) (c : Nat) (i : Invocation) : State :=
  updCore s c (fun k => { k with invs := k.invs.erase i })

/-- How many result rows a chain writes for `m` rows, and of how many columns. -/
def resultRows (c : Chain) (m width : Nat) : Nat × Nat :=
  if hasKind c.epi 12 then (m / 4, width)
  else if hasKind c.epi 13 then (128 * ((m + 127) / 128), 128)
  else (m, width)


/-- How the results of an invocation lie in Pannier rows. -/
def invPlan (ch : Chain) (i : Invocation) : PanPlan :=
  let f := invFmt ch i
  let m := i.rows.length
  let w := (i.rows.headD []).length
  let r := if i.deferred then (m, w) else resultRows ch m w
  match i.target with
  | .placed => placedPlan { i.out with size := rowSize r.2 f } (fmtBits f) r.1
  | .map d y x0 _ nOut => mapPlan d i.out.row y x0 nOut f r.1

/-- The next Pannier row of an invocation is written, unless it is held (R74): as many rows as it needs
pass the chain first. `i` stands in the list as `i0`. -/
def writeInvRow (s : State) (c : Nat) (ch : Chain) (i0 i : Invocation) : State :=
  let p := invPlan ch i
  let a := p.addr i.written
  if heldRow (coreOf s c) a then setInv s c i0 i
  else match takeRows c ch (p.need i.written) i.rows.length i s with
    | (none, s) => s
    | (some j, s) =>
      let s := setRelRow s c a (p.data i.written j.results)
      if i.written + 1 ≥ p.count then dropInv s c i0 else setInv s c i0 { j with written := i.written + 1 }

/-- The start of an invocation that runs (R122): a deferred one adds its pending entry (R123). -/
def startInv (s : State) (c : Nat) (ch : Chain) (i : Invocation) (deferred : Bool) : Invocation × State :=
  let sl := i.slot.toNat
  let e : PendEntry := {
    out := { i.out with size := rowSize (i.rows.headD []).length (pendFmt ch) }
    rows := i.rows.length, fmt := pendFmt ch, first := i.firstAct
    count := (statEntry (coreOf s c).brd sl i.firstAct).count.toNat }
  ({ i with ran := true, deferred := deferred },
    if deferred then updCore s c (fun k => { k with brd := { k.brd with
      pend := mset [] k.brd.pend sl (mget [] k.brd.pend sl ++ [e]) } }) else s)

/-- The stage that BRD_FAULT names for an uncorrectable word of the parameter store: the first of these
that has parameters, else 0 (DESIGN CHOICE, log 80). -/
def eccStage (first : Nat) (l : List Stage) : Nat :=
  (stageAt first l (fun s => decide (s.kind ∈ [2, 3, 4, 5, 7, 8, 11]) ||
    decide (s.kind = 6 ∧ s.mode ≠ 0) || decide (s.kind = 9 ∧ s.mode = 0))).getD 0

/-- A correctable error in a word of the parameter store (R101). -/
def pstoreSingle (s : State) (c : Nat) : State :=
  updCore s c (fun k => { k with brdCnt := satAdd k.brdCnt 1 })

/-- The earliest-issued invocation of a slot among those committed. -/
def firstInv (k : Core) (slot : BitVec 2) : Option Invocation :=
  let l := k.invs.filter (fun i => decide (i.slot = slot))
  l.find? (fun i => l.all (fun j => decide (i.no ≤ j.no)))

/-- A pass with LAST of the slot, issued before `no`, has not committed (R99). -/
def lastBefore (k : Core) (slot : BitVec 2) (no : Nat) : Bool :=
  k.ta.passes.any (fun p => p.last && decide (p.chain = some slot ∧ p.no < no)) ||
  k.vu.dw.any (fun p => p.last && decide (p.chain = some slot ∧ p.no < no))

/-- EPILOGUE_ROW_WRITE: the oldest invocation of a slot writes its next Pannier row (R99, R100, R118).
`ecc` is what the words of the parameter store turn out to hold (R101). -/
def epilogueRowWrite (core : CoreId) (slot : BitVec 2) (ecc : Ecc) (s : State) : State :=
  let c := core.toNat
  let k := coreOf s c
  match firstInv k slot with
  | none => s
  | some i =>
    if lastBefore k slot i.no then s
    else match slotChain k.brd slot.toNat with
      | none => dropInv s c i
      | some ch =>
        if ecc = .double then
          brdFaultAt s c tfBraidEcc 1 slot.toNat (eccStage ch.pro.length (invStages ch i))
        else
          let s := if ecc = .single then pstoreSingle s c else s
          if i.ran then writeInvRow s c ch i i
          else match epiPlan (coreOf s c).brd ch i with
            | .bad r st => brdFaultAt s c tfRowstat r slot.toNat st
            | p =>
              let r := startInv s c ch i (p == .defer)
              writeInvRow r.2 c ch i r.1

/-- A slot that reads the parameter store goes on, with a correction counted, or stops at an uncorrectable
word (R101), recorded for chain slot `sl` and `stage`. -/
def pstoreRead (a : At) (sl stage : Nat) (cur : State) (f : State → SlotRes) : SlotRes :=
  match a.pecc with
  | .clean => f cur
  | .single => f (pstoreSingle cur a.core.toNat)
  | .double => .stop (fun s => brdFaultAt s a.core.toNat tfBraidEcc 1 sl stage)

-- ---------------------------------------------------------------- issue checks shared with TMM

/-- What a chain is refused for at issue (R106, R294), as the stage that BRD_FAULT names: `m` rows of
`width` columns, `wale` for 512 columns a row. A GATHER whose indices run past the end of the store is
refused here too (DESIGN CHOICE, log 80). -/
def chainFault (b : Braid) (c : Chain) (m width : Nat) (wale conv last : Bool)
    (afmt : Option Fmt) : Option Nat :=
  let np := c.pro.length
  let both (k : Nat) (p : Bool) : Option Nat := faultIf (hasKind c.all k && p) (stageNo c k)
  [(match afmt, c.pro.getLast? with
      | some f, some s => faultIf (decide (s.ofmt ≠ f)) (np - 1)
      | none, some _ => some 0
      | _, none => none),
    stageAt 0 c.pro (fun s => decide (s.kind = 3) && !decide (4 ≤ s.ofmt.toNat ∧ s.ofmt.toNat ≤ 7)),
    both 1 (decide (m > 128)),
    both 1 conv,
    both 2 conv,
    stageAt np c.epi (fun s => last && decide (s.kind = 12) &&
      (wale || decide (s.arg = 0 ∨ m % (4 * s.arg) ≠ 0))),
    both 13 (last && wale),
    stageAt 0 c.pro (paramAtEnd b c width m),
    if last then stageAt np c.epi (paramAtEnd b c width m) else none].findSome? id

/-- A fault of the Braid at issue: ILLEGAL in BRD_FAULT, or a row of a result or a residual outside the
range. -/
def brdIllegal (c sl stage : Nat) : SlotRes := .fault (fun s => brdFaultAt s c tfIllegal 0 sl stage)

/-- The relative rows, as integers, that the result rows of a placed epilogue take: in SFMT, and in the
pending format where it may be deferred. -/
def resultSpan (c : Chain) (v : WVal) (m width : Nat) (defer : Bool) : List Int :=
  let r := resultRows c m width
  itemRows (placement v (rowSize r.2 c.sfmt)) r.1 ++
    (if defer && (normOf c).isSome then itemRows (placement v (rowSize width (pendFmt c))) m else [])

/-- Rows that reach each RESID, in its format. -/
def residSpans (c : Chain) (v : WVal) (m width : Nat) : List (Nat × List Int) :=
  (c.epi.zipIdx).flatMap (fun x =>
    if x.1.kind = 7 then
      let pooled := hasKind (c.epi.take x.2) 12
      [(c.pro.length + x.2,
        itemRows (placement v (rowSize width (BitVec.ofNat 4 x.1.arg))) (if pooled then m / 4 else m))]
    else [])

def spanBad (bound : Nat) (l : List Int) : Bool := l.any (fun r => decide (r < 0 ∨ (bound : Int) ≤ r))

/-- A result row, or the residual row of a stage, outside the task's range: the stage that BRD_FAULT
names, 0 for a result row (DESIGN CHOICE, log 80). -/
def epiBound (bound : Nat) (c : Chain) (out : List Int) (v : WVal) (m width : Nat) : Option Nat :=
  if spanBad bound out then some 0
  else ((residSpans c v m width).find? (fun x => spanBad bound x.2)).map (·.1)

/-- A result row lies in the protected set (R274). -/
def spanProtected (k : Core) (l : List Int) : Bool := l.any (fun r => protectedRow k r.toNat)

-- ---------------------------------------------------------------- BPLD, BSET, BARM (R293, R98, R99)

def slotBpld (a : At) (wp : WReg) (soff nm1 : BitVec 7) : SlotInfo :=
  slotAt a slotTen [] (fun old cur =>
    let c := a.core.toNat
    let k := coreOf old c
    let n := nm1.toNat + 1
    let rows := (itemRows (placement (wReg k wp) 512) n)
    if soff.toNat + n > 128 then illegal c 8 slotTen
    else if spanBad (boundOf old c) rows then .fault (fun s => seqFault s c tfPannierBound 2 slotTen)
    else if anyBusy k then .wait id
    else
      let addrs := rows.map (fun r => baseOf old c + r.toNat)
      if (senseRows old c addrs).1 then .stop (fun s => readRows s c addrs id)
      else
        let st := (rows.zipIdx).foldl (fun m x =>
          mset 0 m (soff.toNat + x.2) (relRow old c x.1.toNat)) k.brd.pstore
        .next (updCore (senseRows cur c addrs).2 c (fun k => { k with brd := { k.brd with pstore := st } }))
          none)

/-- The 48 bytes of a descriptor at store unit `doff` (R102). -/
def descAt (b : Braid) (doff : Nat) : BitVec 384 :=
  BitVec.ofNat 384 (packNat 32 ((List.range 12).map (fun i => (pWord b (16 * doff + 4 * i)).toNat)))

/-- BSET: a descriptor whose 48 bytes run past the end of the store is refused with ILLEGAL (DESIGN
CHOICE, log 80). -/
def slotBset (a : At) (slot : BitVec 2) (doff : BitVec 12) : SlotInfo :=
  slotAt a slotTen [] (fun old cur =>
    let c := a.core.toNat
    let k := coreOf old c
    let d := descAt k.brd doff.toNat
    if 16 * doff.toNat + 48 > 65536 then brdIllegal c slot.toNat 0
    else pstoreRead a slot.toNat 0 cur (fun cur =>
      match chainBadAt k.brd d with
      | some i => brdIllegal c slot.toNat i
      | none =>
        if slotBusy k slot then .wait id
        else .next (updCore cur c (fun k => { k with brd := { k.brd with
          slots := mset {} k.brd.slots slot.toNat { valid := true, desc := d } } })) none))

/-- The initial entries of a slot (R115). -/
def armEntries (b : Braid) (sl : Nat) : SMap RowStat :=
  let mx : Bool := match slotChain b sl with
    | some c => c.epi.any (fun s => decide (s.kind = 8 ∧ s.mode = 1))
    | none => false
  (List.range 512).foldl (fun m i => mset {} m (512 * sl + i) (if mx then { a := 0xFF800000 } else {}))
    b.rowstat

def slotBarm (a : At) (slot : BitVec 2) : SlotInfo :=
  slotAt a slotTen [] (fun old cur =>
    let c := a.core.toNat
    let k := coreOf old c
    if slotBusy k slot then .wait id
    else if !(mget [] k.brd.pend slot.toNat).isEmpty then
      .stop (fun s => brdFaultAt s c tfRowstat 6 slot.toNat 0)
    else .next (updCore cur c (fun k => { k with brd := { k.brd with
      stat := mdel k.brd.stat slot.toNat, rowstat := armEntries k.brd slot.toNat } })) none)

-- ---------------------------------------------------------------- BRUN (R294)

/-- The committed rows that BRUN reads: 128 columns, or 512 over four bank rows. -/
def brunRows (k : Core) (o : BrunOp) : List (List Word) :=
  (List.range (o.mm1.toNat + 1)).map (fun m =>
    if o.wl then (List.range 4).flatMap (fun q => rowWords (bankRow k o.bank (o.a0.toNat + 4 * m + q)))
    else rowWords (bankRow k o.bank (o.a0.toNat + m)))

def slotBrun (a : At) (o : BrunOp) (ecc : BankEcc) : SlotInfo :=
  slotAt a slotTen [] (fun old cur =>
    let c := a.core.toNat
    let k := coreOf old c
    let m := o.mm1.toNat + 1
    let hi := o.a0.toNat + (if o.wl then 4 * m else m)
    let width := if o.wl then 512 else 128
    let bound := boundOf old c
    let sl := o.slot.toNat
    match slotChain k.brd sl with
    | none => brdIllegal c sl 0
    | some ch =>
      let out := resultSpan ch (wReg k o.wo) m width false
      match (chainFault k.brd ch m width o.wl false true none).or
          (faultIf ((o.wl && decide (m > 128)) || decide (hi > 512)) 0),
        epiBound bound ch out (wReg k o.wx) m width with
      | some i, _ => brdIllegal c sl i
      | none, some i => .fault (fun s => brdFaultAt s c tfPannierBound 0 sl i)
      | none, none =>
        if spanProtected k out then .fault (fun s => seqFault s c tfLiveWrite 1 slotTen)
        else if bankPending k o.bank o.a0.toNat hi || slotBusy k o.slot then .wait id
        else pstoreRead a sl (eccStage 0 ch.epi) cur (fun cur =>
          .next (updCore cur c (fun x => { x with
            ta := noteBank ecc x.ta
            issueNo := x.issueNo + 1
            invs := x.invs ++ [{
              no := x.issueNo, slot := o.slot, wide := o.wl, float := o.accf, firstAct := 0
              bank := o.bank, lo := o.a0.toNat, hi := hi, rows := brunRows k o
              out := placement (wReg k o.wo) 512, aux := placement (wReg k o.wx) 512
              target := .placed, defer := false }] })) none))

-- ---------------------------------------------------------------- BNORM (R124)

/-- The row packing of a pending entry and its rows as elements. -/
def pendRows (s : State) (c : Nat) (p : PendEntry) : List (List Nat) :=
  (List.range p.rows).map (fun j =>
    let x := itemBits s c p.out j
    (List.range (8 * p.out.size / fmtBits p.fmt)).map (fun n =>
      x / 2 ^ (fmtBits p.fmt * n) % 2 ^ fmtBits p.fmt))

/-- A result row written from the first byte of its place; the rest of the place keeps its bytes. -/
def putItem (s : State) (c : Nat) (p : Placement) (j : Nat) (f : Fmt) (row : List Nat) : State :=
  let n := row.length * fmtBits f
  let v := packNat (fmtBits f) row
  if p.size ≤ 512 then
    let r := (itemRow p j).toNat
    setRelRow s c r (putBits (relRow s c r) (8 * itemByte p j) (BitVec.ofNat n v))
  else
    (List.range ((n + 4095) / 4096)).foldl (fun s (i : Nat) =>
      let r := (itemRow p j + i * p.stride).toNat
      let w := min 4096 (n - 4096 * i)
      setRelRow s c r (putBits (relRow s c r) 0 (BitVec.ofNat w (v / 2 ^ (4096 * i))))) s

/-- One pending entry is rewritten: NORM and the stages after it, then SFMT. An entry records no
residual pointer (R123), so what a RESID reads here is free (log 16). -/
def renorm (s : State) (c sl : Nat) (ch : Chain) (p : PendEntry) : State :=
  let st : EpiSt := { braid := (coreOf s c).brd, base := 0, rows := pendRows s c p, fmt := p.fmt, ev := {} }
  let before := (List.range p.rows).map (fun _ => p.count)
  let st := toSfmt ch.sfmt
    (epiStages (fun _ _ j n => Config.bnormResid (2 ^ 20 * s.freeCount + 512 * j + n)) ch sl p.first
      before (fromNorm ch) st)
  let s := updCore { s with freeCount := s.freeCount + 1 } c (fun k => { k with brd := { st.braid with
    pend := mset [] st.braid.pend sl (mget [] st.braid.pend sl).tail } })
  countEv ((st.rows.zipIdx).foldl (fun s x => putItem s c p.out x.2 ch.sfmt x.1) s) c st.ev

/-- The pending entries, oldest first; the first over incomplete rows ends it. -/
def renormAll (c sl : Nat) (ch : Chain) : List PendEntry → State → Bool × State
  | [], s => (true, s)
  | p :: l, s =>
    let b := (coreOf s c).brd
    let n := match rowstatOf ch with | some r => nTotal b r | none => 0
    if (countsOf b sl p.first p.rows).all (fun x => decide (x = n)) then
      renormAll c sl ch l (renorm s c sl ch p)
    else (false, s)

def pendSpan (p : PendEntry) : List Int := itemRows p.out p.rows

/-- BNORM waits while an invocation of its slot runs or one of its rows is held, then rewrites. -/
def slotBnorm (a : At) (slot : BitVec 2) : SlotInfo :=
  slotAt a slotTen [] (fun old cur =>
    let c := a.core.toNat
    let k := coreOf old c
    let sl := slot.toNat
    let l := mget [] k.brd.pend sl
    let rows := l.flatMap pendSpan
    match slotChain k.brd sl with
    | none => .next cur none
    | some ch =>
      if spanProtected k rows then .fault (fun s => seqFault s c tfLiveWrite 1 slotTen)
      else if slotBusy k slot || rows.any (fun r => heldRow k r.toNat) then .wait id
      else
        let addrs := rows.map (fun r => baseOf old c + r.toNat)
        if (senseRows old c addrs).1 then .stop (fun s => readRows s c addrs id)
        else pstoreRead a sl (stageNo ch 9) cur (fun cur =>
          let r := renormAll c sl ch l (senseRows cur c addrs).2
          if r.1 then .next r.2 none
          else .stop (fun s => brdFaultAt (renormAll c sl ch l s).2 c tfRowstat 5 sl (stageNo ch 9))))

/-- Pending entries or uses left when a task ends (R123), as (slot, stage). -/
def endsOpen (k : Core) : Option Nat :=
  (List.range 4).find? (fun sl => !(mget [] k.brd.pend sl).isEmpty ||
    k.brd.rowstat.any (fun e => decide (e.1 / 512 = sl ∧ e.2.uses ≠ 0)))

end Sys2Proof.Machine
end

