-- ==== Sys2Proof/Machine/Tensor.lean ====
section
/-! DEFINITION. The Tensor Array (03; 02, R42 to R49; 10, R282 to R292): issue of passes, weight loads,
the sums, the checks, replay and commit. -/

namespace Sys2Proof.Machine

-- ---------------------------------------------------------------- pass formats (R42, R284)

def PassFmt.four : PassFmt → Bool
  | .i4 => true
  | .l4 => true
  | _ => false

/-- The sums are integers that go into the bank as they are. -/
def PassFmt.integer : PassFmt → Bool
  | .i8 => true
  | .i4 => true
  | _ => false

/-- A tolerance comparison (R79). -/
def PassFmt.float : PassFmt → Bool
  | .f8 => true
  | .bf16 => true
  | .f16 => true
  | _ => false

def tileFits (p : PassFmt) (f : Fmt) : Bool :=
  match p with
  | .i8 => decide (f = 0)
  | .i4 => decide (f = 2)
  | .l4 => decide (f = 3)
  | .f8 => decide (f = 4 ∨ f = 5)
  | .bf16 => decide (f = 6)
  | .f16 => decide (f = 7)

def actFits (p : PassFmt) (f : Fmt) : Bool :=
  match p with
  | .i8 => decide (f = 0 ∨ f = 1)
  | .i4 => decide (f = 0 ∨ f = 1)
  | .l4 => decide (f = 0 ∨ f = 1)
  | .f8 => decide (f = 4 ∨ f = 5)
  | .bf16 => decide (f = 6)
  | .f16 => decide (f = 7)

/-- K rows of a pass: 128, or 32 in Wale mode; twice that for 4-bit weights. -/
def kRows (p : PassFmt) (wale : Bool) : Nat := (if wale then 32 else 128) * (if p.four then 2 else 1)
def nCols (wale : Bool) : Nat := if wale then 512 else 128

/-- What the array is about to take (R65): the shadow's tile if a TLW has issued, else the active one. -/
def nextTile (t : Ta) : Tile := match t.shadow with
  | some h => h.tile
  | none => t.active

-- ---------------------------------------------------------------- operands (R108, R285)

/-- The stored format of the operand: that of DEQUANT, else the activation format. -/
def storedFmt (c : Option Chain) (afmt : Fmt) : Fmt :=
  match c.bind (fun c => c.pro.find? (fun s => decide (s.kind = 3))) with
  | some s => BitVec.ofNat 4 s.arg
  | none => afmt

/-- The prologue, the last stage first. -/
def proBack (c : Option Chain) : List Stage := match c with
  | some c => c.pro.reverse
  | none => []

def hasPro (c : Option Chain) (k : Nat) : Bool := hasKind (proBack c) k

/-- Index `m` of GATHER's list. -/
def gatherIdx (b : Braid) (s : Stage) (m : Nat) : Nat := elem (pWord b (s.at (4 * (m / 2)))) 16 (m % 2)

/-- Size of an item of the operand: an activation row of R284, or a K-line of M where that is longer
(DESIGN CHOICE, log 15). -/
def itemSize (c : Option Chain) (afmt : Fmt) (k m : Nat) : Nat :=
  let row := rowSize k afmt
  if hasPro c 1 then max row (rowSize m (storedFmt c afmt)) else row

/-- The items that rows `l` of a stage's output are made from (R108), the stages last first. TRANSPOSE takes
as many K-lines as the pass has K positions, 128 in most passes (DESIGN CHOICE, log 15). -/
def stageItems (b : Braid) (k : Nat) : List Stage → List Nat → List Nat
  | [], l => l
  | s :: st, l =>
    stageItems b k st (
      if s.kind = 1 then List.range k
      else if s.kind = 2 then (l.map (gatherIdx b s)).filter (fun x => decide (x ≠ 0xFFFF))
      else l)

/-- The items that the operand of a plain pass takes. -/
def operandItems (b : Braid) (c : Option Chain) (k m : Nat) : List Nat :=
  stageItems b k (proBack c) (List.range m)

def operandRows (b : Braid) (c : Option Chain) (p : Placement) (k m : Nat) : List Int :=
  ((operandItems b c k m).flatMap (rowsOfItem p)).eraseDups

/-- DEQUANT of a value `x` at K position `k` (R108). -/
def dequant (b : Braid) (st : Stage) (k : Nat) (x : Fv) : Nat × NumEv :=
  toFmt st.ofmt (.flt (rne32 (fvMul x (dec32 (pWord b (st.at (4 * k)))))))

/-- Element (r, k) of a stage's output in its OFMT, with its events, the stages last first: each takes the
output of the one before it (R107, R108, R125), the first the stored elements `leaf` in format `f`. `kp` is
the K position of the activation that is formed. -/
def stageElem (b : Braid) (f : Fmt) (leaf : Nat → Nat → Nat) (kp : Nat) :
    List Stage → Nat → Nat → Nat × NumEv
  | [], r, k => (leaf r k, {})
  | s :: st, r, k =>
    let g := match st with | [] => f | p :: _ => p.ofmt
    if s.kind = 2 ∧ gatherIdx b s r = 0xFFFF then (0, {})
    else
      let x := if s.kind = 1 then stageElem b f leaf kp st k r
        else if s.kind = 2 then stageElem b f leaf kp st (gatherIdx b s r) k
        else stageElem b f leaf kp st r k
      let y := if s.kind = 3 then dequant b s kp (fp32In g x.1) else toFmt s.ofmt (.flt (fp32In g x.1))
      (y.1, x.2.add y.2)

/-- Activation (m, k) of a pass as the array receives it, with the events of its prologue. A DEQUANT of a
convolution pass takes the low bits of an element of FMT_IN in ARG's format (DESIGN CHOICE, log 15). -/
def actElem (s : State) (c : Nat) (p : Pass) (ch : Option Chain) (m k : Nat) : Nat × NumEv :=
  let f := storedFmt ch p.afmt
  let leaf : Nat → Nat → Nat := match p.src with
    | .plain pl => fun r q => itemBits s c pl r / 2 ^ (fmtBits f * q) % 2 ^ fmtBits f
    | .conv cv => fun r q => convElem s c cv (kRows p.fmt p.wale) r q
  stageElem (coreOf s c).brd f leaf k (proBack ch) m k

/-- The chain whose prologue serves a pass: a linked pass names none (R287). -/
def passChain (k : Core) (p : Pass) : Option Chain :=
  if p.linked then none else p.chain.bind (fun sl => slotChain k.brd sl.toNat)

/-- The activations of a pass, by row, with the events of its prologue. -/
def actRows (s : State) (c : Nat) (p : Pass) : List (List Nat) × NumEv :=
  let ch := passChain (coreOf s c) p
  mapEv ((List.range p.m).map (fun m =>
    addEv ((List.range (kRows p.fmt p.wale)).map (actElem s c p ch m)))) {}

/-- Weight (k, n) of a tile in its registers (R61). -/
def weight (t : Tile) (k n : Nat) : Nat :=
  let w := fmtBits t.fmt
  let kk := if w = 4 then k / 2 else k
  let o := if t.wale then 4096 * (n / 128) + 128 * kk + n % 128 else 128 * kk + n
  let byte := if w = 16 then 2 * o else o
  let row := t.data.getD (byte / 512) 0
  if w = 4 then elem row 4 (2 * (byte % 512) + k % 2) else elem row w (byte % 512 / (w / 8))

/-- The FP16 scale of group g, column n (R37, R62). -/
def scale (t : Tile) (g n : Nat) : Nat :=
  if t.wale then elem (t.data.getD (32 + n / 128) 0) 16 (128 * g + n % 128)
  else elem (t.data.getD (32 + g / 2) 0) 16 (128 * (g % 2) + n)

def weightCol (t : Tile) (k n : Nat) : List Nat := (List.range k).map (fun i => weight t i n)

-- ---------------------------------------------------------------- sums (R44, R45, R47)

def dotInt (fa fw : Nat → Int) (a w : List Nat) : Int :=
  (a.zipWith (fun x y => fa x * fw y) w).foldl (· + ·) 0

/-- A sum in K order with a rounding after every addition (R45). -/
def sumInOrder (rnd : Fv → Fv) : List Fv → Fv
  | [] => .zero
  | x :: l => l.foldl (fun s p => rnd (fvAdd s p)) x

def floatSum (fa fw : Fmt) (a w : List Nat) : Word :=
  enc32 (sumInOrder rne32 (a.zipWith (fun x y => rne32 (fvMul (decFloat fa x) (decFloat fw y))) w))

/-- What physical faults add in one place of a quadrant: column 128 q + q + n is its column n, 128 being
its check column. -/
def deltaAt (l : List PassFault) (g m col : Nat) : Nat :=
  (l.filter (fun f => decide (f.group = g ∧ f.row = m ∧ f.col = col))).foldl
    (fun a f => a + f.delta.toNat) 0

/-- A Lattice-4 element (R47): 32 K values a group, each group's sum with what a fault adds to it. -/
def latticeSum (t : Tile) (fa : Fmt) (n : Nat) (a w : List Nat) (d : Nat → Nat) : Word :=
  let parts := (List.range (a.length / 32)).map (fun g =>
    let s := dotInt (decInt fa) latticeOf ((a.drop (32 * g)).take 32) ((w.drop (32 * g)).take 32)
    rne32 (fvMul (fvInt (wrap32 (s + d g))) (fvScale (decIeee ieeeF16 (scale t g n)) (-5))))
  enc32 (sumInOrder rne32 parts)

/-- Element (m, n) of a pass's own sums; `d` is what faults add, by group. -/
def passSum (p : Pass) (a w : List Nat) (n : Nat) (d : Nat → Nat) : Word :=
  match p.fmt with
  | .i8 => BitVec.ofInt 32 (dotInt (decInt p.afmt) (decInt p.tile.fmt) a w + d 0)
  | .i4 => BitVec.ofInt 32 (dotInt (decInt p.afmt) (decInt p.tile.fmt) a w + d 0)
  | .l4 => latticeSum p.tile p.afmt n a w d
  | _ => floatSum p.afmt p.tile.fmt a w + BitVec.ofNat 32 (d 0)

/-- Every sum of a pass as the array delivers it, with the physical faults of the attempt: by activation
row, then by column. -/
def passSums (p : Pass) (acts : List (List Nat)) (l : List PassFault) : List (List Word) :=
  let k := kRows p.fmt p.wale
  let cols := (List.range (nCols p.wale)).map (fun n => weightCol p.tile k n)
  acts.mapIdx (fun m a => cols.mapIdx (fun n w =>
    passSum p a w n (fun g => deltaAt l g m (129 * (n / 128) + n % 128))))

-- ---------------------------------------------------------------- the checks (R76 to R80)

/-- The verdict on the lines of a pass: failing rows, failing columns (128 for the check column),
failing quadrants, unchecked lines. -/
structure Verdict where
  rows : List Nat
  cols : List Nat
  quads : List Nat
  unchecked : Nat
deriving DecidableEq, Repr

def Verdict.ok (v : Verdict) : Bool := v.rows.isEmpty && v.cols.isEmpty

/-- Integer comparisons of a quadrant and group (R77, R78): fault-free sides are equal, so a line
fails exactly when what was added to it does not cancel modulo 2^32. -/
def intRowFails (l : List PassFault) (g q m : Nat) : Bool :=
  decide (((deltaAt l g m (129 * q + 128) : Int) -
    ((List.range 128).foldl (fun a n => a + deltaAt l g m (129 * q + n)) 0 : Nat)) % 2 ^ 32 ≠ 0)

def intColFails (l : List PassFault) (g q mm n : Nat) : Bool :=
  decide (((deltaAt l g mm (129 * q + n) : Int) -
    ((List.range mm).foldl (fun a m => a + deltaAt l g m (129 * q + n)) 0 : Nat)) % 2 ^ 32 ≠ 0)

/-- Binary64, rounded upward: for magnitudes. -/
def up64 (v : Fv) : Fv := decIeee ieee64 (encIeeeBy upShift ieee64 v)

/-- One comparison of R79 and R80: whether it fails, and whether it was left unchecked. -/
def floatLine (check u : Fv) (results : List Fv) : Bool × Bool :=
  if check.isNan || check.isInf || u.isNan || u.isInf then (false, true)
  else if results.any (fun r => r.isNan || r.isInf) then (true, false)
  else
    let d := (rne64 (fvSub check (sumInOrder rne64 results))).abs
    let tol := up64 (fvAdd (fvScale u (-16)) (.fin false 1 (-126)))
    (!fvLe d tol, false)

/-- The sums of check arithmetic in binary64: round to nearest, or upward over magnitudes. -/
def sum64 (l : List Fv) : Fv := sumInOrder rne64 l
def sumUp (l : List Fv) : Fv := sumInOrder up64 l
def dot64 (a b : List Fv) : Fv := sum64 (a.zipWith (fun x y => rne64 (fvMul x y)) b)
def dotUp (a b : List Fv) : Fv := sumUp (a.zipWith (fun x y => up64 (fvMul x y)) b)

/-- A fault on a binary64 result, with the weight it would have in FP32. -/
def addDelta64 (v : Fv) (d : Nat) : Fv :=
  if d = 0 then v else decIeee ieee64 ((encIeee ieee64 v + d * 2 ^ 29) % 2 ^ 64)

/-- The comparisons of one quadrant of a floating-point pass, of the sums as the array delivers them. -/
def floatQuad (p : Pass) (acts : List (List Nat)) (sums : List (List Word)) (l : List PassFault)
    (q : Nat) : Verdict :=
  let k := kRows p.fmt p.wale
  let a := acts.map (fun r => r.map (decFloat p.afmt))
  let w := (List.range k).map (fun i =>
    (List.range 128).map (fun n => decFloat p.tile.fmt (weight p.tile i (128 * q + n))))
  let col (m : List (List Fv)) (i : Nat) : List Fv := m.map (fun r => r.getD i .zero)
  let sk := w.map sum64
  let uk := w.map (fun r => sumUp (r.map Fv.abs))
  let ac := (List.range k).map (fun i => sum64 (col a i))
  let bc := (List.range k).map (fun i => sumUp ((col a i).map Fv.abs))
  let res := sums.map (fun r => (List.range 128).map (fun n => dec32 (r.getD (128 * q + n) 0)))
  let cc := a.mapIdx (fun m r => addDelta64 (dot64 r sk) (deltaAt l 0 m (129 * q + 128)))
  let cr := (List.range 128).map (fun n =>
    addDelta64 (dot64 ac (col w n)) (deltaAt l 0 p.m (129 * q + n)))
  let corner := addDelta64 (dot64 ac sk) (deltaAt l 0 p.m (129 * q + 128))
  let uc := dotUp bc uk
  let rowL := (a.mapIdx (fun m r =>
    floatLine (cc.getD m .zero) (dotUp (r.map Fv.abs) uk) (res.getD m []))) ++ [floatLine corner uc cr]
  let colL := ((List.range 128).map (fun n =>
    floatLine (cr.getD n .zero) (dotUp bc ((col w n).map Fv.abs)) (col res n))) ++
      [floatLine corner uc cc]
  let bad (x : List (Bool × Bool)) : List Nat :=
    (x.zipIdx.filter (fun y => y.1.1)).map (·.2)
  let un (x : List (Bool × Bool)) : Nat := (x.filter (·.2)).length
  { rows := bad rowL, cols := bad colL
    quads := if (bad rowL).isEmpty && (bad colL).isEmpty then [] else [q]
    unchecked := un rowL + un colL }

/-- The comparisons of one quadrant and group of an integer or Lattice-4 pass. -/
def intQuad (p : Pass) (l : List PassFault) (g q : Nat) : Verdict :=
  let rows := (List.range (p.m + 1)).filter (intRowFails l g q)
  let cols := (List.range 129).filter (intColFails l g q p.m)
  { rows := rows, cols := cols, quads := if rows.isEmpty && cols.isEmpty then [] else [q]
    unchecked := 0 }

/-- Elements on which the two scaling units of an L4 pass disagree: faults whose group lies beyond the
pass's groups (R78). -/
def unitFaults (p : Pass) (l : List PassFault) (groups : Nat) : Verdict :=
  let x := l.filter (fun f => p.fmt == .l4 && decide (groups ≤ f.group ∧ f.delta ≠ 0))
  { rows := x.map (·.row), cols := x.map (fun f => f.col % 129), quads := x.map (fun f => f.col / 129)
    unchecked := 0 }

def Verdict.join (a b : Verdict) : Verdict where
  rows := a.rows ++ b.rows
  cols := a.cols ++ b.cols
  quads := a.quads ++ b.quads
  unchecked := a.unchecked + b.unchecked

def verdictOf (p : Pass) (acts : List (List Nat)) (sums : List (List Word)) (l : List PassFault) :
    Verdict :=
  let quads := List.range (if p.wale then 4 else 1)
  let groups := if p.fmt == .l4 then kRows p.fmt p.wale / 32 else 1
  let none_ : Verdict := { rows := [], cols := [], quads := [], unchecked := 0 }
  if p.fmt.float then quads.foldl (fun v q => v.join (floatQuad p acts sums l q)) none_
  else quads.foldl (fun v q => (List.range groups).foldl (fun v g => v.join (intQuad p l g q)) v)
    (unitFaults p l groups)

-- ---------------------------------------------------------------- commit (R44, R57, R120)

/-- What a pass leaves in a bank word. -/
def accumulate (p : Pass) (e : Option RowStat) (acc x : Word) : Word :=
  if p.clr then x
  else if p.fmt.integer then acc + x
  else
    let base := match e with
      | some r => if r.uses ≠ 0 then rne32 (fvMul (dec32 acc) (dec32 r.c)) else dec32 acc
      | none => dec32 acc
    enc32 (fvAdd base (dec32 x))

/-- After a linked commit the row owes one use less; at 0 its correction is 1 again. -/
def useOnce (e : RowStat) : RowStat :=
  if e.uses = 0 then e
  else if e.uses = 1 then { e with uses := 0, c := 0x3F800000 }
  else { e with uses := e.uses - 1 }

/-- Row `m` of a pass enters the bank. -/
def commitRow (c : Nat) (p : Pass) (m : Nat) (sums : List Word) (s : State) : State :=
  let k := coreOf s c
  let link : Option Nat := if p.linked then p.chain.map BitVec.toNat else none
  let e := link.map (fun sl => statEntry k.brd sl m)
  let s := (List.range (if p.wale then 4 else 1)).foldl (fun s q =>
    let r := p.a0 + (if p.wale then 4 * m + q else m)
    let old := rowWords (bankRow (coreOf s c) p.bank r)
    setBankRow s c p.bank r (wordsRow ((List.range 128).map (fun n =>
      accumulate p e (old.getD n 0) (sums.getD (128 * q + n) 0))))) s
  match link with
  | some sl => updCore s c (fun k => { k with
      brd := setEntry k.brd sl m (useOnce (statEntry k.brd sl m)) })
  | none => s

/-- The committed rows of a pass, as its epilogue receives them. -/
def committedRows (k : Core) (p : Pass) : List (List Word) :=
  (List.range p.m).map (fun m =>
    if p.wale then (List.range 4).flatMap (fun q => rowWords (bankRow k p.bank (p.a0 + 4 * m + q)))
    else rowWords (bankRow k p.bank (p.a0 + m)))

def passTarget (p : Pass) : OutMap := match p.src with
  | .plain _ => .placed
  | .conv v => .map v.desc v.y v.x0 0 v.desc.nOut

/-- The epilogue of a committed pass with LAST (R100). -/
def passInvocation (k : Core) (p : Pass) : List Invocation :=
  match p.last, p.chain with
  | true, some sl => [{
      no := p.no, slot := sl, wide := p.wale, float := !p.fmt.integer, firstAct := 0
      bank := p.bank, lo := p.a0, hi := p.a0 + passSpan p, rows := committedRows k p
      out := p.out, aux := p.aux, target := passTarget p, defer := p.defer }]
  | _, _ => []

/-- The oldest pass commits (R81): bank rows, its epilogue, its counts; its rows are released. -/
def commitPass (s : State) (c : Nat) (p : Pass) (sums : List (List Word)) : State :=
  let s := (sums.zipIdx).foldl (fun s x => commitRow c p x.2 x.1 s) s
  let s := updCore s c (fun k => { k with
    ta := { k.ta with passes := k.ta.passes.tail }
    invs := k.invs ++ passInvocation k p })
  countCore (countCore s c 3 1) c 4 (kRows p.fmt p.wale * nCols p.wale * p.m)

-- ---------------------------------------------------------------- failure (R81 to R83)

def bitmap (w : Nat) (l : List Nat) : BitVec w := l.foldl (fun b i => b ||| (1#w <<< i)) 0

def synInfo (p : Pass) : Word :=
  bitAt true 0 ||| bitAt p.wale 1 ||| natAt p.tile.fmt.toNat 2 ||| bitAt p.bank 6 |||
    bitAt p.fmt.float 7 ||| natAt p.a0 8 ||| natAt (p.m - 1) 17 ||| natAt p.attempts 27

/-- The capture of a failed verdict (R83). One that fails in columns only names row 0 (DESIGN CHOICE, log
79). -/
def capture (s : State) (p : Pass) (v : Verdict) : Syndrome where
  info := synInfo p
  row := natAt (v.rows.min?.getD 0) 0 ||| natAt v.rows.eraseDups.length 16
  cols := bitmap 128 (v.cols.filter (fun n => decide (n < 128)))
  col4 := bitAt (v.cols.contains 128) 0 ||| (if p.wale then natAt (bitmap 4 v.quads).toNat 4 else 0)
  tick := bits (now s) 0 32

/-- Object of CHECK_REPLAY and HARD_CHECK (R562). -/
def passObj (p : Pass) : DWord := BitVec.ofNat 64 (p.a0 + if p.bank then 512 else 0)

/-- The rows of a tile as they stand in the Pannier. -/
def readTile (s : State) (c : Nat) (t : Tile) : Tile :=
  if t.zero then t
  else { t with data := (List.range (tileRows t.fmt)).map (fun i => relRow s c (t.row + i)) }

/-- The failed pass reloads its tile; the passes after it that reuse that tile run with it too (R81). -/
def reloadPasses (s : State) (c : Nat) : List Pass → List Pass
  | [] => []
  | p :: l =>
    let t := readTile s c p.tile
    { p with tile := t } :: (l.takeWhile (fun q => !q.takesTile)).map (fun q => { q with tile := t }) ++
      l.dropWhile (fun q => !q.takesTile)

/-- The relative rows of a tile. -/
def tileHeld (t : Tile) : List Nat :=
  if t.zero then [] else (List.range (tileRows t.fmt)).map (fun i => t.row + i)

/-- A tile that no TMM has taken is loaded again behind the passes that are replayed (R81). -/
def reloadShadow (t : Ta) : Ta := { t with shadow := t.shadow.map (fun h => { h with ready := false }) }

/-- A unit puts its core into repair hold (R82). -/
def repairHold (s : State) (c : Nat) (by_ : HoldBy) : State :=
  updTa s c (fun t => { t with st := .hold, repairHold := some by_ })

/-- A verdict fails: the counts, the capture, the entries, and a replay or repair hold. -/
def failPass (s : State) (c : Nat) (p : Pass) (v : Verdict) : State :=
  let ctx := (coreOf s c).task.map (·.1)
  let syn := capture s p v
  let cols := v.cols.eraseDups.map (fun n => (now s, n))
  let s := updTa s c (fun t =>
    let held := t.syn.info.getLsbD 0
    { t with
      checkCnt := satAdd t.checkCnt 1
      syn := if held then t.syn else syn
      colCounts := if held then t.colCounts else t.colCounts ++ cols
      event := scEvent t.event 1 })
  let s := countCore s c 5 1
  let s := post s 0x110 c ctx (passObj p) (BitVec.ofNat 64 p.attempts)
  if p.attempts < (coreOf s c).ta.replayLimit.toNat then
    let s := trace s 6 c ctx 0 (BitVec.ofNat 128 (c + 256 * (p.attempts + 1)))
    readRows s c ((tileHeld p.tile).map (fun r => baseOf s c + r)) (fun s =>
      updTa s c (fun t => reloadShadow { t with
        passes := reloadPasses s c ({ p with attempts := p.attempts + 1 } :: t.passes.tail) }))
  else
    let s := updTa s c (fun t => reloadShadow { t with event := scEvent t.event 2 })
    post (repairHold s c .array) 0x111 c ctx (passObj p) (BitVec.ofNat 64 p.attempts)

/-- A slot of the feeder is held by an uncommitted pass (R148). -/
def feederHeld (k : Core) (x : LineSlot) : Bool := k.ta.passes.any (fun p => decide (p.slot = some x))

/-- The oldest pass goes on with the slot that it uses: one that a resume has cleared is found again or
filled from the held rows (R150); while none is free it waits. -/
def withSlot (s : State) (c : Nat) (p : Pass) (f : State → Pass → State) : State :=
  let k := coreOf s c
  let use (x : LineSlot) (s : State) : State :=
    let p := { p with slot := some x }
    f (updTa s c (fun t => { t with passes := p :: t.passes.tail })) p
  match p.src with
  | .plain _ => f s p
  | .conv v =>
    let n := needOf (baseOf s c) v p.m (kRows p.fmt p.wale)
    if (match p.slot with | some x => k.cnv.slots.contains x | none => false) then f s p
    else match slotFor k.cnv.slots n with
      | some x => use x s
      | none =>
        match fillSlot (feederHeld k) k.cnv.slots n with
        | none => s
        | some l => readRows s c n.rows (fun s =>
            use n (updCore s c (fun k => { k with cnv := { k.cnv with
              slots := l, fillCnt := satAdd k.cnv.fillCnt 1 } })))

/-- The failed row of a quadrant that has its spare switched in. -/
def repairRow (w : Word) (q : Nat) : Option Nat :=
  if w.getLsbD (8 * q + 5) then some (bits w (8 * q) 5).toNat else none

/-- The physical row of logical row `k` under the map word `w` (R59, R60): rows of a repaired quadrant from the
failed one on move down by one, the last onto the spare. -/
def arrayRow (w : Word) (k : Nat) : Nat :=
  let i := k % 32
  33 * (k / 32) + match repairRow w (k / 32) with
    | some f => if f ≤ i then i + 1 else i
    | none => i

/-- Physical row `r` holds a logical row; a bypassed row and a spare that is not switched in add nothing to the
partial sums (R60). -/
def rowWorks (w : Word) (r : Nat) : Bool := (List.range 128).any (fun k => decide (arrayRow w k = r))

/-- The faults of an attempt that reach the results: those outside the cells, and those of cells in use. -/
def liveFaults (w : Word) (l : List PassFault) : List PassFault :=
  l.filter (fun x => x.cell.all (fun r => rowWorks w r.toNat))

/-- The address rows of a plain pass's activations, which it reads as it runs; those of a convolution pass
are read by the fill of its slot. -/
def passReads (s : State) (c : Nat) (p : Pass) : List Nat :=
  let k := coreOf s c
  match p.src with
  | .plain pl => (operandRows k.brd (passChain k p) pl (kRows p.fmt p.wale) p.m).map
      (fun r => baseOf s c + r.toNat)
  | .conv _ => []

/-- The bank rows that a pass writes. -/
def passKeys (p : Pass) : List Nat := (List.range (passSpan p)).map (fun i => bankKey p.bank (p.a0 + i))

/-- PASS_VERDICT: the verdict of the oldest uncommitted pass, once every earlier-issued access to its bank
rows is over (R73). `faults` are the physical faults of this attempt; `ecc` is what bank words turn out to
hold (R72), which a pass that accumulates reads. -/
def passVerdict (core : CoreId) (faults : List PassFault) (ecc : BankEcc) (s : State) : State :=
  let c := core.toNat
  let k := coreOf s c
  let faults := liveFaults k.ta.repairMap faults
  match k.ta.repairHold, k.ta.passes with
  | none, p :: _ =>
    if writesBefore k p.no p.bank p.a0 (p.a0 + passSpan p) ||
        readsBefore k p.no p.bank p.a0 (p.a0 + passSpan p) then s
    else withSlot s c p (fun s p => readRows s c (passReads s c p) (fun s =>
      let acts := actRows s c p
      let sums := passSums p acts.1 faults
      let v := verdictOf p acts.1 sums faults
      let s := countCore (updTa s c (noteBank ecc)) c 9 v.unchecked
      if v.ok then
        let b := if p.clr then (false, s) else readBank s c (passKeys p)
        if b.1 then coreFault b.2 c tfAccEcc 1 0 else commitPass (countEv b.2 c acts.2) c p sums
      else failPass s c p v))
  | _, _ => s

-- ---------------------------------------------------------------- TMM (R284 to R289)

/-- The flags and limits that R67 and R287 ask of a plain TMM. -/
def tmmFlagsBad (wale : Bool) (f : PassFmt) (o : TmmOp) (tile : Tile) : Bool :=
  let m := o.mm1.toNat + 1
  (wale && decide (m > 128)) || decide (o.a0.toNat + (if wale then 4 * m else m) > 512) ||
  ((o.last || o.defer) && !o.chen) || (o.defer && !o.last) ||
  (o.linked && (o.chen || o.last || o.defer)) || !actFits f o.afmt || !tileFits f tile.fmt

/-- A pass as it issues: it takes the shadow's tile if there is one, and its rows are held. -/
def issuePass (s : State) (c : Nat) (p : Pass) : State :=
  updCore s c (fun k => { k with
    issueNo := k.issueNo + 1
    ta := { k.ta with
      active := nextTile k.ta, shadow := none
      passes := k.ta.passes ++ [{ p with
        no := k.issueNo, tile := nextTile k.ta, takesTile := k.ta.shadow.isSome }] } })

/-- A TMM waits for its tile, and while 16 passes are uncommitted (R65, R71). -/
def tmmWaits (t : Ta) : Bool :=
  decide (t.passes.length ≥ 16) || (match t.shadow with | some h => !h.ready | none => false)

def slotTmm (f : PassFmt) (a : At) (o : TmmOp) : SlotInfo :=
  slotAt a slotTen [] (fun old cur =>
    let c := a.core.toNat
    let k := coreOf old c
    let wale := k.ta.wale
    let m := o.mm1.toNat + 1
    let width := nCols wale
    let bound := boundOf old c
    let sl := o.ch.toNat
    let ch : Option Chain := if o.chen then slotChain k.brd sl else none
    let kk := kRows f wale
    let src := placement (wReg k o.wa) (itemSize ch o.afmt kk m)
    let rows := operandRows k.brd ch src kk m
    let brdBad : Option Nat :=
      match ch with
      | some h => chainFault k.brd h m width wale false o.last (some o.afmt)
      | none => faultIf (o.chen || (o.linked && (f.integer ||
          !(match slotChain k.brd sl with | some h => h.link | none => false)))) 0
    let out := match ch with
      | some h => if o.last then resultSpan h (wReg k o.wo) m width o.defer else []
      | none => []
    let rowBad : Option Nat := match ch with
      | some h => if o.last then epiBound bound h out (wReg k o.wx) m width else none
      | none => none
    if fmtReserved o.afmt then illegal c 1 slotTen
    else if tmmFlagsBad wale f o (nextTile k.ta) then illegal c 8 slotTen
    else match brdBad with
      | some i => brdIllegal c sl i
      | none =>
        if spanBad bound rows then .fault (fun s => seqFault s c tfPannierBound 2 slotTen)
        else match rowBad with
          | some i => .fault (fun s => brdFaultAt s c tfPannierBound 0 sl i)
          | none =>
            let go (cur : State) : SlotRes := .next (issuePass cur c {
              no := 0, slot := none
              fmt := f, afmt := o.afmt, tile := {}, takesTile := false, wale := wale, m := m
              src := .plain src, bank := o.bank, a0 := o.a0.toNat, clr := o.clr, linked := o.linked
              chain := if o.chen || o.linked then some o.ch else none, last := o.last, defer := o.defer
              out := placement (wReg k o.wo) 512, aux := placement (wReg k o.wx) 512, attempts := 0
              held := rows.map Int.toNat ++ tileHeld (nextTile k.ta) }) none
            if spanProtected k out then .fault (fun s => seqFault s c tfLiveWrite 1 slotTen)
            else if tmmWaits k.ta then .wait id
            else match ch with
              | some h => pstoreRead a sl (eccStage 0 h.pro) cur go
              | none => go cur)

/-- The pass parameters in s[RP] (R288). -/
def convPassOf (r : Row) (row : Nat) (v : DWord) : ConvPass where
  descRow := row
  desc := flatDesc (convDescOf r)
  y := (bits v 0 16).toNat
  x0 := (bits v 16 16).toNat
  ky := (bits v 32 3).toNat
  kx0 := (bits v 35 3).toNat
  b := (bits v 38 10).toNat

/-- Byte size of a chain's element in a feature map; none for 4-bit elements. -/
def mapBytes (f : Fmt) : Option Nat := if fmtBits f ≥ 8 then some (fmtBytes f) else none

/-- Byte sizes of the elements that the RESIDs of a chain read. -/
def residBytes (c : Chain) : List Nat :=
  c.epi.filterMap (fun s => if s.kind = 7 then mapBytes (BitVec.ofNat 4 s.arg) else none)

/-- A chain that no convolution pass may name (R143, R133). -/
def convChainBad (c : Chain) : Bool :=
  hasKind c.epi 12 || hasKind c.epi 13 || (mapBytes c.sfmt).isNone ||
    c.epi.any (fun s => decide (s.kind = 7) && (mapBytes (BitVec.ofNat 4 s.arg)).isNone)

/-- A TMM.C reads its descriptor, unless the feeder keeps it (R135). -/
def readDesc (s : State) (c row : Nat) : State :=
  let a := baseOf s c + row
  if (coreOf s c).cnv.descs.contains a then s
  else readRows s c [a] (fun s => updCore s c (fun k => { k with cnv := { k.cnv with
    descs := keepDesc k.cnv.descs a } }))

/-- The descriptor row would be read and cannot be (R219). -/
def descLost (s : State) (c row : Nat) : Bool :=
  let a := baseOf s c + row
  !(coreOf s c).cnv.descs.contains a && (senseRows s c [a]).1

def slotTmmC (f : PassFmt) (a : At) (o : TmmCOp) : SlotInfo :=
  slotAt a slotTen [] (fun old cur =>
    let c := a.core.toNat
    let k := coreOf old c
    let v := sReg k o.rp
    let m := o.mm1.toNat + 1
    let a0 := (bits v 48 9).toNat
    let bound := boundOf old c
    let sl := o.ch.toNat
    let ch : Option Chain := if o.chen then slotChain k.brd sl else none
    let row := wRow (wReg k o.wd)
    let r := relRow old c row
    let p := convPassOf r row v
    let kk := kRows f false
    let flags : Bool := (k.ta.wale && decide (m > 128)) ||
      decide (a0 + (if k.ta.wale then 4 * m else m) > 512) || !actFits f o.afmt ||
      !tileFits f (nextTile k.ta).fmt
    let brdBad : Option Nat := match ch with
      | some h => chainFault k.brd h m 128 false true o.last (some o.afmt)
      | none => faultIf o.chen 0
    let badChain : Bool := (o.last && !o.chen) || (match ch with
      | some h => convChainBad h
      | none => false)
    let outE := ch.bind (fun h => mapBytes h.sfmt)
    let resE := match ch with | some h => residBytes h | none => []
    let outW := wRow (wReg k o.wo)
    let auxW := wRow (wReg k o.wx)
    let bad : Option CnvBad :=
      if row ≥ bound then
        (if k.ta.wale then some { code := 1, reason := 5 }
          else if badChain then some { code := 1, reason := 10 }
          else some { code := 3, reason := 1 })
      else convFault p r (convDescOf r) bound m kk o.afmt k.ta.wale badChain o.last outE resE outW auxW
    let out : List Nat := match outE with
      | some e => if o.last then runRows p.desc outW p.y p.x0 m e p.desc.nOut 0 else []
      | none => []
    let read (s : State) : State := if row ≥ bound then s else readDesc s c row
    if fmtReserved o.afmt || decide (bits v 57 7 ≠ 0) then illegal c 1 slotTen
    else if flags then illegal c 8 slotTen
    else match brdBad with
    | some i => brdIllegal c sl i
    | none =>
      if decide (row < bound) && descLost old c row then .stop (fun s => readDesc s c row)
      else match bad with
      | some b => .fault (fun s => cnvFault (read s) c b)
      | none =>
        let need := needOf (baseOf old c) p m kk
        if out.any (protectedRow k) then .fault (fun s => seqFault s c tfLiveWrite 1 slotTen)
        else match slotFor k.cnv.slots need with
          | none => .wait (fun s => updCore (read s) c (fun k => { k with cnv := { k.cnv with
              wanted := some need } }))
          | some x =>
            let go (cur : State) : SlotRes :=
              let s := updCore (read cur) c (fun k => { k with cnv := { k.cnv with
                slots := useSlot k.cnv.slots need
                reuseCnt := if k.cnv.filled = some x then k.cnv.reuseCnt else satAdd k.cnv.reuseCnt 1
                filled := none, wanted := none } })
              .next (issuePass s c {
                no := 0, slot := some x
                fmt := f, afmt := o.afmt, tile := {}, takesTile := false, wale := false, m := m
                src := .conv p, bank := o.bank, a0 := a0, clr := o.clr, linked := false
                chain := if o.chen then some o.ch else none, last := o.last, defer := false
                out := { row := outW, stride := 1, size := 512 }
                aux := { row := auxW, stride := 1, size := 512 }, attempts := 0
                held := row :: convRows p m kk ++ tileHeld (nextTile k.ta) }) none
            if tmmWaits k.ta then .wait read
            else match ch with
              | some h => pstoreRead a sl (eccStage 0 h.pro) cur go
              | none => go cur)

/-- LINE_SLOT_FILL: the line that a pass waits for is filled into a slot, once one is free (R148). -/
def lineSlotFill (core : CoreId) (s : State) : State :=
  let c := core.toNat
  let k := coreOf s c
  match k.cnv.wanted with
  | none => s
  | some n =>
    match fillSlot (feederHeld k) k.cnv.slots n with
    | none => s
    | some l => readRows s c n.rows (fun s => updCore s c (fun k => { k with cnv := { k.cnv with
        slots := l, wanted := none, filled := some n, fillCnt := satAdd k.cnv.fillCnt 1 } }))

def slotTmmI8 (a : At) (o : TmmOp) : SlotInfo := slotTmm .i8 a o
def slotTmmI4 (a : At) (o : TmmOp) : SlotInfo := slotTmm .i4 a o
def slotTmmL4 (a : At) (o : TmmOp) : SlotInfo := slotTmm .l4 a o
def slotTmmF8 (a : At) (o : TmmOp) : SlotInfo := slotTmm .f8 a o
def slotTmmBf16 (a : At) (o : TmmOp) : SlotInfo := slotTmm .bf16 a o
def slotTmmF16 (a : At) (o : TmmOp) : SlotInfo := slotTmm .f16 a o
def slotTmmCI8 (a : At) (o : TmmCOp) : SlotInfo := slotTmmC .i8 a o
def slotTmmCI4 (a : At) (o : TmmCOp) : SlotInfo := slotTmmC .i4 a o
def slotTmmCL4 (a : At) (o : TmmCOp) : SlotInfo := slotTmmC .l4 a o
def slotTmmCF8 (a : At) (o : TmmCOp) : SlotInfo := slotTmmC .f8 a o
def slotTmmCBf16 (a : At) (o : TmmCOp) : SlotInfo := slotTmmC .bf16 a o
def slotTmmCF16 (a : At) (o : TmmCOp) : SlotInfo := slotTmmC .f16 a o

-- ---------------------------------------------------------------- TLW, TMODE, TACLR (R290 to R292)

/-- Formats that a TLW accepts. -/
def tlwFmtOk (f : Fmt) : Bool := decide (f = 0 ∨ (2 ≤ f.toNat ∧ f.toNat ≤ 7))

def slotTlw (a : At) (tfmt : Fmt) (wt : WReg) (wpi : Bool) : SlotInfo :=
  slotAt a slotTen (wrW wt wpi) (fun old cur =>
    let c := a.core.toNat
    let k := coreOf old c
    let v := wReg k wt
    let n := tileRows tfmt
    if fmtReserved tfmt then illegal c 1 slotTen
    else if !tlwFmtOk tfmt then illegal c 8 slotTen
    else if wRow v + n > boundOf old c then .fault (fun s => seqFault s c tfPannierBound 2 slotTen)
    else if (match k.ta.shadow with | some h => !h.ready | none => false) then .wait id
    else
      let s := updTa cur c (fun t => { t with shadow := some {
        tile := { fmt := tfmt, row := wRow v, wale := t.wale, zero := false }, ready := false } })
      .next (postInc s c wt v wpi n) none)

/-- TLW_LOAD_DONE: the tile stands in the shadow registers (R63). -/
def tlwLoadDone (core : CoreId) (s : State) : State :=
  let c := core.toNat
  match (coreOf s c).ta.shadow with
  | none => s
  | some h =>
    if h.ready then s
    else readRows s c ((tileHeld h.tile).map (fun r => baseOf s c + r)) (fun s =>
      updTa s c (fun t => { t with shadow := some { tile := readTile s c h.tile, ready := true } }))

/-- TMODE (R75): a switch waits for every earlier pass and clears both tiles. -/
def slotTmode (a : At) (wale : Bool) : SlotInfo :=
  slotAt a slotTen [] (fun old cur =>
    let t := (coreOf old a.core.toNat).ta
    if t.wale = wale then .next cur none
    else if !t.passes.isEmpty then .wait id
    else .next (updTa cur a.core.toNat (fun t => { t with wale := wale, active := {}, shadow := none })) none)

def slotTmodeN (a : At) : SlotInfo := slotTmode a false
def slotTmodeW (a : At) : SlotInfo := slotTmode a true

def slotTaclr (a : At) (bank : Bool) (a0 nm1 : BitVec 9) : SlotInfo :=
  slotAt a slotTen [] (fun old cur =>
    let c := a.core.toNat
    let hi := a0.toNat + nm1.toNat + 1
    if hi > 512 then illegal c 8 slotTen
    else if bankInUse (coreOf old c) bank a0.toNat hi then .wait id
    else .next ((List.range (nm1.toNat + 1)).foldl (fun s i => setBankRow s c bank (a0.toNat + i) 0) cur)
      none)

-- ---------------------------------------------------------------- calls that leave the core (R295 to R299)

def slotRcall (a : At) (rs : SReg) (ac : AcId) : SlotInfo :=
  slotAt a slotTen [] (fun old cur =>
    let c := a.core.toNat
    let k := coreOf old c
    let v := sReg k rs
    if v.toNat % 64 ≠ 0 then illegal c 8 slotTen
    else if k.seq.calls.length ≥ 16 then .wait id
    else match k.task with
      | none => .wait id
      | some (x, t) =>
        let n := cur.ru.next
        let s := { cur with ru := { cur.ru with
          next := n + 1
          calls := cur.ru.calls ++ [{
            id := n, counts := true, ctx := x, basket := (ctxOf cur x).basket.toNat
            src := .core c t ac k.seq.ord, req := v, block := 0, block2 := 0 }] } }
        .next (updSeq s c (fun q => { q with calls := q.calls ++ [.region n q.ord] })) none)

/-- The records of a SAPP as they stand (R296). -/
def sappRecs (s : State) (c : Nat) (p : Placement) (n bytes : Nat) : List (List Byte) :=
  (List.range n).map (fun j => leBytes bytes (itemBits s c p j))

/-- The record placement of a SAPP: 64 bytes for the Journal; one Gallery record a row. -/
def sappPlace (v : WVal) (reg : Bool) : Placement := placement v (if reg then 320 else 64)

/-- The sequence number of the task's next SAPP since its last YIELD (R298). -/
def sappNo (s : State) (c : Nat) : Nat := match taskOf s c with
  | some (_, t) => t.sappSeq
  | none => 0

def nextSapp (s : State) (c : Nat) : State := match taskOf s c with
  | some (x, t) => updCtx s x (fun k => { k with task := some { t with sappSeq := t.sappSeq + 1 } })
  | none => s

def slotSapp (a : At) (reg : Bool) (ws : WReg) (nm1 : Byte) (ac : AcId) : SlotInfo :=
  slotAt a slotTen [] (fun old cur =>
    let c := a.core.toNat
    let k := coreOf old c
    let n := nm1.toNat + 1
    let p := sappPlace (wReg k ws) reg
    let rows := itemRows p n
    let grant : Bool := match k.task with | some (x, _) => (ctxOf old x).grant | none => false
    if !grant then illegal c 9 slotTen
    else if spanBad (boundOf old c) rows then .fault (fun s => seqFault s c tfPannierBound 2 slotTen)
    else if k.seq.calls.length ≥ 16 then .wait id
    else
      let addrs := rows.map (fun r => baseOf old c + r.toNat)
      if (senseRows old c addrs).1 then .stop (fun s => readRows s c addrs id)
      else
        let s := nextSapp (senseRows cur c addrs).2 c
        .next (updSeq s c (fun q => { q with
          calls := q.calls ++ [.append reg p n (sappRecs old c p n (if reg then 320 else 64)) ac q.ord
            (sappNo cur c)] })) none)

end Sys2Proof.Machine
end

