-- ==== Sys2Proof/Machine/Vector.lean ====
section
/-! DEFINITION. The Vector Unit (06; 10, R301 to R303): registers, lanes, and every instruction of the
VEC slot but VDW. -/

namespace Sys2Proof.Machine

-- ---------------------------------------------------------------- registers and lanes (R160, R161)

def updVu (s : State) (c : Nat) (f : Vu → Vu) : State :=
  updCore s c (fun k => { k with vu := f k.vu })

def updVr (s : State) (c : Nat) (f : VuRegs → VuRegs) : State :=
  updVu s c (fun v => { v with regs := f v.regs })

def vReg (k : Core) (r : VReg) : Row := mget 0 k.vu.regs.v r.toNat
def setV (s : State) (c : Nat) (r : VReg) (v : Row) : State :=
  updVr s c (fun u => { u with v := mset 0 u.v r.toNat v })

/-- Element `i` of width `w` bits is enabled: the bit of its lowest byte is set. -/
def laneOn (p : BitVec 512) (w i : Nat) : Bool := p.getLsbD (i * w / 8)

/-- The destination after an operation on its lanes of width `w`, with the numeric events. -/
def mapLanes (w : Nat) (p : BitVec 512) (old : Row) (f : Nat → Nat × NumEv) : Row × NumEv :=
  let l := (List.range (4096 / w)).map (fun i => if laneOn p w i then f i else (elem old w i, {}))
  let r := addEv l
  (packRow w r.1, r.2)

-- ---------------------------------------------------------------- formats (R163)

def vecAny (f : Fmt) : Bool := !fmtReserved f && !decide (f = 2 ∨ f = 3)
def vecInt (f : Fmt) : Bool := decide (f = 0 ∨ f = 1 ∨ f = 9 ∨ f = 10)
def vecFloat (f : Fmt) : Bool := decide (f = 6 ∨ f = 7 ∨ f = 8)
def vecArith (f : Fmt) : Bool := vecInt f || vecFloat f
def vecDot (f : Fmt) : Bool := decide (f = 0 ∨ f = 1)
def vecF32 (f : Fmt) : Bool := decide (f = 8)

/-- The pairs of R50 that VCVT takes; a Lattice-4 source counts as an FP32 one (log 17). -/
def cvtPair (src dst : Fmt) : Bool :=
  let wide (f : Fmt) : Bool := decide (f = 3 ∨ f = 6 ∨ f = 7 ∨ f = 8)
  vecAny dst && (
    (fmtFloat src || decide (src = 3)) && (fmtInt dst || decide (dst = 8)) ||
    wide src && fmtFloat dst ||
    fmtInt src && decide (dst = 8) ||
    fmtInt src && fmtInt dst && decide (fmtBits src ≠ fmtBits dst))

-- ---------------------------------------------------------------- the slot

/-- A refusal recorded in VU_FAULT (R181, R301). -/
def vuIllegal (c : Nat) : SlotRes := .fault (fun s => vuFault s c tfIllegal 8)

/-- One failed attempt of an instruction (R174): its count and its entries. -/
def vuFailure (c pc attempt : Nat) (s : State) : State :=
  let ctx := (coreOf s c).task.map (·.1)
  let s := updVu s c (fun v => { v with checkCnt := satAdd v.checkCnt 1 })
  let s := trace s 6 c ctx 0 (BitVec.ofNat 128 (c + 256 * (attempt + 1)))
  post s 0x114 c ctx (BitVec.ofNat 64 pc) (BitVec.ofNat 64 attempt)

def vuFailures (c pc n : Nat) (s : State) : State :=
  (List.range n).foldl (fun s i => vuFailure c pc i s) s

/-- The failed attempts of an instruction reach the limit: repair hold from the Vector Unit. -/
def vuHold (c pc n : Nat) (by_ : HoldBy) (s : State) : State :=
  let s := updVu (vuFailures c pc n s) c (fun v => { v with holds := v.holds ++ [now s] })
  repairHold s c by_

def replayLimit (k : Core) : Nat := k.ta.replayLimit.toNat

/-- VU_ECC of an uncorrectable word (R162, R181): reason 2 for a word of the query buffer or the lists,
which the similarity instructions alone read, else 1. -/
def vuEccReason (sim buffer : Bool) : Nat := if sim && buffer then 2 else 1

/-- A VEC slot after its own checks: an uncorrectable word ends it, corrected ones are counted (R162),
failed attempts are counted and may put the core into repair hold (R174), then it has its effect. -/
def vecEffect (a : VAt) (sim : Bool) (old cur : State) (f : State → SlotRes) : SlotRes :=
  let c := a.slot.core.toNat
  let pc := (coreOf old c).seq.pc.toNat
  match a.vdouble with
  | some b => .stop (fun s => vuFault s c tfVuEcc (vuEccReason sim b))
  | none =>
    if a.fails.toNat ≥ replayLimit (coreOf old c) then
      .stop (vuHold c pc (replayLimit (coreOf old c)) .vector)
    else
      f (vuFailures c pc a.fails.toNat
        (updVu cur c (fun v => { v with eccCnt := satAdd v.eccCnt a.vsingle.toNat })))

/-- An instruction with a format: a reserved code is SEQ_FAULT's, one outside the class VU_FAULT's. -/
def vecSlot (a : VAt) (writes : List (Nat × Nat)) (fmt : Fmt) (ok : Bool)
    (f : Core → State → State) : SlotInfo :=
  slotAt a.slot slotVec writes (fun old cur =>
    let c := a.slot.core.toNat
    if fmtReserved fmt then illegal c 1 slotVec
    else if !ok then vuIllegal c
    else vecEffect a false old cur (fun s => .next (f (coreOf old c) s) none))

/-- The lanes of a destination are written under the predicate. -/
def writeLanes (s : State) (c : Nat) (k : Core) (w : Nat) (pr : FReg) (vd : VReg)
    (f : Nat → Nat × NumEv) : State :=
  let r := mapLanes w (fReg k pr) (vReg k vd) f
  countEv (setV s c vd r.1) c r.2

def vecUn (a : VAt) (o : VUn) (ok : Bool) (f : Nat → Nat × NumEv) : SlotInfo :=
  vecSlot a [] o.fmt ok (fun k s =>
    let w := fmtBits o.fmt
    writeLanes s a.slot.core.toNat k w o.pr o.vd (fun i => f (elem (vReg k o.va) w i)))

def vecBin (a : VAt) (o : VBin) (ok : Bool) (f : Nat → Nat → Nat × NumEv) : SlotInfo :=
  vecSlot a [] o.fmt ok (fun k s =>
    let w := fmtBits o.fmt
    writeLanes s a.slot.core.toNat k w o.pr o.vd
      (fun i => f (elem (vReg k o.va) w i) (elem (vReg k o.vb) w i)))

-- ---------------------------------------------------------------- element operations (R164 to R166)

def pure0 (x : Nat) : Nat × NumEv := (x, {})

/-- An exact result rounded once into a floating-point format, an overflow counted (R164). -/
def fltRes (f : Fmt) (v : Fv) : Nat × NumEv := floatToFloat f v

def intWrap (f : Fmt) (v : Int) : Nat × NumEv := pure0 (encInt f v)
def intSat (f : Fmt) (v : Int) : Nat × NumEv := let r := satInt f v; (encInt f r.1, r.2)

/-- An operation that is integer or floating-point by its format. -/
def arith2 (f : Fmt) (gi : Int → Int → Int) (gf : Fv → Fv → Fv) (x y : Nat) : Nat × NumEv :=
  if fmtFloat f then fltRes f (gf (decFloat f x) (decFloat f y))
  else intWrap f (gi (decInt f x) (decInt f y))

def arith1 (f : Fmt) (gi : Int → Int) (gf : Fv → Fv) (x : Nat) : Nat × NumEv :=
  if fmtFloat f then fltRes f (gf (decFloat f x)) else intWrap f (gi (decInt f x))

def bitsOp (f : Fmt) (g : BitVec 32 → BitVec 32 → BitVec 32) (x y : Nat) : Nat × NumEv :=
  pure0 ((g (BitVec.ofNat 32 x) (BitVec.ofNat 32 y)).toNat % 2 ^ fmtBits f)

def vshlElem (f : Fmt) (x y : Nat) : Nat × NumEv :=
  pure0 (x * 2 ^ (y % fmtBits f) % 2 ^ fmtBits f)
def vshrElem (f : Fmt) (x y : Nat) : Nat × NumEv :=
  intWrap f ((decInt f x).fdiv (2 ^ (y % fmtBits f) : Nat))

-- ---------------------------------------------------------------- moves

def slotVmov (a : VAt) (o : VUn) : SlotInfo := vecUn a o (vecAny o.fmt) pure0

def slotVbc (a : VAt) (fmt : Fmt) (vd : VReg) (rs : SReg) (pr : FReg) : SlotInfo :=
  vecSlot a [] fmt (vecAny fmt) (fun k s =>
    writeLanes s a.slot.core.toNat k (fmtBits fmt) pr vd
      (fun _ => pure0 ((sReg k rs).toNat % 2 ^ fmtBits fmt)))

def slotVext (a : VAt) (fmt : Fmt) (rd : SReg) (va : VReg) (lane : BitVec 9) : SlotInfo :=
  vecSlot a (wrS rd) fmt (vecAny fmt && decide (lane.toNat < 4096 / fmtBits fmt)) (fun k s =>
    setS s a.slot.core.toNat rd (BitVec.ofNat 64 (elem (vReg k va) (fmtBits fmt) lane.toNat)))

-- ---------------------------------------------------------------- arithmetic

def slotVadd (a : VAt) (o : VBin) : SlotInfo :=
  vecBin a o (vecArith o.fmt) (arith2 o.fmt (· + ·) fvAdd)
def slotVsub (a : VAt) (o : VBin) : SlotInfo :=
  vecBin a o (vecArith o.fmt) (arith2 o.fmt (· - ·) fvSub)
def slotVmul (a : VAt) (o : VBin) : SlotInfo :=
  vecBin a o (vecArith o.fmt) (arith2 o.fmt (· * ·) fvMul)
/-- The upper half of the exact double-width product. -/
def slotVmulh (a : VAt) (o : VBin) : SlotInfo :=
  vecBin a o (vecInt o.fmt) (fun x y =>
    intWrap o.fmt ((decInt o.fmt x * decInt o.fmt y).fdiv (2 ^ fmtBits o.fmt : Nat)))
def slotVadds (a : VAt) (o : VBin) : SlotInfo :=
  vecBin a o (vecInt o.fmt) (fun x y => intSat o.fmt (decInt o.fmt x + decInt o.fmt y))
def slotVsubs (a : VAt) (o : VBin) : SlotInfo :=
  vecBin a o (vecInt o.fmt) (fun x y => intSat o.fmt (decInt o.fmt x - decInt o.fmt y))
def slotVmin (a : VAt) (o : VBin) : SlotInfo :=
  vecBin a o (vecArith o.fmt) (arith2 o.fmt min fvMin)
def slotVmax (a : VAt) (o : VBin) : SlotInfo :=
  vecBin a o (vecArith o.fmt) (arith2 o.fmt max fvMax)
def slotVabs (a : VAt) (o : VUn) : SlotInfo :=
  vecUn a o (vecArith o.fmt) (arith1 o.fmt (fun x => (x.natAbs : Int)) Fv.abs)
def slotVneg (a : VAt) (o : VUn) : SlotInfo :=
  vecUn a o (vecArith o.fmt) (arith1 o.fmt (fun x => -x) Fv.neg)
def slotVshl (a : VAt) (o : VBin) : SlotInfo := vecBin a o (vecInt o.fmt) (vshlElem o.fmt)
def slotVshr (a : VAt) (o : VBin) : SlotInfo := vecBin a o (vecInt o.fmt) (vshrElem o.fmt)
def slotVand (a : VAt) (o : VBin) : SlotInfo := vecBin a o (vecInt o.fmt) (bitsOp o.fmt (· &&& ·))
def slotVor (a : VAt) (o : VBin) : SlotInfo := vecBin a o (vecInt o.fmt) (bitsOp o.fmt (· ||| ·))
def slotVxor (a : VAt) (o : VBin) : SlotInfo := vecBin a o (vecInt o.fmt) (bitsOp o.fmt (· ^^^ ·))
def slotVnot (a : VAt) (o : VUn) : SlotInfo :=
  vecUn a o (vecInt o.fmt) (fun x => bitsOp o.fmt (fun v _ => ~~~v) x 0)

/-- Lane `j` of VDOT4: the INT32 accumulator and four products. -/
def dot4 (f : Fmt) (k : Core) (o : VBin) (j : Nat) : Nat × NumEv :=
  let p (i : Nat) : Int :=
    decInt f (elem (vReg k o.va) 8 (4 * j + i)) * decInt f (elem (vReg k o.vb) 8 (4 * j + i))
  intWrap 9 (decInt 9 (elem (vReg k o.vd) 32 j) + p 0 + p 1 + p 2 + p 3)

def slotVdot4 (a : VAt) (o : VBin) : SlotInfo :=
  vecSlot a [] o.fmt (vecDot o.fmt) (fun k s =>
    writeLanes s a.slot.core.toNat k 32 o.pr o.vd (dot4 o.fmt k o))

/-- VA times VB plus VC, rounded once. -/
def slotVfma (a : VAt) (o : VBin) (vc : VReg) : SlotInfo :=
  vecSlot a [] o.fmt (vecFloat o.fmt) (fun k s =>
    let w := fmtBits o.fmt
    let x (r : VReg) (i : Nat) : Fv := decFloat o.fmt (elem (vReg k r) w i)
    writeLanes s a.slot.core.toNat k w o.pr o.vd
      (fun i => fltRes o.fmt (fvAdd (fvMul (x o.va i) (x o.vb i)) (x vc i))))

def slotVdiv (a : VAt) (o : VBin) : SlotInfo :=
  vecBin a o (vecFloat o.fmt) (fun x y => fltRes o.fmt (fvDiv (decFloat o.fmt x) (decFloat o.fmt y)))
def slotVsqrt (a : VAt) (o : VUn) : SlotInfo :=
  vecUn a o (vecFloat o.fmt) (fun x => fltRes o.fmt (fvSqrt (decFloat o.fmt x)))
def slotVrcp (a : VAt) (o : VUn) : SlotInfo :=
  vecUn a o (vecFloat o.fmt) (fun x => fltRes o.fmt (fvDiv (fvInt 1) (decFloat o.fmt x)))
def slotVrsqrt (a : VAt) (o : VUn) : SlotInfo :=
  vecUn a o (vecFloat o.fmt) (fun x => fltRes o.fmt (fvRsqrt (decFloat o.fmt x)))

/-- The procedure of R114 for any argument (R168), with the overflow that it may end in. -/
def vexpElem (x : Nat) : Nat × NumEv :=
  match decFloat 8 x with
  | .nan => fltRes 8 .nan
  | .inf false => fltRes 8 (.inf false)
  | z =>
    let t := rne32 (fvMul z (dec32 0x3FB8AA3B))
    if fvLt (fvInt 129) t then (encFloat 8 (.inf false), { ovf := 1 })
    else
      let r := encFloat 8 (expB z)
      (r, if (decFloat 8 r).isInf then { ovf := 1 } else {})

def slotVexp (a : VAt) (o : VUn) : SlotInfo := vecUn a o (vecF32 o.fmt) vexpElem

-- ---------------------------------------------------------------- compare and select (R166)

/-- A condition on two elements; a NaN makes every one false but NE. -/
def cmpElem (f : Fmt) (cond : Nat) (x y : Nat) : Bool :=
  if fmtFloat f then
    let u := decFloat f x
    let v := decFloat f y
    let nan := u.isNan || v.isNan
    match cond with
    | 0 => !nan && fvEq u v
    | 1 => nan || !fvEq u v
    | 2 => !nan && fvLt u v
    | 3 => !nan && fvLe u v
    | 4 => !nan && fvLt v u
    | _ => !nan && fvLe v u
  else
    let u := decInt f x
    let v := decInt f y
    match cond with
    | 0 => decide (u = v)
    | 1 => decide (u ≠ v)
    | 2 => decide (u < v)
    | 3 => decide (u ≤ v)
    | 4 => decide (v < u)
    | _ => decide (v ≤ u)

/-- A predicate with every byte of each enabled element set or cleared. -/
def cmpPred (w : Nat) (p old : BitVec 512) (f : Nat → Bool) : BitVec 512 :=
  (List.range 512).foldl (fun r b =>
    let i := 8 * b / w
    if laneOn p w i then putBits r b (if f i then 1#1 else 0#1) else r) old

def slotVcmp (a : VAt) (fmt : Fmt) (fd : FReg) (va vb : VReg) (pr : FReg) (cond : BitVec 3) :
    SlotInfo :=
  slotAt a.slot slotVec (wrF fd) (fun old cur =>
    let c := a.slot.core.toNat
    let k := coreOf old c
    if fmtReserved fmt || decide (cond.toNat ≥ 6) then illegal c 1 slotVec
    else if !vecArith fmt then vuIllegal c
    else vecEffect a false old cur (fun s =>
      let w := fmtBits fmt
      .next (setF s c fd (cmpPred w (fReg k pr) (fReg k fd)
        (fun i => cmpElem fmt cond.toNat (elem (vReg k va) w i) (elem (vReg k vb) w i)))) none))

/-- VSEL: the predicate selects, every element is written. -/
def slotVsel (a : VAt) (o : VBin) : SlotInfo :=
  vecSlot a [] o.fmt (vecArith o.fmt) (fun k s =>
    let w := fmtBits o.fmt
    setV s a.slot.core.toNat o.vd (packRow w ((List.range (4096 / w)).map (fun i =>
      elem (vReg k (if laneOn (fReg k o.pr) w i then o.va else o.vb)) w i))))

-- ---------------------------------------------------------------- convert (R167)

/-- One element through VCVT; a wider integer takes a narrower one sign-extended (R50). -/
def cvtElem (src dst : Fmt) (x : Nat) : Nat × NumEv :=
  if src = 3 then convNum dst (.flt (.fin (decide (latticeOf x < 0)) (latticeOf x).natAbs (-5)))
  else if fmtInt src && fmtInt dst && decide (fmtBits src < fmtBits dst) then
    intWrap dst (decInt src x)
  else convNum dst (decNum src x)

/-- The part indexes that VCVT takes. -/
def cvtParts (src dst : Fmt) : Nat := max (fmtBits src) (fmtBits dst) / min (fmtBits src) (fmtBits dst)

def slotVcvt (a : VAt) (o : VUn) (src : Fmt) (p : BitVec 3) : SlotInfo :=
  slotAt a.slot slotVec [] (fun old cur =>
    let c := a.slot.core.toNat
    let k := coreOf old c
    if fmtReserved o.fmt || fmtReserved src then illegal c 1 slotVec
    else if !cvtPair src o.fmt || decide (p.toNat ≥ cvtParts src o.fmt) then vuIllegal c
    else vecEffect a false old cur (fun s =>
      let w := fmtBits o.fmt
      let ws := fmtBits src
      let n := 4096 / max w ws
      let x := vReg k o.va
      if ws < w then
        .next (writeLanes s c k w o.pr o.vd (fun i => cvtElem src o.fmt (elem x ws (p.toNat * n + i)))) none
      else
        .next (writeLanes s c k w o.pr o.vd (fun i =>
          if p.toNat * n ≤ i ∧ i < p.toNat * n + n then cvtElem src o.fmt (elem x ws (i - p.toNat * n))
          else pure0 (elem (vReg k o.vd) w i))) none))

-- ---------------------------------------------------------------- reductions (R170)

/-- An FP32 addition, with the overflow that it may end in (R164). -/
def addFlt (a b : Fv) : Fv × NumEv :=
  let r := fltRes 8 (fvAdd a b)
  (decFloat 8 r.1, r.2)

/-- Pairs of a level of the tree added; a last one without a partner goes up as it is. -/
def treeLevel : List Fv → List Fv × NumEv
  | a :: b :: l =>
    let x := addFlt a b
    let r := treeLevel l
    (x.1 :: r.1, x.2.add r.2)
  | l => (l, {})

/-- The sum of a group's enabled elements as a tree (log 17). -/
def treeSum : Nat → List Fv → Fv × NumEv
  | _, [] => (.zero, {})
  | _, [a] => (a, {})
  | 0, a :: _ => (a, {})
  | n + 1, l =>
    let x := treeLevel l
    let r := treeSum n x.1
    (r.1, x.2.add r.2)

/-- The enabled elements of group `j`, each with its index in the group. -/
def groupElems (p : BitVec 512) (w g : Nat) (x : Row) (j : Nat) : List (Nat × Nat) :=
  ((List.range g).filter (fun i => laneOn p w (g * j + i))).map (fun i => (i, elem x w (g * j + i)))

/-- The value lane of a reduction: FP32 for float sources, INT32 for integer ones. -/
def laneNum (f : Fmt) : Num → Nat
  | .int v => encInt 9 v
  | .flt v => if fmtFloat f then encFloat 8 v else 0

def sumGroup (f : Fmt) (l : List Nat) : Nat × NumEv :=
  if fmtFloat f then let r := treeSum 10 (l.map (decFloat f)); (encFloat 8 r.1, r.2)
  else pure0 (encInt 9 ((l.map (decInt f)).foldl (· + ·) 0))

/-- The largest or smallest of a group; of an empty one a free value (log 18). -/
def pickGroup (f : Fmt) (big : Bool) (free : Word) (l : List Nat) : Nat :=
  match l with
  | [] => free.toNat
  | x :: l =>
    if fmtFloat f then
      let pick := if big then fvMax else fvMin
      encFloat 8 (l.foldl (fun m v => pick m (decFloat f v)) (decFloat f x))
    else encInt 9 (l.foldl (fun m v => if big then max m (decInt f v) else min m (decInt f v))
      (decInt f x))

/-- Whether the later element beats the one held: a NaN is larger than every number, +0 larger than
-0 (log 17). -/
def beats (f : Fmt) (big : Bool) (m v : Nat) : Bool :=
  if fmtFloat f then
    let a := decFloat f m
    let b := decFloat f v
    let negz (x : Fv) : Bool := match x with | .fin true 0 _ => true | _ => false
    let below (x y : Fv) : Bool :=
      if y.isNan then !x.isNan else if x.isNan then false
      else fvLt x y || (x.isZero && y.isZero && negz x && !negz y)
    if big then below a b else below b a
  else if big then decide (decInt f m < decInt f v) else decide (decInt f v < decInt f m)

/-- Value and index lanes of an arg-reduction. -/
def argGroup (f : Fmt) (big : Bool) (l : List (Nat × Nat)) : Nat × Nat :=
  match l with
  | [] =>
    (if fmtFloat f then encFloat 8 (.inf big) else encInt 9 (if big then intMin f else intMax f),
      0xFFFFFFFF)
  | e :: l =>
    let b := l.foldl (fun b x => if beats f big b.2 x.2 then x else b) e
    (laneNum f (decNum f b.2), b.1)

/-- log2 of the smallest group: `per` lanes a group. -/
def minLg (f : Fmt) (arg : Bool) : Nat :=
  match fmtBits f, arg with
  | 8, false => 2
  | 8, true => 3
  | _, false => 1
  | _, true => 2

def redOk (f : Fmt) (arg : Bool) (lg : BitVec 4) : Bool :=
  vecArith f && decide (minLg f arg ≤ lg.toNat ∧ 2 ^ lg.toNat ≤ 4096 / fmtBits f)

/-- A reduction writes every lane of its destination, +0 beyond its groups. -/
def vecRed (a : VAt) (o : VUn) (lg : BitVec 4) (arg : Bool)
    (f : Nat → List (Nat × Nat) → List (Nat × NumEv)) : SlotInfo :=
  vecSlot a [] o.fmt (redOk o.fmt arg lg) (fun k s =>
    let w := fmtBits o.fmt
    let g := 2 ^ lg.toNat
    let n := 4096 / w / g
    let r := addEv ((List.range n).flatMap (fun j =>
      f (128 * s.freeCount + j) (groupElems (fReg k o.pr) w g (vReg k o.va) j)))
    countEv (setV { s with freeCount := s.freeCount + 1 } a.slot.core.toNat o.vd (packRow 32 r.1))
      a.slot.core.toNat r.2)

def slotVrsum (a : VAt) (o : VUn) (lg : BitVec 4) : SlotInfo :=
  vecRed a o lg false (fun _ l => [sumGroup o.fmt (l.map (·.2))])
def slotVrmax (a : VAt) (o : VUn) (lg : BitVec 4) : SlotInfo :=
  vecRed a o lg false (fun n l => [pure0 (pickGroup o.fmt true (Config.emptyGroup n) (l.map (·.2)))])
def slotVrmin (a : VAt) (o : VUn) (lg : BitVec 4) : SlotInfo :=
  vecRed a o lg false (fun n l => [pure0 (pickGroup o.fmt false (Config.emptyGroup n) (l.map (·.2)))])
def slotVrargmax (a : VAt) (o : VUn) (lg : BitVec 4) : SlotInfo :=
  vecRed a o lg true (fun _ l => let r := argGroup o.fmt true l; [pure0 r.1, pure0 r.2])
def slotVrargmin (a : VAt) (o : VUn) (lg : BitVec 4) : SlotInfo :=
  vecRed a o lg true (fun _ l => let r := argGroup o.fmt false l; [pure0 r.1, pure0 r.2])

-- ---------------------------------------------------------------- lookup and permute (R169, R171)

def storeByte (b : Braid) (o : Nat) : Nat := elem (mget 0 b.pstore (o / 512)) 8 (o % 512)

/-- A lookup reads the parameter store (R101); no slot and no stage is recorded for it (DESIGN CHOICE, log
80). -/
def vecLut (a : VAt) (w bytes : Nat) (vd va : VReg) (pr : FReg) (off : BitVec 12)
    (f : Braid → Nat → Nat) : SlotInfo :=
  slotAt a.slot slotVec [] (fun old cur =>
    let c := a.slot.core.toNat
    let k := coreOf old c
    if 16 * off.toNat + bytes > 65536 then vuIllegal c
    else vecEffect a false old cur (fun s => pstoreRead a.slot 0 0 s (fun s =>
      .next (writeLanes s c k w pr vd (fun i => pure0 (f k.brd (elem (vReg k va) w i)))) none)))

def slotVlutB (a : VAt) (vd va : VReg) (pr : FReg) (off : BitVec 12) : SlotInfo :=
  vecLut a 8 256 vd va pr off (fun b x => storeByte b (16 * off.toNat + x))
def slotVlutF32 (a : VAt) (vd va : VReg) (pr : FReg) (off : BitVec 12) : SlotInfo :=
  vecLut a 32 2064 vd va pr off
    (fun b x => encFloat 8 (actTable b (16 * off.toNat) (decFloat 8 x)))

/-- The element that VPERM takes: by the low 7 or 8 bits, within its half for 8-bit elements. -/
def permIdx (w i x : Nat) : Nat :=
  if w = 32 then x % 128 else if w = 16 then x % 256 else i / 256 * 256 + x % 256

def slotVperm (a : VAt) (o : VBin) : SlotInfo :=
  vecSlot a [] o.fmt (vecAny o.fmt) (fun k s =>
    let w := fmtBits o.fmt
    writeLanes s a.slot.core.toNat k w o.pr o.vd (fun i =>
      pure0 (elem (vReg k o.va) w (permIdx w i (elem (vReg k o.vb) w i)))))

-- ---------------------------------------------------------------- Pannier and banks (R172)

/-- The row of a w register lies outside the task's range. -/
def rowOut (s : State) (c row : Nat) : Bool := decide (row ≥ boundOf s c)

def slotVld (a : VAt) (v : VReg) (w : WReg) (wpi : Bool) (ecc : RowEcc) : SlotInfo :=
  slotAt a.slot slotVec (wrW w wpi) (fun old cur =>
    let c := a.slot.core.toNat
    let wv := wReg (coreOf old c) w
    if rowOut old c (wRow wv) then .fault (fun s => vuFault s c tfPannierBound 4)
    else
      let read (s : State) : Row × Ecc × State := readRow s c (baseOf old c + wRow wv) ecc
      if (read old).2.1 = .double then .stop (fun s => panFault (read s).2.2 c tfPanEcc 1)
      else vecEffect a false old cur (fun s =>
        let r := read s
        .next (postInc (setV r.2.2 c v (read old).1) c w wv wpi 1) none))

def slotVst (a : VAt) (v : VReg) (w : WReg) (wpi : Bool) : SlotInfo :=
  slotAt a.slot slotVec (wrW w wpi) (fun old cur =>
    let c := a.slot.core.toNat
    let k := coreOf old c
    let wv := wReg k w
    if rowOut old c (wRow wv) then .fault (fun s => vuFault s c tfPannierBound 4)
    else if protectedRow k (wRow wv) then .fault (fun s => seqFault s c tfLiveWrite 1 slotVec)
    else if heldRow k (wRow wv) then .wait id
    else vecEffect a false old cur (fun s =>
      .next (postInc (setRelRow s c (wRow wv) (vReg k v)) c w wv wpi 1) none))

def slotVlda (a : VAt) (v : VReg) (bank : Bool) (row : BitVec 9) (ecc : Ecc) : SlotInfo :=
  slotAt a.slot slotVec [] (fun old cur =>
    let c := a.slot.core.toNat
    let k := coreOf old c
    let r : BitVec 10 := BitVec.ofNat 10 (bankKey bank row.toNat)
    let read (s : State) : Bool × State := readBank (updTa s c (noteBank [(r, ecc)])) c [r.toNat]
    if bankPending k bank row.toNat (row.toNat + 1) then .wait id
    else if (read old).1 then .stop (fun s => coreFault (read s).2 c tfAccEcc 1 0)
    else vecEffect a false old cur (fun s =>
      .next (setV (read s).2 c v (bankRow k bank row.toNat)) none))

def slotVsta (a : VAt) (v : VReg) (bank : Bool) (row : BitVec 9) : SlotInfo :=
  slotAt a.slot slotVec [] (fun old cur =>
    let c := a.slot.core.toNat
    let k := coreOf old c
    if bankInUse k bank row.toNat (row.toNat + 1) then .wait id
    else vecEffect a false old cur (fun s => .next (setBankRow s c bank row.toNat (vReg k v)) none))

-- ---------------------------------------------------------------- similarity (R182 to R185)

def slotVqld (a : VAt) (w : WReg) (half : Bool) (q : BitVec 6) (ecc : RowEcc) : SlotInfo :=
  slotAt a.slot slotVec [] (fun old cur =>
    let c := a.slot.core.toNat
    let row := wRow (wReg (coreOf old c) w)
    if rowOut old c row then .fault (fun s => vuFault s c tfPannierBound 4)
    else
      let read (s : State) : Row × Ecc × State := readRow s c (baseOf old c + row) ecc
      if (read old).2.1 = .double then .stop (fun s => panFault (read s).2.2 c tfPanEcc 1)
      else vecEffect a true old cur (fun s =>
        let h : BitVec 2048 := bits (read old).1 (if half then 2048 else 0) 2048
        .next (updVr (read s).2.2 c (fun u => { u with q := mset 0 u.q q.toNat h })) none))

def slotVtkcfg (a : VAt) (nq : BitVec 7) (k : BitVec 9) : SlotInfo :=
  slotAt a.slot slotVec [] (fun old cur =>
    let c := a.slot.core.toNat
    if nq = 0 ∨ nq.toNat > 64 ∨ k = 0 ∨ k.toNat > 256 then vuIllegal c
    else vecEffect a true old cur (fun s =>
      .next (updVr s c (fun u => { u with nq := nq, k := k, armed := true, lists := [] })) none))

/-- S_q: the exact product of an embedding and a query. -/
def simScore (e q : BitVec 2048) : Int :=
  ((List.range 256).map (fun d => decInt 0 (elem e 8 d) * decInt 0 (elem q 8 d))).foldl (· + ·) 0

/-- The pair (score, tag) `x` comes before `y`. -/
def simBefore (x y : Word × Word) : Bool :=
  y.1.slt x.1 || (decide (x.1 = y.1) && x.2.ult y.2)

/-- An offer takes its place in a list of at most `k` (R184). -/
def simOffer (k : Nat) (x : Word × Word) (l : List (Word × Word)) : List (Word × Word) :=
  (l.filter (fun y => !simBefore x y) ++ x :: l.filter (simBefore x)).take k

/-- The offers of one embedding to every list below NQ (R183). -/
def simOffers (u : VuRegs) (e : BitVec 2048) (tag : Word) : VuRegs :=
  { u with lists := (List.range u.nq.toNat).foldl (fun m q =>
      mset [] m q (simOffer u.k.toNat (BitVec.ofInt 32 (simScore e (mget 0 u.q q)), tag)
        (mget [] m q))) u.lists }

def slotVsimI8 (a : VAt) (va : VReg) (half : Bool) (rt : SReg) : SlotInfo :=
  slotAt a.slot slotVec [] (fun old cur =>
    let c := a.slot.core.toNat
    let k := coreOf old c
    if !k.vu.regs.armed then vuIllegal c
    else vecEffect a true old cur (fun s =>
      .next (updVr s c (fun u => simOffers u (bits (vReg k va) (if half then 2048 else 0) 2048)
        ((sReg k rt).setWidth 32))) none))

/-- Entries 64r to 64r + 63 of a list as a row. -/
def topkRow (l : List (Word × Word)) (r : Nat) : Row :=
  packRow 32 ((List.range 64).flatMap (fun i =>
    let e := l.getD (64 * r + i) (0x80000000, 0xFFFFFFFF)
    [e.1.toNat, e.2.toNat]))

def slotVtkrd (a : VAt) (vd : VReg) (q : BitVec 6) (r : BitVec 2) : SlotInfo :=
  slotAt a.slot slotVec [] (fun old cur =>
    let c := a.slot.core.toNat
    vecEffect a true old cur (fun s =>
      .next (setV s c vd (topkRow (mget [] (coreOf old c).vu.regs.lists q.toNat) r.toNat)) none))

end Sys2Proof.Machine
end

