-- ==== Sys2Proof/Machine/Depthwise.lean ====
section
/-! DEFINITION. The depthwise path (06, R175 to R181; 10, R304): VDW, its window, its commits. -/

namespace Sys2Proof.Machine

-- ---------------------------------------------------------------- parameters

/-- 8-bit activations: 256 channels a block, two halves. -/
def dwWide (f : Fmt) : Bool := decide (fmtBits f ≤ 8)
def dwBlock (f : Fmt) : Nat := if dwWide f then 256 else 128

/-- Tap groups of a layer: nine taps each. -/
def tapGroups (d : ConvDesc) : Nat := (d.kh * d.kw + 8) / 9

/-- The tap numbers of tap group `t` that exist. -/
def tapList (d : ConvDesc) (t : Nat) : List Nat :=
  ((List.range 9).map (fun u => 9 * t + u)).filter (fun i => decide (i < d.kh * d.kw))

/-- The pass at the tap row of tap `i`. -/
def tapPass (p : ConvPass) (i : Nat) : ConvPass := { p with ky := i / p.desc.kw }

/-- The distinct tap rows of a tap group. -/
def tapRows (p : ConvPass) (t : Nat) : List ConvPass :=
  (((tapList p.desc t).map (fun i => i / p.desc.kw)).eraseDups).map (fun ky => { p with ky := ky })

/-- The lines that a pass needs in the window, filled from rows that start at `base`; a line of padding,
or one that no tap reaches, needs none (R145, R179). -/
def dwNeeds (base : Nat) (p : ConvPass) (m t : Nat) (f : Fmt) : List LineSlot :=
  ((tapRows p t).filterMap (fun q =>
    if tapInside q m then (sourceLine q.desc (passLine q)).map (fun y =>
      { needOf base q m (dwBlock f) with line := (y : Int) }) else none)).eraseDups

/-- The relative input rows of a pass. -/
def dwRows (p : ConvPass) (m t : Nat) (f : Fmt) : List Nat :=
  (tapRows p t).flatMap (fun q => convRows q m (dwBlock f))

/-- The five weight rows (R177). -/
def dwWeightRows (w0 : Nat) : List Nat := (List.range 5).map (fun i => w0 + i)

-- ---------------------------------------------------------------- issue checks (R178, R181)

/-- A chain that VDW may not name (R178): its stages, its formats, parameters past the end of the store, a
PERCOL parameter having 256 entries. -/
def dwChainBad (b : Braid) (c : Chain) : Bool :=
  [8, 9, 10].any (hasKind c.epi) || convChainBad c || c.link ||
    c.epi.any (paramAtEnd b c 256 0)

/-- Channels that the epilogue of a block writes (R178, log 17). -/
def dwChannels (d : ConvDesc) (b : Nat) (f : Fmt) : Nat := min (dwBlock f) (d.cin - dwBlock f * b)

/-- The checks of R181, in its order. -/
def dwFault (p : ConvPass) (r : Row) (bound m t g j : Nat) (o : VdwOp) (a0 w0 : Nat)
    (brd : Braid) (ch : Option Chain) (out aux : Nat) : Option CnvBad :=
  let d := p.desc
  let rows := m * (if dwWide o.afmt then 2 else 1)
  let nOut := dwChannels d p.b o.afmt
  let ppr (e : Nat) : Nat := layPixels d.layOut e
  let outE := ch.bind (fun h => mapBytes h.sfmt)
  let resE := match ch with | some h => residBytes h | none => []
  let aligned : Bool := match outE with
    | some e => decide (p.x0 % ppr e = 0 ∧ ((p.x0 + m) % ppr e = 0 ∨ (p.x0 + m : Int) = wOut d))
    | none => true
  let inside (l : List Nat) : Bool := l.all (fun x => decide (x < bound))
  let run (base : Nat) (e : Option Nat) : Bool := match e with
    | some e => inside (runRows d base p.y p.x0 m e nOut 0)
    | none => true
  firstBad [
    (descReserved r true || decide (d.fold ≠ 1) || d.flat, 1, 1),
    (decide ((d.dy > 1 ∧ d.sy > 1) ∨ (d.dx > 1 ∧ d.sx > 1)), 1, 2),
    (decide (passHi p m - passLo p + 1 > 160), 1, 3),
    (decide (m > 128 ∨ a0 + rows > 512), 1, 4),
    (decide (t ≥ tapGroups d ∨ dwBlock o.afmt * p.b ≥ d.cin ∨ j ≥ g), 1, 5),
    (decide (o.afmt ≠ 0 ∧ o.afmt ≠ 1 ∧ o.afmt ≠ 6 ∧ o.afmt ≠ 7) || decide (d.fmtIn ≠ o.afmt) ||
      decide (o.lg.toNat ≥ 5), 1, 6),
    ((o.last && !o.chen) || (o.chen && ch.isNone) || !aligned ||
      (match ch with | some h => dwChainBad brd h | none => false), 1, 7),
    (decide (hOut d ≤ 0 ∨ d.h = 0), 2, 1),
    (decide (wOut d ≤ 0 ∨ d.w = 0), 2, 2),
    (decide ((p.y : Int) ≥ hOut d), 2, 3),
    (decide ((p.x0 + m : Int) > wOut d), 2, 4),
    ((tapRows p t).any (fun q => tapInside q m && (match sourceLine d (passLine q) with
      | some y => !lineHeldBy d y
      | none => false)), 2, 5),
    (decide (d.yFirst + d.hHeld > d.h ∨ d.hHeld = 0), 2, 6),
    (!inside (dwRows p m t o.afmt), 3, 2),
    (!inside (dwWeightRows w0) || (o.last && (!run out outE || resE.any (fun e => !run aux (some e)))), 3, 3)]

/-- The checks that need no descriptor, when its row lies outside the task's range. -/
def dwFaultNoDesc (m g j : Nat) (o : VdwOp) (a0 : Nat) (brd : Braid) (ch : Option Chain) : CnvBad :=
  (firstBad [
    (decide (m > 128 ∨ a0 + m * (if dwWide o.afmt then 2 else 1) > 512), 1, 4),
    (decide (j ≥ g), 1, 5),
    (decide (o.afmt ≠ 0 ∧ o.afmt ≠ 1 ∧ o.afmt ≠ 6 ∧ o.afmt ≠ 7) || decide (o.lg.toNat ≥ 5), 1, 6),
    ((o.last && !o.chen) || (o.chen && ch.isNone) ||
      (match ch with | some h => dwChainBad brd h | none => false), 1, 7)]).getD
    { code := 3, reason := 1 }

def vdwFault (s : State) (c : Nat) (b : CnvBad) : State :=
  vuFault s c (if b.code = 1 then tfIllegal else if b.code = 2 then tfConvShape else tfPannierBound)
    b.reason

-- ---------------------------------------------------------------- the window (R179)

/-- A window slot is held by an uncommitted pass. -/
def windowHeld (k : Core) (x : LineSlot) : Bool := k.vu.dw.any (fun p => p.slots.contains x)

/-- DW_WINDOW_FILL: the line that a pass waits for enters the window, once a slot is free. -/
def dwWindowFill (core : CoreId) (s : State) : State :=
  let c := core.toNat
  let k := coreOf s c
  match k.vu.wanted with
  | none => s
  | some n =>
    match fillSlot (windowHeld k) k.vu.win n with
    | none => s
    | some l => readRows s c n.rows (fun s => updVu s c (fun v => { v with win := l, wanted := none }))

-- ---------------------------------------------------------------- issue

/-- The pass parameters of s[RP] (R304). -/
def dwPassOf (r : Row) (row : Nat) (v : DWord) : ConvPass where
  descRow := row
  desc := convDescOf r
  y := (bits v 0 16).toNat
  x0 := (bits v 16 16).toNat
  ky := 0
  kx0 := 0
  b := (bits v 36 9).toNat

def slotVdw (a : VAt) (o : VdwOp) : SlotInfo :=
  slotAt a.slot slotVec [] (fun old cur =>
    let c := a.slot.core.toNat
    let k := coreOf old c
    let v := sReg k o.rp
    let m := o.mm1.toNat + 1
    let t := (bits v 32 4).toNat
    let j := (bits v 45 4).toNat
    let g := 2 ^ o.lg.toNat
    let a0 := (bits v 49 9).toNat
    let bound := boundOf old c
    let row := wRow (wReg k o.wd)
    let w0 := wRow (wReg k o.ww)
    let ch : Option Chain := if o.chen then slotChain k.brd o.ch.toNat else none
    let r := relRow old c row
    let p := dwPassOf r row v
    let outW := wRow (wReg k o.wo)
    let auxW := wRow (wReg k o.wx)
    let bad : Option CnvBad :=
      if row ≥ bound then some (dwFaultNoDesc m g j o a0 k.brd ch)
      else dwFault p r bound m t g j o a0 w0 k.brd ch outW auxW
    let out : List Nat := match ch.bind (fun h => mapBytes h.sfmt) with
      | some e => if o.last then
          runRows p.desc outW p.y p.x0 m e (dwChannels p.desc p.b o.afmt) 0 else []
      | none => []
    let gone : Bool := decide (row < bound) && (senseRows old c [baseOf old c + row]).1
    let read (s : State) : State :=
      if row ≥ bound then s else readRows s c [baseOf s c + row] id
    if fmtReserved o.afmt || decide (bits v 58 6 ≠ 0) then illegal c 1 slotVec
    else if gone then .stop read
    else match bad with
      | some b => .fault (fun s => vdwFault (read s) c b)
      | none =>
        if out.any (protectedRow k) then .fault (fun s => seqFault s c tfLiveWrite 1 slotVec)
        else
          let needs := dwNeeds (baseOf old c) p m t o.afmt
          match needs.find? (fun n => (slotFor k.vu.win n).isNone) with
          | some n => .wait (fun s => updVu s c (fun v => { v with wanted := some n }))
          | none =>
            if k.vu.dw.length ≥ 4 then .wait id
            else vecEffect a false old cur (fun s =>
              .next (updCore (read s) c (fun x => { x with
                issueNo := x.issueNo + 1
                vu := { x.vu with
                  win := needs.foldl useSlot x.vu.win
                  wanted := none
                  dw := x.vu.dw ++ [{
                    no := x.issueNo, slots := needs.filterMap (slotFor x.vu.win)
                    pc := k.seq.pc.toNat, afmt := o.afmt, conv := p, m := m, t := t, g := g, j := j
                    w0 := w0, bank := o.bank, a0 := a0, clr := o.clr
                    chain := if o.chen then some o.ch else none, last := o.last
                    out := { row := outW, stride := 1, size := 512 }
                    aux := { row := auxW, stride := 1, size := 512 }, attempts := 0
                    held := row :: dwWeightRows w0 ++ dwRows p m t o.afmt }] } })) none))

-- ---------------------------------------------------------------- the sums (R176, R177)

/-- Weight of tap position `u`, lane `l`. -/
def dwWeight (s : State) (c : Nat) (p : DwPass) (u l : Nat) : Nat :=
  let w := fmtBits p.afmt
  let o := 256 * u + l * (w / 8)
  elem (relRow s c (p.w0 + o / 512)) w (o % 512 / (w / 8))

/-- The element that tap `i` brings to lane `l` of pixel `m`; zero beyond the taps and the channels. -/
def dwElem (s : State) (c : Nat) (p : DwPass) (m i l : Nat) : Nat :=
  let d := p.conv.desc
  let ca := dwBlock p.afmt * p.conv.b + l
  let ci := p.g * (ca / p.g) + p.j
  let y := passLine (tapPass p.conv i)
  let x : Int := (p.conv.x0 + m : Nat) * d.sx - d.padL + (i % d.kw : Nat) * d.dx
  if i ≥ d.kh * d.kw ∨ ca ≥ d.cin ∨ ci ≥ d.cin then 0
  else if (y < 0 ∨ (d.h : Int) ≤ y ∨ x < 0 ∨ (d.w : Int) ≤ x) ∧ !d.edge then 0
  else
    let e := fmtBytes d.fmtIn
    let pl := mapPlace d.layIn e d.inBase d.inLp d.inPp (clampTo y d.h - d.yFirst) (clampTo x d.w) ci
    (relRow s c pl.1).toNat / 2 ^ pl.2 % 2 ^ (8 * e)

/-- The nine products of lane `l` summed. -/
def dwSum (s : State) (c : Nat) (p : DwPass) (m l : Nat) : Word :=
  let a := (List.range 9).map (fun u => dwElem s c p m (9 * p.t + u) l)
  let w := (List.range 9).map (fun u => dwWeight s c p u l)
  if dwWide p.afmt then BitVec.ofInt 32 (dotInt (decInt p.afmt) (decInt 0) a w)
  else floatSum p.afmt p.afmt a w

/-- A committed word: cleared into the bank or added to it (R44, R45). -/
def dwAccumulate (p : DwPass) (acc x : Word) : Word :=
  if p.clr then x else if dwWide p.afmt then acc + x else f32Add acc x

-- ---------------------------------------------------------------- commit (R178, R180)

def dwHalves (p : DwPass) : Nat := if dwWide p.afmt then 2 else 1

/-- Pixel `m`, half `h` enters bank row a0 + hM + m. -/
def dwCommitRow (s0 : State) (c : Nat) (p : DwPass) (h m : Nat) (s : State) : State :=
  let r := p.a0 + h * p.m + m
  let old := rowWords (bankRow (coreOf s c) p.bank r)
  setBankRow s c p.bank r (wordsRow ((List.range 128).map (fun n =>
    dwAccumulate p (old.getD n 0) (dwSum s0 c p m (128 * h + n)))))

/-- The committed channels of each pixel, both halves side by side. -/
def dwCommitted (k : Core) (p : DwPass) : List (List Word) :=
  (List.range p.m).map (fun m => (List.range (dwHalves p)).flatMap (fun h =>
    rowWords (bankRow k p.bank (p.a0 + h * p.m + m))))

def dwInvocation (k : Core) (p : DwPass) : List Invocation :=
  match p.last, p.chain with
  | true, some sl => [{
      no := p.no, slot := sl, wide := false, float := !dwWide p.afmt, firstAct := 0
      bank := p.bank, lo := p.a0, hi := p.a0 + dwSpan p, rows := dwCommitted k p
      out := p.out, aux := p.aux
      target := .map p.conv.desc p.conv.y p.conv.x0 0 (dwChannels p.conv.desc p.conv.b p.afmt)
      defer := false }]
  | _, _ => []

def dwCommit (s : State) (c : Nat) (p : DwPass) : State :=
  let s0 := s
  let s := (List.range (dwHalves p)).foldl (fun s h =>
    (List.range p.m).foldl (fun s m => dwCommitRow s0 c p h m s) s) s
  let s := updCore s c (fun k => { k with
    vu := { k.vu with dw := k.vu.dw.tail }
    invs := k.invs ++ dwInvocation k p })
  countCore s c 13 1

/-- The bank rows that a VDW pass writes. -/
def dwKeys (p : DwPass) : List Nat := (List.range (dwSpan p)).map (fun i => bankKey p.bank (p.a0 + i))

/-- VDW_COMMIT: the oldest pass commits after `fails` failed attempts, once every earlier-issued access to
its bank rows is over (R73), or puts the core into repair hold, from which it is run again from its held
rows (R180). Its weights are read as it runs, its lines by the fills of the window; `ecc` is what bank words
turn out to hold (R72). -/
def vdwCommit (core : CoreId) (fails : BitVec 4) (ecc : BankEcc) (s : State) : State :=
  let c := core.toNat
  let k := coreOf s c
  match k.ta.repairHold, k.vu.dw with
  | none, p :: _ =>
    if writesBefore k p.no p.bank p.a0 (p.a0 + dwSpan p) ||
        readsBefore k p.no p.bank p.a0 (p.a0 + dwSpan p) then s
    else readRows s c ((dwWeightRows p.w0).map (fun r => baseOf s c + r)) (fun s =>
      if fails.toNat ≥ replayLimit k then vuHold c p.pc (replayLimit k) .depthwise s
      else
        let s := updTa (vuFailures c p.pc fails.toNat s) c (noteBank ecc)
        let b := if p.clr then (false, s) else readBank s c (dwKeys p)
        if b.1 then coreFault b.2 c tfAccEcc 1 0 else dwCommit b.2 c p)
  | _, _ => s

end Sys2Proof.Machine
end

