-- ==== Sys2Proof/Machine/Scalar.lean ====
section
/-! DEFINITION. The control slot (09, R252 to R258). -/

namespace Sys2Proof.Machine

/-- A register-form instruction: RD takes `f` of RA and RB as they stood before the bundle. -/
def slotCr (a : At) (rd ra rb : SReg) (f : DWord → DWord → DWord) : SlotInfo :=
  slotAt a slotCtl (wrS rd) (fun old cur =>
    let k := coreOf old a.core.toNat
    .next (setS cur a.core.toNat rd (f (sReg k ra) (sReg k rb))) none)

/-- An immediate-form instruction: IMM sign-extended in place of RB. -/
def slotCi (a : At) (rd ra : SReg) (imm : BitVec 30) (f : DWord → DWord → DWord) : SlotInfo :=
  slotAt a slotCtl (wrS rd) (fun old cur =>
    let k := coreOf old a.core.toNat
    .next (setS cur a.core.toNat rd (f (sReg k ra) (imm.signExtend 64))) none)

def opAdd (x y : DWord) : DWord := x + y
def opSub (x y : DWord) : DWord := x - y
def opAnd (x y : DWord) : DWord := x &&& y
def opOr (x y : DWord) : DWord := x ||| y
def opXor (x y : DWord) : DWord := x ^^^ y
def opShl (x y : DWord) : DWord := x <<< (y.toNat % 64)
def opShr (x y : DWord) : DWord := x >>> (y.toNat % 64)
def opSra (x y : DWord) : DWord := x.sshiftRight (y.toNat % 64)
def opMul (x y : DWord) : DWord := x * y
/-- Unsigned quotient; a zero divisor gives all ones. -/
def opDivu (x y : DWord) : DWord := if y = 0 then BitVec.allOnes 64 else x / y
/-- Unsigned remainder; a zero divisor gives RA. -/
def opRemu (x y : DWord) : DWord := if y = 0 then x else x % y
def opMin (x y : DWord) : DWord := if x.slt y then x else y
def opMax (x y : DWord) : DWord := if x.slt y then y else x
def opSlt (x y : DWord) : DWord := if x.slt y then 1 else 0
def opSltu (x y : DWord) : DWord := if x.ult y then 1 else 0
def opLih (x y : DWord) : DWord := x + y <<< 30

def slotAdd (a : At) (rd ra rb : SReg) : SlotInfo := slotCr a rd ra rb opAdd
def slotSub (a : At) (rd ra rb : SReg) : SlotInfo := slotCr a rd ra rb opSub
def slotAnd (a : At) (rd ra rb : SReg) : SlotInfo := slotCr a rd ra rb opAnd
def slotOr (a : At) (rd ra rb : SReg) : SlotInfo := slotCr a rd ra rb opOr
def slotXor (a : At) (rd ra rb : SReg) : SlotInfo := slotCr a rd ra rb opXor
def slotShl (a : At) (rd ra rb : SReg) : SlotInfo := slotCr a rd ra rb opShl
def slotShr (a : At) (rd ra rb : SReg) : SlotInfo := slotCr a rd ra rb opShr
def slotSra (a : At) (rd ra rb : SReg) : SlotInfo := slotCr a rd ra rb opSra
def slotMul (a : At) (rd ra rb : SReg) : SlotInfo := slotCr a rd ra rb opMul
def slotDivu (a : At) (rd ra rb : SReg) : SlotInfo := slotCr a rd ra rb opDivu
def slotRemu (a : At) (rd ra rb : SReg) : SlotInfo := slotCr a rd ra rb opRemu
def slotMin (a : At) (rd ra rb : SReg) : SlotInfo := slotCr a rd ra rb opMin
def slotMax (a : At) (rd ra rb : SReg) : SlotInfo := slotCr a rd ra rb opMax
def slotSlt (a : At) (rd ra rb : SReg) : SlotInfo := slotCr a rd ra rb opSlt
def slotSltu (a : At) (rd ra rb : SReg) : SlotInfo := slotCr a rd ra rb opSltu
def slotAddi (a : At) (rd ra : SReg) (imm : BitVec 30) : SlotInfo := slotCi a rd ra imm opAdd
def slotSubi (a : At) (rd ra : SReg) (imm : BitVec 30) : SlotInfo := slotCi a rd ra imm opSub
def slotAndi (a : At) (rd ra : SReg) (imm : BitVec 30) : SlotInfo := slotCi a rd ra imm opAnd
def slotOri (a : At) (rd ra : SReg) (imm : BitVec 30) : SlotInfo := slotCi a rd ra imm opOr
def slotXori (a : At) (rd ra : SReg) (imm : BitVec 30) : SlotInfo := slotCi a rd ra imm opXor
def slotShli (a : At) (rd ra : SReg) (imm : BitVec 30) : SlotInfo := slotCi a rd ra imm opShl
def slotShri (a : At) (rd ra : SReg) (imm : BitVec 30) : SlotInfo := slotCi a rd ra imm opShr
def slotSrai (a : At) (rd ra : SReg) (imm : BitVec 30) : SlotInfo := slotCi a rd ra imm opSra
def slotMuli (a : At) (rd ra : SReg) (imm : BitVec 30) : SlotInfo := slotCi a rd ra imm opMul
def slotDivui (a : At) (rd ra : SReg) (imm : BitVec 30) : SlotInfo := slotCi a rd ra imm opDivu
def slotRemui (a : At) (rd ra : SReg) (imm : BitVec 30) : SlotInfo := slotCi a rd ra imm opRemu
def slotMini (a : At) (rd ra : SReg) (imm : BitVec 30) : SlotInfo := slotCi a rd ra imm opMin
def slotMaxi (a : At) (rd ra : SReg) (imm : BitVec 30) : SlotInfo := slotCi a rd ra imm opMax
def slotSlti (a : At) (rd ra : SReg) (imm : BitVec 30) : SlotInfo := slotCi a rd ra imm opSlt
def slotSltui (a : At) (rd ra : SReg) (imm : BitVec 30) : SlotInfo := slotCi a rd ra imm opSltu
def slotLih (a : At) (rd ra : SReg) (imm : BitVec 30) : SlotInfo := slotCi a rd ra imm opLih

/-- The value that SRD reads (R257). -/
def specialValue (s : State) (c : Nat) (imm : BitVec 30) : Option DWord :=
  let k := coreOf s c
  let n (x : Nat) : Option DWord := some (BitVec.ofNat 64 x)
  match imm.toNat with
  | 0 => n (match k.task with | some (_, t) => t | none => 0)
  | 1 => n (taskCores s c).length
  | 2 => some (now s)
  | 3 => n (s.clk.coreCyc - k.seq.startCyc)
  | 4 => n (boundOf s c)
  | 5 => n k.seq.ord
  | 6 => n (match k.task with | some (x, _) => x | none => 0)
  | 7 => n k.mem.ndesc
  | _ => none

def slotSrd (a : At) (rd : SReg) (imm : BitVec 30) : SlotInfo :=
  slotAt a slotCtl (wrS rd) (fun old cur =>
    match specialValue old a.core.toNat imm with
    | some v => .next (setS cur a.core.toNat rd v) none
    | none => illegal a.core.toNat 1 slotCtl)

/-- WSET: the low 32 bits of RA; the reserved bit 15 reads 0 (R8). -/
def slotWset (a : At) (w : WReg) (ra : SReg) : SlotInfo :=
  slotAt a slotCtl (wrW w true) (fun old cur =>
    let v := sReg (coreOf old a.core.toNat) ra
    .next (setW cur a.core.toNat w { row := (bits v 0 15).setWidth 16, stride := bits v 16 16 }) none)

def slotWadd (a : At) (w : WReg) (ra : SReg) : SlotInfo :=
  slotAt a slotCtl (wrW w true) (fun old cur =>
    let k := coreOf old a.core.toNat
    .next (setW cur a.core.toNat w (wAdvance (wReg k w) (sReg k ra).toNat)) none)

def slotWrd (a : At) (w : WReg) (rd : SReg) : SlotInfo :=
  slotAt a slotCtl (wrS rd) (fun old cur =>
    let v := wReg (coreOf old a.core.toNat) w
    .next (setS cur a.core.toNat rd ((v.stride ++ v.row).setWidth 64)) none)

/-- A branch that is taken when `f` holds of RA and RB. -/
def slotCb (a : At) (ra rb : SReg) (target : BitVec 13) (f : DWord → DWord → Bool) : SlotInfo :=
  slotAt a slotCtl [] (fun old cur =>
    let k := coreOf old a.core.toNat
    .next cur (if f (sReg k ra) (sReg k rb) then some target.toNat else none))

def slotBeq (a : At) (ra rb : SReg) (t : BitVec 13) : SlotInfo := slotCb a ra rb t (fun x y => x == y)
def slotBne (a : At) (ra rb : SReg) (t : BitVec 13) : SlotInfo := slotCb a ra rb t (fun x y => x != y)
def slotBlt (a : At) (ra rb : SReg) (t : BitVec 13) : SlotInfo := slotCb a ra rb t (fun x y => x.slt y)
def slotBge (a : At) (ra rb : SReg) (t : BitVec 13) : SlotInfo :=
  slotCb a ra rb t (fun x y => !x.slt y)
def slotBltu (a : At) (ra rb : SReg) (t : BitVec 13) : SlotInfo := slotCb a ra rb t (fun x y => x.ult y)
def slotBgeu (a : At) (ra rb : SReg) (t : BitVec 13) : SlotInfo :=
  slotCb a ra rb t (fun x y => !x.ult y)

def slotJmp (a : At) (target : BitVec 13) : SlotInfo :=
  slotAt a slotCtl [] (fun _ cur => .next cur (some target.toNat))

/-- CALL pushes the next bundle number; STACK reason 1 with 16 entries present (R254). -/
def slotCall (a : At) (target : BitVec 13) : SlotInfo :=
  slotAt a slotCtl [] (fun old cur =>
    let q := (coreOf old a.core.toNat).seq
    if q.ret.length ≥ 16 then .fault (fun s => seqFault s a.core.toNat tfStack 1 slotCtl)
    else .next (updSeq cur a.core.toNat (fun q => { q with ret := q.ret ++ [q.pc.setWidth 14 + 1] }))
      (some target.toNat))

/-- RET pops and branches; STACK reason 2 with none present (R254). -/
def slotRet (a : At) : SlotInfo :=
  slotAt a slotCtl [] (fun old cur =>
    match (coreOf old a.core.toNat).seq.ret.getLast? with
    | none => .fault (fun s => seqFault s a.core.toNat tfStack 2 slotCtl)
    | some t =>
      .next (updSeq cur a.core.toNat (fun q => { q with ret := q.ret.dropLast })) (some t.toNat))

/-- A LOOP at bundle `pc` with bounds that R255 refuses. -/
def loopBad (q : Seq) (fin : BitVec 13) : Bool :=
  decide (fin.toNat ≤ q.pc.toNat) ||
    q.loops.any (fun r =>
      decide (r.first.toNat ≤ q.pc.toNat ∧ q.pc.toNat ≤ r.fin.toNat ∧ r.fin.toNat < fin.toNat))

/-- LOOP and LOOPI (R255): the named register's earlier loop is replaced whatever the count. -/
def slotLoopBy (a : At) (lc : BitVec 2) (fin : BitVec 13) (count : Core → Word) : SlotInfo :=
  slotAt a slotCtl [] (fun old cur =>
    let k := coreOf old a.core.toNat
    if loopBad k.seq fin then illegal a.core.toNat 4 slotCtl
    else
      let n := count k
      let s := updSeq cur a.core.toNat (fun q =>
        let l := q.loops.filter (fun r => decide (r.lc ≠ lc))
        { q with loops :=
            if n = 0 then l else l ++ [{ lc := lc, first := q.pc + 1, fin := fin, count := n }] })
      .next s (if n = 0 then some (fin.toNat + 1) else none))

def slotLoop (a : At) (lc : BitVec 2) (ra : SReg) (fin : BitVec 13) : SlotInfo :=
  slotLoopBy a lc fin (fun k => (sReg k ra).setWidth 32)

def slotLoopi (a : At) (lc : BitVec 2) (fin : BitVec 13) (count : BitVec 20) : SlotInfo :=
  slotLoopBy a lc fin (fun _ => count.setWidth 32)

/-- END stops issue on the core and its tile watchdog, ends its protection and discards its pending LIVE
ranges (R258, R274, R278). -/
def slotEnd (a : At) : SlotInfo :=
  slotAt a slotCtl [] (fun _ cur =>
    .next (updSeq cur a.core.toNat (fun q => { q with
      ended := true, wdRun := false, prot := [], livePend := [] })) none)

end Sys2Proof.Machine
end

