-- ==== Sys2Proof/Machine/Slots.lean ====
section
/-! DEFINITION. The slot commands of a bundle (09, 10): what each slot is, and the command that presents
it (R248, R249). -/

namespace Sys2Proof.Machine

/-- The slot that a command presents; none for a command that is no slot. -/
def slotOf : Instr → Option SlotInfo
  | .add at_ rd ra rb => some (slotAdd at_ rd ra rb)
  | .sub at_ rd ra rb => some (slotSub at_ rd ra rb)
  | .and at_ rd ra rb => some (slotAnd at_ rd ra rb)
  | .or at_ rd ra rb => some (slotOr at_ rd ra rb)
  | .xor at_ rd ra rb => some (slotXor at_ rd ra rb)
  | .shl at_ rd ra rb => some (slotShl at_ rd ra rb)
  | .shr at_ rd ra rb => some (slotShr at_ rd ra rb)
  | .sra at_ rd ra rb => some (slotSra at_ rd ra rb)
  | .mul at_ rd ra rb => some (slotMul at_ rd ra rb)
  | .divu at_ rd ra rb => some (slotDivu at_ rd ra rb)
  | .remu at_ rd ra rb => some (slotRemu at_ rd ra rb)
  | .min at_ rd ra rb => some (slotMin at_ rd ra rb)
  | .max at_ rd ra rb => some (slotMax at_ rd ra rb)
  | .slt at_ rd ra rb => some (slotSlt at_ rd ra rb)
  | .sltu at_ rd ra rb => some (slotSltu at_ rd ra rb)
  | .addi at_ rd ra imm => some (slotAddi at_ rd ra imm)
  | .subi at_ rd ra imm => some (slotSubi at_ rd ra imm)
  | .andi at_ rd ra imm => some (slotAndi at_ rd ra imm)
  | .ori at_ rd ra imm => some (slotOri at_ rd ra imm)
  | .xori at_ rd ra imm => some (slotXori at_ rd ra imm)
  | .shli at_ rd ra imm => some (slotShli at_ rd ra imm)
  | .shri at_ rd ra imm => some (slotShri at_ rd ra imm)
  | .srai at_ rd ra imm => some (slotSrai at_ rd ra imm)
  | .muli at_ rd ra imm => some (slotMuli at_ rd ra imm)
  | .divui at_ rd ra imm => some (slotDivui at_ rd ra imm)
  | .remui at_ rd ra imm => some (slotRemui at_ rd ra imm)
  | .mini at_ rd ra imm => some (slotMini at_ rd ra imm)
  | .maxi at_ rd ra imm => some (slotMaxi at_ rd ra imm)
  | .slti at_ rd ra imm => some (slotSlti at_ rd ra imm)
  | .sltui at_ rd ra imm => some (slotSltui at_ rd ra imm)
  | .lih at_ rd ra imm => some (slotLih at_ rd ra imm)
  | .srd at_ rd imm => some (slotSrd at_ rd imm)
  | .wset at_ w ra => some (slotWset at_ w ra)
  | .wadd at_ w ra => some (slotWadd at_ w ra)
  | .wrd at_ w rd => some (slotWrd at_ w rd)
  | .beq at_ ra rb target => some (slotBeq at_ ra rb target)
  | .bne at_ ra rb target => some (slotBne at_ ra rb target)
  | .blt at_ ra rb target => some (slotBlt at_ ra rb target)
  | .bge at_ ra rb target => some (slotBge at_ ra rb target)
  | .bltu at_ ra rb target => some (slotBltu at_ ra rb target)
  | .bgeu at_ ra rb target => some (slotBgeu at_ ra rb target)
  | .jmp at_ target => some (slotJmp at_ target)
  | .call at_ target => some (slotCall at_ target)
  | .ret at_ => some (slotRet at_)
  | .loop at_ lc ra fin => some (slotLoop at_ lc ra fin)
  | .loopi at_ lc fin count => some (slotLoopi at_ lc fin count)
  | .weftEnd at_ => some (slotEnd at_)
  | .mld at_ o => some (slotMld at_ o)
  | .mst at_ o => some (slotMst at_ o)
  | .mlda at_ o => some (slotMlda at_ o)
  | .msta at_ o => some (slotMsta at_ o)
  | .flush at_ tag all => some (slotFlush at_ tag all)
  | .rwr at_ o => some (slotRwr at_ o)
  | .rrd at_ o => some (slotRrd at_ o)
  | .waitAc at_ ac count reg => some (slotWaitAc at_ ac count reg)
  | .waitT at_ tag f => some (slotWaitT at_ tag f)
  | .waitTm at_ rs f => some (slotWaitTm at_ rs f)
  | .acsig at_ ac core count => some (slotAcsig at_ ac core count)
  | .yield at_ => some (slotYield at_)
  | .live at_ ra rb => some (slotLive at_ ra rb)
  | .liveClr at_ => some (slotLiveClr at_)
  | .fence at_ mask => some (slotFence at_ mask)
  | .tmmI8 at_ o => some (slotTmmI8 at_ o)
  | .tmmI4 at_ o => some (slotTmmI4 at_ o)
  | .tmmL4 at_ o => some (slotTmmL4 at_ o)
  | .tmmF8 at_ o => some (slotTmmF8 at_ o)
  | .tmmBf16 at_ o => some (slotTmmBf16 at_ o)
  | .tmmF16 at_ o => some (slotTmmF16 at_ o)
  | .tmmCI8 at_ o => some (slotTmmCI8 at_ o)
  | .tmmCI4 at_ o => some (slotTmmCI4 at_ o)
  | .tmmCL4 at_ o => some (slotTmmCL4 at_ o)
  | .tmmCF8 at_ o => some (slotTmmCF8 at_ o)
  | .tmmCBf16 at_ o => some (slotTmmCBf16 at_ o)
  | .tmmCF16 at_ o => some (slotTmmCF16 at_ o)
  | .tlw at_ tfmt wt wpi => some (slotTlw at_ tfmt wt wpi)
  | .tmodeN at_ => some (slotTmodeN at_)
  | .tmodeW at_ => some (slotTmodeW at_)
  | .taclr at_ bank a0 nm1 => some (slotTaclr at_ bank a0 nm1)
  | .bpld at_ wp soff nm1 => some (slotBpld at_ wp soff nm1)
  | .bset at_ slot doff => some (slotBset at_ slot doff)
  | .barm at_ slot => some (slotBarm at_ slot)
  | .brun at_ o ecc => some (slotBrun at_ o ecc)
  | .bnorm at_ slot => some (slotBnorm at_ slot)
  | .rcall at_ rs ac => some (slotRcall at_ rs ac)
  | .sapp at_ reg ws nm1 ac => some (slotSapp at_ reg ws nm1 ac)
  | .vld at_ v w wpi ecc => some (slotVld at_ v w wpi ecc)
  | .vst at_ v w wpi => some (slotVst at_ v w wpi)
  | .vlda at_ v bank row ecc => some (slotVlda at_ v bank row ecc)
  | .vsta at_ v bank row => some (slotVsta at_ v bank row)
  | .vmov at_ o => some (slotVmov at_ o)
  | .vbc at_ fmt vd rs pr => some (slotVbc at_ fmt vd rs pr)
  | .vext at_ fmt rd va lane => some (slotVext at_ fmt rd va lane)
  | .vadd at_ o => some (slotVadd at_ o)
  | .vsub at_ o => some (slotVsub at_ o)
  | .vmul at_ o => some (slotVmul at_ o)
  | .vmulh at_ o => some (slotVmulh at_ o)
  | .vadds at_ o => some (slotVadds at_ o)
  | .vsubs at_ o => some (slotVsubs at_ o)
  | .vmin at_ o => some (slotVmin at_ o)
  | .vmax at_ o => some (slotVmax at_ o)
  | .vabs at_ o => some (slotVabs at_ o)
  | .vneg at_ o => some (slotVneg at_ o)
  | .vshl at_ o => some (slotVshl at_ o)
  | .vshr at_ o => some (slotVshr at_ o)
  | .vand at_ o => some (slotVand at_ o)
  | .vor at_ o => some (slotVor at_ o)
  | .vxor at_ o => some (slotVxor at_ o)
  | .vnot at_ o => some (slotVnot at_ o)
  | .vdot4 at_ o => some (slotVdot4 at_ o)
  | .vfma at_ o vc => some (slotVfma at_ o vc)
  | .vdiv at_ o => some (slotVdiv at_ o)
  | .vsqrt at_ o => some (slotVsqrt at_ o)
  | .vrcp at_ o => some (slotVrcp at_ o)
  | .vrsqrt at_ o => some (slotVrsqrt at_ o)
  | .vexp at_ o => some (slotVexp at_ o)
  | .vcmp at_ fmt fd va vb pr cond => some (slotVcmp at_ fmt fd va vb pr cond)
  | .vsel at_ o => some (slotVsel at_ o)
  | .vcvt at_ o src p => some (slotVcvt at_ o src p)
  | .vrsum at_ o lg => some (slotVrsum at_ o lg)
  | .vrmax at_ o lg => some (slotVrmax at_ o lg)
  | .vrmin at_ o lg => some (slotVrmin at_ o lg)
  | .vrargmax at_ o lg => some (slotVrargmax at_ o lg)
  | .vrargmin at_ o lg => some (slotVrargmin at_ o lg)
  | .vlutB at_ vd va pr off => some (slotVlutB at_ vd va pr off)
  | .vlutF32 at_ vd va pr off => some (slotVlutF32 at_ vd va pr off)
  | .vperm at_ o => some (slotVperm at_ o)
  | .vqld at_ w half q ecc => some (slotVqld at_ w half q ecc)
  | .vtkcfg at_ nq k => some (slotVtkcfg at_ nq k)
  | .vsimI8 at_ va half rt => some (slotVsimI8 at_ va half rt)
  | .vtkrd at_ vd q r => some (slotVtkrd at_ vd q r)
  | .vdw at_ o => some (slotVdw at_ o)
  | _ => none

def execAdd (at_ : At) (rd ra rb : SReg) (s : State) : Out :=
  .next (issueBy slotOf (.add at_ rd ra rb) s)
def execSub (at_ : At) (rd ra rb : SReg) (s : State) : Out :=
  .next (issueBy slotOf (.sub at_ rd ra rb) s)
def execAnd (at_ : At) (rd ra rb : SReg) (s : State) : Out :=
  .next (issueBy slotOf (.and at_ rd ra rb) s)
def execOr (at_ : At) (rd ra rb : SReg) (s : State) : Out :=
  .next (issueBy slotOf (.or at_ rd ra rb) s)
def execXor (at_ : At) (rd ra rb : SReg) (s : State) : Out :=
  .next (issueBy slotOf (.xor at_ rd ra rb) s)
def execShl (at_ : At) (rd ra rb : SReg) (s : State) : Out :=
  .next (issueBy slotOf (.shl at_ rd ra rb) s)
def execShr (at_ : At) (rd ra rb : SReg) (s : State) : Out :=
  .next (issueBy slotOf (.shr at_ rd ra rb) s)
def execSra (at_ : At) (rd ra rb : SReg) (s : State) : Out :=
  .next (issueBy slotOf (.sra at_ rd ra rb) s)
def execMul (at_ : At) (rd ra rb : SReg) (s : State) : Out :=
  .next (issueBy slotOf (.mul at_ rd ra rb) s)
def execDivu (at_ : At) (rd ra rb : SReg) (s : State) : Out :=
  .next (issueBy slotOf (.divu at_ rd ra rb) s)
def execRemu (at_ : At) (rd ra rb : SReg) (s : State) : Out :=
  .next (issueBy slotOf (.remu at_ rd ra rb) s)
def execMin (at_ : At) (rd ra rb : SReg) (s : State) : Out :=
  .next (issueBy slotOf (.min at_ rd ra rb) s)
def execMax (at_ : At) (rd ra rb : SReg) (s : State) : Out :=
  .next (issueBy slotOf (.max at_ rd ra rb) s)
def execSlt (at_ : At) (rd ra rb : SReg) (s : State) : Out :=
  .next (issueBy slotOf (.slt at_ rd ra rb) s)
def execSltu (at_ : At) (rd ra rb : SReg) (s : State) : Out :=
  .next (issueBy slotOf (.sltu at_ rd ra rb) s)
def execAddi (at_ : At) (rd ra : SReg) (imm : BitVec 30) (s : State) : Out :=
  .next (issueBy slotOf (.addi at_ rd ra imm) s)
def execSubi (at_ : At) (rd ra : SReg) (imm : BitVec 30) (s : State) : Out :=
  .next (issueBy slotOf (.subi at_ rd ra imm) s)
def execAndi (at_ : At) (rd ra : SReg) (imm : BitVec 30) (s : State) : Out :=
  .next (issueBy slotOf (.andi at_ rd ra imm) s)
def execOri (at_ : At) (rd ra : SReg) (imm : BitVec 30) (s : State) : Out :=
  .next (issueBy slotOf (.ori at_ rd ra imm) s)
def execXori (at_ : At) (rd ra : SReg) (imm : BitVec 30) (s : State) : Out :=
  .next (issueBy slotOf (.xori at_ rd ra imm) s)
def execShli (at_ : At) (rd ra : SReg) (imm : BitVec 30) (s : State) : Out :=
  .next (issueBy slotOf (.shli at_ rd ra imm) s)
def execShri (at_ : At) (rd ra : SReg) (imm : BitVec 30) (s : State) : Out :=
  .next (issueBy slotOf (.shri at_ rd ra imm) s)
def execSrai (at_ : At) (rd ra : SReg) (imm : BitVec 30) (s : State) : Out :=
  .next (issueBy slotOf (.srai at_ rd ra imm) s)
def execMuli (at_ : At) (rd ra : SReg) (imm : BitVec 30) (s : State) : Out :=
  .next (issueBy slotOf (.muli at_ rd ra imm) s)
def execDivui (at_ : At) (rd ra : SReg) (imm : BitVec 30) (s : State) : Out :=
  .next (issueBy slotOf (.divui at_ rd ra imm) s)
def execRemui (at_ : At) (rd ra : SReg) (imm : BitVec 30) (s : State) : Out :=
  .next (issueBy slotOf (.remui at_ rd ra imm) s)
def execMini (at_ : At) (rd ra : SReg) (imm : BitVec 30) (s : State) : Out :=
  .next (issueBy slotOf (.mini at_ rd ra imm) s)
def execMaxi (at_ : At) (rd ra : SReg) (imm : BitVec 30) (s : State) : Out :=
  .next (issueBy slotOf (.maxi at_ rd ra imm) s)
def execSlti (at_ : At) (rd ra : SReg) (imm : BitVec 30) (s : State) : Out :=
  .next (issueBy slotOf (.slti at_ rd ra imm) s)
def execSltui (at_ : At) (rd ra : SReg) (imm : BitVec 30) (s : State) : Out :=
  .next (issueBy slotOf (.sltui at_ rd ra imm) s)
def execLih (at_ : At) (rd ra : SReg) (imm : BitVec 30) (s : State) : Out :=
  .next (issueBy slotOf (.lih at_ rd ra imm) s)
def execSrd (at_ : At) (rd : SReg) (imm : BitVec 30) (s : State) : Out :=
  .next (issueBy slotOf (.srd at_ rd imm) s)
def execWset (at_ : At) (w : WReg) (ra : SReg) (s : State) : Out :=
  .next (issueBy slotOf (.wset at_ w ra) s)
def execWadd (at_ : At) (w : WReg) (ra : SReg) (s : State) : Out :=
  .next (issueBy slotOf (.wadd at_ w ra) s)
def execWrd (at_ : At) (w : WReg) (rd : SReg) (s : State) : Out :=
  .next (issueBy slotOf (.wrd at_ w rd) s)
def execBeq (at_ : At) (ra rb : SReg) (target : BitVec 13) (s : State) : Out :=
  .next (issueBy slotOf (.beq at_ ra rb target) s)
def execBne (at_ : At) (ra rb : SReg) (target : BitVec 13) (s : State) : Out :=
  .next (issueBy slotOf (.bne at_ ra rb target) s)
def execBlt (at_ : At) (ra rb : SReg) (target : BitVec 13) (s : State) : Out :=
  .next (issueBy slotOf (.blt at_ ra rb target) s)
def execBge (at_ : At) (ra rb : SReg) (target : BitVec 13) (s : State) : Out :=
  .next (issueBy slotOf (.bge at_ ra rb target) s)
def execBltu (at_ : At) (ra rb : SReg) (target : BitVec 13) (s : State) : Out :=
  .next (issueBy slotOf (.bltu at_ ra rb target) s)
def execBgeu (at_ : At) (ra rb : SReg) (target : BitVec 13) (s : State) : Out :=
  .next (issueBy slotOf (.bgeu at_ ra rb target) s)
def execJmp (at_ : At) (target : BitVec 13) (s : State) : Out :=
  .next (issueBy slotOf (.jmp at_ target) s)
def execCall (at_ : At) (target : BitVec 13) (s : State) : Out :=
  .next (issueBy slotOf (.call at_ target) s)
def execRet (at_ : At) (s : State) : Out := .next (issueBy slotOf (.ret at_) s)
def execLoop (at_ : At) (lc : BitVec 2) (ra : SReg) (fin : BitVec 13) (s : State) : Out :=
  .next (issueBy slotOf (.loop at_ lc ra fin) s)
def execLoopi (at_ : At) (lc : BitVec 2) (fin : BitVec 13) (count : BitVec 20) (s : State) : Out :=
  .next (issueBy slotOf (.loopi at_ lc fin count) s)
def execWeftEnd (at_ : At) (s : State) : Out := .next (issueBy slotOf (.weftEnd at_) s)
def execMld (at_ : At) (o : StreamOp) (s : State) : Out := .next (issueBy slotOf (.mld at_ o) s)
def execMst (at_ : At) (o : StreamOp) (s : State) : Out := .next (issueBy slotOf (.mst at_ o) s)
def execMlda (at_ : At) (o : StreamOp) (s : State) : Out := .next (issueBy slotOf (.mlda at_ o) s)
def execMsta (at_ : At) (o : StreamOp) (s : State) : Out := .next (issueBy slotOf (.msta at_ o) s)
def execFlush (at_ : At) (tag : TagId) (all : Bool) (s : State) : Out :=
  .next (issueBy slotOf (.flush at_ tag all) s)
def execRwr (at_ : At) (o : RemoteOp) (s : State) : Out := .next (issueBy slotOf (.rwr at_ o) s)
def execRrd (at_ : At) (o : RemoteOp) (s : State) : Out := .next (issueBy slotOf (.rrd at_ o) s)
def execWaitAc (at_ : At) (ac : AcId) (count : BitVec 16) (reg : Bool) (s : State) : Out :=
  .next (issueBy slotOf (.waitAc at_ ac count reg) s)
def execWaitT (at_ : At) (tag : TagId) (f : Bool) (s : State) : Out :=
  .next (issueBy slotOf (.waitT at_ tag f) s)
def execWaitTm (at_ : At) (rs : SReg) (f : Bool) (s : State) : Out :=
  .next (issueBy slotOf (.waitTm at_ rs f) s)
def execAcsig (at_ : At) (ac : AcId) (core : BitVec 4) (count : BitVec 12) (s : State) : Out :=
  .next (issueBy slotOf (.acsig at_ ac core count) s)
def execYield (at_ : At) (s : State) : Out := .next (issueBy slotOf (.yield at_) s)
def execLive (at_ : At) (ra rb : SReg) (s : State) : Out :=
  .next (issueBy slotOf (.live at_ ra rb) s)
def execLiveClr (at_ : At) (s : State) : Out := .next (issueBy slotOf (.liveClr at_) s)
def execFence (at_ : At) (mask : BitVec 6) (s : State) : Out :=
  .next (issueBy slotOf (.fence at_ mask) s)
def execTmmI8 (at_ : At) (o : TmmOp) (s : State) : Out := .next (issueBy slotOf (.tmmI8 at_ o) s)
def execTmmI4 (at_ : At) (o : TmmOp) (s : State) : Out := .next (issueBy slotOf (.tmmI4 at_ o) s)
def execTmmL4 (at_ : At) (o : TmmOp) (s : State) : Out := .next (issueBy slotOf (.tmmL4 at_ o) s)
def execTmmF8 (at_ : At) (o : TmmOp) (s : State) : Out := .next (issueBy slotOf (.tmmF8 at_ o) s)
def execTmmBf16 (at_ : At) (o : TmmOp) (s : State) : Out :=
  .next (issueBy slotOf (.tmmBf16 at_ o) s)
def execTmmF16 (at_ : At) (o : TmmOp) (s : State) : Out := .next (issueBy slotOf (.tmmF16 at_ o) s)
def execTmmCI8 (at_ : At) (o : TmmCOp) (s : State) : Out := .next (issueBy slotOf (.tmmCI8 at_ o) s)
def execTmmCI4 (at_ : At) (o : TmmCOp) (s : State) : Out := .next (issueBy slotOf (.tmmCI4 at_ o) s)
def execTmmCL4 (at_ : At) (o : TmmCOp) (s : State) : Out := .next (issueBy slotOf (.tmmCL4 at_ o) s)
def execTmmCF8 (at_ : At) (o : TmmCOp) (s : State) : Out := .next (issueBy slotOf (.tmmCF8 at_ o) s)
def execTmmCBf16 (at_ : At) (o : TmmCOp) (s : State) : Out :=
  .next (issueBy slotOf (.tmmCBf16 at_ o) s)
def execTmmCF16 (at_ : At) (o : TmmCOp) (s : State) : Out :=
  .next (issueBy slotOf (.tmmCF16 at_ o) s)
def execTlw (at_ : At) (tfmt : Fmt) (wt : WReg) (wpi : Bool) (s : State) : Out :=
  .next (issueBy slotOf (.tlw at_ tfmt wt wpi) s)
def execTmodeN (at_ : At) (s : State) : Out := .next (issueBy slotOf (.tmodeN at_) s)
def execTmodeW (at_ : At) (s : State) : Out := .next (issueBy slotOf (.tmodeW at_) s)
def execTaclr (at_ : At) (bank : Bool) (a0 nm1 : BitVec 9) (s : State) : Out :=
  .next (issueBy slotOf (.taclr at_ bank a0 nm1) s)
def execBpld (at_ : At) (wp : WReg) (soff nm1 : BitVec 7) (s : State) : Out :=
  .next (issueBy slotOf (.bpld at_ wp soff nm1) s)
def execBset (at_ : At) (slot : BitVec 2) (doff : BitVec 12) (s : State) : Out :=
  .next (issueBy slotOf (.bset at_ slot doff) s)
def execBarm (at_ : At) (slot : BitVec 2) (s : State) : Out :=
  .next (issueBy slotOf (.barm at_ slot) s)
def execBrun (at_ : At) (o : BrunOp) (ecc : BankEcc) (s : State) : Out :=
  .next (issueBy slotOf (.brun at_ o ecc) s)
def execBnorm (at_ : At) (slot : BitVec 2) (s : State) : Out :=
  .next (issueBy slotOf (.bnorm at_ slot) s)
def execRcall (at_ : At) (rs : SReg) (ac : AcId) (s : State) : Out :=
  .next (issueBy slotOf (.rcall at_ rs ac) s)
def execSapp (at_ : At) (reg : Bool) (ws : WReg) (nm1 : Byte) (ac : AcId) (s : State) : Out :=
  .next (issueBy slotOf (.sapp at_ reg ws nm1 ac) s)
def execVld (at_ : VAt) (v : VReg) (w : WReg) (wpi : Bool) (ecc : RowEcc) (s : State) : Out :=
  .next (issueBy slotOf (.vld at_ v w wpi ecc) s)
def execVst (at_ : VAt) (v : VReg) (w : WReg) (wpi : Bool) (s : State) : Out :=
  .next (issueBy slotOf (.vst at_ v w wpi) s)
def execVlda (at_ : VAt) (v : VReg) (bank : Bool) (row : BitVec 9) (ecc : Ecc) (s : State) : Out :=
  .next (issueBy slotOf (.vlda at_ v bank row ecc) s)
def execVsta (at_ : VAt) (v : VReg) (bank : Bool) (row : BitVec 9) (s : State) : Out :=
  .next (issueBy slotOf (.vsta at_ v bank row) s)
def execVmov (at_ : VAt) (o : VUn) (s : State) : Out := .next (issueBy slotOf (.vmov at_ o) s)
def execVbc (at_ : VAt) (fmt : Fmt) (vd : VReg) (rs : SReg) (pr : FReg) (s : State) : Out :=
  .next (issueBy slotOf (.vbc at_ fmt vd rs pr) s)
def execVext (at_ : VAt) (fmt : Fmt) (rd : SReg) (va : VReg) (lane : BitVec 9) (s : State) : Out :=
  .next (issueBy slotOf (.vext at_ fmt rd va lane) s)
def execVadd (at_ : VAt) (o : VBin) (s : State) : Out := .next (issueBy slotOf (.vadd at_ o) s)
def execVsub (at_ : VAt) (o : VBin) (s : State) : Out := .next (issueBy slotOf (.vsub at_ o) s)
def execVmul (at_ : VAt) (o : VBin) (s : State) : Out := .next (issueBy slotOf (.vmul at_ o) s)
def execVmulh (at_ : VAt) (o : VBin) (s : State) : Out := .next (issueBy slotOf (.vmulh at_ o) s)
def execVadds (at_ : VAt) (o : VBin) (s : State) : Out := .next (issueBy slotOf (.vadds at_ o) s)
def execVsubs (at_ : VAt) (o : VBin) (s : State) : Out := .next (issueBy slotOf (.vsubs at_ o) s)
def execVmin (at_ : VAt) (o : VBin) (s : State) : Out := .next (issueBy slotOf (.vmin at_ o) s)
def execVmax (at_ : VAt) (o : VBin) (s : State) : Out := .next (issueBy slotOf (.vmax at_ o) s)
def execVabs (at_ : VAt) (o : VUn) (s : State) : Out := .next (issueBy slotOf (.vabs at_ o) s)
def execVneg (at_ : VAt) (o : VUn) (s : State) : Out := .next (issueBy slotOf (.vneg at_ o) s)
def execVshl (at_ : VAt) (o : VBin) (s : State) : Out := .next (issueBy slotOf (.vshl at_ o) s)
def execVshr (at_ : VAt) (o : VBin) (s : State) : Out := .next (issueBy slotOf (.vshr at_ o) s)
def execVand (at_ : VAt) (o : VBin) (s : State) : Out := .next (issueBy slotOf (.vand at_ o) s)
def execVor (at_ : VAt) (o : VBin) (s : State) : Out := .next (issueBy slotOf (.vor at_ o) s)
def execVxor (at_ : VAt) (o : VBin) (s : State) : Out := .next (issueBy slotOf (.vxor at_ o) s)
def execVnot (at_ : VAt) (o : VUn) (s : State) : Out := .next (issueBy slotOf (.vnot at_ o) s)
def execVdot4 (at_ : VAt) (o : VBin) (s : State) : Out := .next (issueBy slotOf (.vdot4 at_ o) s)
def execVfma (at_ : VAt) (o : VBin) (vc : VReg) (s : State) : Out :=
  .next (issueBy slotOf (.vfma at_ o vc) s)
def execVdiv (at_ : VAt) (o : VBin) (s : State) : Out := .next (issueBy slotOf (.vdiv at_ o) s)
def execVsqrt (at_ : VAt) (o : VUn) (s : State) : Out := .next (issueBy slotOf (.vsqrt at_ o) s)
def execVrcp (at_ : VAt) (o : VUn) (s : State) : Out := .next (issueBy slotOf (.vrcp at_ o) s)
def execVrsqrt (at_ : VAt) (o : VUn) (s : State) : Out := .next (issueBy slotOf (.vrsqrt at_ o) s)
def execVexp (at_ : VAt) (o : VUn) (s : State) : Out := .next (issueBy slotOf (.vexp at_ o) s)
def execVcmp (at_ : VAt) (fmt : Fmt) (fd : FReg) (va vb : VReg) (pr : FReg) (cond : BitVec 3) (s : State) : Out :=
  .next (issueBy slotOf (.vcmp at_ fmt fd va vb pr cond) s)
def execVsel (at_ : VAt) (o : VBin) (s : State) : Out := .next (issueBy slotOf (.vsel at_ o) s)
def execVcvt (at_ : VAt) (o : VUn) (src : Fmt) (p : BitVec 3) (s : State) : Out :=
  .next (issueBy slotOf (.vcvt at_ o src p) s)
def execVrsum (at_ : VAt) (o : VUn) (lg : BitVec 4) (s : State) : Out :=
  .next (issueBy slotOf (.vrsum at_ o lg) s)
def execVrmax (at_ : VAt) (o : VUn) (lg : BitVec 4) (s : State) : Out :=
  .next (issueBy slotOf (.vrmax at_ o lg) s)
def execVrmin (at_ : VAt) (o : VUn) (lg : BitVec 4) (s : State) : Out :=
  .next (issueBy slotOf (.vrmin at_ o lg) s)
def execVrargmax (at_ : VAt) (o : VUn) (lg : BitVec 4) (s : State) : Out :=
  .next (issueBy slotOf (.vrargmax at_ o lg) s)
def execVrargmin (at_ : VAt) (o : VUn) (lg : BitVec 4) (s : State) : Out :=
  .next (issueBy slotOf (.vrargmin at_ o lg) s)
def execVlutB (at_ : VAt) (vd va : VReg) (pr : FReg) (off : BitVec 12) (s : State) : Out :=
  .next (issueBy slotOf (.vlutB at_ vd va pr off) s)
def execVlutF32 (at_ : VAt) (vd va : VReg) (pr : FReg) (off : BitVec 12) (s : State) : Out :=
  .next (issueBy slotOf (.vlutF32 at_ vd va pr off) s)
def execVperm (at_ : VAt) (o : VBin) (s : State) : Out := .next (issueBy slotOf (.vperm at_ o) s)
def execVqld (at_ : VAt) (w : WReg) (half : Bool) (q : BitVec 6) (ecc : RowEcc) (s : State) : Out :=
  .next (issueBy slotOf (.vqld at_ w half q ecc) s)
def execVtkcfg (at_ : VAt) (nq : BitVec 7) (k : BitVec 9) (s : State) : Out :=
  .next (issueBy slotOf (.vtkcfg at_ nq k) s)
def execVsimI8 (at_ : VAt) (va : VReg) (half : Bool) (rt : SReg) (s : State) : Out :=
  .next (issueBy slotOf (.vsimI8 at_ va half rt) s)
def execVtkrd (at_ : VAt) (vd : VReg) (q : BitVec 6) (r : BitVec 2) (s : State) : Out :=
  .next (issueBy slotOf (.vtkrd at_ vd q r) s)
def execVdw (at_ : VAt) (o : VdwOp) (s : State) : Out := .next (issueBy slotOf (.vdw at_ o) s)

end Sys2Proof.Machine
end

