-- ==== Sys2Proof/Machine/Bundle.lean ====
section
/-! DEFINITION. The bits of a bundle (09, R243, R244, R252, R253, R260, R266; 10, R282, R283, R301 to R304):
its five slots, what each spells, and the fetch of a bundle that no slot command can present. -/

namespace Sys2Proof.Machine

-- ---------------------------------------------------------------- fields

/-- The bits that a format lists, as (lowest bit, width). -/
def slotMask (l : List (Nat × Nat)) : DWord :=
  l.foldl (fun m f => m ||| ((BitVec.allOnes f.2).setWidth 64 <<< f.1)) 0

/-- A slot word of a format: its instruction, or none where a bit that the format does not list is set. -/
def slotWord (w : DWord) (l : List (Nat × Nat)) (i : Instr) : Option Instr :=
  if w &&& ~~~slotMask l = 0 then some i else none

-- ---------------------------------------------------------------- CTL (R252, R253)

def crBits : List (Nat × Nat) := [(0, 8), (8, 5), (13, 5), (18, 5)]
def ciBits : List (Nat × Nat) := [(0, 8), (8, 5), (13, 5), (18, 30)]
def cwBits : List (Nat × Nat) := [(0, 8), (8, 4), (12, 5)]
def cbBits : List (Nat × Nat) := [(0, 8), (8, 5), (13, 5), (18, 13)]
def cjBits : List (Nat × Nat) := [(0, 8), (18, 13)]
def opBits : List (Nat × Nat) := [(0, 8)]

/-- A control slot; none is a reserved opcode or field. -/
def ctlOf (a : At) (w : DWord) : Option Instr :=
  let rd : SReg := bits w 8 5
  let ra : SReg := bits w 13 5
  let rb : SReg := bits w 18 5
  let imm : BitVec 30 := bits w 18 30
  let wr : WReg := bits w 8 4
  let rw : SReg := bits w 12 5
  let t : BitVec 13 := bits w 18 13
  let cr (i : Instr) : Option Instr := slotWord w crBits i
  let ci (i : Instr) : Option Instr := slotWord w ciBits i
  let cw (i : Instr) : Option Instr := slotWord w cwBits i
  let cb (i : Instr) : Option Instr := slotWord w cbBits i
  match (bits w 0 8).toNat with
  | 0x01 => cr (.add a rd ra rb)
  | 0x02 => cr (.sub a rd ra rb)
  | 0x03 => cr (.and a rd ra rb)
  | 0x04 => cr (.or a rd ra rb)
  | 0x05 => cr (.xor a rd ra rb)
  | 0x06 => cr (.shl a rd ra rb)
  | 0x07 => cr (.shr a rd ra rb)
  | 0x08 => cr (.sra a rd ra rb)
  | 0x09 => cr (.mul a rd ra rb)
  | 0x0A => cr (.divu a rd ra rb)
  | 0x0B => cr (.remu a rd ra rb)
  | 0x0C => cr (.min a rd ra rb)
  | 0x0D => cr (.max a rd ra rb)
  | 0x0E => cr (.slt a rd ra rb)
  | 0x0F => cr (.sltu a rd ra rb)
  | 0x11 => ci (.addi a rd ra imm)
  | 0x12 => ci (.subi a rd ra imm)
  | 0x13 => ci (.andi a rd ra imm)
  | 0x14 => ci (.ori a rd ra imm)
  | 0x15 => ci (.xori a rd ra imm)
  | 0x16 => ci (.shli a rd ra imm)
  | 0x17 => ci (.shri a rd ra imm)
  | 0x18 => ci (.srai a rd ra imm)
  | 0x19 => ci (.muli a rd ra imm)
  | 0x1A => ci (.divui a rd ra imm)
  | 0x1B => ci (.remui a rd ra imm)
  | 0x1C => ci (.mini a rd ra imm)
  | 0x1D => ci (.maxi a rd ra imm)
  | 0x1E => ci (.slti a rd ra imm)
  | 0x1F => ci (.sltui a rd ra imm)
  | 0x20 => ci (.lih a rd ra imm)
  | 0x21 => slotWord w [(0, 8), (8, 5), (18, 30)] (.srd a rd imm)
  | 0x24 => cw (.wset a wr rw)
  | 0x25 => cw (.wadd a wr rw)
  | 0x26 => cw (.wrd a wr rw)
  | 0x30 => cb (.beq a rd ra t)
  | 0x31 => cb (.bne a rd ra t)
  | 0x32 => cb (.blt a rd ra t)
  | 0x33 => cb (.bge a rd ra t)
  | 0x34 => cb (.bltu a rd ra t)
  | 0x35 => cb (.bgeu a rd ra t)
  | 0x36 => slotWord w cjBits (.jmp a t)
  | 0x37 => slotWord w cjBits (.call a t)
  | 0x38 => slotWord w opBits (.ret a)
  | 0x39 => slotWord w [(0, 8), (8, 2), (10, 5), (15, 13)] (.loop a (bits w 8 2) (bits w 10 5) (bits w 15 13))
  | 0x3A => slotWord w [(0, 8), (8, 2), (15, 13), (28, 20)]
      (.loopi a (bits w 8 2) (bits w 15 13) (bits w 28 20))
  | 0x3F => slotWord w opBits (.weftEnd a)
  | _ => none

-- ---------------------------------------------------------------- MEM (R260)

def streamBits : List (Nat × Nat) :=
  [(0, 8), (8, 5), (13, 8), (21, 4), (25, 5), (30, 5), (35, 10), (45, 6), (51, 1), (52, 1)]
def remoteBits : List (Nat × Nat) := [(0, 8), (8, 5), (13, 4), (17, 5), (22, 4), (26, 10), (36, 6), (42, 1)]

def streamOpOf (w : DWord) : StreamOp where
  tag := bits w 8 5
  desc := bits w 13 8
  w := bits w 21 4
  ro := bits w 25 5
  rs := bits w 30 5
  nr := bits w 35 10
  ac := bits w 45 6
  acen := w.getLsbD 51
  wpi := w.getLsbD 52

def remoteOpOf (w : DWord) : RemoteOp where
  tag := bits w 8 5
  w := bits w 13 4
  rd := bits w 17 5
  core := bits w 22 4
  nr := bits w 26 10
  ac := bits w 36 6
  wpi := w.getLsbD 42

/-- A memory slot; none is a reserved opcode or field. -/
def memOf (a : At) (w : DWord) : Option Instr :=
  match (bits w 0 8).toNat with
  | 1 => slotWord w streamBits (.mld a (streamOpOf w))
  | 2 => slotWord w streamBits (.mst a (streamOpOf w))
  | 3 => slotWord w streamBits (.mlda a (streamOpOf w))
  | 4 => slotWord w streamBits (.msta a (streamOpOf w))
  | 5 => slotWord w [(0, 8), (8, 5), (13, 1)] (.flush a (bits w 8 5) (w.getLsbD 13))
  | 6 => slotWord w remoteBits (.rwr a (remoteOpOf w))
  | 7 => slotWord w remoteBits (.rrd a (remoteOpOf w))
  | _ => none

-- ---------------------------------------------------------------- TEN (R282, R283)

def tpBits : List (Nat × Nat) :=
  [(0, 6), (6, 4), (10, 9), (19, 4), (23, 1), (24, 9), (33, 1), (34, 1), (35, 2), (37, 1), (38, 1), (39, 1)
  , (40, 4), (44, 4)]
def tcBits : List (Nat × Nat) :=
  [(0, 6), (6, 4), (10, 9), (19, 4), (23, 1), (24, 5), (29, 1), (30, 1), (31, 2), (33, 1), (34, 4), (38, 4)]

def tmmOpOf (w : DWord) : TmmOp where
  afmt := bits w 6 4
  mm1 := bits w 10 9
  wa := bits w 19 4
  bank := w.getLsbD 23
  a0 := bits w 24 9
  clr := w.getLsbD 33
  chen := w.getLsbD 34
  ch := bits w 35 2
  last := w.getLsbD 37
  defer := w.getLsbD 38
  linked := w.getLsbD 39
  wo := bits w 40 4
  wx := bits w 44 4

def tmmCOpOf (w : DWord) : TmmCOp where
  afmt := bits w 6 4
  mm1 := bits w 10 9
  wd := bits w 19 4
  bank := w.getLsbD 23
  rp := bits w 24 5
  clr := w.getLsbD 29
  chen := w.getLsbD 30
  ch := bits w 31 2
  last := w.getLsbD 33
  wo := bits w 34 4
  wx := bits w 38 4

def brunOpOf (w : DWord) : BrunOp where
  slot := bits w 6 2
  accf := w.getLsbD 8
  wl := w.getLsbD 9
  bank := w.getLsbD 10
  a0 := bits w 11 9
  mm1 := bits w 20 9
  wo := bits w 29 4
  wx := bits w 33 4

/-- An array or Braid slot; none is a reserved opcode or bit. -/
def tenOf (a : At) (w : DWord) : Option Instr :=
  let tp (i : Instr) : Option Instr := slotWord w tpBits i
  let tc (i : Instr) : Option Instr := slotWord w tcBits i
  match (bits w 0 6).toNat with
  | 0x01 => tp (.tmmI8 a (tmmOpOf w))
  | 0x02 => tp (.tmmI4 a (tmmOpOf w))
  | 0x03 => tp (.tmmL4 a (tmmOpOf w))
  | 0x04 => tp (.tmmF8 a (tmmOpOf w))
  | 0x05 => tp (.tmmBf16 a (tmmOpOf w))
  | 0x06 => tp (.tmmF16 a (tmmOpOf w))
  | 0x09 => tc (.tmmCI8 a (tmmCOpOf w))
  | 0x0A => tc (.tmmCI4 a (tmmCOpOf w))
  | 0x0B => tc (.tmmCL4 a (tmmCOpOf w))
  | 0x0C => tc (.tmmCF8 a (tmmCOpOf w))
  | 0x0D => tc (.tmmCBf16 a (tmmCOpOf w))
  | 0x0E => tc (.tmmCF16 a (tmmCOpOf w))
  | 0x10 => slotWord w [(0, 6), (6, 4), (10, 4), (14, 1)] (.tlw a (bits w 6 4) (bits w 10 4) (w.getLsbD 14))
  | 0x11 => slotWord w [(0, 6)] (.tmodeN a)
  | 0x12 => slotWord w [(0, 6)] (.tmodeW a)
  | 0x13 => slotWord w [(0, 6), (6, 1), (7, 9), (16, 9)] (.taclr a (w.getLsbD 6) (bits w 7 9) (bits w 16 9))
  | 0x18 => slotWord w [(0, 6), (8, 4), (12, 7), (19, 7)] (.bpld a (bits w 8 4) (bits w 12 7) (bits w 19 7))
  | 0x19 => slotWord w [(0, 6), (6, 2), (8, 12)] (.bset a (bits w 6 2) (bits w 8 12))
  | 0x1A => slotWord w [(0, 6), (6, 2)] (.barm a (bits w 6 2))
  | 0x1B => slotWord w
      [(0, 6), (6, 2), (8, 1), (9, 1), (10, 1), (11, 9), (20, 9), (29, 4), (33, 4)] (.brun a (brunOpOf w) [])
  | 0x1C => slotWord w [(0, 6), (6, 2)] (.bnorm a (bits w 6 2))
  | 0x20 => slotWord w [(0, 6), (6, 5), (11, 6)] (.rcall a (bits w 6 5) (bits w 11 6))
  | 0x21 => slotWord w [(0, 6), (6, 1), (7, 4), (11, 8), (19, 6)]
      (.sapp a (w.getLsbD 6) (bits w 7 4) (bits w 11 8) (bits w 19 6))
  | _ => none

-- ---------------------------------------------------------------- VEC (R301 to R304)

def vunBits : List (Nat × Nat) := [(0, 8), (8, 4), (12, 5), (17, 5), (32, 3)]
def vbinBits : List (Nat × Nat) := (22, 5) :: vunBits
def vredBits : List (Nat × Nat) := (35, 4) :: vunBits
def vldBits : List (Nat × Nat) := [(0, 8), (12, 5), (17, 4), (21, 1)]
def vbankBits : List (Nat × Nat) := [(0, 8), (12, 5), (35, 1), (36, 9)]
def vlutBits : List (Nat × Nat) := [(0, 8), (12, 5), (17, 5), (32, 3), (35, 12)]
def vdwBits : List (Nat × Nat) :=
  [(0, 8), (8, 4), (12, 4), (16, 5), (21, 7), (28, 3), (31, 4), (35, 1), (36, 1), (37, 1), (38, 2), (40, 1)
  , (41, 4), (45, 4)]

def vdwOpOf (w : DWord) : VdwOp where
  afmt := bits w 8 4
  wd := bits w 12 4
  rp := bits w 16 5
  mm1 := bits w 21 7
  lg := bits w 28 3
  ww := bits w 31 4
  bank := w.getLsbD 35
  clr := w.getLsbD 36
  chen := w.getLsbD 37
  ch := bits w 38 2
  last := w.getLsbD 40
  wo := bits w 41 4
  wx := bits w 45 4

/-- A vector slot; none is a reserved opcode, a reserved bit or an unused field that is not 0. -/
def vecOf (a : VAt) (w : DWord) : Option Instr :=
  let fmt : Fmt := bits w 8 4
  let vd : VReg := bits w 12 5
  let va : VReg := bits w 17 5
  let vb : VReg := bits w 22 5
  let pr : FReg := bits w 32 3
  let u : VUn := { fmt := fmt, vd := vd, va := va, pr := pr }
  let b : VBin := { fmt := fmt, vd := vd, va := va, vb := vb, pr := pr }
  let lg : BitVec 4 := bits w 35 4
  let un (i : Instr) : Option Instr := slotWord w vunBits i
  let bin (i : Instr) : Option Instr := slotWord w vbinBits i
  let red (i : Instr) : Option Instr := slotWord w vredBits i
  match (bits w 0 8).toNat with
  | 0x01 => slotWord w vldBits (.vld a vd (bits w 17 4) (w.getLsbD 21) .clean)
  | 0x02 => slotWord w vldBits (.vst a vd (bits w 17 4) (w.getLsbD 21))
  | 0x03 => slotWord w vbankBits (.vlda a vd (w.getLsbD 35) (bits w 36 9) .clean)
  | 0x04 => slotWord w vbankBits (.vsta a vd (w.getLsbD 35) (bits w 36 9))
  | 0x08 => un (.vmov a u)
  | 0x09 => un (.vbc a fmt vd va pr)
  | 0x0A => slotWord w [(0, 8), (8, 4), (12, 5), (17, 5), (35, 9)] (.vext a fmt vd va (bits w 35 9))
  | 0x10 => bin (.vadd a b)
  | 0x11 => bin (.vsub a b)
  | 0x12 => bin (.vmul a b)
  | 0x13 => bin (.vmulh a b)
  | 0x14 => bin (.vadds a b)
  | 0x15 => bin (.vsubs a b)
  | 0x16 => bin (.vmin a b)
  | 0x17 => bin (.vmax a b)
  | 0x18 => un (.vabs a u)
  | 0x19 => un (.vneg a u)
  | 0x1A => bin (.vshl a b)
  | 0x1B => bin (.vshr a b)
  | 0x1C => bin (.vand a b)
  | 0x1D => bin (.vor a b)
  | 0x1E => bin (.vxor a b)
  | 0x1F => un (.vnot a u)
  | 0x20 => bin (.vdot4 a b)
  | 0x21 => slotWord w ((27, 5) :: vbinBits) (.vfma a b (bits w 27 5))
  | 0x22 => bin (.vdiv a b)
  | 0x23 => un (.vsqrt a u)
  | 0x24 => un (.vrcp a u)
  | 0x25 => un (.vrsqrt a u)
  | 0x26 => un (.vexp a u)
  | 0x28 => slotWord w [(0, 8), (8, 4), (12, 3), (17, 5), (22, 5), (32, 3), (35, 3)]
      (.vcmp a fmt (bits w 12 3) va vb pr (bits w 35 3))
  | 0x29 => bin (.vsel a b)
  | 0x2A => slotWord w ((35, 4) :: (39, 3) :: vunBits) (.vcvt a u lg (bits w 39 3))
  | 0x30 => red (.vrsum a u lg)
  | 0x31 => red (.vrmax a u lg)
  | 0x32 => red (.vrmin a u lg)
  | 0x33 => red (.vrargmax a u lg)
  | 0x34 => red (.vrargmin a u lg)
  | 0x38 => slotWord w vlutBits (.vlutB a vd va pr (bits w 35 12))
  | 0x39 => slotWord w vlutBits (.vlutF32 a vd va pr (bits w 35 12))
  | 0x3A => bin (.vperm a b)
  | 0x40 => slotWord w [(0, 8), (17, 4), (35, 1), (36, 6)]
      (.vqld a (bits w 17 4) (w.getLsbD 35) (bits w 36 6) .clean)
  | 0x41 => slotWord w [(0, 8), (22, 9), (35, 7)] (.vtkcfg a (bits w 35 7) (bits w 22 9))
  | 0x42 => slotWord w [(0, 8), (17, 5), (35, 1), (36, 5)] (.vsimI8 a va (w.getLsbD 35) (bits w 36 5))
  | 0x43 => slotWord w [(0, 8), (12, 5), (35, 6), (41, 2)] (.vtkrd a vd (bits w 35 6) (bits w 41 2))
  | 0x48 => slotWord w vdwBits (.vdw a (vdwOpOf w))
  | _ => none

-- ---------------------------------------------------------------- SYN (R266)

/-- A synchronisation slot; none is a reserved opcode or field. -/
def synOf (a : At) (w : DWord) : Option Instr :=
  match (bits w 0 6).toNat with
  | 1 => slotWord w [(0, 6), (6, 6), (12, 16), (28, 1)]
      (.waitAc a (bits w 6 6) (bits w 12 16) (w.getLsbD 28))
  | 2 => slotWord w [(0, 6), (6, 5), (11, 1)] (.waitT a (bits w 6 5) (w.getLsbD 11))
  | 3 => slotWord w [(0, 6), (6, 5), (11, 1)] (.waitTm a (bits w 6 5) (w.getLsbD 11))
  | 4 => slotWord w [(0, 6), (6, 6), (12, 4), (16, 12)] (.acsig a (bits w 6 6) (bits w 12 4) (bits w 16 12))
  | 5 => slotWord w [(0, 6)] (.yield a)
  | 6 => slotWord w [(0, 6), (6, 5), (11, 5)] (.live a (bits w 6 5) (bits w 11 5))
  | 7 => slotWord w [(0, 6)] (.liveClr a)
  | 8 => slotWord w [(0, 6), (6, 6)] (.fence a (bits w 6 6))
  | _ => none

-- ---------------------------------------------------------------- the bundle (R243, R244)

/-- Slot `n` of a bundle, in the order of R249. -/
def slotBits (b : BitVec 256) (n : Nat) : DWord :=
  match n with
  | 0 => (bits b 0 48).setWidth 64
  | 1 => bits b 48 64
  | 2 => (bits b 112 48).setWidth 64
  | 3 => bits b 160 64
  | _ => (bits b 224 32).setWidth 64

/-- What slot `n` spells when it is not all zero. -/
def slotInstr (a : At) (n : Nat) (w : DWord) : Option Instr :=
  match n with
  | 0 => ctlOf a w
  | 1 => memOf a w
  | 2 => tenOf a w
  | 3 => vecOf { slot := a, fails := 0 } w
  | _ => synOf a w

/-- The slots of a bundle that are no NOP (R244), by number, with what they spell. -/
def bundleSlots (a : At) (b : BitVec 256) : List (Nat × DWord × Option Instr) :=
  (List.range 5).filterMap (fun n =>
    let w := slotBits b n
    if w = 0 then none else some (n, w, slotInstr a n w))

/-- A slot with a reserved opcode or field (R244, R253, R279, R301): ILLEGAL reason 1 at issue. -/
def reservedSlot (c n : Nat) (w : DWord) : SlotInfo where
  core := c
  no := n
  more := false
  ecc := {}
  alone := false
  writes := []
  run := fun _ _ => .fault (fun s =>
    if n = slotMem then memFault s c tfIllegal 1 (bits w 8 5).toNat (bits w 13 8).toNat
    else seqFault s c tfIllegal 1 n)

/-- A bundle as the slots that issue. -/
def bundleInfos (c : Nat) (l : List (Nat × DWord × Option Instr)) : List SlotInfo :=
  l.filterMap (fun e => match e.2.2 with
    | some i => slotOf i
    | none => some (reservedSlot c e.1 e.2.1))

/-- The slot commands can present a bundle: it holds one at least, and no reserved word. -/
def presentable (l : List (Nat × DWord × Option Instr)) : Bool :=
  !l.isEmpty && l.all (fun e => e.2.2.isSome)

/-- The slots of the bundle at a core's program counter. -/
def nextSlots (s : State) (c : Nat) : List (Nat × DWord × Option Instr) :=
  let q := (coreOf s c).seq
  bundleSlots { core := BitVec.ofNat 4 c, more := false, ecc := {} } (mget 0 q.image q.pc.toNat)

/-- A core can issue, no slot of its next bundle has been presented, and no slot command can present that bundle:
one beyond the image, one of five NOPs, one with a reserved word (R244, R245; log 73). -/
def ownFetch (s : State) (c : Nat) : Bool :=
  canIssue s c && (mget [] s.bundles c).isEmpty && (pastImage s c || !presentable (nextSlots s c))

/-- Such a core fetches the bundle itself. -/
def fetchOwn (s : State) (c : Nat) : State :=
  if ownFetch s c then runBundle s c (bundleInfos c (nextSlots s c)) else s

end Sys2Proof.Machine
end

