-- ==== Sys2Proof/Machine/Gate.lean ====
section
/-! DEFINITION. Who may write a register, and the power of its domain (R526, R527). -/

namespace Sys2Proof.Machine

def byForge (i : Initiator) : Bool := i == .forge
def byHostForge (i : Initiator) : Bool := i == .host || i == .forge

/-- Any party but the security processor, which has no writable register (R527). -/
def notSecp (i : Initiator) : Bool := !(i == .secp)

/-- The Forge runs: its domain is on, and it is not kept in reset, halted, in recovery or in a handover
(R489, R492, R501, R519). -/
def forgeRuns (s : State) : Bool :=
  domOn s 208 && !s.svc.held && !s.svc.halted && !s.svc.recovering && !s.mbx.handover

/-- A write of the register at `off` with value `v`: from an initiator that may not make it, or into a
domain that is off, it has no effect and makes REG_REFUSED (R526, R527). -/
def gated (s : State) (off : Nat) (v : Word) (i : Initiator) (ok : Bool) (dom : Nat)
    (f : State → State) : State :=
  if ok && domOn s dom then f s else regRefused s off v i

end Sys2Proof.Machine
end

