-- ==== Sys2Proof/Machine/TemperArray.lean ====
section
/-! DEFINITION. The Temper array (19, R536 to R546): how a start reads it, commits, the Forge's own
writes and their rate, a loss of power. -/

namespace Sys2Proof.Machine

def offTmpCommit : Nat := 0xC00008

def tword (s : State) (w : Nat) : TWord := mget {} s.temper.words w
def setTword (s : State) (w : Nat) (x : TWord) : State :=
  { s with temper := { s.temper with words := mset {} s.temper.words w x } }

/-- Words that the layout assigns (R543). -/
def temperAssigned (w : Nat) : Bool :=
  decide (w ≤ 9) || decide (0x10 ≤ w ∧ w < 0x50) || decide (0x60 ≤ w ∧ w < 0x80) ||
    decide (w = 0x80 ∨ w = 0x81 ∨ w = 0x82 ∨ w = 0x84 ∨ w = 0x85 ∨ w = 0x86) ||
    decide (0xA0 ≤ w ∧ w < 0xD0) || decide (0x100 ≤ w ∧ w < 0x300) || decide (0x800 ≤ w ∧ w < 0x1000)

def temperFactory (w : Nat) : Bool := decide (w ≤ 2 ∨ (0xA0 ≤ w ∧ w < 0xD0))
def factoryLock (s : State) : Bool := (temperWord s 2).getLsbD 31

-- ---------------------------------------------------------------- a start (R537)

def copyOf (x : TWord) (k : Nat) : Option Word :=
  if x.failed.getLsbD k then none else if k = 0 then x.c0 else if k = 1 then x.c1 else x.c2

/-- The value that a start takes for a word; none when no copy decodes. Three copies that all differ
do not occur (R542). -/
def resolve (x : TWord) : Option Word :=
  match copyOf x 0, copyOf x 1, copyOf x 2 with
  | some a, some b, some c => if a = b then some a else some c
  | some a, some b, none => if a = b then some a else some b
  | _, _, some c => some c
  | none, some b, none => some b
  | some a, none, none => some a
  | none, none, none => none

/-- A word as a start finds it. -/
def hurtWord (x : TWord) (e : TemperErr) : TWord :=
  let c (k : Nat) (o : Option Word) : Option Word := if e.double.getLsbD k then none else o
  { x with c0 := c 0 x.c0, c1 := c 1 x.c1, c2 := c 2 x.c2
           count := if e.counter then 0xFFFFFFFF else x.count }

/-- The copies of a word in which a start corrects a single error. -/
def singleCopies (l : List TemperErr) (w : Nat) : BitVec 3 :=
  l.foldl (fun m e => if e.word.toNat = w then m ||| (e.single &&& ~~~e.double) else m) 0

/-- A word after a start: every copy that was corrected or disagrees is rewritten, which counts once
(log 19). -/
def startWord (single : BitVec 3) (x : TWord) : TWord :=
  match resolve x with
  | none => { x with unreadable := true, corrected := 0, lastTick := none }
  | some v =>
    let bad (k : Nat) : Bool := single.getLsbD k || decide (copyOf x k ≠ some v)
    let m : BitVec 3 := (if bad 0 then 1 else 0) ||| (if bad 1 then 2 else 0) ||| (if bad 2 then 4 else 0)
    { x with c0 := some v, c1 := some v, c2 := some v, corrected := m, unreadable := false
             lastTick := none, count := if m = 0 then x.count else satAdd x.count 1 }

def shadowOf (x : TWord) : Word := (resolve x).getD 0

/-- The engine reads every word, with the errors that it meets, and forms the shadows. -/
def temperStart (s : State) (l : List TemperErr) : State :=
  let ws := (l.foldl (fun s e => setTword s e.word.toNat (hurtWord (tword s e.word.toNat) e)) s).temper.words
  { s with temper := { s.temper with
      words := (ws.map (fun e => (e.1, startWord (singleCopies l e.1) e.2))).filter (fun e => !decide (e.2 = {}))
      shadow := (ws.map (fun e => (e.1, shadowOf e.2))).filter (fun e => !decide (e.2 = 0))
      loaded := true
      unreadable := BitVec.ofNat 13 (ws.filter (fun e => (resolve e.2).isNone)).length } }

/-- A word that could not be read at the last start. -/
def temperUnreadable (s : State) (w : Nat) : Bool := (tword s w).unreadable

-- ---------------------------------------------------------------- commits (R539 to R541)

/-- The same word completed a commit less than 100,000,000 ticks ago since the last start. -/
def tooSoon (s : State) (w : Nat) : Bool :=
  match (tword s w).lastTick with
  | some t => decide ((now s - t).toNat < 100000000)
  | none => false

/-- A commit starts: the counter of the word advances. -/
def temperBegin (s : State) (w : Nat) (v : Word) : State :=
  let x := tword s w
  let s := setTword s w { x with count := satAdd x.count 1 }
  { s with temper := { s.temper with
      busy := some (w, v), since := now s, commit := BitVec.ofNat 12 w } }

/-- The completed twin write of TMP_COMMIT: a commit, or one of the refusals of R540. -/
def temperTry (s : State) (i : Initiator) (value data : Word) : State :=
  let w := value.toNat % 4096
  if s.temper.busy.isSome || tooSoon s w then regRefused s offTmpCommit value i
  else if !temperAssigned w then regReserved s offTmpCommit value i
  else if temperFactory w && factoryLock s then regRefused s offTmpCommit value i
  else temperBegin s w data

/-- TEMPER_WEAR (R497, R541): a replacement request. -/
def temperWear (s : State) : State := postReplace s 0x1D5 srcTemper 0 0 4

/-- The first waiting write of the Forge that may start (R497). -/
def temperPump (s : State) : State :=
  if s.temper.busy.isSome || !s.temper.loaded then s
  else match s.temper.wait.find? (fun e => !tooSoon s e.1) with
    | some e =>
      temperBegin { s with temper := { s.temper with data := e.2, wait := s.temper.wait.erase e } }
        e.1 e.2
    | none => s

/-- The Forge writes a word (R496, R497): a waiting write of the same word is replaced, a value that the
shadow already holds is not written, and a routine write of a worn word is not made. -/
def forgeTemper (s : State) (w : Nat) (v : Word) (routine : Bool) : State :=
  let rest := s.temper.wait.filter (fun e => decide (e.1 ≠ w))
  let same : Bool := match s.temper.busy with
    | some (b, x) => if b = w then x == v else temperWord s w == v
    | none => temperWord s w == v
  if routine && decide ((tword s w).count.toNat ≥ 90000000) then s
  else if same then { s with temper := { s.temper with wait := rest } }
  else temperPump { s with temper := { s.temper with wait := rest ++ [(w, v)] } }

/-- The value that the Forge last gave a word: waiting, under way, or in the shadow. -/
def forgeWord (s : State) (w : Nat) : Word :=
  match s.temper.wait.find? (fun e => decide (e.1 = w)) with
  | some e => e.2
  | none => match s.temper.busy with
    | some (b, v) => if b = w then v else temperWord s w
    | none => temperWord s w

/-- The commit under way has taken its 200 ticks (R539). -/
def temperDue (s : State) : Bool := decide ((now s - s.temper.since).toNat ≥ 200)

/-- TEMPER_COMMIT_DONE: the three copies are written, each verified; `failA` and `failB` are the copies
whose first and second verification fails. -/
def temperCommitDone (failA failB : BitVec 3) (s : State) : State :=
  match s.temper.busy with
  | none => s
  | some (w, v) =>
    let x := tword s w
    let f := failA &&& failB
    let put (k : Nat) (old : Option Word) : Option Word := if f.getLsbD k then old else some v
    let y : TWord := { x with c0 := put 0 x.c0, c1 := put 1 x.c1, c2 := put 2 x.c2
                              failed := x.failed ||| f, lastTick := some (now s) }
    let n := ((List.range 3).filter (fun k => y.failed.getLsbD k)).length
    let s := setTword s w y
    let s := { s with temper := { s.temper with
        shadow := mset 0 s.temper.shadow w v, busy := none, last := BitVec.ofNat 12 w
        lastFail := decide (f ≠ 0) } }
    let s := if decide (n ≥ 2) then temperWear s else s
    temperPump (if y.count = 90000000 then temperWear s else s)

-- ---------------------------------------------------------------- loss of power (R542)

/-- What a commit stopped in its step leaves behind: 0 before copy 0, 1 while copy 0 is written, and so on
to 6 after copy 2; the copy then being written decodes as `torn`, the old value or the new one, or does
not decode. -/
def tornWord (x : TWord) (v : Word) (step : Nat) (torn : Option Word) : TWord :=
  let t (old : Option Word) : Option Word := if torn = some v ∨ torn = old then torn else none
  let c (k : Nat) (old : Option Word) : Option Word :=
    if step ≥ 2 * k + 2 then some v else if step = 2 * k + 1 then t old else old
  { x with c0 := c 0 x.c0, c1 := c 1 x.c1, c2 := c 2 x.c2 }

/-- The array as the loss of power leaves it. -/
def temperTorn (s : State) (step : BitVec 3) (torn : Option Word) : SMap TWord :=
  match s.temper.busy with
  | some (w, v) => (setTword s w (tornWord (tword s w) v step.toNat torn)).temper.words
  | none => s.temper.words

end Sys2Proof.Machine
end

