-- ==== Sys2Proof/Machine/Clock.lean ====
section
/-! DEFINITION. The passing of one timebase tick (R5 to R7): the clocks, the counters that count cycles, the
tile watchdogs, the slices, the bundles that no command presents, and the Temper writes that waited. -/

namespace Sys2Proof.Machine

/-- Root cycles in one core cycle at a divider setting (R5, R506). -/
def coreDivisor (div : BitVec 2) : Nat := [8, 10, 12, 16].getD div.toNat 8

/-- The cycles of a clock of divisor `d` in a tick of 88 root cycles, and the root cycles left over. -/
def cyclesIn (rem d : Nat) : Nat × Nat := ((rem + 88) / d, (rem + 88) % d)

/-- Of the `n` cycles from `a` on, those that gating level `g` suppresses: the first `g` of every 16. -/
def gatedIn (g a n : Nat) : Nat := ((List.range n).filter (fun i => decide ((a + i) % 16 < g))).length

/-- One core's counters over `n` core cycles, and its watchdog over the tick (R278, R549). -/
def tickCore (n gated : Nat) (s : State) (c : Nat) : State :=
  if domOn s (13 * c) then
    let k := coreOf s c
    let s := countCore s c 0 n
    let s := if gated = 0 then s else countCore s c 2 gated
    let s := if k.mem.creditWait then countCore s c 15 n else s
    if k.seq.wdRun && k.ta.repairHold.isNone then
      updSeq s c (fun q => { q with watchdog := q.watchdog + 1 })
    else s
  else s

/-- A running task's slice counts the tick, but for repair hold (R374). -/
def tickTask (s : State) (k : Ctx) : Ctx :=
  match k.task with
  | some t =>
    if t.phase == .running && !t.cores.any (fun c => (coreOf s c).ta.repairHold.isSome) then
      { k with task := some { t with slice := t.slice + 1 } }
    else k
  | none => k

def tickTasks (s : State) : State :=
  { s with cp := { s.cp with ctxs := s.cp.ctxs.map (fun e => (e.1, tickTask s e.2)) } }

/-- What the derived clocks do in a tick in which they run (R514). -/
def tickClocks (s : State) : State :=
  let a := s.clk.coreCyc
  let n := cyclesIn s.clk.coreRem (coreDivisor s.pwr.div)
  let f := cyclesIn s.clk.fabRem 6
  let s := { s with clk := { s.clk with
    coreCyc := a + n.1, coreRem := n.2, fabCyc := s.clk.fabCyc + f.1, fabRem := f.2 } }
  (List.range 16).foldl (tickCore n.1 (gatedIn s.pwr.gate.toNat a n.1)) s

/-- One timebase tick with no command waiting. While the root clock is lost the timebase counts on, and so
do the durations in ticks; nothing else moves. -/
def clockTick (s : State) : State :=
  let s := { s with clk := { s.clk with tb := s.clk.tb + 1 } }
  if s.pwr.lostSince.isNone then
    let s := (List.range 16).foldl fetchOwn (tickTasks (tickClocks s))
    if forgeRuns s then temperPump s else s
  else s

end Sys2Proof.Machine
end

