-- ==== Sys2Proof/Machine/LinkBase.lean ====
section
/-! DEFINITION. The sending side of a Plait link (15): flits, credits, the retry buffer, transactions. -/

namespace Sys2Proof.Machine

def vcRequest : Nat := 0
def vcResponse : Nat := 1
def vcControl : Nat := 2

def txWinWrite : Nat := 1
def txWinRead : Nat := 2
def txFenceSig : Nat := 3
def txMsg : Nat := 4
def txCompletion : Nat := 0x81

/-- The link's transactions wait or run: it is ACTIVE, or in RETRAIN (R439, R440). -/
def linkHolds (k : Link) : Bool := k.st == .active || k.st == .retrain

-- ---------------------------------------------------------------- lanes (R414, R415)

/-- The scrambler x^58 + x^39 + 1 over `n` bits of a payload, lowest first; `h` holds the last 58 bits sent,
the latest on top (R414). -/
def scrambleBits : Nat → DWord → BitVec 58 → List Bool × BitVec 58
  | 0, _, h => ([], h)
  | n + 1, d, h =>
    let o := (d.getLsbD 0 ^^ h.getLsbD 19) ^^ h.getLsbD 0
    let r := scrambleBits n (d >>> 1) ((h >>> 1) ||| (if o then 1#58 <<< 57 else 0))
    (o :: r.1, r.2)

def ofBits (l : List Bool) : DWord := l.foldr (fun b v => (v <<< 1) ||| (if b then 1 else 0)) 0

/-- A payload as the lane carries it, and the scrambler after it. -/
def scrambleWord (d : DWord) (h : BitVec 58) : DWord × BitVec 58 :=
  let r := scrambleBits 64 d h
  (ofBits r.1, r.2)

/-- A payload as it was before its scrambling, and the descrambler after it. -/
def descrambleWord (d : DWord) (h : BitVec 58) : DWord × BitVec 58 :=
  let w : BitVec 122 := d ++ h
  ((((w >>> 58) ^^^ (w >>> 19)) ^^^ w).setWidth 64, (d >>> 6).setWidth 58)

/-- A word of the stream goes to its lane in a data block (R415). -/
def putLaneWord (k : Link) (w : DWord) : Link :=
  let r := scrambleWord w (mget 0 k.scr k.txLane.toNat)
  { k with scr := mset 0 k.scr k.txLane.toNat r.2, txLane := k.txLane + 1
           out := k.out ++ [{ lane := k.txLane, sync := 1, payload := r.1 }] }

-- ---------------------------------------------------------------- flits on the lanes (R421, R422)

/-- One bit of the CRC-32C of RFC 3720, reflected (R422). -/
def crcBit (c : Word) : Word := if c.getLsbD 0 then (c >>> 1) ^^^ 0x82F63B78 else c >>> 1
def crcBits : Nat → Word → Word
  | 0, c => c
  | n + 1, c => crcBits n (crcBit c)
def crcByte (c : Word) (b : Byte) : Word := crcBits 8 (c ^^^ b.setWidth 32)
def crc32c (l : List Byte) : Word := ~~~(l.foldl crcByte 0xFFFFFFFF)

/-- The header of a flit (R421): its own fields, the ACK, the credit report and the request of a replay. -/
def flitHeader (k : Link) (f : Flit) : Word :=
  natAt f.seq.toNat 0 ||| natAt k.expect.toNat 8 ||| natAt f.vc.toNat 16 ||| natAt f.kind.toNat 18 |||
    natAt k.credTurn.toNat 20 ||| natAt (mget 0 k.freed k.credTurn.toNat).toNat 22 ||| bitAt k.retryDue 30

/-- The 136 bytes of a flit: header, body, CRC. -/
def flitBits (h : Word) (body : BitVec 1024) : BitVec 1088 :=
  let b : BitVec 1056 := body ++ h
  crc32c (bytesOf b 132) ++ b

/-- The 17 words of a flit. -/
def flitWords (v : BitVec 1088) : List DWord := (List.range 17).map (fun i => bits v (64 * i) 64)

/-- A flit goes out on the lanes; the report of the next one is about the next VC (R421). -/
def transmit (k : Link) (f : Flit) : Link :=
  let k' := (flitWords (flitBits (flitHeader k f) f.body)).foldl putLaneWord k
  { k' with retryDue := false, credTurn := if k.credTurn = 2 then 0 else k.credTurn + 1 }

/-- An idle flit, which a transmitter with nothing to send sends (R421). -/
def idleFlit (k : Link) : Flit := { seq := k.nextSeq, vc := 0, kind := 0, body := 0 }

-- ---------------------------------------------------------------- flits (R423, R424)

/-- The oldest flit of a VC that has not been sent. -/
def vcHead (l : List Flit) (vc : BitVec 2) : Option Flit := l.find? (fun f => decide (f.vc = vc))

/-- Flits of the transaction whose command flit stands first in its VC. -/
def groupLen (l : List Flit) (vc : BitVec 2) : Nat :=
  1 + (((l.filter (fun f => decide (f.vc = vc))).drop 1).takeWhile (fun f => decide (f.kind = 2))).length

/-- A flit may be sent: it is its VC's oldest, and either its transaction has started or the credits
for all of its flits are there (R424). -/
def flitReady (k : Link) (f : Flit) : Bool :=
  decide (vcHead k.txQueue f.vc = some f) &&
    (decide (f.kind = 2) ||
      decide (mget 0 k.credits f.vc.toNat ≥ groupLen k.txQueue f.vc))

/-- Flits leave the queue for the retry buffer while at most 64 are unacknowledged (R423): the link and
how many were sent. -/
def pumpFlits : Nat → Link → Nat → Link × Nat
  | 0, k, n => (k, n)
  | m + 1, k, n =>
    if k.st == .active && decide (k.retryBuf.length < 64) then
      match k.txQueue.find? (flitReady k) with
      | none => (k, n)
      | some f =>
        let cost := if f.kind = 2 then 0 else groupLen k.txQueue f.vc
        let g := { f with seq := k.nextSeq }
        pumpFlits m { transmit k g with
          txQueue := k.txQueue.erase f
          retryBuf := k.retryBuf ++ [g]
          nextSeq := k.nextSeq + 1
          credits := mset 0 k.credits f.vc.toNat (mget 0 k.credits f.vc.toNat - cost)
          txCnt := satAdd k.txCnt 1 } (n + 1)
    else (k, n)

/-- The link sends what it can; every sequenced flit sent counts (R550). With none to send, an ACTIVE link sends
an idle flit (R421, log 83). -/
def linkPump (s : State) (l : Nat) : State :=
  let k := { linkOf s l with out := [] }
  let r := pumpFlits (k.txQueue.length + 1) k 0
  let k' := if k.retryBuf.isEmpty then { r.1 with ackAt := s.clk.fabCyc } else r.1
  if r.2 = 0 then (if k.st == .active then setLink s l (transmit k (idleFlit k)) else s)
  else count (setLink s l k') (268 + l) r.2

-- ---------------------------------------------------------------- transactions (R430)

/-- The body of a command flit (R430). -/
def flitBody (type nl1 tag gen window offset value : Nat) : BitVec 1024 :=
  BitVec.ofNat 1024 (type + nl1 * 2 ^ 8 + (tag + gen * 1024) * 2 ^ 16 + window * 2 ^ 32 +
    offset * 2 ^ 64 + value * 2 ^ 128)

def cmdFlit (vc : Nat) (body : BitVec 1024) : Flit :=
  { seq := 0, vc := BitVec.ofNat 2 vc, kind := 1, body := body }
def dataFlit (vc : Nat) (body : BitVec 1024) : Flit :=
  { seq := 0, vc := BitVec.ofNat 2 vc, kind := 2, body := body }

/-- Flits are queued and sent as the credits allow. -/
def queueFlits (s : State) (l : Nat) (fs : List Flit) : State :=
  linkPump (updLink s l (fun k => { k with txQueue := k.txQueue ++ fs })) l

/-- A tag of the 1,024 that awaits no completion. -/
def freeTag (k : Link) : Option Nat := (List.range 1024).find? (fun i => (mget none k.txns i).isNone)

/-- A transaction starts under a free tag and the tag's next generation; without one nothing happens. -/
def startTxn (s : State) (l vc : Nat) (t : Txn) (value : Nat) (data : List (BitVec 1024)) : State :=
  match freeTag (linkOf s l) with
  | none => s
  | some tag =>
    let g := (mget 0 (linkOf s l).gens tag + 1) % 64
    let s := updLink s l (fun k => { k with
      txns := mset none k.txns tag (some { t with gen := g, sent := now s })
      gens := mset 0 k.gens tag g })
    let nl1 := if t.type.toNat = txWinWrite ∨ t.type.toNat = txWinRead then t.lines - 1 else 0
    queueFlits s l (cmdFlit vc (flitBody t.type.toNat nl1 tag g t.window t.offset value) ::
      data.map (dataFlit vc))

def txnOf (type window offset lines : Nat) : Txn where
  gen := 0
  type := BitVec.ofNat 8 type
  window := window
  offset := offset
  lines := lines
  ctx := 0
  core := 0
  refs := []
  sent := 0
  sig := none

/-- FENCE_SIG in place of a local atomic (R428): its address is an aperture offset. -/
def sendFenceSig (s : State) (l off : Nat) (g : Signal) : State :=
  startTxn s l vcRequest { txnOf txFenceSig (off / 2 ^ 30) (off % 2 ^ 30) 0 with sig := some g }
    g.word.toNat []

end Sys2Proof.Machine
end

