-- ==== Sys2Proof/Machine/Fences.lean ====
section
/-! DEFINITION. The Fence Unit (12, R347 to R350). -/

namespace Sys2Proof.Machine

-- ---------------------------------------------------------------- commands of a context

/-- The context may fetch or start a command (R338): not while the host is gone, but for the
FENCE_SIGNAL commands that directly follow the one that was running. -/
def mayRun (s : State) (c : Nat) : Bool := !hostGone s c || (ctxOf s c).trail

/-- A context from which a command starts (R337): READY, RUNNING for the next command after a FENCE_WAIT or
BARRIER, or SAVED where the command that took a page fault has no task and starts again. -/
def startsFrom (k : Ctx) : Bool :=
  k.state == .ready || k.state == .running || (k.state == .saved && k.task.isNone)

/-- The context's command has been fetched and has not started (R341). -/
def canStart (s : State) (c : Nat) : Bool :=
  let k := ctxOf s c
  startsFrom k && k.cur.isSome && !k.started && mayRun s c

def beginCmd (s : State) (c : Nat) (st : CtxState) : State :=
  updCtx s c (fun k => { k with state := st, started := true, finished := false, cmdTick := now s })

def finishCmd (s : State) (c : Nat) : State := updCtx s c (fun k => { k with finished := true })

-- ---------------------------------------------------------------- waits

/-- What a fence word says of a wait (R349): released with an error, released, or not. -/
def waitVerdict (word : DWord) (w : FWait) : Option Bool :=
  if word.getLsbD 63 then some true
  else if w.value ≤ word then some false
  else none

/-- A wait is released. -/
def releaseWait (word : DWord) (s : State) (w : FWait) : State :=
  match waitVerdict word w with
  | some true => cmdFault s w.ctx tfFenceFailed 1
  | some false => finishCmd s w.ctx
  | none => s

/-- The waits on a fence, on the watch list and on the overflow list. -/
def waitsOn (f : Fu) (a : DWord) : List FWait :=
  (f.watch.filter (fun e => decide (e.1 = a))).flatMap (·.2) ++
    (f.overflow.filter (fun e => decide (e.1 = a))).map (·.2)

/-- The lists without the waits on fence `a` that `p` holds of. -/
def dropWaitsOn (f : Fu) (a : DWord) (p : FWait → Bool) : Fu :=
  promoteWaits 512 { f with
    watch := keepWaits (f.watch.map (fun e => if e.1 = a then (e.1, e.2.filter (fun w => !p w)) else e))
    overflow := f.overflow.filter (fun e => !(decide (e.1 = a) && p e.2)) }

/-- Every wait on fence `a` is tested against its word (R349). -/
def testFence (s : State) (a word : DWord) : State :=
  let ws := waitsOn s.fu a
  ws.foldl (releaseWait word)
    { s with fu := dropWaitsOn s.fu a (fun w => (waitVerdict word w).isSome) }

/-- A wait joins the watch entry of its fence, opens one, or joins the overflow list (R349, R350). -/
def joinWatch (s : State) (a : DWord) (w : FWait) : State :=
  if s.fu.watch.any (fun e => decide (e.1 = a)) then
    { s with fu := { s.fu with
        watch := s.fu.watch.map (fun e => if e.1 = a then (e.1, e.2 ++ [w]) else e) } }
  else if s.fu.watch.length < 512 then
    { s with fu := { s.fu with watch := s.fu.watch ++ [(a, [w])] } }
  else
    let s' := { s with fu := { s.fu with overflow := s.fu.overflow ++ [(a, w)] } }
    if s.fu.overflow.isEmpty then post s' 0x153 srcFu none a (BitVec.ofNat 64 s'.fu.overflow.length)
    else s'

/-- GEQ entry FENCE_ERROR (R347, R349, R350). -/
def fenceError (s : State) (c : Option Nat) (a : DWord) : State := post s 0x152 srcFu c a 0

/-- FENCE_WAIT (R349, R428): the checks, then the read at registration. -/
def fenceWaitStart (ctx : CtxId) (s : State) : State :=
  let c := ctx.toNat
  let k := ctxOf s c
  match k.cur with
  | some (.fenceWait addr value timeout) =>
    if !canStart s c then s
    else if value.getLsbD 63 then cmdFault s c tfCmdBad 3
    else if (apertureOf s addr.toNat).isSome then cmdFault s c tfCmdBad 8
    else if !ctxPhysOk s c addr.toNat (addr.toNat + 7) then
      addrFault (fenceError s (some c) addr) c tfAccess 2 none addr.toNat
    else
      let w : FWait := { ctx := c, value := value
                         deadline := if timeout = 0 then none
                                     else some (now s + BitVec.ofNat 64 timeout) }
      let s := beginCmd s c .fenceWait
      { s with fu := { s.fu with reading := s.fu.reading ++ [(addr, w)] } }
  | _ => s

/-- A read of a fence fails (R349, R350, R323). -/
def fenceReadFails (s : State) (a : DWord) (resp : Resp) : State :=
  let ws := (s.fu.reading.filter (fun e => decide (e.1 = a))).map (·.2) ++ waitsOn s.fu a
  match ws with
  | [] => s
  | w :: _ =>
    let s := fenceError s (if ws.length = 1 then some w.ctx else none) a
    ws.foldl (fun s w =>
      addrFault s w.ctx tfMemError (if resp = .none then 3 else 4) none a.toNat) s

/-- The waits of the fence's watch entry are read again from their contexts, and registered anew (R488). -/
def reRegister (s : State) (a : DWord) : State :=
  let ws := (s.fu.watch.filter (fun e => decide (e.1 = a))).flatMap (·.2)
  { s with fu := { promoteWaits 512 { s.fu with watch := s.fu.watch.filter (fun e => decide (e.1 ≠ a)) } with
    reading := s.fu.reading ++ ws.map (fun w => (a, w)) } }

/-- A read of a fence has returned: every wait on it is tested; those being registered that stay join the watch
list. -/
def fenceRead (addr : DWord) (resp : Resp) (s : State) : State :=
  match resp with
  | .ok =>
    let word := rd64 s.mem addr.toNat
    let new := (s.fu.reading.filter (fun e => decide (e.1 = addr))).map (·.2)
    let s := { s with fu := { s.fu with
      reading := s.fu.reading.filter (fun e => decide (e.1 ≠ addr)) } }
    let s := testFence s addr word
    new.foldl (fun s w =>
      if (waitVerdict word w).isSome then releaseWait word s w else joinWatch s addr w) s
  | r => fenceReadFails s addr r

/-- FENCE_READ_RESPONSE; a watch entry that cannot be read is registered anew, and its waits are tested by the
read that this asks for (R488). -/
def fenceReadResponse (addr : DWord) (resp : Resp) (ecc : Ecc) (outside : List Host.Cell) (s : State) :
    State :=
  let s := tableEcc { s with mem := wrCells s.mem outside } srcFu none ecc
  if ecc = .double then reRegister s addr else fenceRead addr resp s

/-- Reads a watched fence and tests its waits. -/
def readFence (s : State) (a : DWord) : State := testFence s a (rd64 s.mem a.toNat)

def readWatched (s : State) : State := (s.fu.watch.map (·.1)).foldl readFence s

/-- WATCH_POLL (R350): every watched fence, then the next 512 overflow waits' fences. -/
def watchPoll (outside : List Host.Cell) (s : State) : State :=
  let s := readWatched { s with mem := wrCells s.mem outside }
  let n := s.fu.overflow.length
  let p := if s.fu.overflowPos < n then s.fu.overflowPos else 0
  let l := (((s.fu.overflow.drop p) ++ s.fu.overflow.take p).take 512).map (·.1)
  let s := { s with fu := { s.fu with overflowPos := if p + 512 < n then p + 512 else 0 } }
  l.eraseDups.foldl readFence s

/-- FU_NOTIFY (R350), which any party may write. -/
def fuNotify (outside : List Host.Cell) (s : State) : State :=
  readWatched { s with mem := wrCells s.mem outside }

/-- FENCE_TIMEOUT (R349): a wait not released within its TIMEOUT. -/
def fenceTimeout (ctx : CtxId) (s : State) : State :=
  let k := ctxOf s ctx.toNat
  match k.cur with
  | some (.fenceWait _ _ timeout) =>
    if k.state == .fenceWait && k.started && !k.finished && decide (timeout ≠ 0) &&
        decide ((now s - k.cmdTick).toNat ≥ timeout) then
      cmdFault s ctx.toNat tfFenceTimeout 1
    else s
  | _ => s

-- ---------------------------------------------------------------- signals

/-- Lines that a context stored through an aperture are still with a link (R427): a FENCE_SIGNAL waits for
their completion. -/
def linkStores (s : State) (c : Nat) : Bool :=
  let mine (a : ApLine) : Bool := a.store && decide (a.ctx = c)
  s.links.any (fun e => e.2.apLines.any mine || e.2.runs.any (fun r => r.lines.any mine) ||
    e.2.txns.any (fun t => match t.2 with
      | some x => decide (x.ctx = c ∧ x.type.toNat = txWinWrite)
      | none => false))

/-- FENCE_SIGNAL (R343, R347): the read-backs of R327, then the signal is handed over. -/
def fenceSignalStart (ctx : CtxId) (s : State) : State :=
  let c := ctx.toNat
  let k := ctxOf s c
  match k.cur with
  | some (.fenceSignal intr fail addr value) =>
    if !canStart s c || linkStores s c then s
    else if !fail && value.getLsbD 63 then
      cmdFault (post s 0x151 srcFu (some c) addr 0) c tfCmdBad 3
    else if !ctxPhysOk s c addr.toNat (addr.toNat + 7) then
      addrFault (fenceError s (some c) addr) c tfAccess 2 none addr.toNat
    else
      let s := updCtx (beginCmd s c .running) c (fun k => { k with unread := [] })
      { s with fu := { s.fu with signals := s.fu.signals ++ [{
          src := .command c, addr := addr
          word := if fail then value ||| (1#64 <<< 63) else value
          intr := if intr then some k.vec.toNat else none }] } }
  | _ => s

/-- The atomic maximum at the point of serialisation (R347): the old word and the state in which the
waiters have been tested. -/
def fenceRaise (s : State) (c : Option Nat) (a w : DWord) : DWord × State :=
  let old := rd64 s.mem a.toNat
  let new := if old ≤ w then w else old
  let s := { s with mem := wr64 s.mem a.toNat new }
  let s := if w < old then
      post { s with fu := { s.fu with staleCnt := satAdd s.fu.staleCnt 1 } } 0x150 srcFu c a 0
    else s
  (old, testFence s a new)

def sigCtx : SigSrc → Option Nat
  | .command c => some c
  | .teardown c => some c
  | .frame => none

def sigVector (s : State) (g : Signal) : State :=
  match g.intr with
  | some v => intEvent s v
  | none => s

/-- A signal has its response: the vector is set and a FENCE_SIGNAL command is complete (R343). -/
def sigDone (s : State) (g : Signal) : State :=
  let s := sigVector s g
  match g.src with
  | .command c => if (ctxOf s c).started then finishCmd s c else s
  | _ => s

/-- A signal that gets an error response (R347): a teardown's or a frame's makes the entry alone. -/
def sigFails (s : State) (g : Signal) (reason : Nat) : State :=
  let s := fenceError s (sigCtx g.src) g.addr
  match g.src with
  | .command c => addrFault s c tfMemError reason none g.addr.toNat
  | .teardown _ => sigVector s g
  | .frame => s

/-- The check of R347 for a signal's address; that of a command was made when it started. An address that is
none of a 64-byte block names no fence (log 20). -/
def sigAllowed (s : State) (g : Signal) : Bool :=
  let a := g.addr.toNat
  match g.src with
  | .command _ => true
  | .teardown c => decide (a % 64 = 0) && ctxPhysOk s c a (a + 7)
  | .frame => decide (a % 64 = 0) && inWindows s a (a + 7)

/-- A signal of a teardown has been made: the teardown may end (R351). -/
def sigOver (s : State) (g : Signal) : State :=
  match g.src with
  | .teardown c => endTeardown s c
  | _ => s

/-- FENCE_ATOMIC_RESPONSE: the oldest signal handed over is performed and answered, or, at an aperture
address, leaves as FENCE_SIG (R428). -/
def fenceAtomicResponse (resp : Resp) (s : State) : State :=
  match s.fu.signals with
  | [] => s
  | g :: l =>
    let s' := { s with fu := { s.fu with signals := l } }
    if !sigAllowed s g then sigOver (sigVector (fenceError s' (sigCtx g.src) g.addr) g) g
    else match apertureOf s g.addr.toNat with
      | some (k, o) =>
        if !linkHolds (linkOf s k) then sigOver (sigFails s' g 4) g
        else if (freeTag (linkOf s k)).isNone then s
        else sendFenceSig s' k o g
      | none =>
        sigOver (match resp with
          | .ok => sigDone (fenceRaise s' (sigCtx g.src) g.addr g.word).2 g
          | .error => sigFails (scramble s' g.addr.toNat 8) g 4
          | .none => sigFails (scramble s' g.addr.toNat 8) g 3) g

-- ---------------------------------------------------------------- the commands

def execFenceWait (ctx : CtxId) (s : State) : Out := .next (fenceWaitStart ctx s)
def execFenceSignal (ctx : CtxId) (s : State) : Out := .next (fenceSignalStart ctx s)
def execFenceAtomicResponse (resp : Resp) (s : State) : Out := .next (fenceAtomicResponse resp s)
def execFenceReadResponse (addr : DWord) (resp : Resp) (ecc : Ecc) (outside : List Host.Cell)
    (s : State) : Out := .next (fenceReadResponse addr resp ecc outside s)
def execFenceTimeout (ctx : CtxId) (s : State) : Out := .next (fenceTimeout ctx s)
def execWatchPoll (outside : List Host.Cell) (s : State) : Out := .next (watchPoll outside s)
def execFuNotify (_init : Initiator) (outside : List Host.Cell) (s : State) : Out :=
  .next (fuNotify outside s)

end Sys2Proof.Machine
end

