-- ==== Sys2Proof/Machine/Commands.lean ====
section
/-! DEFINITION. Rings and commands (12, R335 to R344), the states of a context, interrupts (R353). -/

namespace Sys2Proof.Machine

def ctxOff (c : Nat) : Nat := 0x210000 + 64 * c
def ctxCmdOff (c : Nat) : Nat := ctxOff c + 0x2C
def doorbellOff (c : Nat) : Nat := 0x280000 + 4 * c

/-- Who writes the driver's registers of a context (R335, R394). -/
def ctxWriter (c : Nat) (i : Initiator) : Bool := if c ≥ 3968 then i == .forge else i == .host

-- ---------------------------------------------------------------- decoding (R342)

/-- The bits of a command that its layout lists, as (lowest bit, width). -/
def cmdFields (op : Nat) : List (Nat × Nat) :=
  if op = 1 then [(0, 8), (8, 4), (12, 9), (32, 16), (48, 16), (64, 64), (128, 64), (192, 15),
    (208, 32), (256, 256)]
  else if op = 2 then [(0, 8), (64, 64), (128, 64), (192, 64)]
  else if op = 3 then [(0, 8), (64, 64), (128, 64), (192, 32)]
  else if op = 4 then [(0, 8), (8, 2), (64, 64), (128, 64)]
  else if op = 5 then [(0, 8), (64, 64)]
  else if op = 6 then [(0, 8), (8, 8), (64, 64)]
  else if op = 7 then [(0, 8), (8, 12), (64, 64)]
  else []

def fieldMask (l : List (Nat × Nat)) : BitVec 512 :=
  l.foldl (fun m f => m ||| (((BitVec.allOnes f.2).setWidth 512) <<< f.1)) 0

/-- A command as its 64 bytes spell it; none where a reserved opcode or field, or an address or length
off its stated multiple, makes it CMD_BAD reason 1. The EXEC's DECLARED stands at bits [47:16] of bytes
24 to 31. -/
def cmdOf (b : BitVec 512) : Option Cmd :=
  let op := (bits b 0 8).toNat
  let dw (i : Nat) : DWord := bits b (64 * i) 64
  if op = 0 ∨ op > 7 ∨ b &&& ~~~fieldMask (cmdFields op) ≠ 0 then none
  else if op = 1 then
    if (dw 2).toNat % 64 ≠ 0 then none
    else some (.exec {
      cores := (bits b 8 4).toNat + 1, ndesc := (bits b 12 9).toNat, entry := (bits b 32 16).toNat
      length := (bits b 48 16).toNat, image := dw 1, descTable := dw 2
      rows := (bits b 192 15).toNat, declared := bits b 208 32
      args := [dw 4, dw 5, dw 6, dw 7], search := false })
  else if op = 2 then
    if (dw 1).toNat % 128 ≠ 0 ∨ (dw 2).toNat % 128 ≠ 0 ∨ (dw 3).toNat % 128 ≠ 0 ∨ dw 3 = 0 ∨
        (dw 3).toNat > 2 ^ 40 then none
    else some (.copy (dw 1) (dw 2) (dw 3).toNat)
  else if op = 3 ∨ op = 4 then
    if (dw 1).toNat % 64 ≠ 0 then none
    else if op = 3 then some (.fenceWait (dw 1) (dw 2) (bits b 192 32).toNat)
    else some (.fenceSignal (b.getLsbD 8) (b.getLsbD 9) (dw 1) (dw 2))
  else if op = 5 then some (.region (dw 1))
  else if op = 6 then some (.store (bits b 8 8).toNat (dw 1))
  else some (.barrier (bits b 8 12).toNat (bits b 64 32) (bits b 96 32).toNat)

/-- COMMAND_FETCH (R340): a slot that WR has passed is read once. A context entry that cannot be read tears the
context down (R488). -/
def commandFetch (ctx : CtxId) (ecc : Ecc) (s : State) : State :=
  let c := ctx.toNat
  let k := ctxOf s c
  let a := ringAddr k k.rd
  if (k.state == .ready || k.state == .running) && k.cur.isNone && decide (k.rd ≠ k.wr) && mayRun s c then
    let s := tableEcc s srcCp (some c) ecc
    if ecc = .double then cmdFault s c tfCmdBad 10
    else if !ctxPhysOk s c a (a + 63) then cmdFault s c tfCmdBad 2
    else match cmdOf (ofBytes 512 (rdBytes s.mem a 64)) with
      | none => cmdFault s c tfCmdBad 1
      | some x => updCtx s c (fun k => { k with cur := some x, started := false, finished := false })
  else s

-- ---------------------------------------------------------------- EXEC

/-- The reason of CMD_BAD that an EXEC has at its start (R342, R377, R383). -/
def execBad (s : State) (c : Nat) (e : ExecCmd) : Option Nat :=
  let k := ctxOf s c
  if e.cores > popcount (bskOf s k.basket.toNat).cores ∨ e.ndesc > 256 ∨ e.length = 0 ∨
      e.length > 8192 ∨ e.entry ≥ e.length ∨ e.image.toNat % 64 ≠ 0 then some 4
  else if saveBytes e.cores e.rows > k.sizeKib.toNat * 1024 then some 6
  else if k.prio = 0 ∧ e.declared = 0 ∧ e.search = false then some 7
  else none

/-- An EXEC starts: its task becomes a candidate (R343, R371). -/
def beginExec (s : State) (c : Nat) (e : ExecCmd) : State :=
  match execBad s c e with
  | some r => cmdFault s c tfCmdBad r
  | none =>
    count (updCtx s c (fun k => { k with
      state := .ready, started := true, finished := false, cmdTick := now s
      task := some {
        cmd := e, phase := .waiting, start := now s, cores := [], base := 0, bound := e.rows
        dispatched := 0, slice := 0, expired := none, preempt := false, overrun := 0, full := false
        rowsSaved := 0, lists := [], kept := [], ordinal := 0 } })) 256 1

def startExec (ctx : CtxId) (s : State) : State :=
  match (ctxOf s ctx.toNat).cur with
  | some (.exec e) => if canStart s ctx.toNat then beginExec s ctx.toNat e else s
  | _ => s

-- ---------------------------------------------------------------- COPY (R343)

/-- A line that a unit reads at a physical address: memory, or the peer's free bytes (log 23). -/
def busLine (s : State) (pa : Nat) : BitVec 1024 :=
  BitVec.ofNat 1024 (natOfBytes ((List.range 128).map (fun i => busByte s (pa + i))))

/-- A line that a unit writes for a context: into memory, or handed to the link (R425). -/
def putLine (s : State) (c pa : Nat) (d : BitVec 1024) : State :=
  match apertureOf s pa with
  | some (l, o) => updLink s l (fun k => { k with apLines := k.apLines ++ [{
      ctx := c, core := 16, store := true
      ref := { tag := 0, order := 0, line := 0, slot := (slotOfCtx s c).getD 0
               epoch := epochOf s ((slotOfCtx s c).getD 0) }
      window := o / 2 ^ 30, offset := o % 2 ^ 30, data := d }] })
  | none => { s with mem := wrLine s.mem pa d }

/-- Lines of a context that a link still carries for the command processor or the Region Unit. -/
def linkBusy (s : State) (c : Nat) : Bool :=
  let mine (a : ApLine) : Bool := decide (a.ctx = c ∧ a.core = 16)
  s.links.any (fun e => e.2.apLines.any mine || e.2.runs.any (fun r => r.lines.any mine) ||
    e.2.txns.any (fun t => match t.2 with
      | some x => decide (x.ctx = c ∧ x.core = 16 ∧ x.type.toNat = txWinWrite)
      | none => false))

/-- Copies `n` lines in ascending order, each read before it is written; a translation that fails ends
the copy and leaves what was written. -/
def copyLines (c b : Nat) (slot : Option Nat) : Nat → Nat → Nat → State → State
  | 0, _, _, s => finishCmd s c
  | n + 1, src, dst, s =>
    let r := translate s b slot src false
    match r.1 with
    | .ok p =>
      let w := translate r.2 b slot dst true
      match w.1 with
      | .ok q => copyLines c b slot n (src + 128) (dst + 128)
          (putLine w.2 c q (busLine w.2 p))
      | x => xlatFault w.2 c none dst true false x
    | x => xlatFault r.2 c none src false false x

/-- The pages of `n` lines from `va` on. -/
def linePages (va n : Nat) : List Nat := (List.range n).map (fun i => va + 128 * i)

/-- COPY: it waits while a walk that it needs would find no walker or no credit (R311, R331). -/
def copyStart (ctx : CtxId) (s : State) : State :=
  let c := ctx.toNat
  match (ctxOf s c).cur with
  | some (.copy src dst len) =>
    if canStart s c && mayLookup s (ctxOf s c).basket.toNat (slotOfCtx s c)
        (linePages src.toNat (len / 128) ++ linePages dst.toNat (len / 128)) then
      let s := { beginCmd s c .running with freeCount := s.freeCount + 1 }
      copyLines c (ctxOf s c).basket.toNat (slotOfCtx s c) (len / 128) src.toNat dst.toNat s
    else s
  | _ => s

-- ---------------------------------------------------------------- BARRIER (R343, R344)

def barrierStart (ctx : CtxId) (s : State) : State :=
  match (ctxOf s ctx.toNat).cur with
  | some (.barrier _ _ _) => if canStart s ctx.toNat then beginCmd s ctx.toNat .fenceWait else s
  | _ => s

/-- The condition of a BARRIER. -/
def barrierMet (s : State) (target : Nat) (count : Word) : Bool :=
  decide (((ctxOf s target).done - count).toNat < 2 ^ 31)

def barrierRelease (ctx : CtxId) (s : State) : State :=
  let k := ctxOf s ctx.toNat
  match k.cur with
  | some (.barrier target count _) =>
    if k.state == .fenceWait && k.started && !k.finished then
      if barrierMet s target count then finishCmd s ctx.toNat
      else if (ctxOf s target).state == .error || (ctxOf s target).state == .free then
        cmdFault s ctx.toNat tfFenceFailed 2
      else s
    else s
  | _ => s

def barrierTimeout (ctx : CtxId) (s : State) : State :=
  let k := ctxOf s ctx.toNat
  match k.cur with
  | some (.barrier target count timeout) =>
    if k.state == .fenceWait && k.started && !k.finished && decide (timeout ≠ 0) &&
        !barrierMet s target count && decide ((now s - k.cmdTick).toNat ≥ timeout) then
      cmdFault s ctx.toNat tfFenceTimeout 2
    else s
  | _ => s

-- ---------------------------------------------------------------- completion (R337, R338, R341)

/-- Lines of a COPY or a STORE still at a link keep it from completing (R427). -/
def copyWaits (s : State) (c : Nat) : Bool :=
  match (ctxOf s c).cur with
  | some (.copy _ _ _) => linkBusy s c
  | some (.store _ _) => linkBusy s c
  | _ => false

/-- COMMAND_COMPLETE: RD and CTX_DONE advance, and the context goes where R337 says. -/
def commandComplete (ctx : CtxId) (s : State) : State :=
  let c := ctx.toNat
  let k := ctxOf s c
  if k.finished && k.started && !copyWaits s c then
    let ran := k.state == .running
    let waited := k.state == .fenceWait
    let s := updCtx s c (fun k => { k with
      rd := k.rd + 1, done := k.done + 1, cur := none, started := false, finished := false
      task := none })
    let k := ctxOf s c
    if ran && hostGone s c && !k.stopPend && decide (k.rd ≠ k.wr) && decide (ringOp s k k.rd = 4) then
      setCtx s c { k with state := .ready, trail := true }
    else if waited then fromWait s c
    else toIdle s c
  else s

-- ---------------------------------------------------------------- CTX_CMD and CTX_CTL (R335, R337)

/-- A write of CTX_CMD by the party that may make it. -/
def ctxCmd (s : State) (i : Initiator) (c op : Nat) (f : State → State) : State :=
  gated s (ctxCmdOff c) (BitVec.ofNat 32 op) i (ctxWriter c i) 209 f

/-- The wait of a stopped FENCE_WAIT is withdrawn; START registers it again (R337). -/
def withdrawWait (s : State) (c : Nat) : State :=
  updCtx { s with fu := dropWaits s.fu c } c (fun k => { k with started := false, finished := false })

/-- STOP (R337). -/
def stopCtx (s : State) (c : Nat) : State :=
  let k := ctxOf s c
  match k.state with
  | .ready | .idle | .saved => setState s c .stopped
  | .fenceWait => setState (withdrawWait s c) c .stopped
  | .running | .faultWait | .faultPending => setCtx s c { k with stopPend := true }
  | _ => s

/-- START (R337). -/
def startCtx (s : State) (i : Initiator) (c : Nat) : State :=
  let k := ctxOf s c
  if k.state == .stopped then
    let saved : Bool := match k.task with | some t => t.phase == .saved | none => false
    setCtx s c { k with
      withdrawn := false
      state := if saved then .saved else if k.rd = k.wr then .idle else .ready }
  else regRefused s (ctxCmdOff c) 2 i

/-- RESET (R337). -/
def resetCtx (s : State) (i : Initiator) (c : Nat) : State :=
  let k := ctxOf s c
  if k.state == .error then
    setCtx s c { k with state := .stopped, rd := k.wr, faultLost := false, code := 0, reason := 0 }
  else regRefused s (ctxCmdOff c) 4 i

/-- The context becomes FREE: it loses occupancy, windows, its saved task and its command (R337, R389,
R434). -/
def freeCtx (s : State) (c : Nat) : State :=
  let s := closeWindows (dropOcc s c) c
  updCtx { dropStoreReq s c with fu := dropWaits s.fu c } c (fun k => { k with
    valid := false, state := .free, stopPend := false, trail := false, cur := none, started := false
    finished := false, task := none, unread := [], acLate := [], lateCalls := [], sappPair := none
    lastFault := none, faultReps := 0, withdrawn := false, ending := none })

/-- A context is bound: FREE to STOPPED (R337); its overrun counts from here (R391). -/
def bindCtx (s : State) (c : Nat) (b : BasketId) (prio : BitVec 2) (grant : Bool) : State :=
  updCtx s c (fun k => { k with
    valid := true, basket := b, prio := prio, grant := grant
    state := if k.state == .free then .stopped else k.state
    ovr := if k.state == .free then 0 else k.ovr })

def ctxCtlWord (b : BasketId) (prio : BitVec 2) (grant valid : Bool) : Word :=
  bitAt valid 0 ||| natAt b.toNat 1 ||| natAt prio.toNat 5 ||| bitAt grant 7

/-- VALID is cleared (R337). -/
def clearValid (s : State) (i : Initiator) (c : Nat) : State :=
  let k := ctxOf s c
  match k.state with
  | .free => s
  | .stopped | .error => freeCtx s c
  | _ => regRefused s (ctxOff c) (ctxCtlWord k.basket k.prio k.grant false) i

-- ---------------------------------------------------------------- doorbells (R339, R394)

def doorbellRefused (s : State) (c : Nat) (v : Word) : State :=
  post s 0x160 srcCp (some c) (BitVec.ofNat 64 (doorbellOff c))
    (v.setWidth 64 ||| ((ctxOf s c).wr.setWidth 64 <<< 32))

/-- The new write index neither moves back nor overfills the ring. -/
def doorbellOk (k : Ctx) (v : Word) : Bool :=
  decide ((k.wr - k.rd).toNat ≤ (v - k.rd).toNat ∧ (v - k.rd).toNat ≤ 2 ^ k.ringLog2.toNat)

/-- An accepted doorbell (R337). -/
def ringTo (s : State) (c : Nat) (v : Word) : State :=
  updCtx s c (fun k => { k with
    wr := v, state := if k.state == .idle && decide (v ≠ k.rd) then .ready else k.state })

def doorbell (i : Initiator) (ctx : CtxId) (v : Word) (outside : List Host.Cell) (s : State) : State :=
  let c := ctx.toNat
  let s := { s with mem := wrCells s.mem outside }
  let k := ctxOf s c
  if !ctxWriter c i || k.state == .free || k.state == .teardown || k.state == .error ||
      !doorbellOk k v then doorbellRefused s c v
  else ringTo s c v

-- ---------------------------------------------------------------- interrupts (R353)

def vecMaskOff (v : Nat) : Nat := 0x20010C + 16 * v

/-- Unmasking a vector whose bit is set sends its MSI. -/
def unmaskVec (s : State) (v : Nat) : State :=
  let k := mget {} s.cp.vecs v
  let s' := { s with cp := { s.cp with vecs := mset {} s.cp.vecs v { k with mask := false } } }
  if k.mask && s.cp.intPend.bits.getLsbD v then sendMsi s' v else s'

def vectorUnmask (i : Initiator) (vec : BitVec 5) (s : State) : State :=
  if vec.toNat < 24 then
    gated s (vecMaskOff vec.toNat) 0 i (byHostForge i) 209 (fun s => unmaskVec s vec.toNat)
  else regReserved s (vecMaskOff vec.toNat) 0 i

def msiWriteError (s : State) : State :=
  { s with cp := { s.cp with intErr := satAdd s.cp.intErr 1 } }

-- ---------------------------------------------------------------- the commands

def execCommandFetch (ctx : CtxId) (ecc : Ecc) (s : State) : Out := .next (commandFetch ctx ecc s)
def execCmdExec (ctx : CtxId) (s : State) : Out := .next (startExec ctx s)
def execCopy (ctx : CtxId) (s : State) : Out := .next (copyStart ctx s)
def execBarrier (ctx : CtxId) (s : State) : Out := .next (barrierStart ctx s)
def execBarrierRelease (ctx : CtxId) (s : State) : Out := .next (barrierRelease ctx s)
def execBarrierTimeout (ctx : CtxId) (s : State) : Out := .next (barrierTimeout ctx s)
def execCommandComplete (ctx : CtxId) (s : State) : Out := .next (commandComplete ctx s)
def execStop (init : Initiator) (ctx : CtxId) (s : State) : Out :=
  .next (ctxCmd s init ctx.toNat 1 (fun s => stopCtx s ctx.toNat))
def execStart (init : Initiator) (ctx : CtxId) (s : State) : Out :=
  .next (ctxCmd s init ctx.toNat 2 (fun s => startCtx s init ctx.toNat))
def execTeardown (init : Initiator) (ctx : CtxId) (s : State) : Out :=
  .next (ctxCmd s init ctx.toNat 3 (fun s => cmdFault s ctx.toNat tfTeardown 1))
def execReset (init : Initiator) (ctx : CtxId) (s : State) : Out :=
  .next (ctxCmd s init ctx.toNat 4 (fun s => resetCtx s init ctx.toNat))
def execContextTeardown (ctx : CtxId) (code reason : Byte) (s : State) : Out :=
  .next (cmdFault s ctx.toNat code.toNat reason.toNat)
def execContextValidSet (init : Initiator) (ctx : CtxId) (b : BasketId) (prio : BitVec 2)
    (grant : Bool) (s : State) : Out :=
  .next (gated s (ctxOff ctx.toNat) (ctxCtlWord b prio grant true) init (byForge init) 209
    (fun s => bindCtx s ctx.toNat b prio grant))
def execContextValidClear (init : Initiator) (ctx : CtxId) (s : State) : Out :=
  .next (gated s (ctxOff ctx.toNat) 0 init (byForge init) 209
    (fun s => clearValid s init ctx.toNat))
def execDoorbell (init : Initiator) (ctx : CtxId) (wr : Word) (outside : List Host.Cell)
    (s : State) : Out := .next (doorbell init ctx wr outside s)
def execVectorUnmask (init : Initiator) (vec : BitVec 5) (s : State) : Out :=
  .next (vectorUnmask init vec s)
def execMsiWriteError (_vec : BitVec 5) (s : State) : Out := .next (msiWriteError s)

end Sys2Proof.Machine
end

