-- ==== Sys2Proof/Machine/Geq.lean ====
section
/-! DEFINITION. The GEQ's ring (12, R356, R357) and the Forge mailbox (R358). -/

namespace Sys2Proof.Machine

-- ---------------------------------------------------------------- the ring

def offGeqCtl : Nat := 0x800000

def geqSize (s : State) : Nat := 2 ^ s.geq.log2.toNat

/-- The ring takes the oldest entry: it is enabled and not full. -/
def geqRoom (s : State) : Bool :=
  s.geq.enable && decide ((s.geq.wr - s.geq.rd).toNat < geqSize s)

def geqAddr (s : State) : Nat := s.geq.base.toNat + 32 * (s.geq.wr.toNat % geqSize s)

/-- An entry of staging whose word holds an uncorrectable error is dropped and counted (R488). -/
def geqDrop (s : State) (l : List GeqEntry) : State :=
  tableEcc { s with geq := { s.geq with
    staging := l, lost := satAdd s.geq.lost 1, lostPend := true } } srcGeq none .double

/-- GEQ_RING_WRITE: the oldest entry is written with its PHASE, read back and counted; then vector 0. -/
def geqRingWrite (ecc : Ecc) (s : State) : State :=
  match s.geq.staging with
  | [] => s
  | e :: l =>
    if !geqRoom s then s
    else if ecc == .double then geqDrop s l
    else
      let s := tableEcc s srcGeq none ecc
      let phase := decide (s.geq.wr.toNat / geqSize s % 2 = 0)
      let m := wrNat s.mem (geqAddr s) 32 (entryNat e phase)
      let s := { s with mem := m, geq := { s.geq with staging := l, wr := s.geq.wr + 1 } }
      intEvent (count s 270 1) 0

/-- GEQ_WRITE_ERROR: the write of the oldest entry, or its read-back, fails; the entry waits. -/
def geqWriteError (s : State) : State :=
  if !s.geq.staging.isEmpty && geqRoom s then
    let s := scramble s (geqAddr s) 32
    intEvent { s with geq := { s.geq with enable := false, writeErr := true } } 0
  else s

/-- ENABLE goes from 0 to 1 (R357). -/
def geqEnableTo (s : State) : State :=
  if s.geq.enable then s
  else { s with geq := { s.geq with enable := true, wr := 0, rd := 0, writeErr := false } }

-- ---------------------------------------------------------------- the mailbox (R358)

def offMbxDoorbell : Nat := 0x100040
def offMbxRspAck : Nat := 0x100048

/-- A word of the request that the Forge works on: one that it has taken, else the one that waits. -/
def reqW (s : State) (i : Nat) : Word := mget 0 (s.mbx.taken.getD s.mbx.req) i
def mbxOp (s : State) : Nat := (bits (reqW s 0) 0 8).toNat
def mbxTag (s : State) : BitVec 16 := bits (reqW s 0) 16 16

/-- A request waits, or has been taken and not answered. -/
def mbxAsked (s : State) : Bool := s.mbx.reqBusy || s.mbx.taken.isSome

/-- The Forge works on a request: no response and no handover stands before it, and no update still awaits
its answer. -/
def mbxTakes (s : State) : Bool :=
  mbxAsked s && !s.mbx.rspValid && s.mbx.forgeReady && !s.mbx.handover && s.svc.update.isNone

/-- RSP0. -/
def rspWord (op status : Nat) (tag : BitVec 16) : Word :=
  natAt op 0 ||| natAt status 8 ||| natAt tag.toNat 16

/-- A response, its further words from RSP1 on; words not named read zero. -/
def mbxPut (s : State) (op status : Nat) (tag : BitVec 16) (words : List Word) : State :=
  let rsp := ((rspWord op status tag :: words).zipIdx.map (fun e => (e.2, e.1))).filter
    (fun e => !decide (e.2 = 0))
  intEvent { s with mbx := { s.mbx with rsp := rsp, rspValid := true } } 1

/-- The request worked on is answered. -/
def mbxReply (s : State) (status : Nat) (words : List Word) : State :=
  mbxPut { s with mbx := { s.mbx with taken := none, reqBusy := s.mbx.reqBusy && s.mbx.taken.isSome } }
    (mbxOp s) status (mbxTag s) words

/-- The Forge has taken the request and answers it later: REQ_BUSY reads 0 (R359). -/
def mbxKeep (s : State) : State :=
  if s.mbx.taken.isSome then s
  else { s with mbx := { s.mbx with taken := some s.mbx.req, reqBusy := false } }

/-- The Forge takes a request of operation `op` and does `f`. -/
def mbxRow (s : State) (op : Nat) (f : State → State) : State :=
  if mbxTakes s && decide (mbxOp s = op) then f s else s

/-- Every bit of the request outside OP, TAG and the fields listed by word is zero. -/
def reqClean (s : State) (used : SMap Word) : Bool :=
  (List.range 16).all (fun i =>
    decide (reqW s i &&& ~~~(if i = 0 then 0xFFFF00FF else mget 0 used i) = 0))

/-- A request whose reserved fields are zero; else STATUS 2. -/
def mbxOpRow (s : State) (op : Nat) (used : SMap Word) (f : State → State) : State :=
  mbxRow s op (fun s => if reqClean s used then f s else mbxReply s 2 [])

/-- A write of MBX_DOORBELL. -/
def mbxDoorbell (s : State) : State :=
  if s.mbx.reqBusy then
    post s 0x161 srcForge none (BitVec.ofNat 64 offMbxDoorbell) ((mget 0 s.mbx.req 0).setWidth 64)
  else { s with mbx := { s.mbx with reqBusy := true } }

/-- A write of MBX_RSP_ACK. -/
def mbxAck (s : State) : State := { s with mbx := { s.mbx with rspValid := false } }

/-- STORE_GRANT on a context (R297). -/
def storeGrantOf (s : State) (c : Nat) (g : Bool) : State :=
  mbxReply (updCtx s c (fun k => { k with grant := g })) 0 []

/-- QUERY: data words that no rule lays out (log 8). -/
def queryAnswer (s : State) : State :=
  let w := (List.range 15).map (fun i => Config.queryWord (16 * s.freeCount + i))
  mbxReply { s with freeCount := s.freeCount + 1 } 0 w

-- ---------------------------------------------------------------- the commands

def execGeqRingWrite (ecc : Ecc) (s : State) : Out := .next (geqRingWrite ecc s)
def execGeqWriteError (s : State) : Out := .next (geqWriteError s)
def execGeqEnable (init : Initiator) (s : State) : Out :=
  .next (gated s offGeqCtl 1 init (byHostForge init) 209 geqEnableTo)
def execStoreGrant (ctx : CtxId) (grant : Bool) (s : State) : Out :=
  .next (mbxRow s 5 (fun s => storeGrantOf s ctx.toNat grant))
def execQuery (s : State) : Out := .next (mbxRow s 0x0A queryAnswer)
def execMbxUnsupportedOp (s : State) : Out :=
  .next (if mbxTakes s && decide (mbxOp s = 0 ∨ mbxOp s > 10) then mbxReply s 4 [] else s)
def execMbxRspAck (init : Initiator) (s : State) : Out :=
  .next (gated s offMbxRspAck 0 init (notSecp init) 209 mbxAck)

end Sys2Proof.Machine
end

