-- ==== Sys2Proof/Machine/Baskets.lean ====
section
/-! DEFINITION. Baskets (13, R360 to R370): their registers and states, regions and occupants, eviction,
drain and reset, and the mailbox operations on them. -/

namespace Sys2Proof.Machine

def bskOff (b : Nat) : Nat := 0x200800 + 0x40 * b

-- ---------------------------------------------------------------- parts

/-- BSK_REGIONr as a word: START, VALID, SIZE, RT (R391). -/
def rgStart (w : Word) : Nat := (bits w 0 15).toNat
def rgValid (w : Word) : Bool := w.getLsbD 15
def rgSize (w : Word) : Nat := (bits w 16 15).toNat
def rgRt (w : Word) : Bool := w.getLsbD 31

def regionOf (k : Basket) (r : Nat) : Word := mget 0 k.regions r
def regionList (k : Basket) : List Word := (List.range 8).map (regionOf k)

def coresOf {n : Nat} (m : BitVec n) : List Nat := (List.range n).filter (fun i => m.getLsbD i)

def bskCores (s : State) (b : Nat) : List Nat := coresOf (bskOf s b).cores

/-- The contexts bound to a Basket. -/
def bskCtxs (s : State) (b : Nat) : List Nat :=
  (s.cp.ctxs.filter (fun e => e.2.valid && decide (e.2.basket.toNat = b))).map (·.1)

/-- The valid Basket that holds a core. -/
def bskOfCore (s : State) (c : Nat) : Option Nat :=
  (List.range 16).find? (fun b => (bskOf s b).valid && (bskOf s b).cores.getLsbD c)

def ctxBsk (s : State) (x : Nat) : Nat := (ctxOf s x).basket.toNat

/-- Two regions meet in an address row. -/
def regionsMeet (a z : Word) : Bool :=
  decide (rgStart a < rgStart z + rgSize z ∧ rgStart z < rgStart a + rgSize a)

/-- The valid regions of a Basket that overlap region `r`, which counts itself (R368). -/
def overlaps (k : Basket) (r : Nat) : List Nat :=
  (List.range 8).filter (fun i => decide (i = r) ||
    (rgValid (regionOf k i) && regionsMeet (regionOf k i) (regionOf k r)))

/-- A core is in service or on its way there: it has not been retired. -/
def coreRetiredTa (s : State) (c : Nat) : Bool := (coreOf s c).ta.st == .retired

-- ---------------------------------------------------------------- the conditions of R361

/-- The reserved segments have groups of their own on a core. -/
def groupsReserved (grp : BitVec 16) (rsvd : BitVec 8) : Bool :=
  (List.range 8).all (fun g => !rsvd.getLsbD g ||
    (List.range (groupWidth grp g)).all (fun i => rsvd.getLsbD (groupFirst grp g + i)))

/-- A valid region lies in held segments, wholly inside the reserved ones or wholly outside. -/
def regionFits (grp : BitVec 16) (segs rsvd : BitVec 8) (w : Word) : Bool :=
  !rgValid w || (decide (1 ≤ rgSize w ∧ rgStart w + rgSize w ≤ 24576) &&
    (List.range 8).all (fun g =>
      !segOfRows grp (rgStart w) (rgStart w + rgSize w - 1) g ||
        (segs.getLsbD g && rsvd.getLsbD g == rgRt w)))

/-- No two valid regions overlap if either is real-time. -/
def regionsApart (l : List Word) : Bool :=
  (l.zipIdx).all (fun a => (l.zipIdx).all (fun z =>
    decide (z.2 ≤ a.2) || !rgValid a.1 || !rgValid z.1 || !(rgRt a.1 || rgRt z.1) ||
      !regionsMeet a.1 z.1))

/-- The conditions under which Basket `b` may hold what `k` gives it (R361). -/
def basketOk (s : State) (b : Nat) (k : Basket) : Bool :=
  decide (k.cores ≠ 0) && decide (k.segs ≠ 0) && decide (k.rsvd &&& ~~~k.segs = 0) &&
  decide (1 ≤ k.slice.toNat ∧ k.slice.toNat ≤ 40) &&
  (coresOf k.cores).all (fun c =>
    !coreRetiredTa s c && (match bskOfCore s c with | some o => decide (o = b) | none => true) &&
    (List.range 8).all (fun g => !k.segs.getLsbD g || segInService s c g) &&
    groupsReserved (coreOf s c).pan.group k.rsvd &&
    (regionList k).all (regionFits (coreOf s c).pan.group k.segs k.rsvd)) &&
  regionsApart (regionList k)

-- ---------------------------------------------------------------- eviction (R369)

/-- The task core whose rows an eviction of occupant `x` on core `c` writes. -/
def evictCore (s : State) (x c : Nat) : Option (Nat × Task) :=
  let k := ctxOf s x
  match k.task with
  | some t =>
    if (k.state == .saved || k.state == .stopped || k.state == .detached) && t.phase == .saved &&
        !t.full then
      (t.cores.findIdx? (fun d => decide (d = c))).map (fun i => (i, t))
    else none
  | none => none

/-- The protected ranges that a task core's block names. -/
def savedRanges (s : State) (a bound : Nat) : List (Nat × Nat) :=
  (getRanges s.mem (a + 0x4C0)).filter (fun g => decide (g.1 + g.2 ≤ bound))

/-- The protected rows of a task core go to its block, and the header says so (R369, R378). -/
def writeEvicted (s : State) (x c i : Nat) (t : Task) : State :=
  let k := ctxOf s x
  let base := k.saveBase.toNat
  let a := blockAt base t.bound i
  let l := savedRanges s a t.bound
  let n := (l.map (·.2)).foldl (· + ·) 0
  let saved := t.rowsSaved ||| (1#16 <<< i)
  let m := putW (base + 0x18) 4 saved.toNat (putRows a t.base (coreOf s c).pan l s.mem)
  let s := takeCredit { s with mem := m } k.basket.toNat (4 * n)
  let s := updCtx s x (fun k => { k with task := some { t with rowsSaved := saved } })
  if n = 0 then s
  else updBsk s k.basket.toNat (fun b => { b with evictCnt := satAdd b.evictCnt 1 })

/-- The occupant of a region on a core is evicted; a save area that fails R308 tears it down (R381). -/
def evictRegion (s : State) (c r : Nat) : State :=
  match occOf s c r with
  | none => s
  | some x =>
    let s := setOcc s c r none
    match evictCore s x c with
    | none => s
    | some (i, t) =>
      let a := (ctxOf s x).saveBase.toNat
      if ctxPhysOk s x a (a + saveBytes t.cores.length t.bound - 1) then writeEvicted s x c i t
      else addrFault s x tfAccess 2 none a

-- ---------------------------------------------------------------- drain (R364)

def taskRunning (s : State) (x : Nat) : Bool :=
  match (ctxOf s x).task with
  | some t => t.phase == .running
  | none => false

/-- A pre-emption is requested: the task stops at its next YIELD (R373). -/
def requestStop (s : State) (x : Nat) : State :=
  updCtx s x (fun k => { k with task := k.task.map (fun t =>
    if t.phase == .running then { t with preempt := true } else t) })

/-- Every region of a draining Basket loses an occupant whose task has stopped (R364). -/
def drainEvict (s : State) (b : Nat) : State :=
  (bskCores s b).foldl (fun s c => (List.range 8).foldl (fun s r =>
    match occOf s c r with
    | some x => if taskRunning s x then s else evictRegion s c r
    | none => s) s) s

/-- DRAIN is set: pre-emption of every running task, and the evictions. -/
def drainBegin (s : State) (b : Nat) : State :=
  let s := updBsk s b (fun k => { k with drain := true, drained := false })
  drainEvict ((bskCtxs s b).foldl requestStop s) b

/-- No core of the Basket holds a task and no region has an occupant. -/
def drainOver (s : State) (b : Nat) : Bool :=
  (bskCores s b).all (fun c => (coreOf s c).task.isNone &&
    (List.range 8).all (fun r => (occOf s c r).isNone))

/-- DRAIN_DONE (R364, R392). -/
def drainDone (s : State) (b : Nat) : State :=
  let k := bskOf s b
  if k.valid && k.drain && !k.drained then
    let s := drainEvict s b
    if drainOver s b then
      let s := updBsk s b (fun k => { k with drained := true })
      inboxPut s (geqEntry s 0x1C2 srcCp none (BitVec.ofNat 64 b) 0 false k.standing)
    else s
  else s

-- ---------------------------------------------------------------- BSK_CTL (R361 to R363)

def bskCtlWord (k : Basket) : Word :=
  bitAt k.valid 0 ||| bitAt k.standing 1 ||| bitAt k.drain 2 ||| natAt k.slice.toNat 3

def bskStateNo (k : Basket) : Nat := if !k.valid then 0 else if k.drain then 2 else 1

/-- The cores of a Basket that is no longer in use have no occupants. -/
def dropOccCores (s : State) (l : List Nat) : State :=
  { s with cp := { s.cp with occ := s.cp.occ.filter (fun e => !l.contains (e.1 / 8)) } }

/-- SLICE and STANDING as a write of BSK_CTL leaves them; a reserved SLICE keeps the old one (R8). -/
def bskCtlFields (s : State) (i : Initiator) (b : Nat) (v : Word) : State :=
  let sl : BitVec 6 := bits v 3 6
  let s := updBsk s b (fun k => { k with standing := v.getLsbD 1 })
  if 1 ≤ sl.toNat ∧ sl.toNat ≤ 40 then updBsk s b (fun k => { k with slice := sl })
  else regReserved s (bskOff b) v i

/-- A write of BSK_CTL by the Forge: VALID and DRAIN as R361 to R363 allow. -/
def bskCtlWrite (s : State) (i : Initiator) (b : Nat) (v : Word) : State :=
  let k := bskOf s b
  let refuse (s : State) : State := regRefused s (bskOff b) v i
  if k.valid && !v.getLsbD 0 && !(k.drain && (bskCtxs s b).isEmpty) then refuse s
  else
    let s := bskCtlFields s i b v
    let k := bskOf s b
    if !k.valid && v.getLsbD 0 then
      if basketOk s b k then
        let s := updBsk s b (fun k => { k with valid := true, drain := false, drained := false })
        if v.getLsbD 2 then drainBegin s b else s
      else refuse s
    else if k.valid && !v.getLsbD 0 then
      dropOccCores (updBsk s b (fun k => { k with valid := false, drain := false, drained := false }))
        (coresOf k.cores)
    else if !k.valid then s
    else if !k.drain && v.getLsbD 2 then drainBegin s b
    else if k.drain && !v.getLsbD 2 then
      if basketOk s b k then updBsk s b (fun k => { k with drain := false, drained := false })
      else refuse s
    else s

/-- The register writes that the rows stand for: `set` and `clear` are the bits changed. -/
def bskCtlRow (s : State) (i : Initiator) (b : Nat) (set clear : Word) : State :=
  let v := (bskCtlWord (bskOf s b) ||| set) &&& ~~~clear
  gated s (bskOff b) v i (byForge i) 209 (fun s => bskCtlWrite s i b v)

-- ---------------------------------------------------------------- resources (R363)

def bskOpen (k : Basket) : Bool := !k.valid || (k.drain && k.drained)

/-- A write of BSK_CORES: in ACTIVE only bits of retired cores may be cleared. -/
def bskCoresWrite (s : State) (i : Initiator) (b : Nat) (v : Word) : State :=
  let k := bskOf s b
  let m : BitVec 16 := bits v 0 16
  if bskOpen k || (k.valid && !k.drain && decide (m &&& ~~~k.cores = 0) &&
      (coresOf (k.cores &&& ~~~m)).all (coreRetiredTa s)) then
    setBsk s b { k with cores := m }
  else regRefused s (bskOff b + 4) v i

def bskSegsWrite (s : State) (i : Initiator) (b : Nat) (v : Word) : State :=
  let k := bskOf s b
  if bskOpen k then setBsk s b { k with segs := bits v 0 8, rsvd := bits v 8 8 }
  else regRefused s (bskOff b + 8) v i

/-- A write of BSK_REGIONr; a reserved SIZE keeps the old one. -/
def bskRegionWrite (s : State) (i : Initiator) (b r : Nat) (v : Word) : State :=
  let k := bskOf s b
  let off := bskOff b + 0x20 + 4 * r
  if bskOpen k then
    let ok := decide (1 ≤ rgSize v ∧ rgSize v ≤ 24576)
    let w := if ok then v else putBits v 16 (bits (regionOf k r) 16 15)
    let s := setBsk s b { k with regions := mset 0 k.regions r w }
    if ok then s else regReserved s off v i
  else regRefused s off v i

-- ---------------------------------------------------------------- dispatch state (R247)

/-- A core as at the dispatch of a new task. -/
def clearCore (k : Core) : Core :=
  { k with
    seq := { k.seq with
      s := [], w := [], f := [], ret := [], loops := [], ord := 0, livePend := [], prot := []
      restart := {}, calls := [], pc := 0, pcOver := false, ended := false
      watchdog := 0, wdRun := false, run := .idle }
    mem := { k.mem with tags := [], orphans := [], lines := killLines k.mem.lines ++ strayStores k.mem
                        signals := [], creditWait := false, granted := false }
    ta := { k.ta with wale := false, active := {}, shadow := none, passes := [], acc0 := [], acc1 := []
                      accErrs := [] }
    brd := {}
    invs := []
    cnv := { k.cnv with slots := [], descs := [], wanted := none, filled := none }
    vu := { k.vu with regs := {}, win := [], wanted := none, dw := [] }
    pan := { k.pan with ac := [], ovf := 0 } }

/-- A segment filled with zero rows, spares too (R236): every code word is fresh. -/
def zeroSegment (p : Pan) (g : Nat) : Pan :=
  { p with rows := p.rows.filter (fun e => decide (e.1 / 4096 ≠ g))
           errs := p.errs.filter (fun e => decide (e.1 / 4096 ≠ g)) }

/-- The held segments of a core, zeroed, with what the feeder and the window took from them. -/
def zeroSegments (segs : BitVec 8) (k : Core) : Core :=
  { k with pan := (coresOf segs).foldl zeroSegment k.pan
           cnv := { k.cnv with slots := [], descs := [] }
           vu := { k.vu with win := [] } }

/-- The completed twin write of BSK_RESET (R365); the Basket's round-robin pointers favour the lower index
again (R12). -/
def bskResetDone (s : State) (i : Initiator) (b : Nat) (v : Word) : State :=
  let k := bskOf s b
  if !v.getLsbD 0 then s
  else if !k.valid then regRefused s (bskOff b + 0xC) v i
  else
    let l := bskCtxs s b
    let n := (l.filter (fun x => canTear (ctxOf s x))).length
    let s := l.foldl (fun s x => cmdFault s x tfTeardown 2) s
    let s := (coresOf k.cores).foldl (fun s c =>
      updCore s c (fun x => zeroSegments k.segs (clearCore x))) s
    let s := dropOccCores s (coresOf k.cores)
    let s := { s with cp := { s.cp with rr := s.cp.rr.filter (fun e => decide (e.1 / 4 ≠ b)) } }
    postBsk s 0x1C1 srcCp b (BitVec.ofNat 64 b) (BitVec.ofNat 64 n)

-- ---------------------------------------------------------------- contexts' places (R367, R370)

/-- Another context bound to the Basket uses the region. -/
def regionTaken (s : State) (b r c : Nat) : Bool :=
  (bskCtxs s b).any (fun x => decide (x ≠ c ∧ (ctxOf s x).region.toNat = r))

/-- A write of SCH_CTX_PLACE by the Forge. -/
def placeWrite (s : State) (i : Initiator) (c : Nat) (v : Word) : State :=
  let r := (bits v 16 3).toNat
  let b := ctxBsk s c
  let w := regionOf (bskOf s b) r
  if !rgValid w || (rgRt w && regionTaken s b r c) then regRefused s (0x260000 + 16 * c) v i
  else updCtx s c (fun k => { k with affinity := bits v 0 16, region := bits v 16 3 })

-- ---------------------------------------------------------------- the mailbox (R366)

def rateSum (s : State) : Nat := (List.range 16).foldl (fun n b => n + (bwOf s b).rate.toNat) 0

/-- A real-time context is bound. -/
def rtBound (s : State) : Bool := s.cp.ctxs.any (fun e => e.2.valid && decide (e.2.prio = 0))

def setRate (s : State) (b : Nat) (rate depth : Nat) : State :=
  setBw s b { bwOf s b with rate := BitVec.ofNat 13 rate, depth := BitVec.ofNat 13 depth }

/-- What a Basket slot becomes when it is taken or freed: the two counters run on (R391). -/
def freshBasket (k : Basket) : Basket := { preemptCnt := k.preemptCnt, evictCnt := k.evictCnt }

def basketCreate (s : State) : State :=
  let w1 := reqW s 1
  let w2 := reqW s 2
  let w3 := reqW s 3
  let cores : BitVec 16 := bits w1 0 16
  let n := popcount cores
  let rate := if bits w2 0 13 = 0 then 347 * n else (bits w2 0 13).toNat
  let depth := if bits w2 16 13 = 0 then 256 else (bits w2 16 13).toNat
  if w3.getLsbD 8 then mbxReply s 3 []
  else if (coresOf cores).any (fun c => coreRetiredTa s c || (bskOfCore s c).isSome) then
    mbxReply s 1 []
  else match (List.range 16).find? (fun b => !(bskOf s b).valid) with
    | none => mbxReply s 1 []
    | some b =>
      let k : Basket := { freshBasket (bskOf s b) with
        valid := true, cores := cores, segs := bits w1 16 8, rsvd := bits w1 24 8
        slice := bits w3 0 6
        regions := ((List.range 8).map (fun r => (r, reqW s (4 + r)))).filter
          (fun e => !decide (e.2 = 0)) }
      if rateSum s - (bwOf s b).rate.toNat + rate > (if rtBound s then 5200 else 5563) then
        mbxReply s 1 []
      else if depth > 4096 || !basketOk s b k then mbxReply s 2 []
      else mbxReply (setRate (setBsk s b k) b rate depth) 0 [natAt b 0]

/-- A Basket with no context bound is freed with its rate (R366). -/
def freeBasket (s : State) (b : Nat) : State :=
  let k := bskOf s b
  setRate (dropOccCores (setBsk s b (freshBasket k)) (coresOf k.cores)) b 0 256

def basketDestroy (s : State) : State :=
  let b := (bits (reqW s 1) 0 4).toNat
  if !(bskOf s b).valid then mbxReply s 2 []
  else if !(bskCtxs s b).isEmpty then mbxReply s 1 []
  else mbxReply (freeBasket s b) 0 []

def contextBind (s : State) : State :=
  let w := reqW s 1
  let c := (bits w 0 12).toNat
  let b := (bits w 12 4).toNat
  let prio : BitVec 2 := bits w 16 2
  let r := (bits w 18 3).toNat
  let rg := regionOf (bskOf s b) r
  let th : BitVec 16 := bits (reqW s 3) 0 16
  if c ≥ 3968 then mbxReply s 3 []
  else if (ctxOf s c).state != .free then mbxReply s 1 []
  else if !(bskOf s b).valid || !rgValid rg then mbxReply s 2 []
  else if rgRt rg && regionTaken s b r c then mbxReply s 1 []
  else if prio = 0 ∧ rateSum s > 5200 then mbxReply s 1 []
  else
    let s := bindCtx s c (bits w 12 4) prio (ctxOf s c).grant
    let s := updCtx s c (fun k => { k with
      affinity := bits (reqW s 2) 0 16, region := bits w 18 3
      thresh := if th = 0 then (if prio = 0 then 256 else 512) else th })
    mbxReply s 0 []

def contextUnbind (s : State) : State :=
  let c := (bits (reqW s 1) 0 12).toNat
  let k := ctxOf s c
  if c ≥ 3968 then mbxReply s 3 []
  else if k.state == .stopped || k.state == .error then mbxReply (freeCtx s c) 0 []
  else mbxReply s 1 []

-- ---------------------------------------------------------------- the commands

def createFields : SMap Word :=
  [(1, 0xFFFFFFFF), (2, 0x1FFF1FFF), (3, 0x13F), (4, 0xFFFFFFFF), (5, 0xFFFFFFFF), (6, 0xFFFFFFFF),
    (7, 0xFFFFFFFF), (8, 0xFFFFFFFF), (9, 0xFFFFFFFF), (10, 0xFFFFFFFF), (11, 0xFFFFFFFF)]

def execBasketCreate (s : State) : Out := .next (mbxOpRow s 1 createFields basketCreate)
def execBasketDestroy (s : State) : Out := .next (mbxOpRow s 2 [(1, 0xF)] basketDestroy)
def execContextBind (s : State) : Out :=
  .next (mbxOpRow s 3 [(1, 0x1FFFFF), (2, 0xFFFF), (3, 0xFFFF)] contextBind)
def execContextUnbind (s : State) : Out := .next (mbxOpRow s 4 [(1, 0xFFF)] contextUnbind)
def execBasketValidate (init : Initiator) (b : BasketId) (s : State) : Out :=
  .next (bskCtlRow s init b.toNat 1 0)
def execBasketFree (init : Initiator) (b : BasketId) (s : State) : Out :=
  .next (bskCtlRow s init b.toNat 0 1)
def execBasketDrain (init : Initiator) (b : BasketId) (s : State) : Out :=
  .next (bskCtlRow s init b.toNat 4 0)
def execBasketUndrain (init : Initiator) (b : BasketId) (s : State) : Out :=
  .next (bskCtlRow s init b.toNat 0 4)
def execDrainDone (b : BasketId) (s : State) : Out := .next (drainDone s b.toNat)

end Sys2Proof.Machine
end

