-- ==== Sys2Proof/Machine/Schedule.lean ====
section
/-! DEFINITION. Dispatch and resume, YIELD's barrier, the end of a task, slices and measured slowdown
(13, R371 to R376, R386; 09, R247, R258, R271; 11, R313). -/

namespace Sys2Proof.Machine

-- ---------------------------------------------------------------- candidates (R371)

/-- A candidate of a Basket: READY with an EXEC that has started, or SAVED; a context whose host is gone
is none while it is READY (R338). -/
def isCandidate (s : State) (b x : Nat) : Bool :=
  let k := ctxOf s x
  k.valid && decide (k.basket.toNat = b) && k.task.isSome &&
    ((k.state == .ready && k.started && mayRun s x) || k.state == .saved)

/-- The place of a context in the order of its Basket: class, then round robin. -/
def rankKey (s : State) (b x : Nat) : Nat :=
  let p := (ctxOf s x).prio.toNat
  p * 4096 + (x + 4096 - mget 0 s.cp.rr (4 * b + p)) % 4096

def candidates (s : State) (b : Nat) : List Nat :=
  (bskCtxs s b).filter (isCandidate s b)

def firstCandidate (s : State) (b : Nat) : Option Nat :=
  match candidates s b with
  | [] => none
  | x :: l => some (l.foldl (fun y z => if rankKey s b z < rankKey s b y then z else y) x)

/-- A core that takes a task: in service, without a task, not in repair hold. -/
def coreFree (s : State) (c : Nat) : Bool :=
  let k := coreOf s c
  k.task.isNone && k.ta.st == .service && k.ta.repairHold.isNone

def freeCores (s : State) (b : Nat) : List Nat := (bskCores s b).filter (coreFree s)

-- ---------------------------------------------------------------- pre-emption (R373)

/-- Running tasks of a Basket, as contexts. -/
def runningCtxs (s : State) (b : Nat) : List Nat := (bskCtxs s b).filter (taskRunning s)

def taskWidth (s : State) (x : Nat) : Nat :=
  match (ctxOf s x).task with | some t => t.cores.length | none => 0

def stopping (s : State) (x : Nat) : Bool :=
  match (ctxOf s x).task with | some t => t.phase == .running && t.preempt | none => false

/-- A victim's place: the lowest class first, then the latest dispatched. -/
def victimKey (s : State) (x : Nat) : Nat :=
  (ctxOf s x).prio.toNat * 2 ^ 64 +
    (match (ctxOf s x).task with | some t => t.dispatched | none => 0)

def insertBy (f : Nat → Nat) (x : Nat) : List Nat → List Nat
  | [] => [x]
  | y :: l => if f y < f x then x :: y :: l else y :: insertBy f x l

/-- The victims in order, the largest key first. -/
def victims (s : State) (b prio : Nat) : List Nat :=
  ((runningCtxs s b).filter (fun x => !stopping s x && decide ((ctxOf s x).prio.toNat > prio))).foldl
    (fun l x => insertBy (victimKey s) x l) []

/-- Victims are taken until `need` cores are reached. -/
def stopVictims : Nat → List Nat → State → State
  | _, [], s => s
  | need, x :: l, s =>
    if need = 0 then s else stopVictims (need - taskWidth s x) l (requestStop s x)

/-- The first candidate needs `need` more cores than are free. -/
def preemptFor (s : State) (b x need : Nat) : State :=
  let coming := (((runningCtxs s b).filter (stopping s)).map (taskWidth s)).foldl (· + ·) 0
  let vs := victims s b (ctxOf s x).prio.toNat
  let all := (vs.map (taskWidth s)).foldl (· + ·) 0
  if coming ≥ need then s
  else if coming + all < need then s
  else stopVictims (need - coming) vs s

-- ---------------------------------------------------------------- placement (R372)

/-- The context's rows stand on a core: it is the occupant of its own region there. -/
def stands (s : State) (x c : Nat) : Bool := decide (occOf s c (ctxOf s x).region.toNat = some x)

def coreRank (s : State) (x c : Nat) : Nat :=
  let k := ctxOf s x
  if stands s x c then 0
  else if k.affinity.getLsbD c then 1
  else if (overlaps (bskOf s k.basket.toNat) k.region.toNat).all (fun r => (occOf s c r).isNone) then 2
  else 3

/-- The `n` cores of the lowest ranks, in ascending order. -/
def rankedCores (s : State) (x n : Nat) (free : List Nat) : List Nat :=
  let byRank := [0, 1, 2, 3].flatMap (fun r => free.filter (fun c => decide (coreRank s x c = r)))
  free.filter (fun c => (byRank.take n).contains c)

/-- A saved context goes back to its cores where its rows stand on all of them. -/
def goesBack (s : State) (x : Nat) (t : Task) (free : List Nat) : Bool :=
  t.phase == .saved && decide (t.cores.length = t.cmd.cores) &&
    t.cores.all (fun c => free.contains c && stands s x c)

def placeTask (s : State) (x : Nat) (t : Task) (free : List Nat) : List Nat :=
  if goesBack s x t free then t.cores else rankedCores s x t.cmd.cores free

-- ---------------------------------------------------------------- rows (R368, R372)

/-- Rows of a saved context leave every core where they stand, but for a core that keeps its task core
number (DEDUCED from R226: each saved row goes to the core of its task core, log 25). -/
def evictMoved (s : State) (x : Nat) (t : Task) (cores : List Nat) : State :=
  let r := (ctxOf s x).region.toNat
  (List.range 16).foldl (fun s c =>
    let keeps := (cores.zip t.cores).any (fun p => decide (p = (c, c)))
    if stands s x c && !keeps && (t.phase == .saved) then evictRegion s c r else s) s

def zeroRows (s : State) (c base n : Nat) : State :=
  (List.range n).foldl (fun s i => writeRow s c (base + i) 0) s

/-- The context becomes the occupant of its region on a core (R368). -/
def claimCore (s : State) (x c base n : Nat) : State :=
  let k := ctxOf s x
  let r := k.region.toNat
  let ov := overlaps (bskOf s k.basket.toNat) r
  let was := stands s x c
  let s := ov.foldl (fun s q => if occOf s c q = some x then s else evictRegion s c q) s
  let s := if was then s else zeroRows s c base n
  setOcc (ov.foldl (fun s q => setOcc s c q none) s) c r (some x)

-- ---------------------------------------------------------------- loading a core (R247, R272, R276)

/-- A descriptor table entry (R259). -/
def descOf (m : List Host.Cell) (a : Nat) : Desc :=
  let hi := rd64 m (a + 8)
  { base := rd64 m a, length := bits hi 0 48, read := hi.getLsbD 48, write := hi.getLsbD 49
    valid := hi.getLsbD 50 && decide (bits hi 51 13 = 0) }

def descTable (m : List Host.Cell) (e : ExecCmd) : SMap Desc :=
  tabulate {} e.ndesc (fun i => descOf m (e.descTable.toNat + 16 * i))

/-- The program image as bundles. -/
def imageBundles (bytes : List Byte) (n : Nat) : SMap (BitVec 256) :=
  tabulate 0 n (fun i => BitVec.ofNat 256 (natOfBytes ((bytes.drop (32 * i)).take 32)))

/-- The fault registers keep their values until the next task is dispatched, and then read zero (R132,
R159, R187, R241, R281). -/
def clearFaults (k : Core) : Core :=
  { k with seq := { k.seq with fault := 0 }, mem := { k.mem with fault := 0 }, brdFault := 0
           cnv := { k.cnv with fault := 0 }, vu := { k.vu with fault := 0 }
           pan := { k.pan with fault := 0 } }

/-- What every core of a task gets from its EXEC, new or resumed; with the epoch of its space (R315). -/
def loadCore (s : State) (c x i : Nat) (e : ExecCmd) (img : SMap (BitVec 256)) (ds : SMap Desc) :
    State :=
  updCore s c (fun k =>
    let k := clearFaults (clearCore k)
    { k with
      task := some (x, i)
      seq := { k.seq with image := img, length := e.length, run := .running, watchdog := 0, wdRun := true
                          startCyc := s.clk.coreCyc }
      mem := { k.mem with descs := ds, ndesc := e.ndesc
                          epoch := match slotOfCtx s x with | some n => epochOf s n | none => 0 } })

/-- The start of a new task on a core: s1 to s4 hold the arguments, issue starts at ENTRY. -/
def startCore (e : ExecCmd) (k : Core) : Core :=
  let s := ((List.range 4).map (fun i => (i + 1, e.args.getD i 0))).filter
    (fun p => !decide (p.2 = 0))
  let pc : BitVec 13 := BitVec.ofNat 13 e.entry
  { k with seq := { k.seq with s := s, pc := pc, restart := { s := s, pc := pc } } }

/-- The core of a SEARCH: it runs the controller's program, not slots (R477, log 32). -/
def searchCore (k : Core) : Core := { k with seq := { k.seq with run := .idle, wdRun := false } }

/-- The tags that a save flushed are DONE (R376). -/
def savedTags (m : List Host.Cell) (a : Nat) : SMap Tag :=
  ((List.range 32).filter (fun i => decide ((rdByte m (a + 0x490 + i)).toNat = 3))).map
    (fun i => (i, { st := .done, kind := .store }))

/-- A restart image goes back into a core. -/
def restoreImage (r : Restart) (k : Core) : Core :=
  { k with
    seq := { k.seq with s := r.s, w := r.w, f := r.f, loops := r.loops, ret := r.ret, pc := r.pc
                        ord := r.ord, prot := r.prot, livePend := r.pend, restart := r }
    ta := { k.ta with wale := r.wale }
    brd := r.braid
    vu := { k.vu with regs := r.vu }
    pan := { k.pan with ac := r.ac, ovf := r.ovf } }

/-- Increments that came while the task was away (R234). -/
def addLate (l : List (Nat × Nat)) (k : Core) : Core :=
  let r := l.foldl (fun a p => acAdd a.1 a.2 p.1 p.2) (k.pan.ac, k.pan.ovf)
  { k with pan := { k.pan with ac := r.1, ovf := r.2 }
           seq := { k.seq with restart := { k.seq.restart with ac := r.1, ovf := r.2 } } }

/-- The unfinished work of a save with FULL goes back into a core, which issues its queue again with the tiles
of its passes (R380, R89); a tile that no pass had taken is loaded again (R81). Without a pass in the queue
the array holds the zero tile of a resume (R66, log 12). -/
def restoreWork (e : Unfinished) (k : Core) : Core :=
  { k with
    issueNo := e.issueNo
    invs := e.invs
    mem := { k.mem with tags := e.tags, orphans := e.orphans, lines := k.mem.lines ++ e.lines
                        nextOrder := max k.mem.nextOrder e.nextOrder, signals := e.signals }
    seq := { k.seq with ended := e.ended, run := if e.atYield then .atYield else k.seq.run
                        wdRun := k.seq.wdRun && !e.atYield && !e.ended }
    ta := { k.ta with passes := e.passes, active := ((e.passes.getLast?).map (·.tile)).getD {}
                      shadow := e.shadow.map (fun h => { h with ready := false }) }
    vu := { k.vu with dw := e.dw } }

/-- A core of a resumed task: rows that the save area holds, the image, the calls that ran on, and with FULL
both banks and the unfinished work, at the YIELD or the END where it stood (R380, log 12). -/
def resumeCore (s : State) (x : Nat) (t : Task) (i c : Nat) : State :=
  let k := ctxOf s x
  let a := blockAt k.saveBase.toNat t.bound i
  let e := mget {} t.kept i
  let ranges := if t.full then [(0, t.bound)] else savedRanges s a t.bound
  let m := s.mem
  let s := if t.rowsSaved.getLsbD i then
      updCore s c (fun q => { q with pan := getRows m a t.base ranges q.pan }) else s
  updCore s c (fun q =>
    let q := addLate (mget [] k.acLate i) (restoreImage (getImage m a t.ordinal t.full e) q)
    let q := { q with seq := { q.seq with calls := mget [] k.lateCalls i } }
    if t.full then
      restoreWork e.work { q with ta := { q.ta with acc0 := getBank m (a + 0x42000)
                                                    acc1 := getBank m (a + 0x82000) } }
    else { q with mem := { q.mem with tags := savedTags m a } })

-- ---------------------------------------------------------------- the checks

/-- The conditions of R225 on one core. -/
def rangeOk (s : State) (x c base n : Nat) : Bool :=
  let segs := (bskOf s (ctxBsk s x)).segs
  let grp := (coreOf s c).pan.group
  decide (1 ≤ n ∧ base + n ≤ 24576) &&
    (List.range 8).all (fun g => !segOfRows grp base (base + n - 1) g ||
      (segs.getLsbD g && groupInService s c g))

/-- The dispatch range of context `x` failed on core `c`, which records it in PAN_FAULT (R225, R242). -/
def rangeFault (s : State) (x c : Nat) : State :=
  let r : BitVec 5 := BitVec.ofNat 5 (1 + 4 * 4)
  tearDown (updPan s c (fun p => { p with fault := r })) x tfPannierBound 4 (some c) (r.setWidth 64)

/-- The lowest of `cores` on which the region or the range fails (R225, R352, R367). -/
def rangeFails (s : State) (x : Nat) (t : Task) (cores : List Nat) : Option Nat :=
  let w := regionOf (bskOf s (ctxBsk s x)) (ctxOf s x).region.toNat
  (List.range 16).find? (fun c => cores.contains c &&
    (!rgValid w || decide (t.cmd.rows > rgSize w) || !rangeOk s x c (rgStart w) t.cmd.rows))

/-- The checks of a placement: its region and range (R225, R367), the save area of a resume (R381), the
descriptor table (R343); the state that a failed one leaves. -/
def placeFault (s : State) (x : Nat) (t : Task) (cores : List Nat) : Option State :=
  let k := ctxOf s x
  let a := k.saveBase.toNat
  let d := t.cmd.descTable.toNat
  if (slotOfCtx s x).isNone then some (addrFault s x tfAccess 1 none t.cmd.image.toNat)
  else match rangeFails s x t cores with
  | some c => some (rangeFault s x c)
  | none =>
  if t.phase == .saved && !ctxPhysOk s x a (a + saveBytes t.cmd.cores t.cmd.rows - 1) then
    some (addrFault s x tfAccess 2 none a)
  else if decide (t.cmd.ndesc ≠ 0) && !ctxPhysOk s x d (d + 16 * t.cmd.ndesc - 1) then
    some (cmdFault s x tfCmdBad 2)
  else none

/-- The pages of the program image, translated (R343); the search program is the controller's own (R477). -/
def imagePages (e : ExecCmd) : Nat :=
  if e.search then 0 else (e.image.toNat % 4096 + 32 * e.length + 4095) / 4096

-- ---------------------------------------------------------------- DISPATCH

/-- Lines that a switch transfers for one task core: image, program, rows. -/
def switchLines (t : Task) : Nat :=
  t.cmd.cores * ((32 * t.cmd.length + 127) / 128) + (if t.phase == .saved then
    saveBytes t.cmd.cores (if t.full then t.bound else 0) / 128 else 0)

/-- The trace record of a dispatch or a resume (R557). -/
def dispatchTrace (s : State) (x : Nat) (t : Task) (cores : List Nat) : State :=
  let mask : BitVec 16 := cores.foldl (fun m c => m ||| (1#16 <<< c)) 0
  if t.phase == .saved then trace s 4 srcCp (some x) mask (BitVec.ofNat 128 t.ordinal)
  else trace s 1 srcCp (some x) mask
    (BitVec.ofNat 128 ((ctxOf s x).rd.toNat + t.cmd.declared.toNat * 2 ^ 32))

/-- The task runs on the cores chosen: rows, image, program, registers. While a save with FULL is the restart
point, the increments that came meanwhile stay with it for another resume (R234, R380). -/
def runTask (s : State) (x : Nat) (t : Task) (cores : List Nat) : State :=
  let b := ctxBsk s x
  let base := rgStart (regionOf (bskOf s b) (ctxOf s x).region.toNat)
  let e := t.cmd
  let img := if e.search then [] else
    imageBundles (rdVirt s b (slotOfCtx s x) (32 * e.length) e.image.toNat) e.length
  let ds := descTable s.mem e
  let s := takeCredit s b (switchLines t)
  let s := evictMoved s x t cores
  let s := cores.foldl (fun s c => claimCore s x c base e.rows) s
  let t' := { (((ctxOf s x).task).getD t) with cores := cores, base := base }
  let old := if t.full then t.cores.zip cores else []
  let s := ((List.range cores.length).zip cores).foldl (fun s p =>
    loadCore s p.2 x p.1 e img ds) s
  let t := t'
  let s := ((List.range cores.length).zip cores).foldl (fun s p =>
    if e.search then updCore s p.2 searchCore
    else if t.phase == .saved then resumeCore s x t p.1 p.2 else updCore s p.2 (startCore e)) s
  let s := dispatchTrace s x t cores
  let p := (ctxOf s x).prio.toNat
  let s := { s with cp := { s.cp with
    rr := mset 0 s.cp.rr (4 * b + p) ((x + 1) % 4096), dispatchNo := s.cp.dispatchNo + 1 } }
  let s := if old.isEmpty then s else moveLines s x old
  updCtx s x (fun k => { k with
    state := .running, acLate := if t.full then k.acLate else [], lateCalls := []
    task := some { t with phase := .running, dispatched := s.cp.dispatchNo, slice := 0, expired := none
                          preempt := false, lists := [] } })

/-- The first candidate has its cores: the checks, the image's translation, then the task runs. It waits for
a free walker and for credit (R311, R331). -/
def placeCandidate (s : State) (x : Nat) (t : Task) (cores : List Nat) : State :=
  match placeFault s x t cores with
  | some s' => s'
  | none =>
    let b := ctxBsk s x
    if !walkerFree s || !hasCredit s b then s
    else
    let r := translateAll s b (slotOfCtx s x) false (imagePages t.cmd) t.cmd.image.toNat
    match r.1 with
    | some (va, y) => xlatFault r.2 x none va false false y
    | none => runTask r.2 x t cores

/-- DISPATCH: the first candidate of a Basket that is not draining (R371 to R373). A context entry or
scheduling entry that cannot be read tears the candidate down (R488). -/
def dispatch (b : BasketId) (ecc : Ecc) (s : State) : State :=
  let k := bskOf s b.toNat
  if !k.valid || k.drain then s
  else match firstCandidate s b.toNat with
    | none => s
    | some x =>
      let s := tableEcc s srcCp (some x) ecc
      if ecc = .double then cmdFault s x tfCmdBad 10
      else match (ctxOf s x).task with
      | none => s
      | some t =>
        let free := freeCores s b.toNat
        if t.cmd.cores > popcount k.cores then cmdFault s x tfCmdBad 4
        else if free.length < t.cmd.cores then preemptFor s b.toNat x (t.cmd.cores - free.length)
        else if hostGone s x then setState s x .detached
        else placeCandidate s x t (placeTask s x t free)

/-- LIST_BUILD (R313): the lists of a task's descriptors in table order, once a walker is free; `lost` are
the pages whose lookup meets a MEM_ERROR. -/
def listBuild (ctx : CtxId) (lost : List DWord) (s : State) : State :=
  let x := ctx.toNat
  match (ctxOf s x).task with
  | some t =>
    match t.cores with
    | c :: _ =>
      if t.phase == .running && walkerFree s && hasCredit s (ctxBsk s x) then
        let r := buildLists (ctxBsk s x) (slotOfCtx s x) lost (coreOf s c).mem.descs 512 [] s
        updCtx r.2 x (fun k => { k with task := k.task.map (fun t => { t with lists := r.1 }) })
      else s
    | [] => s
  | none => s

-- ---------------------------------------------------------------- END (R258, R386)

/-- The core's part of the task has ended. -/
def coreEnded (k : Core) : Bool := k.seq.ended && quiet k 0b111111

/-- RATIO and the entry SLOWDOWN (R386). -/
def measure (s : State) (x : Nat) (t : Task) : State :=
  let cycles := (now s - t.start).toNat * 11
  let d := t.cmd.declared.toNat
  let s := trace s 2 srcCp (some x) 0
    (BitVec.ofNat 128 ((ctxOf s x).rd.toNat + cycles % 2 ^ 64 * 2 ^ 64))
  if d = 0 then s
  else
    let ratio := min 0xFFFF (256 * cycles / d)
    let k := ctxOf s x
    let past := decide (k.thresh ≠ 0 ∧ ratio > k.thresh.toNat)
    let s' := setCtx s x { k with
      ratio := BitVec.ofNat 16 ratio
      slowSaid := if past then true else if ratio ≤ k.thresh.toNat then false else k.slowSaid }
    if past && !k.slowSaid then
      post s' 0x162 srcCp (some x) (BitVec.ofNat 64 d) (BitVec.ofNat 64 cycles)
    else s'

/-- TASK_END: every core has ended; with pending entries or uses left, BRAID_ROWSTAT (R123). -/
def taskEnd (ctx : CtxId) (s : State) : State :=
  let x := ctx.toNat
  match (ctxOf s x).task with
  | some t =>
    if t.phase == .running && t.cores.all (fun c => coreEnded (coreOf s c)) then
      match t.cores.find? (fun c => (endsOpen (coreOf s c)).isSome) with
      | some c => brdFaultAt s c tfRowstat 7 ((endsOpen (coreOf s c)).getD 0) 0
      | none =>
        let lines := t.cores.flatMap (fun c => unreadLines (coreOf s c).mem)
        let s := releaseCores (dropBundles s t.cores) t.cores
        let s := measure s x t
        finishCmd (updCtx s x (fun k => { k with
          task := none, unread := k.unread ++ lines, acLate := [], lateCalls := [], sappPair := none
          lastFault := none, faultReps := 0 })) x
    else s
  | none => s

-- ---------------------------------------------------------------- YIELD (R271, R272)

/-- Steps 3 to 5 on one core; the depthwise window is empty after a YIELD (R186). -/
def passYield (k : Core) : Core :=
  let prot := k.seq.livePend
  let ord := k.seq.ord + 1
  { k with seq := { k.seq with
      restart := imageOf k k.seq.pc prot [] ord, prot := prot, livePend := [], ord := ord
      yieldCnt := satAdd k.seq.yieldCnt 1, watchdog := 0, wdRun := true, run := .running }
           vu := { k.vu with win := [] } }

/-- The core's tags once its image is taken: only stores still SENT keep their state (R272). -/
def stopTask (s : State) (x : Nat) : State :=
  match (ctxOf s x).task with
  | some t =>
    let past := match t.expired with | some e => (now s - e).toNat | none => 0
    let s := updCtx s x (fun k => { k with
      ovr := satAdd k.ovr past, task := some { t with overrun := t.overrun + past } })
    let ord := taskOrd s t
    let mask : BitVec 16 := t.cores.foldl (fun m c => m ||| (1#16 <<< c)) 0
    let s := switchOut s x false false
    if canTear (ctxOf s x) then
      let s := count s 257 1
      let s := updBsk s (ctxBsk s x) (fun b => { b with preemptCnt := satAdd b.preemptCnt 1 })
      let s := trace s 3 srcCp (some x) mask
        (BitVec.ofNat 128 (ord + past % 2 ^ 32 * 2 ^ 64))
      updCtx s x (fun k => if k.stopPend then { k with state := .stopped, stopPend := false }
                           else { k with state := .saved })
    else s
  | none => s

/-- The corrections that the save of the Vector Unit's words makes (R162). -/
def yieldCorrected (s : State) (l : List VuEcc) : State :=
  l.foldl (fun s e => updCore s e.core.toNat (fun k =>
    { k with vu := { k.vu with eccCnt := satAdd k.vu.eccCnt e.single.toNat } })) s

/-- Steps 3 to 6 of a YIELD, once every core has reached it. -/
def passBarrier (s : State) (x : Nat) (t : Task) : State :=
  let s := t.cores.foldl deliverAll s
  let s := t.cores.foldl (fun s c => countCore (updCore s c passYield) c 14 1) s
  let s := updCtx s x (fun k => { k with
    lastFault := none, faultReps := 0, acLate := []
    task := k.task.map (fun t => { t with full := false, sappSeq := 0, sappFull := 0 }) })
  if t.preempt then stopTask s x else s

/-- YIELD_BARRIER: every core of the task has reached the YIELD (R271, steps 2 to 6). A word of the Vector Unit
that cannot be read tears the task down (R162, R186). -/
def yieldBarrier (ctx : CtxId) (ecc : List VuEcc) (s : State) : State :=
  let x := ctx.toNat
  match (ctxOf s x).task with
  | some t =>
    if t.phase == .running && !t.cores.isEmpty &&
        t.cores.all (fun c => (coreOf s c).seq.run == .atYield) then
      let l := ecc.filter (fun e => t.cores.contains e.core.toNat)
      let s := yieldCorrected s l
      match l.find? (fun e => e.double.isSome) with
      | some e => vuFault s e.core.toNat tfVuEcc (if e.double = some true then 2 else 1)
      | none => passBarrier s x t
    else s
  | none => s

-- ---------------------------------------------------------------- slices (R374)

/-- Ticks of a Basket's slice. -/
def sliceTicks (k : Basket) : Nat := k.slice.toNat * 50000

/-- SLICE_EXPIRY: with a candidate of the same or a higher class waiting, the task stops at its next
YIELD; else its count starts again. -/
def sliceExpiry (ctx : CtxId) (s : State) : State :=
  let x := ctx.toNat
  let k := ctxOf s x
  let b := k.basket.toNat
  match k.task with
  | some t =>
    if t.phase == .running && !t.preempt && decide (t.slice ≥ sliceTicks (bskOf s b)) then
      if (candidates s b).any (fun y => decide ((ctxOf s y).prio ≤ k.prio)) then
        setCtx s x { k with task := some { t with preempt := true, expired := some (now s) } }
      else setCtx s x { k with task := some { t with slice := 0 } }
    else s
  | none => s

-- ---------------------------------------------------------------- the commands

def execDispatch (b : BasketId) (ecc : Ecc) (s : State) : Out := .next (dispatch b ecc s)
def execListBuild (ctx : CtxId) (lost : List DWord) (s : State) : Out := .next (listBuild ctx lost s)
def execTaskEnd (ctx : CtxId) (s : State) : Out := .next (taskEnd ctx s)
def execYieldBarrier (ctx : CtxId) (ecc : List VuEcc) (s : State) : Out := .next (yieldBarrier ctx ecc s)
def execSliceExpiry (ctx : CtxId) (s : State) : Out := .next (sliceExpiry ctx s)

end Sys2Proof.Machine
end

