-- ==== Sys2Proof/Machine/Atu.lean ====
section
/-! DEFINITION. The ATU's own commands (11): space commits, walks, fault responses, memory errors,
invalidations, credits. -/

namespace Sys2Proof.Machine

def offSpaceCommit : Nat := 0x400020
def offFaultResp : Nat := 0x400030
def bwOff (b : Nat) : Nat := 0x400080 + 4 * b

-- ---------------------------------------------------------------- spaces (R305, R306, R561)

/-- Every core holds the current epoch of the space of its task (R315). -/
def deliverEpochs (s : State) : State :=
  { s with cores := s.cores.map (fun e => (e.1, match e.2.task with
    | some (x, _) => (match slotOfCtx s x with
      | some k => { e.2 with mem := { e.2.mem with epoch := epochOf s k } }
      | none => e.2)
    | none => e.2)) }

/-- A walk that starts again under a new epoch; one of a slot that has become invalid ends, and its lines find
that out for themselves (R306, R317). -/
def walkAgain (s : State) (p : Nat → Bool) (w : Walk) : Option Walk :=
  if !p w.slot then some w
  else if (spaceOf s w.slot).valid then
    some { w with level := 3, table := rootTable (spaceOf s w.slot), pa := s.atu.pa }
  else none

/-- Walks that wait take the walkers that have become free, in order of arrival (R311). -/
def fillWalkers : Nat → State → State
  | 0, s => s
  | n + 1, s =>
    match s.atu.walkQueue, (List.range 16).find? (fun i => (mget none s.atu.walks i).isNone) with
    | _ :: _, some i => fillWalkers n (freeWalker s i)
    | _, _ => s

/-- Steps 2 to 4 of a change of the slots that `p` holds of (R306, R317): every TLB entry of them goes, every
walk of them starts again, and the cores learn the new epochs. A list is stale by its stamp (R314). -/
def purgeSlots (s : State) (p : Nat → Bool) : State :=
  let keep (e : TlbEntry) : Bool := !p e.slot
  deliverEpochs (fillWalkers 16 { s with
    atu := { s.atu with
      stlb := s.atu.stlb.filter keep
      walkQueue := s.atu.walkQueue.filterMap (walkAgain s p)
      walks := (s.atu.walks.map (fun e => (e.1, e.2.bind (walkAgain s p)))).filter
        (fun e => decide (e.2 ≠ none)) }
    cores := s.cores.map (fun e =>
      (e.1, { e.2 with mem := { e.2.mem with utlb := e.2.mem.utlb.filter keep } })) })

/-- A new epoch of a slot (R306, R317). -/
def newEpoch (s : State) (slot : Nat) : State :=
  let k := spaceOf s slot
  purgeSlots { s with atu := { s.atu with
    slots := mset {} s.atu.slots slot { k with epoch := k.epoch + 1 } } } (fun x => decide (x = slot))

/-- A new epoch of every slot (R317). -/
def newEpochs (s : State) : State :=
  purgeSlots { s with atu := { s.atu with allEpoch := s.atu.allEpoch + 1 } } (fun _ => true)

/-- A slot takes new contents, and its next epoch. -/
def putSpace (s : State) (slot : Nat) (x : Space) : State :=
  let k := spaceOf s slot
  newEpoch { s with atu := { s.atu with
    slots := mset {} s.atu.slots slot { x with epoch := k.epoch } } } slot

def standingId (id : BitVec 20) : Bool := decide (0xFFF00 ≤ id.toNat ∧ id.toNat ≤ 0xFFF0F)

/-- The staged contents (R334). -/
def stagedSpace (s : State) : Space where
  id := bits s.atu.stId 0 20
  valid := s.atu.stId.getLsbD 20
  engine := s.atu.stId.getLsbD 21
  forge := s.atu.stId.getLsbD 22
  root := s.atu.stHi ++ s.atu.stLo

/-- A commit that only the Forge may make (R561). -/
def guardedCommit (x k : Space) : Bool :=
  x.engine || x.forge || k.engine || k.forge || standingId x.id || standingId k.id

/-- Another slot already holds the ID (R305). -/
def idTaken (s : State) (slot : Nat) (x : Space) : Bool :=
  x.valid && s.atu.slots.any (fun e => decide (e.1 ≠ slot) && e.2.valid && decide (e.2.id = x.id))

/-- A write of ATU_SPACE_COMMIT with GO = 1. -/
def spaceCommit (s : State) (i : Initiator) : State :=
  let slot := s.atu.sel.toNat
  let x := stagedSpace s
  let refused : State :=
    post s 0x143 srcAtu none (BitVec.ofNat 64 offSpaceCommit) (s.atu.stId.setWidth 64)
  if !byForge i && guardedCommit x (spaceOf s slot) then refused
  else if idTaken s slot x then refused
  else if x.valid && decide (bits x.root 60 4 ≠ 9) then regReserved s offSpaceCommit 1 i
  else putSpace s slot x

/-- SPACE_FLAGS: the Forge sets or clears ENGINE and FORGE on a slot (R561, R358). -/
def spaceFlagsOf (s : State) (slot : Nat) (engine forge : Bool) : State :=
  let k := spaceOf s slot
  if k.valid then mbxReply (putSpace s slot { k with engine := engine, forge := forge }) 0 []
  else mbxReply s 2 []

-- ---------------------------------------------------------------- walks (R309, R320)

/-- A line that a walk still serves: its context, core, whether it stores, and its address. -/
structure WalkLine where
  ctx : Nat
  core : Nat
  tag : Nat
  store : Bool
  va : Nat
deriving DecidableEq, Repr

def walkLine (s : State) (w : Walk) : WalkFor → Option WalkLine
  | .line c tg =>
    let t := tagOf s c tg.toNat
    match (coreOf s c).task with
    | some (x, _) =>
      let va := tagVa t t.issued
      if t.st == .active && (isLoad t || isStore t) && decide (t.issued < 4 * t.rows) &&
          decide (slotOfCtx s x = some w.slot ∧ va / 4096 = w.va.toNat / 4096) then
        some { ctx := x, core := c, tag := tg.toNat, store := isStore t, va := va }
      else none
    | none => none

def walkLines (s : State) (w : Walk) : List WalkLine :=
  (w.forLine :: w.waiting).filterMap (walkLine s w)

/-- Page faults of lines, one for each context with the cores concerned (R321). -/
def lineFaults (s : State) (slot : Nat) (l : List (WalkLine × Nat)) : State :=
  let ctxs := (l.map (fun e => e.1.ctx)).eraseDups
  ctxs.foldl (fun s x =>
    match l.filter (fun e => decide (e.1.ctx = x)) with
    | [] => s
    | e :: m => pageFault s {
        ctx := x, slot := slot, page := pageOf e.1.va
        store := (e :: m).any (fun y => y.1.store), reason := e.2, region := false
        cores := (e :: m).foldl (fun b y => b ||| (1#16 <<< y.1.core)) 0 }) s

/-- The lines' contexts are torn down. -/
def lineErrors (s : State) (l : List WalkLine) (code reason : Nat) (addr : WalkLine → Nat) : State :=
  l.foldl (fun s e => addrFault s e.ctx code reason (some e.core) (addr e)) s

/-- A leaf stands in the shared TLB, and in the micro-TLB of a core whose line is an absolute one. -/
def leafIn (s : State) (w : Walk) (pte : DWord) (l : List WalkLine) : State :=
  let e := tlbEntry w.slot w.va.toNat pte w.level
  let s := { s with atu := { s.atu with stlb := stlbPut s.atu.stlb e w.va.toNat } }
  l.foldl (fun s x =>
    if (tagOf s x.core x.tag).desc.isNone then
      updMem s x.core (fun m => { m with utlb := utlbPut m.utlb e w.va.toNat })
    else s) s

/-- The walk at a walker has ended: the next one that waits takes the walker (R311). -/
def endWalk (s : State) (i : Nat) : State := freeWalker (walkDone s) i

/-- The walk has ended with a leaf, which each of its lines tests for itself, under the windows as they stood
when the walk began (R309, R308, R334). -/
def walkLeaf (s : State) (i : Nat) (w : Walk) (pte : DWord) : State :=
  let l := walkLines s w
  let engine := (spaceOf s w.slot).engine
  let barred (e : WalkLine) : Bool :=
    let a := leafPa pte w.level e.va
    (leafFault pte e.store).isNone && !physOkOf s w.pa engine a a
  let s := leafIn (endWalk s i) w pte l
  let s := lineFaults s w.slot (l.filterMap (fun e => (leafFault pte e.store).map (fun r => (e, r))))
  lineErrors s (l.filter barred) tfAccess 2 (·.va)

/-- The Basket that a walk is made for. -/
def walkBsk (s : State) (w : Walk) : Option Nat :=
  match walkLines s w with
  | e :: _ => some (ctxBsk s e.ctx)
  | [] => none

/-- The PTE of a walk has been read (R309, R320). -/
def walkStep (s : State) (i : Nat) (w : Walk) (resp : Resp) : State :=
  let l := walkLines s w
  let a := pteAddr w.table w.va.toNat w.level
  let s := match walkBsk s w with | some b => takeCredit s b 1 | none => s
  match resp with
  | .error => lineErrors (endWalk s i) l tfMemError 2 (fun _ => a)
  | .none => lineErrors (endWalk s i) l tfMemError 3 (fun _ => a)
  | .ok =>
    match pteStep (rd64 s.mem a) w.level with
    | .next t => setWalk s i (some { w with level := w.level - 1, table := t })
    | .leaf => walkLeaf s i w (rd64 s.mem a)
    | .fault r => lineFaults (endWalk s i) w.slot (l.map (fun e => (e, r)))

/-- The read of a walk waits for its Basket's credit (R331). -/
def walkWaits (s : State) (w : Walk) : Bool := (walkBsk s w).any (fun b => !hasCredit s b)

/-- PTE_READ_RESPONSE: the walk's read returns (R309, R308, R320); with the ATU disabled the translation ends
(R325). -/
def pteReadResponse (walker : BitVec 4) (resp : Resp) (s : State) : State :=
  let i := walker.toNat
  match mget none s.atu.walks i with
  | none => s
  | some w =>
    let a := pteAddr w.table w.va.toNat w.level
    if s.atu.disable then lineErrors (endWalk s i) (walkLines s w) tfAccess 4 (·.va)
    else if !physOkOf s w.pa (spaceOf s w.slot).engine a (a + 7) then
      lineErrors (endWalk s i) (walkLines s w) tfAccess 2 (·.va)
    else if walkWaits s w then s
    else walkStep s i w resp

-- ---------------------------------------------------------------- fault responses (R322, R323)

/-- RETRY for one context: SAVED, from where its task resumes or its command starts again; STOPPED and DETACHED
where R337 and R338 say so. -/
def retryCtx (s : State) (x : Nat) : State :=
  let k := ctxOf s x
  let k := if k.task.isSome then k else { k with started := false, finished := false }
  if k.stopPend then setCtx s x { k with state := .stopped, stopPend := false }
  else if hostGone s x then setCtx s x { k with state := .detached }
  else setCtx s x { k with state := .saved }

def respWord (id : BitVec 6) (act : Nat) : Word := natAt id.toNat 0 ||| natAt act 8

/-- A write of ATU_FAULT_RESP with a legal action: one that names a free record has no effect but its entry. -/
def faultRespond (s : State) (id : BitVec 6) (act : Nat) : State :=
  match recOf s id.toNat with
  | none => post s 0x142 srcAtu none (BitVec.ofNat 64 offFaultResp) ((respWord id act).setWidth 64)
  | some r =>
    let s := { s with atu := { s.atu with respId := id, respAct := BitVec.ofNat 2 act } }
    closeRec (if act = 1 then r.ctxs.foldl retryCtx s else abortCtxs s r) id.toNat

def faultAnswer (s : State) (i : Initiator) (id : BitVec 6) (act : Nat) : State :=
  gated s offFaultResp (respWord id act) i (byHostForge i) 209 (fun s => faultRespond s id act)

/-- FAULT_TIMEOUT (R323): the age of the record has reached ATU_FAULT_TIMEOUT, or the word that holds the record
cannot be read (R488). -/
def faultTimeout (id : BitVec 6) (ecc : Ecc) (s : State) : State :=
  match recOf s id.toNat with
  | none => s
  | some r =>
    let s := tableEcc s srcAtu r.ctxs.head? ecc
    if ecc = .double then closeRec (abortCtxs s r) id.toNat
    else if (now s - r.opened).toNat ≥ s.atu.timeout.toNat then
      let s := post s 0x141 srcAtu r.ctxs.head? (recObj id.toNat r) (recDetail s r)
      closeRec (abortCtxs s r) id.toNat
    else s

-- ---------------------------------------------------------------- memory errors (R320, R323, R324)

/-- The line `pa` that a store of a core sent, if it is still among the last (R264). -/
def storeSent (s : State) (c tg : Nat) (pa : DWord) : Option SentLine :=
  let m := (coreOf s c).mem
  let t := mget {} m.tags tg
  ((if isStore t then portLines t else []) ++
    (m.orphans.filter (fun o => decide (o.tag = tg))).flatMap (fun o => o.ports.map (·.2))).find?
    (fun l => decide (l.pa = pa))

/-- A Region command that a core of the context issued runs. -/
def callRuns (s : State) (x : Nat) : Bool :=
  s.ru.running.any (fun e => e.2.any (fun r => decide (r.cmd.ctx = x))) ||
    s.ru.calls.any (fun r => decide (r.ctx = x)) || s.ru.queue.any (fun e => decide (e.2.ctx = x))

/-- The context has a command whose lines the command processor, the Region Unit or the Ingot Store reads and
writes. -/
def commandBusy (s : State) (x : Nat) : Bool :=
  let k := ctxOf s x
  (match k.cur with
    | some (.copy _ _ _) => k.state == .running && k.started
    | some (.exec _) => k.task.isSome && (k.state == .ready || k.state == .saved)
    | some (.store _ _) => k.state == .running
    | some (.region _) => k.state == .running
    | _ => false) || callRuns s x

/-- A store line of a task that has ended fails before a FENCE_SIGNAL has it read back (R327). -/
def lateStore (s : State) (core : Option Nat) (pa : DWord) (silent : Bool) (reason : Nat) : State :=
  match s.cp.ctxs.find? (fun e => e.2.unread.any (fun l => decide (l.pa = pa) && mayFail s silent l.sent)) with
  | some (x, _) => addrFault (scramble s pa.toNat 128) x tfMemError reason core pa.toNat
  | none => s

/-- A load line fails: a live one ends its task, a dead one is no longer out. -/
def loadFails (s : State) (c : Nat) (tag : TagId) (line : Nat) (silent : Bool) : State :=
  match (coreOf s c).mem.lines.find? (fun l => decide (l.tag = tag ∧ l.line = line)) with
  | none => s
  | some l =>
    if (apertureOf s l.pa.toNat).isSome || !mayFail s silent l.sent then s
    else
      let s := updMem s c (fun m => { m with lines := m.lines.erase l })
      match (coreOf s c).task with
      | some (x, _) =>
        if l.dead then s
        else addrFault s x tfMemError (if silent then 3 else 1) (some c) l.pa.toNat
      | none => s

/-- A store line fails (R324). -/
def storeFails (s : State) (c tg : Nat) (pa : DWord) (silent : Bool) : State :=
  let reason := if silent then 3 else 1
  match (coreOf s c).task, storeSent s c tg pa with
  | some (x, _), some l =>
    if mayFail s silent l.sent then
      addrFault (scramble s pa.toNat 128) x tfMemError reason (some c) pa.toNat
    else s
  | _, _ => lateStore s (some c) pa silent reason

/-- The line lies in the save area of a task. -/
def inSaveArea (k : Ctx) (t : Task) (pa : DWord) : Bool :=
  decide (k.saveBase.toNat ≤ pa.toNat ∧
    pa.toNat + 128 ≤ k.saveBase.toNat + saveBytes t.cmd.cores t.cmd.rows)

/-- A line of a save, of an eviction or of a restore fails (R381). -/
def saveFails (s : State) (x : Nat) (pa : DWord) (write silent : Bool) : State :=
  let k := ctxOf s x
  match k.task with
  | some t =>
    if inSaveArea k t pa && (if write then t.phase == .saved else t.phase == .running && !t.kept.isEmpty) then
      addrFault (if write then scramble s pa.toNat 128 else s) x tfMemError (if silent then 3 else 5) none
        pa.toNat
    else s
  | none => s

/-- A line of a command of context `x` fails (R320, R324): bytes that the engine wrote are in no state that it
defines, bytes that it read are as they were. The read-back of a FENCE_SIGNAL fails in the same way (R327). -/
def commandFails (s : State) (x : Nat) (pa : DWord) (write silent : Bool) : State :=
  let reason := if silent then 3 else 1
  if commandBusy s x then
    addrFault (if write then scramble s pa.toNat 128 else s) x tfMemError reason none pa.toNat
  else if (ctxOf s x).unread.any (fun l => decide (l.pa = pa)) then
    addrFault s x tfMemError reason none pa.toNat
  else s

/-- An engine request fails: with an error response, or, `silent`, without one (R320, R323). A request of a
command cannot be older than the command. -/
def memFails (s : State) (r : MemReq) (silent : Bool) : State :=
  let aged (x : Nat) : Bool := mayFail s silent (ctxOf s x).cmdTick
  match r with
  | .load core tag line => loadFails s core.toNat tag line.toNat silent
  | .store core tag pa => storeFails s core.toNat tag.toNat pa silent
  | .ring ctx =>
    let k := ctxOf s ctx.toNat
    if (k.state == .ready || k.state == .running) && k.cur.isNone && decide (k.rd ≠ k.wr) then
      addrFault s ctx.toNat tfMemError (if silent then 3 else 1) none (ringAddr k k.rd)
    else s
  | .descTable ctx pa =>
    match (ctxOf s ctx.toNat).task with
    | some t =>
      let a := t.cmd.descTable.toNat
      if t.phase == .running || !aged ctx.toNat || !decide (a ≤ pa.toNat ∧ pa.toNat < a + 16 * t.cmd.ndesc)
      then s
      else addrFault s ctx.toNat tfMemError (if silent then 3 else 1) none pa.toNat
    | none => s
  | .save ctx pa write => if aged ctx.toNat then saveFails s ctx.toNat pa write silent else s
  | .command ctx pa write => if aged ctx.toNat then commandFails s ctx.toNat pa write silent else s
  | .pte ctx pa =>
    if commandBusy s ctx.toNat && aged ctx.toNat then
      addrFault s ctx.toNat tfMemError (if silent then 3 else 2) none pa.toNat
    else s

-- ---------------------------------------------------------------- invalidation (R317)

/-- The slot that holds a space ID in its contents, valid or, where none is, made invalid since (DEDUCED from
R306 and R318: its old lines may still be out, log 82). -/
def slotNaming (s : State) (id : BitVec 20) : Option Nat :=
  match slotOfId s id with
  | some k => some k
  | none => (s.atu.slots.find? (fun p => decide (p.2.id = id))).map (·.1)

/-- What a message is about: nothing, one slot, or (none) all of them. -/
def invTarget (s : State) : InvKind → Option (Option Nat)
  | .range id _ _ => (slotNaming s id).map some
  | .space id => (slotNaming s id).map some
  | .all => some none

/-- Steps 1 to 4 for the message at the front. -/
def invApply (s : State) : State :=
  match s.atu.inv with
  | [] => s
  | (t, _) :: rest =>
    let s := match t with
      | some k => newEpoch s k
      | none => newEpochs s
    let e : DWord := match t with
      | some k => epochOf s k
      | none => 0
    { s with atu := { s.atu with inv := (t, e) :: rest } }

/-- INVALIDATION: a message arrives; one that finds 32 held is kept back by the network. -/
def invalidation (k : InvKind) (outside : List Host.Cell) (s : State) : State :=
  let s := { s with mem := wrCells s.mem outside }
  if s.atu.inv.length ≥ 32 then s
  else
    let s := count { s with atu := { s.atu with invCnt := satAdd s.atu.invCnt 1 } } 261 1
    match invTarget s k with
    | none => s
    | some t =>
      let idle := s.atu.inv.isEmpty
      let s := { s with atu := { s.atu with inv := s.atu.inv ++ [(t, 0)] } }
      if idle then invApply s else s

/-- A line that is out was translated under an epoch before the message's. -/
def lineStale (s : State) (t : Option Nat) (e : DWord) (slot : Nat) (epoch : DWord) : Bool :=
  match t with
  | some k => decide (slot = k ∧ epoch < e)
  | none => decide (epoch < epochOf s slot)

/-- The lines of a core that are out: those of memory, and those of stores that a peer has not written. -/
def linesOut (m : MemUnit) : List InLine := m.lines ++ strayStores m

/-- Lines of the command processor's and the Region Unit's commands that a link still carries (R425), each with
the slot and epoch it was translated under. -/
def linkLines (s : State) : List LineRef :=
  s.links.flatMap (fun e =>
    ((e.2.apLines ++ e.2.runs.flatMap (·.lines)).filter (fun a => decide (a.core = 16))).map (·.ref) ++
      e.2.txns.flatMap (fun t => match t.2 with
        | some x => if x.core = 16 then x.refs else []
        | none => []))

/-- INVALIDATION_ACK: no line of an earlier epoch is left; the next message is handled. -/
def invalidationAck (s : State) : State :=
  match s.atu.inv with
  | [] => s
  | (t, e) :: rest =>
    if s.cores.any (fun (c : Nat × Core) =>
          (linesOut c.2.mem).any (fun l => lineStale s t e l.slot l.epoch)) ||
        (linkLines s).any (fun l => lineStale s t e l.slot l.epoch) then s
    else invApply { s with atu := { s.atu with inv := rest } }

-- ---------------------------------------------------------------- credit (R331, R332)

/-- Waiters of Basket `b` receive one line's credit each, in order, while there is credit. -/
def grantCredit (b : Nat) : List (Nat × Nat) → State → State
  | [], s => s
  | (c, t) :: l, s =>
    let w := bwOf s b
    if !(coreOf s c).mem.creditWait then grantCredit b l s
    else if w.credit ≥ 1 then
      grantCredit b l (updMem (setBw s b { w with credit := w.credit - 1, rr := (c + 1) % 16 }) c
        (fun m => { m with creditWait := false, granted := true }))
    else grantCredit b l (setBw s b { w with waiters := w.waiters ++ [(c, t)] })

/-- The addition to one Basket. -/
def addCredit (s : State) (b : Nat) : State :=
  let w := bwOf s b
  grantCredit b w.waiters
    (setBw s b { w with credit := min (w.credit + w.rate.toNat) w.depth.toNat, waiters := [] })

/-- CREDIT_ADD, once 1,024 fabric cycles have passed since the last. -/
def creditAdd (s : State) : State :=
  if s.atu.creditAt + 1024 ≤ s.clk.fabCyc then
    (List.range 16).foldl addCredit { s with atu := { s.atu with creditAt := s.atu.creditAt + 1024 } }
  else s

/-- A write of ATU_BW by the Forge: a reserved RATE or DEPTH keeps the old one; a sum over the port's rate
refuses the write. -/
def bwWrite (s : State) (i : Initiator) (b : Nat) (v : Word) : State :=
  let w := bwOf s b
  let rate := (bits v 0 13).toNat
  let depth := (bits v 16 13).toNat
  let rOk := decide (rate ≤ 5563)
  let dOk := decide (1 ≤ depth ∧ depth ≤ 4096)
  let r := if rOk then rate else w.rate.toNat
  if rateSum s - w.rate.toNat + r > 5563 then regRefused s (bwOff b) v i
  else
    let s := setRate s b r (if dOk then depth else w.depth.toNat)
    if rOk && dOk then s else regReserved s (bwOff b) v i

/-- The completed twin write of ATU_CTL (R325). -/
def atuCtlDone (s : State) (v : Word) : State :=
  { s with atu := { s.atu with disable := v.getLsbD 0 } }

-- ---------------------------------------------------------------- the commands

def execAtuSpaceCommit (init : Initiator) (s : State) : Out :=
  .next (gated s offSpaceCommit 1 init (byHostForge init) 209 (fun s => spaceCommit s init))
def execSpaceFlags (slot : BitVec 12) (engine forge : Bool) (s : State) : Out :=
  .next (mbxRow s 6 (fun s => spaceFlagsOf s slot.toNat engine forge))
def execPteReadResponse (walker : BitVec 4) (resp : Resp) (s : State) : Out :=
  .next (pteReadResponse walker resp s)
def execFaultRetry (init : Initiator) (id : BitVec 6) (s : State) : Out :=
  .next (faultAnswer s init id 1)
def execFaultAbort (init : Initiator) (id : BitVec 6) (s : State) : Out :=
  .next (faultAnswer s init id 2)
def execFaultTimeout (id : BitVec 6) (ecc : Ecc) (s : State) : Out := .next (faultTimeout id ecc s)
def execMemResponseTimeout (r : MemReq) (s : State) : Out := .next (memFails s r true)
def execMemErrorResponse (r : MemReq) (s : State) : Out := .next (memFails s r false)
def execInvalidation (k : InvKind) (outside : List Host.Cell) (s : State) : Out :=
  .next (invalidation k outside s)
def execInvalidationAck (s : State) : Out := .next (invalidationAck s)
def execCreditAdd (s : State) : Out := .next (creditAdd s)

end Sys2Proof.Machine
end

