-- ==== Sys2Proof/Machine/CoreEvents.lean ====
section
/-! DEFINITION. The commands of a core's units that are no slots: lines, rows and verdicts that complete
what slots began (06 to 10). -/

namespace Sys2Proof.Machine

def execLineRequestIssue (core : CoreId) (tag : TagId) (ecc : RowEcc) (tecc : Ecc) (s : State) : Out :=
  .next (lineRequestIssue core tag ecc tecc s)
def execLoadLineReturn (core : CoreId) (tag : TagId) (line : BitVec 12) (s : State) : Out :=
  .next (loadLineReturn core tag line s)
def execFlushReadbackDone (core : CoreId) (tag : TagId) (resp : Resp) (s : State) : Out :=
  .next (flushReadbackDone core tag resp s)
def execRemoteRowArrival (core : CoreId) (tag : TagId) (s : State) : Out :=
  .next (remoteRowArrival core tag s)
def execRemoteReadServe (core : CoreId) (tag : TagId) (ecc : RowEcc) (s : State) : Out :=
  .next (remoteReadServe core tag ecc s)
def execRemoteReadRowReturn (core : CoreId) (tag : TagId) (s : State) : Out :=
  .next (remoteReadRowReturn core tag s)
def execAcsigDelivery (core : CoreId) (s : State) : Out := .next (acsigDelivery core s)
def execNoYield (core : CoreId) (s : State) : Out := .next (noYield core s)
def execTlwLoadDone (core : CoreId) (s : State) : Out := .next (tlwLoadDone core s)
def execLineSlotFill (core : CoreId) (s : State) : Out := .next (lineSlotFill core s)
def execPassVerdict (core : CoreId) (faults : List PassFault) (ecc : BankEcc) (s : State) : Out :=
  .next (passVerdict core faults ecc s)
def execEpilogueRowWrite (core : CoreId) (slot : BitVec 2) (ecc : Ecc) (s : State) : Out :=
  .next (epilogueRowWrite core slot ecc s)
def execDwWindowFill (core : CoreId) (s : State) : Out := .next (dwWindowFill core s)
def execVdwCommit (core : CoreId) (fails : BitVec 4) (ecc : BankEcc) (s : State) : Out :=
  .next (vdwCommit core fails ecc s)

end Sys2Proof.Machine
end

