-- ==== Sys2Proof/Machine/FramePort.lean ====
section
/-! DEFINITION. The Frame Port (07, R188 to R196; 01, R22, R23; 14, R398): handles, their table, frame
templates, releases. -/

namespace Sys2Proof.Machine

-- ---------------------------------------------------------------- descriptors (R188, R189)

/-- A surface: what a descriptor says of a picture, at physical or virtual addresses. -/
structure Surf where
  p010 : Bool
  width : Nat
  height : Nat
  pitchY : Nat
  addrY : Nat
  addrC : Nat
  pitchC : Nat
  virt : Bool
deriving DecidableEq, Repr

def surfOf (d : BitVec 512) (virt : Bool) : Surf where
  p010 := d.getLsbD 48
  width := (bits d 64 16).toNat
  height := (bits d 80 16).toNat
  pitchY := (bits d 96 32).toNat
  addrY := (bits d 128 64).toNat
  addrC := (bits d 192 64).toNat
  pitchC := (bits d 256 32).toNat
  virt := virt

/-- Bytes of a sample. -/
def Surf.size (f : Surf) : Nat := if f.p010 then 2 else 1

/-- No reserved value stands in the fields that describe a picture. -/
def surfFieldsOk (d : BitVec 512) : Bool :=
  let f := surfOf d false
  decide (bits d 48 8 ≤ 1 ∧ 16 ≤ f.width ∧ f.width ≤ 4096 ∧ f.width % 2 = 0 ∧ 16 ≤ f.height ∧
    f.height ≤ 4096 ∧ f.height % 2 = 0 ∧ f.pitchY % 64 = 0 ∧ f.pitchC % 64 = 0 ∧ f.addrY % 64 = 0 ∧
    f.addrC % 64 = 0 ∧ bits d 289 15 = 0 ∧ bits d 304 16 = 0)

/-- Each pitch holds a line: a chroma pair counts as two samples. -/
def surfPitchOk (f : Surf) : Bool :=
  decide (f.width * f.size ≤ f.pitchY ∧ f.width * f.size ≤ f.pitchC)

def surfOk (d : BitVec 512) : Bool := surfFieldsOk d && surfPitchOk (surfOf d false)

def descFence (d : BitVec 512) : Bool := d.getLsbD 288
def descStream (d : BitVec 512) : Nat := (bits d 32 16).toNat
def descOwner (d : BitVec 512) : Byte := bits d 56 8

/-- The done fence of a descriptor: its address and value. -/
def doneFence (d : BitVec 512) : Option (DWord × DWord) :=
  if descFence d then some (bits d 384 64, bits d 448 64) else none

/-- Reserved values of the fence fields and the stream. -/
def descTailOk (d : BitVec 512) : Bool :=
  decide (descStream d < 512) && match doneFence d with
    | some (a, v) => decide (a.toNat % 64 = 0) && !v.getLsbD 63
    | none => true

/-- Both planes lie within the pool. -/
def inPool (fp : Fp) (f : Surf) : Bool :=
  let lo := fp.poolBase.toNat
  let hi := fp.poolLimit.toNat
  decide (lo ≤ f.addrY ∧ f.addrY + f.pitchY * f.height ≤ hi ∧ lo ≤ f.addrC ∧
    f.addrC + f.pitchC * (f.height / 2) ≤ hi)

/-- Where the descriptor of a handle lies. -/
def frameDescAddr (fp : Fp) (h : Word) : Nat := fp.descBase.toNat + (bits h 0 20).toNat * 64

def frameDesc (s : State) (h : Word) : BitVec 512 := ofBytes 512 (rdBytes s.mem (frameDescAddr s.fp h) 64)

/-- The checks of R189 but for the route. -/
def descOk (s : State) (h : Word) (d : BitVec 512) : Bool :=
  decide (bits d 0 32 = h) && surfOk d && descTailOk d && inPool s.fp (surfOf d false)

def routeOf (s : State) (stream : Nat) : BitVec 23 := mget 0 s.fp.routes stream

-- ---------------------------------------------------------------- releases (R193)

def ownedByUs (s : State) (d : BitVec 512) : Bool := decide (descOwner d = s.fp.owner)

/-- The handle goes back to the pool. -/
def releaseWrite (s : State) (h : Word) : State :=
  { s with mem := wr32 s.mem s.fp.releaseAddr.toNat h }

def frameSignal (s : State) (f : Option (DWord × DWord)) : State :=
  match f with
  | some (a, v) => { s with fu := { s.fu with signals := s.fu.signals ++ [{
      src := .frame, addr := a, word := v, intr := none }] } }
  | none => s

def fpPost (s : State) (code : Nat) (h : Word) : State := post s code srcFp none (h.setWidth 64) 0

/-- A handle that R189 refuses: its entry, and a release when the engine is last owner. -/
def frameReject (s : State) (code : Nat) (h : Word) (d : BitVec 512) : State :=
  let s := fpPost s code h
  if ownedByUs s d then releaseWrite s h else s

/-- FRAME_DROPPED (R192, R398). -/
def frameDrop (s : State) (h : Word) (d : BitVec 512) : State :=
  let s := fpPost { s with fp := { s.fp with dropCnt := satAdd s.fp.dropCnt 1 } } 0x133 h
  if ownedByUs s d then releaseWrite (frameSignal s (doneFence d)) h else s

-- ---------------------------------------------------------------- templates (R22, R398)

/-- Every ring has room for the template's commands. -/
def templateFits (s : State) (t : List TemplateCmd) : Bool :=
  t.all (fun e =>
    let k := ctxOf s e.ctx
    decide ((k.wr - k.rd).toNat + (t.filter (fun x => decide (x.ctx = e.ctx))).length ≤
      2 ^ k.ringLog2.toNat))

/-- A template's command with the frame's handle and descriptor filled in. -/
def templateBytes (e : TemplateCmd) (h : Word) (desc : Nat) : List Byte :=
  let b := e.bytes
  let b := match e.handleAt with | some i => putBits b (8 * i) h | none => b
  let b := match e.descAt with | some i => putBits b (8 * i) (BitVec.ofNat 64 desc) | none => b
  bytesOf b 64

/-- One command enters its ring, and the write index moves. -/
def templatePut (h : Word) (desc : Nat) (s : State) (e : TemplateCmd) : State :=
  let k := ctxOf s e.ctx
  ringTo { s with mem := wrBytes s.mem (ringAddr k k.wr) (templateBytes e h desc) } e.ctx (k.wr + 1)

/-- FRAME_HANDLE. A handle that the table holds makes FRAME_DUPLICATE and nothing else: its entry alone
releases it (R192, R193). -/
def frameHandle (h : Word) (outside : List Host.Cell) (s : State) : State :=
  let s := { s with mem := wrCells s.mem outside }
  let d := frameDesc s h
  let r := routeOf s (descStream d)
  let t := mget [] s.fp.templates (bits r 5 6).toNat
  if (frameOf s h).isSome then fpPost s 0x132 h
  else if !s.fp.enable then frameDrop s h d
  else if !descOk s h d then frameReject s 0x130 h d
  else if !r.getLsbD 0 then frameReject s 0x131 h d
  else if s.fp.table.length ≥ 4096 || !templateFits s t then frameDrop s h d
  else
    let s := count { s with fp := { s.fp with table := s.fp.table ++ [{
      handle := h, stream := bits d 32 16
      st := if ownedByUs s d then .owned else .borrowed
      basket := bits r 1 4, relCtx := bits r 11 12, refs := 0, armed := false, tick := now s
      fence := doneFence d }] } } 264 1
    let s := trace s 9 srcFp none 0 (BitVec.ofNat 128 (h.toNat + descStream d * 2 ^ 32))
    t.foldl (templatePut h (frameDescAddr s.fp h)) s

-- ---------------------------------------------------------------- the end of an entry (R193, R194, R196)

/-- The engine is last owner of an entry. -/
def entryOwned (e : FrameEntry) : Bool := e.st == .owned || e.st == .staleOwned

/-- The entry of a handle is FREE again. -/
def frameFree (s : State) (h : Word) : State :=
  { s with fp := { s.fp with table := s.fp.table.filter (fun x => decide (x.handle ≠ h)) } }

/-- FRAME_RELEASE: the entry is armed and no accepted command names it. A handle that the table does not
hold makes FRAME_NOT_OWNER and never reaches the pool (R193). With an uncorrectable error in the entry's
word (R488) the entry is freed with no release and no fence (log 63). -/
def frameRelease (h : Word) (ecc : Ecc) (s : State) : State :=
  match frameOf s h with
  | none => fpPost s 0x134 h
  | some e =>
    let s := tableEcc s srcFp none ecc
    if ecc == .double then frameFree s h
    else if e.armed && decide (e.refs = 0) then
      let s := frameSignal s e.fence
      let s := if entryOwned e then releaseWrite s h
        else if e.fence.isNone then fpPost s 0x134 h else s
      frameFree s h
    else s

/-- RELEASE_FAILED: the entry is free already, and nothing is tried again. -/
def releaseFailed (h : Word) (s : State) : State := fpPost s 0x136 h

/-- FRAME_STALE. -/
def frameStale (h : Word) (s : State) : State :=
  match frameOf s h with
  | none => s
  | some e =>
    if decide (s.fp.holdLimit ≠ 0) && decide ((now s - e.tick).toNat > s.fp.holdLimit.toNat) &&
        (e.st == .owned || e.st == .borrowed) then
      let st : FrameSt := if e.st == .owned then .staleOwned else .staleBorrowed
      fpPost (updFrames s (fun x => if x.handle = h then { x with st := st, armed := true } else x))
        0x135 h
    else s

-- ---------------------------------------------------------------- the commands

def execFrameHandle (h : Word) (outside : List Host.Cell) (s : State) : Out :=
  .next (frameHandle h outside s)
def execFrameRelease (h : Word) (ecc : Ecc) (s : State) : Out := .next (frameRelease h ecc s)
def execReleaseFailed (h : Word) (s : State) : Out := .next (releaseFailed h s)
def execFrameStale (h : Word) (s : State) : Out := .next (frameStale h s)

end Sys2Proof.Machine
end

