-- ==== Sys2Proof/Machine/Plait.lean ====
section
/-! DEFINITION. Transactions of the Plait links (15): aperture lines and runs, completions and their
loss, inbound windows and the requests they take. -/

namespace Sys2Proof.Machine

def linkBase (l : Nat) : Nat := 0x1500000 + 0x80000 * l

-- ---------------------------------------------------------------- failures at the sender (R432)

/-- Payload bytes 16 to 23 of an entry about a transaction (R432). -/
def txnObj (l window offset : Nat) : DWord :=
  BitVec.ofNat 64 (offset % 2 ^ 30 + window % 64 * 2 ^ 30 + l * 2 ^ 36)

/-- Payload bytes 24 to 31 (R432): status, tag and session, in the places of log 21. -/
def txnDetail (k : Link) (status : Byte) (tag : Nat) : DWord :=
  BitVec.ofNat 64 (status.toNat + tag * 2 ^ 16 + k.session.toNat * 2 ^ 32)

/-- Physical address of a line of an aperture (R425). -/
def apAddr (s : State) (l window offset : Nat) : Nat :=
  (linkOf s l).outBase.toNat * 2 ^ 24 + window * 2 ^ 30 + offset

/-- The core that a fault entry names; the command processor's own lines name none. -/
def lineCore (core : Nat) : Option Nat := if core < 16 then some core else none

/-- Lines that end with LINK_LOST: the context is torn down and the entry made (R432). -/
def linesLost (s : State) (l : Nat) (ctx core window offset tag : Nat) : State :=
  let k := linkOf s l
  let d := txnDetail k (Config.lostStatus s.freeCount) tag
  let s := post { s with freeCount := s.freeCount + 1 } 0x172 (srcLink l) (some ctx)
    (txnObj l window offset) d
  addrFault s ctx tfMemError 7 (lineCore core) (apAddr s l window offset)

/-- Lines that the peer refuses (R432). -/
def linesRefused (s : State) (l : Nat) (t : Txn) (tag : Nat) (status : Byte) : State :=
  let s := post s (if status = 1 then 0x170 else 0x174) (srcLink l) (some t.ctx)
    (txnObj l t.window t.offset) (txnDetail (linkOf s l) status tag)
  addrFault s t.ctx tfMemError 6 (lineCore t.core) (apAddr s l t.window t.offset)

/-- The lines of a transaction whose streams are gone are no longer out (R317). -/
def freeDead (s : State) (t : Txn) : State :=
  if t.core < 16 then updMem s t.core (fun m => t.refs.foldl (fun m r => dropDead m r.tag r.line) m) else s

/-- A transaction ends. -/
def dropTxn (s : State) (l tag : Nat) : State :=
  let s := match mget none (linkOf s l).txns tag with
    | some t => freeDead s t
    | none => s
  updLink s l (fun k => { k with txns := mset none k.txns tag none })

/-- A MSG has its status (R429, R443). -/
def msgEnds (s : State) (l : Nat) (status : Byte) : State :=
  updLink s l (fun k => { k with msgBusy := false, msgStatus := status })

/-- A transaction ends with LINK_LOST (R430, R440). -/
def txnLost (s : State) (l tag : Nat) : State :=
  match mget none (linkOf s l).txns tag with
  | none => s
  | some t =>
    let s := dropTxn s l tag
    if t.type.toNat = txFenceSig then
      match t.sig with
      | some g => sigOver (sigFails s g 4) g
      | none => s
    else if t.type.toNat = txMsg then
      msgEnds { s with freeCount := s.freeCount + 1 } l (Config.lostStatus s.freeCount)
    else linesLost s l t.ctx t.core t.window t.offset (tag + t.gen * 1024)

def apLineLost (l : Nat) (s : State) (a : ApLine) : State :=
  let s := if a.core < 16 then updMem s a.core (fun m => dropDead m a.ref.tag a.ref.line) else s
  linesLost s l a.ctx a.core a.window a.offset 0

-- ---------------------------------------------------------------- the link goes down (R440)

/-- The stream of words starts afresh, at lane 0 (R415). -/
def laneClear (k : Link) : Link :=
  { k with laneWords := [], rxWords := [], rxLane := 0, txLane := 0, out := [], retryDue := false }

/-- A state in which nothing of a session is left. -/
def linkClear (k : Link) : Link :=
  { laneClear k with
    retryBuf := [], retryOut := false, sameAck := 0, txQueue := [], rxBuf := [], inb := none
    runs := [], txns := [], credits := [], credSeen := [], freed := []
    nextSeq := 0, expect := 0, got := [], echoed := 0, doneIn := false, doneOut := false
    aligned := false }

/-- The link enters DOWN for the reason that LAST_DOWN shows (R440). -/
def linkDown (s : State) (l reason : Nat) : State :=
  let k := linkOf s l
  if k.st == .down then s
  else
    let down (k : Link) : Link :=
      { linkClear k with st := .down, since := now s, lastDown := BitVec.ofNat 3 reason }
    if linkHolds k then
      let s := (k.txns.map (·.1)).foldl (fun s tag => txnLost s l tag) s
      let s := (k.runs.flatMap (·.lines) ++ k.apLines).foldl (apLineLost l) s
      let s := updLink s l (fun k => { down k with event := scEvent k.event 4, apLines := [] })
      post s 0x172 (srcLink l) none (BitVec.ofNat 64 (l * 2 ^ 36)) (BitVec.ofNat 64 reason)
    else updLink s l down

/-- A protocol error or a credit overrun (R440). -/
def linkProtocol (s : State) (l : Nat) : State :=
  post (linkDown s l 4) 0x175 (srcLink l) none (BitVec.ofNat 64 (l * 2 ^ 36)) 0

-- ---------------------------------------------------------------- runs (R426)

def runNext (r : Run) : Nat :=
  match r.lines.getLast? with
  | some a => a.window * 2 ^ 30 + a.offset + 128
  | none => 0

def atBoundary (r : Run) : Bool := decide (runNext r % 512 = 0)

/-- The run that a line continues. -/
def runTakes (a : ApLine) (r : Run) : Bool :=
  match r.lines.getLast? with
  | some x => decide (x.core = a.core ∧ x.ctx = a.ctx ∧
      x.store = a.store ∧ x.window = a.window ∧ x.offset + 128 = a.offset)
  | none => false

def runFull (r : Run) : Bool := atBoundary r && decide (r.lines.length + 4 > 64)

/-- A run leaves as one transaction, when a tag is free. -/
def sendRun (s : State) (l : Nat) (r : Run) : State :=
  match r.lines with
  | [] => s
  | a :: _ =>
    if (freeTag (linkOf s l)).isNone then s
    else
      let s := updLink s l (fun k => { k with runs := k.runs.erase r })
      let type := if a.store then txWinWrite else txWinRead
      startTxn s l vcRequest
        { txnOf type a.window a.offset r.lines.length with
          ctx := a.ctx, core := a.core
          refs := r.lines.map (·.ref) }
        0 (if a.store then r.lines.map (·.data) else [])

/-- A line joins its run, or ends those of its core and kind that stand at a boundary and begins one. -/
def gatherLine (s : State) (l : Nat) (a : ApLine) : State :=
  let k := linkOf s l
  match k.runs.find? (runTakes a) with
  | some r =>
    let r' : Run := { r with lines := r.lines ++ [a], last := s.clk.fabCyc }
    let s := setLink s l { k with runs := r' :: k.runs.erase r }
    if runFull r' then sendRun s l r' else s
  | none =>
    let done := k.runs.filter (fun r => decide (r.core = a.core) && atBoundary r &&
      r.lines.any (fun x => x.store == a.store))
    let s := done.foldl (fun s r => sendRun s l r) s
    updLink s l (fun k => { k with
      runs := k.runs ++ [{ core := a.core, lines := [a], last := s.clk.fabCyc }] })

/-- APERTURE_LINE: the link takes the oldest line handed to it (R426, R427, R439, R440). -/
def apertureLine (l : LinkId) (s : State) : State :=
  let l := l.toNat
  let k := linkOf s l
  match k.apLines with
  | [] => s
  | a :: rest =>
    if k.st == .retrain then s
    else
      let s := setLink s l { k with apLines := rest }
      if k.st == .active then
        let s := gatherLine s l a
        if a.store && decide (a.core < 16) then sentCheck s a.core a.ref.tag.toNat else s
      else apLineLost l s a

/-- RUN_TIMEOUT: the runs of a core that no line has continued for 4,096 fabric cycles. -/
def runTimeout (l : LinkId) (core : CoreId) (s : State) : State :=
  let k := linkOf s l.toNat
  if k.st == .active then
    (k.runs.filter (fun r => decide (r.core = core.toNat ∧ s.clk.fabCyc ≥ r.last + 4096))).foldl
      (fun s r => sendRun s l.toNat r) s
  else s

-- ---------------------------------------------------------------- the receive buffer

/-- `n` flits of a VC are consumed, and their credits freed (R424). -/
def takeFlits : Nat → Nat → Link → Link
  | 0, _, k => k
  | n + 1, vc, k =>
    match vcHead k.rxBuf (BitVec.ofNat 2 vc) with
    | none => k
    | some f => takeFlits n vc { k with
        rxBuf := k.rxBuf.erase f, freed := mset 0 k.freed vc (mget 0 k.freed vc + 1) }

def vcFlits (k : Link) (vc : Nat) : List Flit := k.rxBuf.filter (fun f => decide (f.vc = BitVec.ofNat 2 vc))

/-- Data flits at the head of a VC that no transaction waits for are discarded. -/
def dropStray (k : Link) (vc : Nat) : Link :=
  takeFlits ((vcFlits k vc).takeWhile (fun f => decide (f.kind = 2))).length vc k

-- fields of a command body (R430)
def bType (b : BitVec 1024) : Nat := (bits b 0 8).toNat
def bLines (b : BitVec 1024) : Nat := (bits b 8 6).toNat + 1
def bTag (b : BitVec 1024) : Nat := (bits b 16 16).toNat
def bWindow (b : BitVec 1024) : Nat := (bits b 32 6).toNat
def bForge (b : BitVec 1024) : Bool := b.getLsbD 40
def bOffset (b : BitVec 1024) : Nat := (bits b 64 30).toNat
def bValue (b : BitVec 1024) : DWord := bits b 128 64

/-- Whether the bits that R430 reserves in a command of its type are 0, with the alignment of the offset
that it states. -/
def bodyOk (b : BitVec 1024) : Bool :=
  let t := bType b
  let common := decide (bits b 14 2 = 0 ∧ bits b 38 2 = 0 ∧ bits b 41 23 = 0 ∧ bits b 94 34 = 0)
  let noNl := decide (bits b 8 6 = 0)
  if t = txWinWrite ∨ t = txWinRead then
    common && !bForge b && decide (bits b 128 896 = 0) && decide (bOffset b % 128 = 0)
  else if t = txFenceSig then
    common && !bForge b && noNl && decide (bits b 192 832 = 0) && decide (bOffset b % 64 = 0)
  else if t = txMsg then
    common && noNl && decide (bits b 32 6 = 0 ∧ bits b 64 30 = 0 ∧ bits b 256 768 = 0)
  else false

/-- A COMPLETION is owed to the peer (R430). -/
def sendCompletion (s : State) (l tag : Nat) (status : Byte) (old : DWord) (written : Nat)
    (data : List (BitVec 1024)) : State :=
  let body := BitVec.ofNat 1024 (txCompletion + tag * 2 ^ 16 + status.toNat * 2 ^ 32 +
    old.toNat * 2 ^ 64 + written * 2 ^ 128)
  queueFlits s l (cmdFlit vcResponse body :: data.map (dataFlit vcResponse))

-- ---------------------------------------------------------------- windows (R433 to R436)

def winOf (s : State) (l w : Nat) : PltWin := mget {} (linkOf s l).wins w
def setWin (s : State) (l w : Nat) (x : PltWin) : State :=
  updLink s l (fun k => { k with wins := mset {} k.wins w x })

/-- The table entry that offset `o` of a window uses, with the offset inside its granule. -/
def winEntry (s : State) (l : Nat) (x : PltWin) (o : Nat) : Option (DWord × Nat) :=
  let g := x.g.toNat
  if o / 2 ^ g < x.count.toNat then
    some (mget 0 (linkOf s l).table (x.first.toNat + o / 2 ^ g), o % 2 ^ g)
  else none

/-- An entry counts as valid for a window of its kind (R433). -/
def entryOk (x : PltWin) (e : DWord) : Bool :=
  e.getLsbD 0 && (e.getLsbD 1 == x.kind) &&
    (if x.kind then
      decide (bits e 2 10 = 0 ∧ bits e 52 12 = 0 ∧
        (bits e 12 40).toNat * 4096 % 2 ^ x.g.toNat = 0)
    else decide (bits e 21 43 = 0))

/-- Every line of a request lies in a valid entry. -/
def winCovers (s : State) (l : Nat) (x : PltWin) (o n : Nat) : Bool :=
  (List.range n).all (fun i =>
    match winEntry s l x (o + 128 * i) with
    | some (e, _) => entryOk x e
    | none => false)

/-- Task core and relative row that an offset of a Pannier window reaches. -/
def winRow (s : State) (l : Nat) (x : PltWin) (o : Nat) : Nat × Nat :=
  match winEntry s l x o with
  | some (e, r) => ((bits e 2 4).toNat, (bits e 6 15).toNat + r / 512)
  | none => (0, 0)

/-- Physical address that an offset of a memory window reaches. -/
def winPa (s : State) (l : Nat) (x : PltWin) (o : Nat) : Nat :=
  match winEntry s l x o with
  | some (e, r) => (bits e 12 40).toNat * 4096 + r
  | none => 0

/-- The core and address row that relative row `r` of task core `t` reaches, while the owner's task is
running or saved and occupies its region there (R436). -/
def residentRow (s : State) (owner t r : Nat) : Option (Nat × Nat) :=
  let k := ctxOf s owner
  match k.task with
  | some x =>
    match x.cores[t]? with
    | some c =>
      if !(x.phase == .waiting) && decide (r < x.bound) &&
          decide (occOf s c k.region.toNat = some owner) then some (c, x.base + r)
      else none
    | none => none
  | none => none

/-- The status of the first test that a request fails (R431), residency and memory apart. -/
def winTest (s : State) (l : Nat) (b : BitVec 1024) (need : Nat) : Byte :=
  let x := winOf s l (bWindow b)
  let n := if bType b = txFenceSig then 1 else bLines b
  if !bodyOk b then 7
  else if !x.opened then 1
  else if !winCovers s l x (bOffset b / 128 * 128) n then 2
  else if !x.perm.getLsbD need || (bType b == txFenceSig && !x.kind) then 3
  else if bType b ≠ txFenceSig ∧ x.kind = false ∧ (bOffset b % 512 ≠ 0 ∨ n % 4 ≠ 0) then 4
  else 0

/-- The receiver's entries about a request that it refuses (R432), and the LATE count (R443). -/
def winRefused (s : State) (l : Nat) (b : BitVec 1024) (status : Byte) : State :=
  let obj := txnObj l (bWindow b) (bOffset b)
  let det := txnDetail (linkOf s l) status (bTag b)
  if status = 1 then
    let x := winOf s l (bWindow b)
    let s := setWin s l (bWindow b) { x with late := if x.late = 0xFFFF then x.late else x.late + 1 }
    if bType b = txWinRead then s else post s 0x171 (srcLink l) none obj det
  else if status = 6 then s
  else post s 0x174 (srcLink l) none obj det

-- ---------------------------------------------------------------- WIN_WRITE

def setInb (s : State) (l : Nat) (i : Option Inbound) : State :=
  updLink s l (fun k => { k with inb := i })

/-- The four lines of a row. -/
def rowOfLines (l : List Flit) : Row :=
  (List.range 4).foldl (fun r i => match l[i]? with
    | some f => putBits r (1024 * i) f.body
    | none => r) 0

/-- A request in application fails from here on: the lines left are discarded. -/
def inbFails (s : State) (l : Nat) (i : Inbound) (status : Byte) : State :=
  setInb (winRefused s l i.body status) l (some { i with status := status })

/-- Lines of a refused request, or of one that failed, are consumed and discarded; with the last of them
the completion is owed (R430, R431). -/
def inbDiscard (s : State) (l : Nat) (i : Inbound) : State :=
  let k := linkOf s l
  let n := min ((vcFlits k vcRequest).takeWhile (fun f => decide (f.kind = 2))).length i.total
  let s := setLink s l { takeFlits n vcRequest k with inb := some { i with total := i.total - n } }
  if i.total - n = 0 then
    sendCompletion (setInb s l none) l (bTag i.body) i.status 0 i.applied []
  else s

/-- The rows of a Pannier window that have arrived whole are written, up to the first that is refused or
held (R435, R436, R437). -/
def applyRows : Nat → Nat → State → State
  | 0, _, s => s
  | n + 1, l, s =>
    match (linkOf s l).inb with
    | none => s
    | some i =>
      let fs := ((vcFlits (linkOf s l) vcRequest).takeWhile (fun f => decide (f.kind = 2))).take 4
      if i.status ≠ 0 ∨ i.total = 0 ∨ fs.length < 4 then s
      else
        let x := winOf s l (bWindow i.body)
        let p := winRow s l x (bOffset i.body + 128 * i.applied)
        match residentRow s x.owner.toNat p.1 p.2 with
        | none => inbFails s l i 5
        | some (c, a) =>
          if heldAddr s c a then s
          else
            let s := writeRow s c a (rowOfLines fs)
            let s := if x.acen then acIncCtx s x.owner.toNat p.1 x.ac.toNat 1 true else s
            let s := updLink s l (fun k => { takeFlits 4 vcRequest k with
              inb := some { i with total := i.total - 4, applied := i.applied + 4 } })
            applyRows n l s

/-- The lines of a memory window that have arrived are written and read back (R427, R435); `resp` is the
answer to the first of them. -/
def applyLines : Nat → Nat → Resp → State → State
  | 0, _, _, s => s
  | n + 1, l, resp, s =>
    match (linkOf s l).inb, vcHead (linkOf s l).rxBuf (BitVec.ofNat 2 vcRequest) with
    | some i, some f =>
      if i.status ≠ 0 ∨ i.total = 0 ∨ f.kind ≠ 2 then s
      else
        let x := winOf s l (bWindow i.body)
        let pa := winPa s l x (bOffset i.body + 128 * i.applied)
        if !physOk s x.engine pa (pa + 127) then inbFails s l i 6
        else if resp ≠ .ok then inbFails (scramble s pa 128) l i 6
        else
          let s := { s with mem := wrLine s.mem pa f.body }
          let s := if x.acen && x.owned then
              acIncCtx s x.owner.toNat x.acCore.toNat x.ac.toNat 1 true else s
          let s := updLink s l (fun k => { takeFlits 1 vcRequest k with
            inb := some { i with total := i.total - 1, applied := i.applied + 1 } })
          applyLines n l .ok s
    | _, _ => s

/-- The request in application goes on with what has arrived. -/
def inbGo (s : State) (l : Nat) (resp : Resp) : State :=
  match (linkOf s l).inb with
  | none => s
  | some i =>
    let s :=
      if (winOf s l (bWindow i.body)).kind then applyLines 64 l resp s else applyRows 16 l s
    match (linkOf s l).inb with
    | some j => if j.status ≠ 0 ∨ j.total = 0 then inbDiscard s l j else s
    | none => s

/-- The head of the request VC when it is a command; data that belongs to no request is dropped. -/
def headRequest (s : State) (l : Nat) : Option (BitVec 1024) × State :=
  let s := updLink s l (fun k => dropStray k vcRequest)
  match vcHead (linkOf s l).rxBuf (BitVec.ofNat 2 vcRequest) with
  | some f => (some f.body, s)
  | none => (none, s)

/-- A table entry that cannot be read counts as not valid (R488): status 2 in the order of R431. -/
def tableStatus (st : Byte) (ecc : Ecc) : Byte :=
  if ecc = .double ∧ st ≠ 7 ∧ st ≠ 1 then 2 else st

/-- WIN_WRITE: a request under way goes on; otherwise the one at the head of the request VC is tested
and begins. A request of a TYPE that is none of the request VC's is refused here. -/
def winWrite (l : LinkId) (resp : Resp) (ecc : Ecc) (s : State) : State :=
  let l := l.toNat
  if (linkOf s l).inb.isSome then inbGo s l resp
  else
    let h := headRequest s l
    match h.1 with
    | none => h.2
    | some b =>
      if bType b = txWinRead ∨ bType b = txFenceSig then h.2
      else
        let s := updLink h.2 l (takeFlits 1 vcRequest)
        let s := tableEcc s (srcLink l) none ecc
        let st := if bType b = txWinWrite then tableStatus (winTest s l b 0) ecc else 7
        let total := if bType b = txWinWrite then bLines b else 0
        let s := if st = 0 then s else winRefused s l b st
        inbGo (setInb s l (some { body := b, total := total, applied := 0, status := st })) l resp

-- ---------------------------------------------------------------- WIN_READ, FENCE_SIG

/-- The lines that a WIN_READ returns, or the status that a row or a line gives it. -/
def readLines (s : State) (l : Nat) (b : BitVec 1024) (resp : Resp) :
    Except Byte (List (BitVec 1024)) × State :=
  let x := winOf s l (bWindow b)
  if x.kind then
    let pas := (List.range (bLines b)).map (fun i => winPa s l x (bOffset b + 128 * i))
    if resp ≠ .ok ∨ pas.any (fun pa => !physOk s x.engine pa (pa + 127)) then (.error 6, s)
    else (.ok (pas.map (rdLine s.mem)), s)
  else
    let rows := (List.range (bLines b / 4)).map (fun i =>
      let p := winRow s l x (bOffset b + 512 * i)
      residentRow s x.owner.toNat p.1 p.2)
    if rows.any Option.isNone then (.error 5, s)
    else
      (rows.filterMap id).foldl (fun acc p =>
        let r := readRow acc.2 p.1 p.2 .clean
        match acc.1 with
        | .error e => (.error e, r.2.2)
        | .ok ls =>
          if r.2.1 = .double then (.error 6, r.2.2)
          else (.ok (ls ++ (List.range 4).map (fun i => bits r.1 (1024 * i) 1024)), r.2.2))
        ((.ok [] : Except Byte (List (BitVec 1024))), s)

/-- WIN_READ: tested and answered whole, once no earlier request is under way (R437). -/
def winRead (l : LinkId) (resp : Resp) (s : State) : State :=
  let l := l.toNat
  if (linkOf s l).inb.isSome then s
  else
    let h := headRequest s l
    match h.1 with
    | none => h.2
    | some b =>
      if bType b ≠ txWinRead then h.2
      else
        let s := updLink h.2 l (takeFlits 1 vcRequest)
        let st := winTest s l b 1
        if st ≠ 0 then sendCompletion (winRefused s l b st) l (bTag b) st 0 0 []
        else
          let r := readLines s l b resp
          match r.1 with
          | .ok d => sendCompletion r.2 l (bTag b) 0 0 0 d
          | .error e => sendCompletion (winRefused r.2 l b e) l (bTag b) e 0 0 []

/-- FENCE_SIG: the atomic maximum at the translated address (R347, R431, R437). -/
def fenceSig (l : LinkId) (resp : Resp) (s : State) : State :=
  let l := l.toNat
  if (linkOf s l).inb.isSome then s
  else
    let h := headRequest s l
    match h.1 with
    | none => h.2
    | some b =>
      if bType b ≠ txFenceSig then h.2
      else
        let s := updLink h.2 l (takeFlits 1 vcRequest)
        let st := winTest s l b 2
        let x := winOf s l (bWindow b)
        let pa := winPa s l x (bOffset b)
        if st ≠ 0 then sendCompletion (winRefused s l b st) l (bTag b) st 0 0 []
        else if !physOk s x.engine pa (pa + 7) then sendCompletion s l (bTag b) 6 0 0 []
        else if resp ≠ .ok then
          sendCompletion (fenceError (scramble s pa 8) none (BitVec.ofNat 64 pa)) l (bTag b) 6 0 0 []
        else
          let r := fenceRaise s none (BitVec.ofNat 64 pa) (bValue b)
          sendCompletion r.2 l (bTag b) 0 r.1 0 []

-- ---------------------------------------------------------------- MSG

/-- MSG: the payload becomes an entry PLAIT_MSG, for the GEQ or the Forge (R429, R431). -/
def msg (l : LinkId) (s : State) : State :=
  let l := l.toNat
  let s := updLink s l (fun k => dropStray k vcControl)
  match vcHead (linkOf s l).rxBuf (BitVec.ofNat 2 vcControl) with
  | none => s
  | some f =>
    let b := f.body
    let s := updLink s l (takeFlits 1 vcControl)
    if !(decide (bType b = txMsg) && bodyOk b) then
      sendCompletion (winRefused s l b 7) l (bTag b) 7 0 0 []
    else
      let e := geqEntry s 0x173 (srcLink l) none (bits b 128 64) (bits b 192 64) false false
      if bForge b then
        if inboxRoom s then sendCompletion (inboxPut s e) l (bTag b) 0 0 0 []
        else sendCompletion s l (bTag b) 8 0 0 []
      else sendCompletion (geqPut s e) l (bTag b) (if geqFull s then 8 else 0) 0 0 []

-- ---------------------------------------------------------------- COMPLETION

/-- The task whose core sent a transaction still stands there. -/
def txnLive (s : State) (t : Txn) : Bool :=
  decide (t.core < 16 ∧ (coreOf s t.core).task.map (·.1) = some t.ctx)

/-- The task core whose streams a transaction carries, while its task lies in a save with FULL. -/
def savedAt (s : State) (t : Txn) : Option Nat :=
  match (ctxOf s t.ctx).task with
  | some k => if k.phase == .saved && k.full then k.cores.findIdx? (fun c => decide (c = t.core)) else none
  | none => none

/-- The unfinished work of task core `i` in such a save. -/
def updWork (s : State) (x i : Nat) (f : Unfinished → Unfinished) : State :=
  updCtx s x (fun k => { k with task := k.task.map (fun t =>
    { t with kept := mset {} t.kept i { mget {} t.kept i with work := f (mget {} t.kept i).work } }) })

/-- Store lines of a tag, or of a store that has left it, without line `r` (R427). -/
def tagWritten (r : LineRef) (t : Tag) : Tag :=
  if t.order = r.order ∧ isStore t then
    { t with aperture := t.aperture.filter (fun n => decide (n.line ≠ r.line)) } else t

def orphanWritten (r : LineRef) (o : Orphan) : Orphan :=
  if o.tag = r.tag.toNat ∧ o.order = r.order then
    { o with aperture := o.aperture.filter (fun n => decide (n.line ≠ r.line)) } else o

/-- A store line that the peer has written counts for a flush (R427). -/
def lineWritten (c : Nat) (s : State) (r : LineRef) : State :=
  updMem s c (fun m => { m with
    tags := mset {} m.tags r.tag.toNat (tagWritten r (mget {} m.tags r.tag.toNat))
    orphans := m.orphans.map (orphanWritten r) })

def linesWritten (s : State) (t : Txn) : State :=
  if txnLive s t then t.refs.foldl (lineWritten t.core) s
  else match savedAt s t with
    | some i => updWork s t.ctx i (fun w => t.refs.foldl (fun w r => { w with
        tags := mset {} w.tags r.tag.toNat (tagWritten r (mget {} w.tags r.tag.toNat))
        orphans := w.orphans.map (orphanWritten r) }) w)
    | none => s

/-- The load to which a line belongs still stands on its tag. -/
def refLive (s : State) (c : Nat) (r : LineRef) : Bool :=
  let x := tagOf s c r.tag.toNat
  isLoad x && decide (x.order = r.order)

/-- Rows of a load that a hold keeps from being written (R74). -/
def readWaits (s : State) (t : Txn) : Bool :=
  txnLive s t && t.refs.any (fun r => refLive s t.core r &&
    heldRow (coreOf s t.core) (tagRow (tagOf s t.core r.tag.toNat) (r.line / 4)))

/-- A line of a WIN_READ reaches its stream. -/
def lineRead (c : Nat) (s : State) (p : LineRef × BitVec 1024) : State :=
  if refLive s c p.1 then
    let s := updMem s c (fun m => { m with
      lines := m.lines.filter (fun x => x.dead || !decide (x.tag = p.1.tag ∧ x.line = p.1.line)) })
    lineBack s c p.1.tag.toNat p.1.line p.2 true
  else s

/-- The data of a line comes while its task lies in a save with FULL: it is there for the resume. -/
def lineKept (w : Unfinished) (p : LineRef × BitVec 1024) : Unfinished :=
  if (mget {} w.tags p.1.tag.toNat).order = p.1.order then
    { w with lines := w.lines.map (fun x =>
        if x.tag = p.1.tag ∧ x.line = p.1.line then { x with pa := 0, data := p.2 } else x) }
  else w

def linesRead (s : State) (t : Txn) (data : List (BitVec 1024)) : State :=
  if txnLive s t then (t.refs.zip data).foldl (lineRead t.core) s
  else match savedAt s t with
    | some i => updWork s t.ctx i (fun w => (t.refs.zip data).foldl lineKept w)
    | none => s

/-- The transaction that a COMPLETION ends: its tag and generation both match (R430). -/
def txnFor (k : Link) (b : BitVec 1024) : Option (Nat × Txn) :=
  match mget none k.txns (bTag b % 1024) with
  | some t => if t.gen = bTag b / 1024 then some (bTag b % 1024, t) else none
  | none => none

def bStatus (b : BitVec 1024) : Byte := bits b 32 8

/-- A COMPLETION with its data ends a transaction (R430, R432). -/
def txnEnds (s : State) (l tag : Nat) (t : Txn) (status : Byte) (data : List (BitVec 1024)) : State :=
  let s := dropTxn s l tag
  if t.type.toNat = txMsg then msgEnds s l status
  else if t.type.toNat = txFenceSig then
    match t.sig with
    | some g => sigOver (if status = 0 then sigDone s g else sigFails s g 4) g
    | none => s
  else if status ≠ 0 then linesRefused s l t (tag + t.gen * 1024) status
  else if t.type.toNat = txWinRead then linesRead s t data
  else linesWritten s t

/-- COMPLETION: the oldest one of the response VC. The data of a WIN_READ is awaited whole, and waits
behind holds; a completion that matches no transaction is discarded. -/
def completion (l : LinkId) (s : State) : State :=
  let l := l.toNat
  let s := updLink s l (fun k => dropStray k vcResponse)
  match vcFlits (linkOf s l) vcResponse with
  | [] => s
  | f :: rest =>
    match (if bType f.body = txCompletion then txnFor (linkOf s l) f.body else none) with
    | none => updLink s l (takeFlits 1 vcResponse)
    | some (tag, t) =>
      let n := if bStatus f.body = 0 ∧ t.type.toNat = txWinRead then t.lines else 0
      let data := (rest.takeWhile (fun x => decide (x.kind = 2))).take n
      if data.length < n ∨ (n ≠ 0 ∧ readWaits s t) then s
      else txnEnds (updLink s l (takeFlits (1 + n) vcResponse)) l tag t (bStatus f.body)
        (data.map (·.body))

/-- TRANSACTION_TIMEOUT (R430). -/
def transactionTimeout (l : LinkId) (tag : BitVec 10) (s : State) : State :=
  match mget none (linkOf s l.toNat).txns tag.toNat with
  | some t => if (now s - t.sent).toNat ≥ 1000000 then txnLost s l.toNat tag.toNat else s
  | none => s

/-- A tag is free for a MSG, or the link is lost to it. -/
def sendMsg (s : State) (l : Nat) (forge : Bool) : State :=
  let k := linkOf s l
  let value := (List.range 4).foldr (fun i v => (mget 0 k.msgData i).toNat + 2 ^ 32 * v) 0
  if !linkHolds k then
    msgEnds { s with freeCount := s.freeCount + 1 } l (Config.lostStatus s.freeCount)
  else if (freeTag k).isNone then s
  else
    startTxn (updLink s l (fun k => { k with msgBusy := true })) l vcControl
      (txnOf txMsg (if forge then 256 else 0) 0 0) value []

-- ---------------------------------------------------------------- the commands

def execApertureLine (l : LinkId) (s : State) : Out := .next (apertureLine l s)
def execRunTimeout (l : LinkId) (core : CoreId) (s : State) : Out := .next (runTimeout l core s)
def execWinWrite (l : LinkId) (resp : Resp) (ecc : Ecc) (s : State) : Out := .next (winWrite l resp ecc s)
def execWinRead (l : LinkId) (resp : Resp) (s : State) : Out := .next (winRead l resp s)
def execFenceSig (l : LinkId) (resp : Resp) (s : State) : Out := .next (fenceSig l resp s)
def execMsg (l : LinkId) (s : State) : Out := .next (msg l s)
def execCompletion (l : LinkId) (s : State) : Out := .next (completion l s)
def execTransactionTimeout (l : LinkId) (tag : BitVec 10) (s : State) : Out :=
  .next (transactionTimeout l tag s)

end Sys2Proof.Machine
end

