-- ==== Sys2Proof/Machine/Links.lean ====
section
/-! DEFINITION. The Plait links (15): states and training, the flits they receive, loss and retrain, and
the registers of the windows. -/

namespace Sys2Proof.Machine

def linkDom (l : Nat) : Nat := 213 + l
def linkSt (s : State) (l : Nat) : LinkSt := (linkOf s l).st

/-- The object of an entry about a link: its number where R432 puts it (log 21). -/
def linkObj (l : Nat) : DWord := BitVec.ofNat 64 (l * 2 ^ 36)

-- ---------------------------------------------------------------- states (R417 to R420)

/-- The link enters DETECT from DOWN when it may (R417). -/
def linkTry (s : State) (l : Nat) : State :=
  let k := linkOf s l
  if k.st == .down && k.enable && domOn s (linkDom l) && !k.spent then
    setLink s l { k with st := .detect, since := now s }
  else s

/-- A write of ENABLE = 1 (R417, R420). -/
def linkEnableTo (s : State) (l : Nat) : State :=
  linkTry (updLink s l (fun k => { k with enable := true, trainFails := 0, spent := false })) l

/-- A write of ENABLE = 0 (R440). -/
def linkDisableTo (s : State) (l : Nat) : State :=
  let s := linkDown s l 7
  updLink s l (fun k => { k with enable := false, trainFails := 0, spent := false })

/-- The link enters RETRAIN (R439). -/
def linkRetrain (s : State) (l : Nat) : State :=
  let k := linkOf s l
  if k.st == .active then
    setLink s l { laneClear k with
      st := .retrain, since := now s, got := [], echoed := 0, doneIn := false, doneOut := false
      aligned := false, retrainCnt := satAdd k.retrainCnt 1 }
  else s

def linkDetect (l : LinkId) (s : State) : State :=
  let k := linkOf s l.toNat
  if k.st == .detect then setLink s l.toNat { k with st := .align, since := now s } else s

def laneSkew (l : List (BitVec 6)) (j : Nat) : BitVec 6 := l.getD j 0

/-- The deskew words of a link (R543) and the value that the lanes' skews give them. -/
def deskewWord (l i : Nat) : Nat := 0x81 + 4 * l + i
def deskewNat (l : List (BitVec 6)) : Nat :=
  (List.range 8).foldr (fun j v => (laneSkew l j).toNat + 64 * v) 0

/-- The Forge writes a word of a link's training when it has changed, and at most once an hour (R419). -/
def forgeHourly (s : State) (w : Nat) (v : Word) : State :=
  if temperWord s w = v then s
  else match (tword s w).lastTick with
  | some t => if (now s - t).toNat < 360000000000 then s else forgeTemper s w v true
  | none => forgeTemper s w v true

def storeDeskew (s : State) (l : Nat) (skew : List (BitVec 6)) : State :=
  let v := deskewNat skew
  forgeHourly (forgeHourly s (deskewWord l 0) (BitVec.ofNat 32 v)) (deskewWord l 1)
    (BitVec.ofNat 32 (v / 2 ^ 32))

/-- The presets asked of the peer, as the link's preset word holds them (R418, R543). -/
def presetWord (l : Nat) : Nat := 0x80 + 4 * l
def presetNat (p : SMap (BitVec 4)) : Nat :=
  (List.range 8).foldr (fun j v => (mget 0 p j).toNat + 16 * v) 0
def presetsOf (w : Word) : SMap (BitVec 4) :=
  ((List.range 8).map (fun j => (j, (bits w (4 * j) 4 : BitVec 4)))).filter (fun e => !decide (e.2 = 0))

def storePresets (s : State) (l : Nat) : State :=
  forgeHourly s (presetWord l) (BitVec.ofNat 32 (presetNat (linkOf s l).preset))

/-- LINK_ALIGN: every lane is locked, with the skews measured (R416, R417). TRAIN begins with the presets that
Temper holds (R418). -/
def linkAlign (l : LinkId) (skew : List (BitVec 6)) (s : State) : State :=
  let l := l.toNat
  let k := linkOf s l
  if skew.length ≠ 8 ∨ skew.any (fun x => decide (x.toNat > 32)) then s
  else
    let lanes : SMap (BitVec 6) :=
      ((List.range 8).map (fun j => (j, laneSkew skew j))).filter (fun e => !decide (e.2 = 0))
    if k.st == .align then
      storeDeskew (setLink s l { k with
        st := .train, since := now s, skew := lanes, got := [], echoed := 0, doneIn := false
        doneOut := false, preset := presetsOf (temperWord s (presetWord l)) }) l skew
    else if k.st == .retrain then
      storeDeskew (setLink s l { k with skew := lanes, aligned := true }) l skew
    else s

def alignTimeout (l : LinkId) (s : State) : State :=
  let k := linkOf s l.toNat
  if k.st == .align && decide ((now s - k.since).toNat ≥ 200000) then
    setLink s l.toNat { k with st := .detect, since := now s }
  else s

/-- TRAIN_TIMEOUT (R417, R420): the third in a row spends the training budget. -/
def trainTimeout (l : LinkId) (s : State) : State :=
  let l := l.toNat
  let k := linkOf s l
  if k.st == .train && decide ((now s - k.since).toNat ≥ 40000000) then
    let n := k.trainFails + 1
    let s := updLink (linkDown s l 2) l (fun k => { k with
      trainFails := n, spent := k.spent || decide (n ≥ 3) })
    post s 0x176 (srcLink l) none (linkObj l) 0
  else s

def retrainTimeout (l : LinkId) (s : State) : State :=
  let k := linkOf s l.toNat
  if k.st == .retrain && decide ((now s - k.since).toNat ≥ 1000000) then linkDown s l.toNat 3 else s

/-- LINK_AUTO_RESTART (R420): 1 s after the link entered DOWN. -/
def linkAutoRestart (l : LinkId) (s : State) : State :=
  let k := linkOf s l.toNat
  if k.auto && decide ((now s - k.since).toNat ≥ 100000000) then linkTry s l.toNat else s

-- ---------------------------------------------------------------- TRAIN frames (R418)

/-- Initial credits from field 3. -/
def firstCredits (v : BitVec 48) : SMap Nat :=
  ((List.range 3).map (fun i => (i, (bits v (16 * i) 16).toNat))).filter (fun e => decide (e.2 ≠ 0))

/-- The retry buffer is sent again (R423): it counts as one replay, and its flits as sent. -/
def replayFlits (s : State) (l : Nat) : State :=
  let n := (linkOf s l).retryBuf.length
  let s := updLink s l (fun k => { k.retryBuf.foldl transmit { k with out := [] } with
    replayCnt := satAdd k.replayCnt 1, txCnt := satAdd k.txCnt n })
  count s (268 + l) n

/-- The link enters ACTIVE once DONE has gone both ways (R418, R419, R424, R439). -/
def linkActive (s : State) (l : Nat) : State :=
  let k := linkOf s l
  if !(k.doneIn && k.doneOut) then s
  else if k.st == .train then
    storePresets (setLink s l { linkClear k with
      st := .active, since := now s, session := k.session + 1, trainFails := 0
      credits := firstCredits (mget 0 k.got 3), ackAt := s.clk.fabCyc
      event := scEvent k.event 1 }) l
  else if k.st == .retrain then
    let s := setLink s l { laneClear k with
      st := .active, since := now s, sameAck := 0, ackAt := s.clk.fabCyc
      event := scEvent k.event 2 }
    let s := if k.retryBuf.isEmpty then s else replayFlits s l
    linkPump (post s 0x177 (srcLink l) none (linkObj l) 0) l
  else s

/-- Our DONE goes out: fields 1 to 4 have come and the round trip has been measured (R418). -/
def trainReady (k : Link) : Bool :=
  [1, 2, 3, 4].all (fun f => k.got.any (fun e => decide (e.1 = f))) && k.echoed.getLsbD 4

def doneCheck (s : State) (l : Nat) : State :=
  linkActive (updLink s l (fun k => { k with doneOut := k.doneOut || trainReady k })) l

/-- A field of the peer; field 0 is the preset that it asks of a lane of ours. -/
def trainField (s : State) (l f lane : Nat) (v : BitVec 48) : State :=
  updLink s l (fun k =>
    let k := { k with got := mins k.got f v }
    if f = 0 then { k with txPreset := mset 0 k.txPreset lane (bits v 0 4) }
    else if f = 1 then { k with peerId := bits v 0 32 }
    else if f = 2 then { k with peerLink := v.getLsbD 0 }
    else if f = 5 then { k with doneIn := true }
    else k)

/-- A field of ours, echoed; the delay probe gives the round trip, and an echoed field 0 the preset that this
receiver has settled on for a lane of the peer's. -/
def trainEcho (s : State) (l f lane : Nat) (v : BitVec 48) : State :=
  let rtt : BitVec 16 := BitVec.ofNat 16 s.clk.fabCyc - bits v 0 16
  let s := updLink s l (fun k => { k with
    echoed := k.echoed ||| (1#16 <<< f), rtt := if f = 4 then rtt else k.rtt
    preset := if f = 0 then mset 0 k.preset lane (bits v 0 4) else k.preset })
  if f = 4 ∧ rtt.toNat > 1466 then linkDown s l 6 else s

/-- TRAIN_FRAME: a frame with a reserved field is discarded (R418). -/
def trainFrame (l : LinkId) (f : TrainFrame) (s : State) : State :=
  let l := l.toNat
  let k := linkOf s l
  let on := k.st == .train || (k.st == .retrain && k.aligned)
  if on && decide (f.field.toNat < 6 ∧ f.lane.toNat < 8) then
    let s := if f.echo then trainEcho s l f.field.toNat f.lane.toNat f.value
      else trainField s l f.field.toNat f.lane.toNat f.value
    doneCheck s l
  else s

-- ---------------------------------------------------------------- flits (R421 to R424)

/-- Flits that each VC's buffer holds (R424). -/
def vcCapacity (vc : Nat) : Nat := if vc = 0 then 160 else if vc = 1 then 136 else 8

/-- A flit is missing: RETRY goes into the next header (R422). -/
def askRetry (k : Link) (cyc : Nat) : Link :=
  if k.retryOut then k else { k with retryOut := true, retryDue := true, retryAt := cyc }

/-- ACK passes flits of the retry buffer (R423). -/
def applyAck (k : Link) (ack : Byte) (cyc : Nat) : Link :=
  match k.retryBuf with
  | [] => { k with lastAck := ack, ackAt := cyc }
  | f :: _ =>
    let n := (ack - f.seq).toNat
    if n = 0 ∨ n > k.retryBuf.length then k
    else { k with retryBuf := k.retryBuf.drop n, lastAck := ack, ackAt := cyc, sameAck := 0 }

/-- CRED reports flits freed for CVC (R421, R424). -/
def applyCred (k : Link) (cvc : Nat) (cred : Byte) : Link :=
  if cvc ≥ 3 then k
  else
    let d := (cred - mget 0 k.credSeen cvc).toNat
    { k with credits := mset 0 k.credits cvc (mget 0 k.credits cvc + d)
             credSeen := mset 0 k.credSeen cvc cred }

/-- The header of a flit that was received whole is applied; the eighth RETRY that names one ACK puts the
link into RETRAIN (R423). -/
def applyHeader (s : State) (l : Nat) (h : Word) : State :=
  let k := linkOf s l
  let k := applyCred (applyAck k (bits h 8 8) s.clk.fabCyc) (bits h 20 2).toNat (bits h 22 8)
  let retry := h.getLsbD 30
  let k := if retry then { k with sameAck := k.sameAck + 1 } else k
  let s := setLink s l k
  if retry then
    if k.sameAck ≥ 8 then linkRetrain s l else linkPump (replayFlits s l) l
  else linkPump s l

/-- A sequenced flit: the one expected is accepted, any other discarded (R422). -/
def takeSequenced (s : State) (l : Nat) (h : Word) (body : BitVec 1024) : State :=
  let k := linkOf s l
  let vc := (bits h 16 2).toNat
  if bits h 0 8 = k.expect then
    if (vcFlits k vc).length ≥ vcCapacity vc then linkProtocol s l
    else
      applyHeader (setLink s l { k with
        expect := k.expect + 1, retryOut := false, rxCnt := satAdd k.rxCnt 1
        rxBuf := k.rxBuf ++ [{ seq := bits h 0 8, vc := bits h 16 2, kind := bits h 18 2
                               body := body }] }) l h
  else applyHeader (setLink s l (askRetry k s.clk.fabCyc)) l h

/-- A flit has come whole: 4 bytes of header, 128 of body, 4 of CRC (R421, R422). -/
def takeFlit (s : State) (l : Nat) (flit : BitVec 1088) : State :=
  let k := linkOf s l
  let h : Word := bits flit 0 32
  let kind := (bits h 18 2).toNat
  if !(k.st == .active) then s
  else if crc32c (bytesOf flit 132) ≠ bits flit 1056 32 then
    linkPump (setLink s l { askRetry k s.clk.fabCyc with crcCnt := satAdd k.crcCnt 1 }) l
  else if kind = 3 ∨ h.getLsbD 31 = true ∨ (kind ≠ 0 ∧ bits h 16 2 = 3) then linkProtocol s l
  else if kind = 0 then applyHeader s l h
  else takeSequenced s l h (bits flit 32 1024)

-- ---------------------------------------------------------------- lane blocks (R414, R415)

/-- The next word of the stream, from the lane whose turn it is. -/
def nextWord (k : Link) : Option (DWord × Link) :=
  match mget [] k.laneWords k.rxLane.toNat with
  | [] => none
  | w :: l => some (w, { k with laneWords := mset [] k.laneWords k.rxLane.toNat l, rxLane := k.rxLane + 1 })

/-- The words that stand in order are taken; with the seventeenth a flit has come. `n` is the most that there
can be. -/
def takeStream : Nat → Nat → State → State
  | 0, _, s => s
  | n + 1, l, s =>
    match nextWord (linkOf s l) with
    | none => s
    | some (w, k) =>
      let ws := k.rxWords ++ [w]
      if ws.length < 17 then takeStream n l (setLink s l { k with rxWords := ws })
      else
        takeStream n l (takeFlit (setLink s l { k with rxWords := [] }) l
          (BitVec.ofNat 1088 (ws.foldr (fun w v => w.toNat + 2 ^ 64 * v) 0)))

/-- A control block (R415): a marker of another lane is misplaced (R439); a CLOCK_COMP or an IDLE block has no
effect, and a TRAIN frame's is that of TRAIN_FRAME; any other type is discarded and counted on its lane. -/
def controlBlock (s : State) (l lane : Nat) (v : DWord) : State :=
  let type := (bits v 0 8).toNat
  if type = 0x4B then (if (bits v 8 8).toNat = lane then s else linkRetrain s l)
  else if type = 0x55 ∨ type = 0x78 ∨ type = 0x1E then s
  else updLink s l (fun k => { k with
    blockErrs := mset 0 k.blockErrs lane (satAdd (mget 0 k.blockErrs lane) 1) })

/-- A data block of an ACTIVE link carries a word of the stream. -/
def dataBlock (s : State) (l lane : Nat) (v : DWord) : State :=
  if (linkOf s l).st == .active then
    let s := updLink s l (fun k => { k with
      laneWords := mset [] k.laneWords lane (mget [] k.laneWords lane ++ [v]) })
    takeStream (((linkOf s l).laneWords.map (fun e => e.2.length)).foldl (· + ·) 0) l s
  else s

/-- A block is descrambled and taken; one whose sync header is neither is nothing (log 83). -/
def takeLaneBlock (l : Nat) (s : State) (b : LaneBlock) : State :=
  let lane := b.lane.toNat
  let r := descrambleWord b.payload (mget 0 (linkOf s l).descr lane)
  let s := updLink s l (fun k => { k with descr := mset 0 k.descr lane r.2 })
  if b.sync = 1 then dataBlock s l lane r.1
  else if b.sync = 2 then controlBlock s l lane r.1
  else s

/-- FLIT_RECEIVE: blocks arrive on the lanes, in this order; the flits that they complete are taken. -/
def flitReceive (l : LinkId) (blocks : List LaneBlock) (s : State) : State :=
  blocks.foldl (takeLaneBlock l.toNat) s

/-- RETRY_REQUEST_TIMEOUT (R422): the flit expected is still missing. -/
def retryRequestTimeout (l : LinkId) (s : State) : State :=
  let k := linkOf s l.toNat
  if k.st == .active && k.retryOut && decide (s.clk.fabCyc ≥ k.retryAt + 1024) then
    linkPump (setLink s l.toNat { k with retryAt := s.clk.fabCyc, retryDue := true }) l.toNat
  else s

/-- ACK_STALL_TIMEOUT (R423). -/
def ackStallTimeout (l : LinkId) (s : State) : State :=
  let k := linkOf s l.toNat
  if !k.retryBuf.isEmpty && decide (s.clk.fabCyc ≥ k.ackAt + 4096) then linkRetrain s l.toNat else s

-- ---------------------------------------------------------------- registers (R429, R434, R442)

/-- LNK_CTL as it reads (R443). -/
def lnkCtl (k : Link) : Word := bitAt k.enable 0 ||| bitAt k.auto 1

def pltMsgGo (s : State) (i : Initiator) (l : Nat) (forge : Bool) : State :=
  let v := 1 ||| bitAt forge 1
  gated s (linkBase l + 0x70) v i (byHostForge i) (linkDom l) (fun s =>
    let s' := updLink s l (fun k => { k with msgForge := forge })
    if (linkOf s l).msgBusy then regRefused s (linkBase l + 0x70) v i else sendMsg s' l forge)

/-- PLT_WIN_CTL as it reads. -/
def winCtl (x : PltWin) : Word :=
  bitAt x.opened 0 ||| bitAt x.kind 1 ||| natAt x.perm.toNat 2 ||| natAt x.g.toNat 5 |||
    bitAt x.engine 10

def winCtlOff (l w : Nat) : Nat := linkBase l + 0x1000 + 16 * w

/-- An open window takes no write but the one that closes it; only the Forge opens an ENGINE window. -/
def windowOpen (s : State) (i : Initiator) (l w : Nat) : State :=
  let x := winOf s l w
  let v := winCtl { x with opened := true }
  gated s (winCtlOff l w) v i (byHostForge i && (byForge i || !x.engine)) (linkDom l) (fun s =>
    if x.opened then regRefused s (winCtlOff l w) v i
    else setWin s l w { x with opened := true, late := 0 })

def windowClose (s : State) (i : Initiator) (l w : Nat) : State :=
  let x := winOf s l w
  gated s (winCtlOff l w) (winCtl { x with opened := false }) i (byHostForge i) (linkDom l)
    (fun s => setWin s l w { x with opened := false })

/-- An open window uses table entry `e`. -/
def entryInUse (k : Link) (e : Nat) : Bool :=
  k.wins.any (fun w => w.2.opened &&
    decide (w.2.first.toNat ≤ e ∧ e < w.2.first.toNat + w.2.count.toNat))

/-- A write of PLT_XT_HI commits the selected entry (R442). -/
def xtCommit (s : State) (i : Initiator) (l : Nat) (hi : Word) : State :=
  gated s (linkBase l + 0x2008) hi i (byHostForge i) (linkDom l) (fun s =>
    let k := linkOf s l
    if entryInUse k k.xtSel.toNat then regRefused s (linkBase l + 0x2008) hi i
    else setLink s l { k with table := mset 0 k.table k.xtSel.toNat (hi ++ k.xtLo) })

def linkEnableBy (s : State) (i : Initiator) (l : Nat) : State :=
  gated s (linkBase l) (lnkCtl { linkOf s l with enable := true }) i (byHostForge i) (linkDom l)
    (fun s => linkEnableTo s l)

def linkDisableBy (s : State) (i : Initiator) (l : Nat) : State :=
  gated s (linkBase l) (lnkCtl { linkOf s l with enable := false }) i (byHostForge i) (linkDom l)
    (fun s => linkDisableTo s l)

def linkRetrainBy (s : State) (i : Initiator) (l : Nat) : State :=
  gated s (linkBase l) (lnkCtl (linkOf s l) ||| 4) i (byHostForge i) (linkDom l)
    (fun s => linkRetrain s l)

/-- The completed twin write of LNK_RESET (R440). -/
def linkResetDone (s : State) (l : Nat) (v : Word) : State :=
  if v.getLsbD 0 then linkDown s l 5 else s

-- ---------------------------------------------------------------- the commands

def execLinkEnable (init : Initiator) (l : LinkId) (s : State) : Out :=
  .next (linkEnableBy s init l.toNat)
def execLinkDisable (init : Initiator) (l : LinkId) (s : State) : Out :=
  .next (linkDisableBy s init l.toNat)
def execLinkRetrainRequest (init : Initiator) (l : LinkId) (s : State) : Out :=
  .next (linkRetrainBy s init l.toNat)
def execLinkDetect (l : LinkId) (s : State) : Out := .next (linkDetect l s)
def execLinkAlign (l : LinkId) (skew : List (BitVec 6)) (s : State) : Out := .next (linkAlign l skew s)
def execAlignTimeout (l : LinkId) (s : State) : Out := .next (alignTimeout l s)
def execTrainFrame (l : LinkId) (f : TrainFrame) (s : State) : Out := .next (trainFrame l f s)
def execTrainTimeout (l : LinkId) (s : State) : Out := .next (trainTimeout l s)
def execRetrainTimeout (l : LinkId) (s : State) : Out := .next (retrainTimeout l s)
def execLinkAutoRestart (l : LinkId) (s : State) : Out := .next (linkAutoRestart l s)
def execLaneLockLoss (l : LinkId) (s : State) : Out := .next (linkRetrain s l.toNat)
def execFlitReceive (l : LinkId) (blocks : List LaneBlock) (s : State) : Out :=
  .next (flitReceive l blocks s)
def execRetryRequestTimeout (l : LinkId) (s : State) : Out := .next (retryRequestTimeout l s)
def execAckStallTimeout (l : LinkId) (s : State) : Out := .next (ackStallTimeout l s)
def execPltMsgGo (init : Initiator) (l : LinkId) (forge : Bool) (s : State) : Out :=
  .next (pltMsgGo s init l.toNat forge)
def execWindowOpen (init : Initiator) (l : LinkId) (w : BitVec 6) (s : State) : Out :=
  .next (windowOpen s init l.toNat w.toNat)
def execWindowClose (init : Initiator) (l : LinkId) (w : BitVec 6) (s : State) : Out :=
  .next (windowClose s init l.toNat w.toNat)
def execXtCommit (init : Initiator) (l : LinkId) (hi : Word) (s : State) : Out :=
  .next (xtCommit s init l.toNat hi)

end Sys2Proof.Machine
end

