-- ==== Sys2Proof/Machine/Repair.lean ====
section
/-! DEFINITION. Diagnostics, calibration, spares, repair and retirement of cores (03, R82 to R96), the
Vector Unit diagnostic and re-admission (17, R484 to R495), and the core reset (18, R516). -/

namespace Sys2Proof.Machine

def coreOff (c : Nat) : Nat := 0x1000000 + 0x10000 * c
def coreDom (c : Nat) : Nat := 13 * c

-- ---------------------------------------------------------------- core reset (R516, R90, R222)

/-- The 64 entries of a core's Pannier map list (R222), as Temper holds them. -/
def mapList (s : State) (c : Nat) : List (BitVec 16) :=
  (List.range 64).map (fun i => bits (temperWord s (0x100 + 32 * c + i / 2)) (16 * (i % 2)) 16)

/-- The valid entries of segment `g`, in list order. -/
def segList (l : List (BitVec 16)) (g : Nat) : List (BitVec 16) :=
  l.filter (fun e => e.getLsbD 15 && decide ((bits e 12 3).toNat = g))

/-- The map tables that a list fills: a segment's entries take its spares in order. -/
def mapOf (l : List (BitVec 16)) : SMap (BitVec 13) :=
  (List.range 8).flatMap (fun g => (((segList l g).take 48).zipIdx).map (fun e =>
    (g * 48 + e.2, (bits e.1 0 12).setWidth 13 ||| 0x1000)))

/-- A value of TA_REPAIR_MAP: its reserved bits read 0 (R8). -/
def repairBits (v : Word) : Word := v &&& 0x3F3F3F3F

/-- A core after its reset: nothing of it stands but what Temper gives back and what the Forge remembers
of its faults; line requests that have left stay out until their response (R317). -/
def freshCore (s : State) (c : Nat) (enabled : Bool) : Core :=
  let old := coreOf s c
  { ta := { st := if enabled then .hold else .retired, repairMap := repairBits (temperWord s (0x10 + c))
            colCounts := old.ta.colCounts }
    vu := { holds := old.vu.holds }
    mem := { lines := killLines old.mem.lines ++ strayStores old.mem }
    pan := { map := mapOf (mapList s c), retired := bits (temperWord s (0x20 + c)) 8 8 } }

/-- The reset of core `c`. -/
def resetCore (s : State) (c : Nat) (enabled : Bool) : State :=
  dropOccCores (dropBundles (setCore s c (freshCore s c enabled)) [c]) [c]

def offRstCtl : Nat := 0xA00074

/-- PWR_REFUSED (R516, R522). -/
def pwrRefused (s : State) (off : Nat) : State := post s 0x1E1 srcPwr none (BitVec.ofNat 64 off) 0

/-- CORE_RESET (R516). -/
def coreResetReq (s : State) (c : Nat) : State :=
  let k := coreOf s c
  let s := { s with pwr := { s.pwr with rstCore := BitVec.ofNat 4 c } }
  if k.task.isNone && (k.ta.st == .retired || k.ta.st == .hold || (bskOfCore s c).isNone) then
    resetCore s c (coreEnabled s c)
  else pwrRefused s offRstCtl

-- ---------------------------------------------------------------- runs (R85, R96)

/-- A run of the generators may start: HOLD or UNCALIBRATED, none in progress. -/
def runAllowed (k : Core) : Bool := (k.ta.st == .hold || k.ta.st == .uncal) && !k.ta.diagBusy

/-- A write of TA_DIAG_CTL with START. -/
def diagGo (s : State) (i : Initiator) (c : Nat) (cal : Bool) : State :=
  if runAllowed (coreOf s c) then
    updTa s c (fun t => { t with diagBusy := true, diagKind := cal, calRun := cal
                                 diagStatus := t.diagStatus ||| 1 })
  else regRefused s (coreOff c + 0x1050) (bitAt true 0 ||| bitAt cal 1) i

/-- Class, row found and column of a run whose failing results are `fails` (R85), each a cell row and a
column. DESIGN CHOICE, log 79: with class 0 or 3, for which no rule gives a row or a column, both are 0. -/
def diagClass (fails : List (Nat × Nat)) : Nat × Nat × Nat :=
  let rows := (fails.map (·.1)).eraseDups
  let cols := (fails.map (·.2)).eraseDups
  let n1 := cols.min?.getD 0
  if fails.isEmpty then (0, 0, 0)
  else if cols.length = 1 then (1, rows.max?.getD 0, n1)
  else if rows.length = 1 ∧ cols.length = 129 - n1 ∧ cols.all (fun n => decide (n ≤ 128)) then
    (2, rows.max?.getD 0, n1)
  else (3, 0, 0)

/-- TA_DIAG_STATUS after a run. -/
def diagWord (fails : List (Nat × Nat)) : BitVec 19 :=
  let r := diagClass fails
  BitVec.ofNat 19 ((if fails.isEmpty then 2 else 0) + r.1 * 4 + r.2.1 % 128 * 16 + r.2.2 % 256 * 2048)

/-- The end of a run: its status and its events. -/
def runEnd (s : State) (c : Nat) (fails : List (Nat × Nat)) (ev : BitVec 24) : State :=
  updTa s c (fun t => { t with diagBusy := false, diagStatus := diagWord fails
                               event := scEvent t.event ev })

/-- DIAG_DONE. -/
def diagDone (s : State) (c : Nat) (fails : List (Nat × Nat)) : State :=
  let t := (coreOf s c).ta
  if t.diagBusy && !t.calRun then runEnd s c fails 4 else s

-- ---------------------------------------------------------------- spares (R86, R60)

def spareUsed (k : Core) (q : Nat) : Bool := k.ta.repairMap.getLsbD (8 * q + 5)

/-- The map word with quadrant `q` repaired at row `f`. -/
def mapWith (w : Word) (q f : Nat) : Word :=
  putBits w (8 * q) (BitVec.ofNat 6 (f + 32))

def spareAllowed (k : Core) (q : Nat) : Bool :=
  (k.ta.st == .hold || k.ta.st == .uncal) && !spareUsed k q

/-- The switch itself. -/
def spareTake (s : State) (c q f : Nat) : State :=
  updTa s c (fun t => { t with repairMap := mapWith t.repairMap q f, st := .uncal, calOk := false })

/-- The completed twin write of TA_SPARE_CTL: where the switch is not allowed the write has no effect. -/
def spareCtlDone (s : State) (i : Initiator) (c : Nat) (v : Word) : State :=
  let q := (bits v 0 2).toNat
  if spareAllowed (coreOf s c) q then
    spareTake (updTa s c (fun t => { t with spareCtl := bits v 0 7 })) c q (bits v 2 5).toNat
  else regRefused s (coreOff c + 0x1030) v i

-- ---------------------------------------------------------------- parking (R400)

/-- A Basket's routes are invalidated. -/
def dropRoutes (s : State) (b : Nat) : State :=
  let off (e : Nat × BitVec 23) : Nat × BitVec 23 :=
    if (bits e.2 1 4).toNat = b then (e.1, e.2 &&& ~~~(1#23)) else e
  let l := (s.fp.routes.map off).filter (fun e => !decide (e.2 = 0))
  { s with fp := { s.fp with routes := l } }

/-- A standing Basket is parked. -/
def parkBasket (s : State) (b : Nat) : State :=
  let s := dropRoutes ((bskCtxs s b).foldl stopCtx s) b
  { s with sb := { s.sb with parked := s.sb.parked ||| (1#16 <<< b) } }

/-- The plan's entry for a Basket slot. -/
def planOf (s : State) (b : Nat) : Option PlanBasket :=
  s.sb.plan.bind (fun p => p.baskets.find? (fun e => decide (e.slot.toNat = b)))

def planMin (s : State) (b : Nat) : Nat := match planOf s b with | some p => p.minCores | none => 1

/-- A standing Basket that holds fewer cores than its minimum is parked. -/
def parkIfShort (s : State) (b : Nat) : State :=
  let k := bskOf s b
  if k.standing && decide (popcount k.cores < max 1 (planMin s b)) then parkBasket s b else s

-- ---------------------------------------------------------------- retirement (R88, R89, R387, R493)

/-- The configuration that the Forge last gave the array, with or without core `c`. -/
def configWith (s : State) (c : Nat) (on : Bool) : Word :=
  let w := if (mget {} s.temper.words 7).unreadable && (s.temper.wait.find? (fun e =>
      decide (e.1 = 7))).isNone && s.temper.busy.isNone then 0xFFFF else forgeWord s 7
  if on then w ||| (1#32 <<< c) else w &&& ~~~(1#32 <<< c)

/-- BSK_CORES and BSK_SEGS as BASKET_REPLACED carries them (R562). -/
def replacedDetail (k : Basket) : DWord :=
  BitVec.ofNat 64 (k.cores.toNat + (k.segs.toNat + k.rsvd.toNat * 256) * 2 ^ 32)

def basketReplaced (s : State) (b : Nat) : State :=
  postBsk s 0x1C0 srcForge b (BitVec.ofNat 64 b) (replacedDetail (bskOf s b))

/-- The task that a retired core holds is pre-empted with its full save set (R89, R380). -/
def fullSave (s : State) (c : Nat) : State :=
  match (coreOf s c).task with
  | some (x, _) =>
    let b := ctxBsk s x
    let s := switchOut s x false true
    if canTear (ctxOf s x) then
      let s := updBsk s b (fun k => { k with preemptCnt := satAdd k.preemptCnt 1 })
      updCtx s x (fun k => if k.stopPend then { k with state := .stopped, stopPend := false }
                           else { k with state := .saved })
    else s
  | none => s

/-- The Basket of a retired core goes on without it. -/
def dropFromBasket (s : State) (c : Nat) : State :=
  match bskOfCore s c with
  | some b =>
    let s := updBsk s b (fun k => { k with cores := k.cores &&& ~~~(1#16 <<< c) })
    parkIfShort (basketReplaced (dropOccCores s [c]) b) b
  | none => s

/-- RETIRE (R88). A run of the generators goes on to its end. -/
def retireCore (s : State) (c : Nat) : State :=
  let w := configWith s c false
  let s := forgeTemper s 7 w false
  let s := updTa s c (fun t => { t with st := .retired })
  let s := postReplace s 0x113 srcForge (BitVec.ofNat 64 c) (w.setWidth 64) 0
  dropFromBasket (updTa (fullSave s c) c (fun t => { t with repairHold := none, repairDue := false })) c

/-- A calibration that passes (R96). -/
def calPass (s : State) (c : Nat) : State :=
  updTa (runEnd s c [] 8) c (fun t => { t with
    st := if t.st == .uncal then .hold else t.st, calOk := true })

/-- A calibration that fails sets state RETIRED (R96); the Forge retires the core (R88), unless it is already. -/
def calFail (s : State) (c : Nat) (fails : List (Nat × Nat)) : State :=
  let old := (coreOf s c).ta.st
  let s := updTa (runEnd s c fails 16) c (fun t => { t with st := .retired, calOk := false })
  if forgeRuns s && !(old == .retired) then retireCore s c else s

/-- CALIBRATION_DONE (R87, R96). -/
def calibrationDone (s : State) (c : Nat) (fails : List (Nat × Nat)) : State :=
  let t := (coreOf s c).ta
  if t.diagBusy && t.calRun then
    if fails.isEmpty then calPass s c else calFail s c fails
  else s

-- ---------------------------------------------------------------- release (R82, R180, R90)

/-- The failed pass is re-issued with its attempt count reset. -/
def reissue (s : State) (c : Nat) (k : Core) : Core :=
  match k.ta.repairHold with
  | some .array => { k with ta := { k.ta with passes := match k.ta.passes with
      | p :: l => reloadPasses s c ({ p with attempts := 0 } :: l)
      | [] => [] } }
  | some .depthwise => { k with vu := { k.vu with dw := match k.vu.dw with
      | p :: l => { p with attempts := 0 } :: l
      | [] => [] } }
  | _ => k

/-- Repair hold is released and the core is in service. The tiles are INT8 zeros but for what the queued passes
load (R66, log 12); a tile that no pass had taken is loaded again (R81). -/
def releaseHold (s : State) (c : Nat) : State :=
  updCore s c (fun k =>
    let k := reissue s c k
    { k with ta := { reloadShadow k.ta with
        st := .service, repairHold := none, repairDue := false
        active := ((k.ta.passes.getLast?).map (·.tile)).getD {} } })

/-- A driver's request to retire core `c` waits for its answer (R493). -/
def retirePending (s : State) (c : Nat) : Bool :=
  mbxAsked s && decide (mbxOp s = 9) && (reqW s 1).getLsbD 8 && decide ((bits (reqW s 1) 0 4).toNat = c)

/-- A core in HOLD may go into service: from repair hold, or after a calibration that passed with no task held
and no repair or retirement due (R90, R84, log 26). -/
def releasable (s : State) (c : Nat) : Bool :=
  let t := (coreOf s c).ta
  t.st == .hold && !t.diagBusy && (t.repairHold.isSome ||
    ((coreOf s c).task.isNone && t.calOk && !t.repairDue && !retirePending s c))

/-- REPAIR_HOLD_RELEASE: the Forge returns a core in HOLD to service. -/
def repairHoldRelease (s : State) (c : Nat) : State :=
  if forgeRuns s && releasable s c then releaseHold s c else s

-- ---------------------------------------------------------------- FORGE_REPAIR (R84, R88)

/-- Captured verdicts that name one column within 60 s. -/
def columnHits (s : State) (t : Ta) (n : Nat) : Nat :=
  (t.colCounts.filter (fun e => decide (e.2 = n) && decide ((now s - e.1).toNat ≤ 6000000000))).length

def thresholdMet (s : State) (t : Ta) : Bool :=
  t.colCounts.any (fun e => decide (columnHits s t e.2 ≥ 3))

/-- The procedure of R88 from its diagnostic on. -/
def repairRun (s : State) (c : Nat) (fails calFails : List (Nat × Nat)) : State :=
  let s := runEnd (updTa s c (fun t => { t with diagKind := false, calRun := false })) c fails 4
  let r := diagClass fails
  let q := r.2.1 / 32 % 4
  if r.1 = 0 then releaseHold (updTa s c (fun t => { t with colCounts := [] })) c
  else if r.1 = 3 || spareUsed (coreOf s c) q then retireCore s c
  else
    let s := spareTake s c q (r.2.1 % 32)
    let s := updTa s c (fun t => { t with
      diagKind := true, calRun := true, spareCtl := BitVec.ofNat 7 (q + 4 * (r.2.1 % 32)) })
    if calFails.isEmpty then
      let s := calPass s c
      let w := (coreOf s c).ta.repairMap
      let s := forgeTemper s (0x10 + c) w false
      releaseHold (post s 0x112 srcForge none (BitVec.ofNat 64 c) (w.setWidth 64)) c
    else retireCore (runEnd s c calFails 16) c

/-- The core takes no task any more; the one it runs stops at its next YIELD, and a core without one is drained at
once (R84, R92). -/
def drainCore (s : State) (c : Nat) : State :=
  let s := updCore s c (fun k => { k with ta := { k.ta with
    st := if k.task.isSome then .draining else .hold } })
  match (coreOf s c).task with
  | some (x, _) => requestStop s x
  | none => s

/-- FORGE_REPAIR: `fails` are the failing results of the diagnostic, `calFails` those of the calibration. At the
threshold the core is drained first, and repaired when the row comes again with no task on it. -/
def forgeRepair (s : State) (c : Nat) (hard : Bool) (fails calFails : List (Nat × Nat)) : State :=
  let k := coreOf s c
  if !forgeRuns s then s
  else if hard then
    if k.ta.repairHold = some .array && !k.ta.diagBusy then repairRun s c fails calFails else s
  else if k.ta.repairDue then
    if k.task.isSome || k.ta.diagBusy then s else repairRun s c fails calFails
  else if k.ta.st == .service && thresholdMet s k.ta then
    drainCore (updTa s c (fun t => { t with repairDue := true })) c
  else s

-- ---------------------------------------------------------------- Vector Unit diagnostic (R484, R485)

/-- A write of CORE_SVC_CTL with VDIAG_START (R499). -/
def vdiagGo (s : State) (i : Initiator) (c : Nat) : State :=
  let k := coreOf s c
  if (k.ta.st == .hold || k.ta.st == .uncal) && !k.vu.diagBusy then
    updCore s c (fun k => { k with vu := { k.vu with
      diagBusy := true, diagStatus := k.vu.diagStatus ||| 1 } })
  else regRefused s (coreOff c + 0x8000) 1 i

/-- CORE_SVC_STATUS after a run. -/
def vdiagWord : Option (BitVec 2 × BitVec 9) → BitVec 13
  | none => 2
  | some (p, l) => BitVec.ofNat 13 (p.toNat * 4 + l.toNat * 16)

/-- Holds from the Vector Unit within the last 24 hours. -/
def recentHolds (s : State) (c : Nat) : Nat :=
  ((coreOf s c).vu.holds.filter (fun t => decide ((now s - t).toNat ≤ 8640000000000))).length

def byVector (h : Option HoldBy) : Bool := h == some .vector || h == some .depthwise

/-- VDIAG_DONE. -/
def vdiagDone (s : State) (c : Nat) (fail : Option (BitVec 2 × BitVec 9)) : State :=
  if (coreOf s c).vu.diagBusy then
    let s := updCore s c (fun k => { k with vu := { k.vu with
      diagBusy := false, diagStatus := vdiagWord fail } })
    if forgeRuns s && byVector (coreOf s c).ta.repairHold then
      if fail.isSome || decide (recentHolds s c ≥ 3) then retireCore s c else releaseHold s c
    else s
  else s

-- ---------------------------------------------------------------- CORE_READMIT (R493, R494)

/-- A valid Basket would be left with no core. -/
def lastCore (s : State) (c : Nat) : Bool :=
  match bskOfCore s c with
  | some b => decide ((bskOf s b).cores = 1#16 <<< c)
  | none => false

/-- MODE 1: the core is drained, then retired; the request is answered when that is done. -/
def coreRetireReq (s : State) : State :=
  let c := (bits (reqW s 1) 0 4).toNat
  let k := coreOf s c
  if k.ta.st == .retired || lastCore s c then mbxReply s 1 []
  else if k.task.isSome && k.ta.repairHold.isNone then mbxKeep (drainCore s c)
  else mbxReply (retireCore s c) 0 []

/-- The re-admission count of a core's service word; unreadable, it counts as 3 (R496). -/
def readmitCount (s : State) (c : Nat) : Nat :=
  if temperUnreadable s (0x20 + c) then 3 else (bits (forgeWord s (0x20 + c)) 0 2).toNat

/-- A re-admitted core goes to a standing Basket that holds fewer cores than its plan wants. -/
def giveCore (s : State) (c : Nat) : State :=
  let short (b : Nat) : Bool :=
    let k := bskOf s b
    k.valid && k.standing && (match planOf s b with
      | some p => decide (popcount k.cores < p.wantCores)
      | none => false) && basketOk s b { k with cores := k.cores ||| (1#16 <<< c) }
  match (List.range 16).find? short with
  | some b => updBsk s b (fun k => { k with cores := k.cores ||| (1#16 <<< c) })
  | none => s

/-- SVC_REPLACE.CORE clears when no core is retired any more (R483). -/
def clearCoreBit (s : State) : State :=
  if (List.range 16).all (fun c => !coreRetiredTa s c) then
    { s with svc := { s.svc with replace := s.svc.replace &&& 0b111110 } }
  else s

/-- MODE 0: the steps of R494, with the failing results of the three runs. -/
def readmitCore (s : State) (c : Nat) (fails vfails calFails : List (Nat × Nat)) : State :=
  let s := forgeTemper s (0x20 + c) (forgeWord s (0x20 + c) + 1) false
  let s := forgeTemper s 7 (configWith s c true) false
  let s := runEnd (resetCore s c true) c fails 4
  let s := updCore s c (fun k => { k with vu := { k.vu with
    diagStatus := vdiagWord (match vfails with
      | [] => none
      | (p, l) :: _ => some (BitVec.ofNat 2 p, BitVec.ofNat 9 l)) } })
  let s := updTa (runEnd s c calFails (if calFails.isEmpty then 8 else 16)) c
    (fun t => { t with diagKind := true, calRun := true, calOk := calFails.isEmpty })
  if fails.isEmpty && vfails.isEmpty && calFails.isEmpty then
    let s := clearCoreBit (updTa s c (fun t => { t with st := .service }))
    mbxReply (post (giveCore s c) 0x1D3 srcForge none (BitVec.ofNat 64 c) 0) 0 []
  else mbxReply (retireCore s c) 5 []

def coreReadmitReq (s : State) (fails vfails calFails : List (Nat × Nat)) : State :=
  let c := (bits (reqW s 1) 0 4).toNat
  if !coreRetiredTa s c then mbxReply s 1 []
  else if readmitCount s c ≥ 3 then mbxReply s 3 []
  else readmitCore s c fails vfails calFails

/-- CORE_READMIT with MODE `m` in REQ1. -/
def readmitRow (s : State) (m : Bool) (f : State → State) : State :=
  if (reqW s 1).getLsbD 8 = m then mbxOpRow s 9 [(1, 0x10F)] f else s

-- ---------------------------------------------------------------- the commands

def execCoreReset (init : Initiator) (core : CoreId) (s : State) : Out :=
  .next (gated s offRstCtl (natAt core.toNat 0 ||| 16) init (byForge init) 209
    (fun s => coreResetReq s core.toNat))
def execDiagStart (init : Initiator) (core : CoreId) (s : State) : Out :=
  .next (gated s (coreOff core.toNat + 0x1050) 1 init (byForge init) (coreDom core.toNat)
    (fun s => diagGo s init core.toNat false))
def execCalibrationStart (init : Initiator) (core : CoreId) (s : State) : Out :=
  .next (gated s (coreOff core.toNat + 0x1050) 3 init (byForge init) (coreDom core.toNat)
    (fun s => diagGo s init core.toNat true))
def execDiagDone (core : CoreId) (fails : List (Nat × Nat)) (s : State) : Out :=
  .next (diagDone s core.toNat fails)
def execCalibrationDone (core : CoreId) (fails : List (Nat × Nat)) (s : State) : Out :=
  .next (calibrationDone s core.toNat fails)
def execRepairHoldRelease (core : CoreId) (s : State) : Out := .next (repairHoldRelease s core.toNat)
def execForgeRepair (core : CoreId) (hard : Bool) (fails calFails : List (Nat × Nat)) (s : State) : Out :=
  .next (forgeRepair s core.toNat hard fails calFails)
def execVdiagStart (init : Initiator) (core : CoreId) (s : State) : Out :=
  .next (gated s (coreOff core.toNat + 0x8000) 1 init (byForge init) (coreDom core.toNat)
    (fun s => vdiagGo s init core.toNat))
def execVdiagDone (core : CoreId) (fail : Option (BitVec 2 × BitVec 9)) (s : State) : Out :=
  .next (vdiagDone s core.toNat fail)
def execCoreRetire (s : State) : Out := .next (readmitRow s true coreRetireReq)
def execCoreReadmit (fails vfails calFails : List (Nat × Nat)) (s : State) : Out :=
  .next (readmitRow s false (fun s => coreReadmitReq s fails vfails calFails))

end Sys2Proof.Machine
end

