-- ==== Sys2Proof/Machine/Pannier.lean ====
section
/-! DEFINITION. The Pannier's own commands (08): scrubbing, spare rows, groups, segment sweeps, the host
window, and the Forge's repair of rows and segments. -/

namespace Sys2Proof.Machine

-- ---------------------------------------------------------------- places

/-- A row as an entry's object names it: index, segment and core (log 27). -/
def physObj (c g i : Nat) : DWord := BitVec.ofNat 64 (i + g * 4096 + c * 65536)

/-- The address row of a segment's index (R216). -/
def addrOfIndex (grp : BitVec 16) (g i : Nat) : Nat :=
  3072 * groupFirst grp g + i * groupWidth grp g + (g - groupFirst grp g)

def mapEntry (p : Pan) (g k : Nat) : BitVec 13 := mget 0 p.map (48 * g + k)
def spareBusy (p : Pan) (g k : Nat) : Bool := (mapEntry p g k).getLsbD 12

/-- The index that a physical row serves: its own, or that of its spare. -/
def servedIndex (p : Pan) (g i : Nat) : Nat :=
  if i < 3072 then i else (bits (mapEntry p g (i - 3072)) 0 12).toNat

/-- A physical row of a core is held under R74; one that is mapped out serves no address. -/
def physHeld (s : State) (c g i : Nat) : Bool :=
  let p := (coreOf s c).pan
  (i ≥ 3072 || (spareOf p g i).isNone) && heldAddr s c (addrOfIndex p.group g (servedIndex p g i))

-- ---------------------------------------------------------------- the scrubber (R219, R220)

/-- Rows that a segment's scrubber visits: the working rows, and spares in use. -/
def scrubRow (p : Pan) (g i : Nat) : Bool := decide (i < 3072) || spareBusy p g (i - 3072)

/-- The next row from `i` on, round the segment's 3,120. -/
def nextScrub (p : Pan) (g : Nat) : Nat → Nat → Nat
  | 0, i => i % 3120
  | n + 1, i => if scrubRow p g (i % 3120) then i % 3120 else nextScrub p g n (i + 1)

/-- The scrubber of a segment is due: 2^SHIFT ticks have passed since its last visit. -/
def scrubDue (s : State) (p : Pan) (g : Nat) : Bool :=
  decide ((now s - mget 0 p.scrubAt g).toNat ≥ 2 ^ p.scrubShift.toNat)

/-- What a visit does with the row that it has read: a correctable error is written back unless the row is held,
and an uncorrectable one stands. -/
def scrubbed (s : State) (c g i : Nat) : Ecc → State
  | .clean => s
  | .single =>
    let k := 4096 * g + i
    let held := physHeld s c g i
    updPan s c (fun p => { p with
      errs := if held then p.errs else mdel p.errs k
      corrected := p.corrected ++ [(now s, k)] })
  | .double => post s 0x121 c none (physObj c g i) 0

/-- SCRUB_VISIT: the segment's next row is read. -/
def scrubVisit (s : State) (c g : Nat) (ecc : RowEcc) : State :=
  let p := (coreOf s c).pan
  if p.scrubEn && segOn s c g && p.ready.getLsbD g && scrubDue s p g then
    let i := nextScrub p g 3120 (mget 0 p.scrubPos g)
    let s := updPan s c (fun p => { p with
      scrubPos := mset 0 p.scrubPos g ((i + 1) % 3120), scrubAt := mset 0 p.scrubAt g (now s) })
    let r := readPhys s c (4096 * g + i) ecc
    scrubbed r.2.2 c g i r.2.1
  else s

-- ---------------------------------------------------------------- map-out (R221, R222)

def spareFree (p : Pan) (g : Nat) : Option Nat := (List.range 48).find? (fun k => !spareBusy p g k)

def mapAllowed (s : State) (c g i : Nat) : Bool :=
  let p := (coreOf s c).pan
  segOn s c g && p.ready.getLsbD g && (spareOf p g i).isNone && (spareFree p g).isSome

/-- The write of a copy: the data to the spare, with the codewords that were uncorrectable, and the map entry. -/
def copyPut (p : Pan) (g i k : Nat) (v : Row) : Pan :=
  let dst := 4096 * g + 3072 + k
  let bad : RowEcc := { single := 0, double := (mget .clean p.errs (4096 * g + i)).double }
  let p := setPhys p dst v
  { p with
    errs := mset .clean p.errs dst bad
    map := mset 0 p.map (48 * g + k) (BitVec.ofNat 13 (i + 4096))
    copying := none
    event := scEvent p.event 4 }

/-- The copy of a row to the segment's next unused spare: corrected where it can be, and codeword by codeword
uncorrectable where it cannot. -/
def copyRow (s : State) (c g i : Nat) : State :=
  match spareFree (coreOf s c).pan g with
  | none => s
  | some k =>
    let r := readPhys s c (4096 * g + i) .clean
    updPan r.2.2 c (fun p => copyPut p g i k r.1)

/-- MAP_OUT_COPY: the segment's two grants. -/
def mapOutCopy (s : State) (c g : Nat) : State :=
  match (coreOf s c).pan.copying with
  | some (h, i) => if h = g then copyRow s c h i else s
  | none => s

/-- A copy still to be made is made before another map-out takes effect. -/
def flushCopy (s : State) (c : Nat) : State :=
  match (coreOf s c).pan.copying with
  | some (h, _) => mapOutCopy s c h
  | none => s

/-- The completed twin write of PAN_MAP_CTL: where the map-out is not allowed it has no effect. With a reserved
INDEX, SEG is set (R560) and no row is mapped out (DESIGN CHOICE, log 84). -/
def panMapDone (s : State) (i : Initiator) (c : Nat) (v : Word) : State :=
  let off := coreOff c + 0x5040
  let g := (bits v 0 3).toNat
  let idx := (bits v 3 12).toNat
  if idx ≥ 3072 then
    regReserved (updPan s c (fun p => { p with mapCtl := putBits p.mapCtl 0 (bits v 0 3) })) off v i
  else
    let s := flushCopy s c
    if mapAllowed s c g idx then
      updPan s c (fun p => { p with mapCtl := bits v 0 15, copying := some (g, idx) })
    else regRefused (updPan s c (fun p => { p with event := scEvent p.event 8 })) off v i

-- ---------------------------------------------------------------- groups (R217)

/-- A remote access to address rows of core `c` that `rows` picks is in progress. -/
def remoteOn (s : State) (c : Nat) (rows : Nat → Nat → Bool) : Bool :=
  s.cores.any (fun e => e.2.mem.tags.any (fun t =>
    t.2.st == .active && (t.2.kind == .rwrite || t.2.kind == .rread) &&
      decide (taskCoreAt s e.1 t.2.rcore = some c) && rows (baseOf s c + t.2.rrow) t.2.rows))

/-- A remote access to the core is in progress. -/
def remoteBusy (s : State) (c : Nat) : Bool := remoteOn s c (fun _ _ => true)

/-- Nothing moves on the core that a change of groups could touch. -/
def groupFree (s : State) (c : Nat) : Bool :=
  let k := coreOf s c
  k.task.isNone && !remoteBusy s c && k.pan.wbuf.isEmpty && k.pan.copying.isNone &&
    (List.range 8).all (fun g => !segOn s c g || k.pan.ready.getLsbD g)

/-- A write of PAN_GROUP by the Forge. -/
def panGroupSet (s : State) (i : Initiator) (c : Nat) (v : Word) : State :=
  let off := coreOff c + 0x5008
  if !groupsAligned (bits v 0 16) then regReserved s off v i
  else if groupFree s c then updPan s c (fun p => { p with group := bits v 0 16 })
  else regRefused s off v i

/-- PAN_GROUP_WRITE. -/
def panGroupWrite (a : Access) (s : State) : State :=
  let o := a.off.toNat
  let c := (o - 0x1000000) / 0x10000
  if decide (0x1000000 ≤ o ∧ o < 0x1100000 ∧ o % 0x10000 / 4 = 0x5008 / 4) then
    if plainAccess a.off a.size then
      gated s o a.value a.init (byForge a.init) (coreDom c) (fun s => panGroupSet s a.init c a.value)
    else regRefused s o a.value a.init
  else s

-- ---------------------------------------------------------------- sweeps (R236)

/-- SEGMENT_SWEEP: every row of the segment is zero with valid codes. -/
def segmentSweep (s : State) (c g : Nat) : State :=
  if segOn s c g && !(coreOf s c).pan.ready.getLsbD g then
    updPan s c (fun p => { zeroSegment p g with ready := p.ready ||| (1#8 <<< g) })
  else s

-- ---------------------------------------------------------------- the host window (R237 to R239)

def winCore (off : Nat) : Nat := off / 2 ^ 24 % 16
def panWinRow (off : Nat) : Nat := off % 2 ^ 24 / 512

/-- The window takes this access. -/
def winTakes (s : State) (off size : Nat) (write : Bool) : Bool :=
  let c := winCore off
  let k := coreOf s c
  decide (size ∈ [4, 8, 16, 32, 64] ∧ off % size = 0 ∧ panWinRow off < 24576) &&
    !coreRetiredTa s c && k.pan.winEn && (!write || k.pan.winWrite) &&
    groupInService s c (rowPlace k.pan.group (panWinRow off)).1

/-- PAN_WIN_REFUSED with the window offset (R562). -/
def panWinRefused (s : State) (off : Nat) : State :=
  post s 0x123 (winCore off) none (BitVec.ofNat 64 off) 0

/-- `size` bytes of a row at an offset, in the low bytes. -/
def rowBytes (r : Row) (o size : Nat) : BitVec 512 :=
  (r >>> (8 * (o % 512))).setWidth 512 &&& BitVec.ofNat 512 (2 ^ (8 * size) - 1)

def putRowBytes (r : Row) (o size : Nat) (d : BitVec 512) : Row :=
  let m : Row := BitVec.ofNat 4096 (2 ^ (8 * size) - 1) <<< (8 * (o % 512))
  (r &&& ~~~m) ||| ((d.setWidth 4096 <<< (8 * (o % 512))) &&& m)

/-- PAN_ECC_HOST (R219). -/
def panEccHost (s : State) (c a : Nat) : State :=
  let k := addrRow (coreOf s c).pan a
  post s 0x120 c none (physObj c (k / 4096) (k % 4096)) 0

/-- A buffered write of the row is still to be performed. -/
def winBuffered (s : State) (c a : Nat) : Bool := (coreOf s c).pan.wbuf.any (fun w => decide (w.row = a))

/-- A row as the window reads it: all-ones where a codeword is uncorrectable. -/
def winReadRow (s : State) (c a : Nat) (ecc : RowEcc) : Row × State :=
  let r := readRow s c a ecc
  match r.2.1 with
  | .double => (BitVec.allOnes 4096, panEccHost r.2.2 c a)
  | _ => (r.1, r.2.2)

/-- The host port holds a window access: an earlier read waits (R238). -/
def winHolds (s : State) (w : Nat × Nat) : Bool := s.port.winWait.isSome && !decide (s.port.winWait = some w)

def winWaits (s : State) (w : Option (Nat × Nat)) : State := { s with port := { s.port with winWait := w } }

/-- PAN_WINDOW_READ: it waits behind every buffered write to its row, and later accesses wait behind it. -/
def panWindowRead (off size : Nat) (ecc : RowEcc) (s : State) : State :=
  let c := winCore off
  let a := panWinRow off
  if winHolds s (off, size) then s
  else if !winTakes s off size false then
    panWinRefused { s with port := { s.port with wdata := 0, winWait := none } } off
  else if winBuffered s c a then winWaits s (some (off, size))
  else
    let r := winReadRow s c a ecc
    { r.2 with port := { r.2.port with wdata := rowBytes r.1 off size, winWait := none } }

/-- Writes in the window's buffer of 16 entries. -/
def winPending (s : State) : Nat := (s.cores.map (fun e => e.2.pan.wbuf.length)).foldl (· + ·) 0

/-- PAN_WINDOW_WRITE: posted, or held by the host port while the buffer is full. -/
def panWindowWrite (off size : Nat) (data : BitVec 512) (s : State) : State :=
  let c := winCore off
  if s.port.winWait.isSome then s
  else if !winTakes s off size true then panWinRefused s off
  else if winPending s ≥ 16 then s
  else updPan s c (fun p => { p with wbuf := p.wbuf ++ [{
    row := panWinRow off, off := off % 512, size := size, data := data }] })

/-- PAN_WINDOW_WRITE_PERFORM: the oldest buffered write whose row is not held. -/
def panWindowWritePerform (c : Nat) (s : State) : State :=
  match (coreOf s c).pan.wbuf.find? (fun w => !heldAddr s c w.row) with
  | some w =>
    let s := updPan s c (fun p => { p with wbuf := p.wbuf.erase w })
    let r := winReadRow s c w.row .clean
    writeRow r.2 c w.row (putRowBytes r.1 w.off w.size w.data)
  | none => s

-- ---------------------------------------------------------------- segments lost (R223, R388)

/-- The groups once segment `g` has gone: the group that held it falls into single segments. -/
def splitGroup (grp : BitVec 16) (g : Nat) : BitVec 16 :=
  let f := groupFirst grp g
  (List.range (groupWidth grp g)).foldl (fun w i => putBits w (2 * (f + i)) (0 : BitVec 2)) grp

/-- A region that keeps clear of the rows of a lost segment: cut before them, or moved behind them, or
no longer valid (DESIGN CHOICE, log 28). -/
def cutRegion (g : Nat) (w : Word) : Word :=
  let lo := 3072 * g
  let st := rgStart w
  let fin := st + rgSize w
  let put (a n : Nat) : Word := putBits (putBits w 0 (BitVec.ofNat 15 a)) 16 (BitVec.ofNat 15 n)
  if !rgValid w || decide (fin ≤ lo) || decide (st ≥ lo + 3072) then w
  else if st < lo then put st (lo - st)
  else if fin > lo + 3072 then put (lo + 3072) (fin - (lo + 3072))
  else w &&& ~~~(1#32 <<< 15)

/-- A drained Basket loses segment `g` on every core (R388). -/
def shrinkBasket (s : State) (b g : Nat) : State :=
  let s := (bskCores s b).foldl (fun s c =>
    panGroupSet s .forge c ((splitGroup (coreOf s c).pan.group g).setWidth 32)) s
  let m : BitVec 8 := ~~~(1#8 <<< g)
  let s := updBsk s b (fun k => { k with
    segs := k.segs &&& m, rsvd := k.rsvd &&& m
    regions := k.regions.map (fun e => (e.1, cutRegion g e.2)) })
  let s := bskCtlWrite s .forge b (bskCtlWord (bskOf s b) &&& ~~~4#32)
  basketReplaced s b

/-- The Basket of a core whose segment `g` is retired drains, and goes on without the segment once it is
empty. -/
def replaceSegment (s : State) (c g : Nat) : State :=
  match bskOfCore s c with
  | some b =>
    if (bskOf s b).segs.getLsbD g then
      let s := if (bskOf s b).drain then s else drainBegin s b
      let s := drainDone s b
      if (bskOf s b).drained then shrinkBasket s b g else s
    else s
  | none => s

/-- PAN_SEGMENT_RETIRED: recorded in Temper, out of service, replacement requested. -/
def retireSegment (s : State) (c g i : Nat) : State :=
  let s := forgeTemper s (0x20 + c) (forgeWord s (0x20 + c) ||| (1#32 <<< (8 + g))) false
  let s := updPan s c (fun p => { p with retired := p.retired ||| (1#8 <<< g) })
  replaceSegment (postReplace s 0x122 srcForge (physObj c g i) 0 1) c g

/-- The first free entry of a core's map list, as the Forge last gave the array. -/
def freeListEntry (s : State) (c : Nat) : Option Nat :=
  (List.range 64).find? (fun i =>
    !(bits (forgeWord s (0x100 + 32 * c + i / 2)) (16 * (i % 2)) 16).getLsbD 15)

/-- Corrections of a row at scrub visits within 24 hours. -/
def recentScrubs (s : State) (p : Pan) (k : Nat) : Nat :=
  (p.corrected.filter (fun e => decide (e.2 = k) && decide ((now s - e.1).toNat ≤ 8640000000000))).length

/-- The Forge has a reason to map out a row (R223); `listed` says that a factory test list names it. -/
def rowFaulty (s : State) (c g i : Nat) (listed : Bool) : Bool :=
  let p := (coreOf s c).pan
  let k := 4096 * g + i
  listed || eccKind (mget .clean p.errs k) == .double || decide (recentScrubs s p k ≥ 3)

/-- FORGE_ROW_REPAIR: the row is mapped out and listed in Temper, or the segment is retired. A segment
that is being retired goes on from its Basket's drain. -/
def forgeRowRepair (s : State) (c g i : Nat) (listed : Bool) : State :=
  let p := (coreOf s c).pan
  if !forgeRuns s then s
  else if p.retired.getLsbD g then replaceSegment s c g
  else if decide (i < 3072) && rowFaulty s c g i listed then
    match freeListEntry s c with
    | none => retireSegment s c g i
    | some n =>
      if (spareFree p g).isNone then retireSegment s c g i
      else
        let s := flushCopy s c
        if mapAllowed s c g i then
          let s := copyRow s c g i
          let w := 0x100 + 32 * c + n / 2
          let e : BitVec 16 := BitVec.ofNat 16 (i + g * 4096 + 2 ^ 15)
          forgeTemper s w (putBits (forgeWord s w) (16 * (n % 2)) e) false
        else s
  else s

-- ---------------------------------------------------------------- the commands

def execScrubVisit (core : CoreId) (seg : SegId) (ecc : RowEcc) (s : State) : Out :=
  .next (scrubVisit s core.toNat seg.toNat ecc)
def execMapOutCopy (core : CoreId) (seg : SegId) (s : State) : Out :=
  .next (mapOutCopy s core.toNat seg.toNat)
def execPanGroupWrite (a : Access) (s : State) : Out := .next (panGroupWrite a s)
def execSegmentSweep (core : CoreId) (seg : SegId) (s : State) : Out :=
  .next (segmentSweep s core.toNat seg.toNat)
def execPanWindowRead (_init : Initiator) (off : BitVec 28) (size : BitVec 8) (ecc : RowEcc)
    (s : State) : Out := .next (panWindowRead off.toNat size.toNat ecc s)
def execPanWindowWrite (_init : Initiator) (off : BitVec 28) (size : BitVec 8) (data : BitVec 512)
    (s : State) : Out := .next (panWindowWrite off.toNat size.toNat data s)
def execPanWindowWritePerform (core : CoreId) (s : State) : Out :=
  .next (panWindowWritePerform core.toNat s)
def execForgeRowRepair (core : CoreId) (seg : SegId) (index : BitVec 12) (listed : Bool)
    (s : State) : Out :=
  .next (forgeRowRepair s core.toNat seg.toNat index.toNat listed)

end Sys2Proof.Machine
end

