-- ==== Sys2Proof/Machine/Nand.lean ====
section
/-! DEFINITION. Pages as the Ingot Store's flash holds them (16, R450 to R453): the BCH code, the codewords
of a page, its metadata, and what a read of one copy finds. -/

namespace Sys2Proof.Machine

-- ---------------------------------------------------------------- the field GF(2^14) (R451)

/-- An element of the field: the coefficient of α^i is bit i. -/
abbrev Gf := BitVec 14

/-- Times α, modulo x^14 + x^13 + x^12 + x^2 + 1. -/
def gfX (a : Gf) : Gf := if a.msb then (a <<< 1) ^^^ 0x3005 else a <<< 1

def gfMul (a b : Gf) : Gf :=
  ((List.range 14).foldl (fun (p : Gf × Gf) i =>
    (if b.getLsbD i then p.1 ^^^ p.2 else p.1, gfX p.2)) (0, a)).1

def gfPow (a : Gf) (n : Nat) : Gf :=
  ((List.range 14).foldl (fun (p : Gf × Gf) i =>
    (if n.testBit i then gfMul p.1 p.2 else p.1, gfMul p.2 p.2)) (1, a)).1

/-- α^n; α has order 16,383. -/
def gfAlpha (n : Nat) : Gf := gfPow 2 (n % 16383)

def gfInv (a : Gf) : Gf := gfPow a 16382

-- ---------------------------------------------------------------- polynomials, lowest coefficient first

def polyAdd : List Gf → List Gf → List Gf
  | [], q => q
  | p, [] => p
  | a :: p, b :: q => (a ^^^ b) :: polyAdd p q

def polyScale (c : Gf) (p : List Gf) : List Gf := p.map (gfMul c)

def polyEval (p : List Gf) (x : Gf) : Gf := p.foldr (fun c v => gfMul v x ^^^ c) 0

-- ---------------------------------------------------------------- the code (R451)

/-- Exponents of the roots of g(x): those of the minimal polynomials of α^1 to α^80, each once. -/
def bchRoots : List Nat :=
  ((List.range 80).flatMap (fun k => (List.range 14).map (fun j => (k + 1) * 2 ^ j % 16383))).eraseDups

/-- The generator g(x), of degree 560. -/
def bchGen : List Gf :=
  bchRoots.foldl (fun p e => polyAdd (0 :: p) (polyScale (gfAlpha e) p)) [1]

/-- g(x) without its leading term. -/
def bchLow : BitVec 560 :=
  (bchGen.take 560).foldr (fun c v => (v <<< 1) ||| (if c = 0 then 0 else 1)) 0

/-- The bits of bytes, bit 7 of the first byte first. -/
def bitsOf (l : List Byte) : List Bool :=
  l.flatMap (fun b => (List.range 8).map (fun i => b.getLsbD (7 - i)))

/-- m(x) · x^560 modulo g(x). -/
def bchRem (m : List Bool) : BitVec 560 :=
  m.foldl (fun r b => if r.msb != b then (r <<< 1) ^^^ bchLow else r <<< 1) 0

/-- The 70 parity bytes, the highest coefficient in bit 7 of the first. -/
def bchParity (msg : List Byte) : List Byte :=
  let r := bchRem (bitsOf msg)
  (List.range 70).map (fun i => bits r (8 * (69 - i)) 8)

/-- A codeword: 1,026 message bytes, then the parity. -/
def codeword (msg : List Byte) : List Byte := msg ++ bchParity msg

/-- The syndromes c(α^1) to c(α^80). -/
def syndromes (c : List Bool) : List Gf :=
  (List.range 80).map (fun i =>
    let a := gfAlpha (i + 1)
    c.foldl (fun v b => gfMul v a ^^^ (if b then 1 else 0)) 0)

/-- The shift-register synthesis of the error locator: the locator, the one before its last change, its length,
the steps since then, and the discrepancy then. -/
structure Locator where
  c : List Gf := [1]
  b : List Gf := [1]
  len : Nat := 0
  gap : Nat := 1
  last : Gf := 1
deriving DecidableEq, Repr

/-- One step, for syndrome `n`. -/
def locatorStep (syn : List Gf) (x : Locator) (n : Nat) : Locator :=
  let d := (List.range (x.len + 1)).foldl (fun v i => v ^^^ gfMul (x.c.getD i 0) (syn.getD (n - i) 0)) 0
  let c := polyAdd x.c (List.replicate x.gap 0 ++ polyScale (gfMul d (gfInv x.last)) x.b)
  if d = 0 then { x with gap := x.gap + 1 }
  else if 2 * x.len ≤ n then { c := c, b := x.c, len := n + 1 - x.len, gap := 1, last := d }
  else { x with c := c, gap := x.gap + 1 }

def locator (syn : List Gf) : Locator := (List.range 80).foldl (locatorStep syn) {}

/-- The coefficients of a codeword that are wrong, by their powers of x, from its syndromes; none where the word
does not decode: more than 40, or not all of them in the codeword. -/
def errorPlaces (syn : List Gf) : Option (List Nat) :=
  if syn.all (· == 0) then some []
  else
    let x := locator syn
    let l := (List.range 8768).filter (fun k => polyEval x.c (gfAlpha (16383 - k)) == 0)
    if x.len ≤ 40 ∧ l.length = x.len then some l else none

-- ---------------------------------------------------------------- reading a codeword (R452)

/-- The coefficient of x^k in a codeword changes. -/
def flipBit (w : List Byte) (k : Nat) : List Byte := w.modify ((8767 - k) / 8) (fun b => b ^^^ (1#8 <<< (k % 8)))

/-- What a read of a codeword gives: its message bytes and the bits corrected, all-ones where it counts as
erased, nothing where it fails to decode. -/
def readCodeword (w : List Byte) : Option (List Byte × Nat) :=
  if 8768 - ((bitsOf w).filter id).length ≤ 40 then some (List.replicate 1026 0xFF, 0)
  else (errorPlaces (syndromes (bitsOf w))).map (fun l => ((l.foldl flipBit w).take 1026, l.length))

-- ---------------------------------------------------------------- pages (R450, R453)

/-- Metadata bytes 0 to 23. -/
def metaHead (m : PageMeta) : List Byte :=
  [m.region, m.kind, 0, 0] ++ leBytes 4 m.page.toNat ++ leBytes 8 m.seq.toNat ++ leBytes 4 m.hours.toNat ++
    leBytes 4 m.gen.toNat

/-- The 32 metadata bytes of a page with this data. -/
def metaBytes (m : PageMeta) (data : List Byte) : List Byte :=
  metaHead m ++ leBytes 4 (crc32c (data ++ metaHead m)).toNat ++ leBytes 4 0

/-- The message of codeword `j`. -/
def cwMessage (data md : List Byte) (j : Nat) : List Byte :=
  (data.drop (1024 * j)).take 1024 ++ (md.drop (2 * j)).take 2

/-- A page as it is programmed, with `spare` bytes beyond its data: sixteen codewords, then 0xFF. -/
def flashPage (m : PageMeta) (data : List Byte) (spare : Nat) : List Byte :=
  let md := metaBytes m data
  (List.range 16).flatMap (fun j => codeword (cwMessage data md j)) ++ List.replicate (spare - 1152) 0xFF

/-- Bytes of a page's data area: what it holds, then zeros. -/
def padPage (l : List Byte) : List Byte := l ++ List.replicate (16384 - l.length) 0

/-- What a read of one copy of a page gives: its data where it is valid, the bits corrected in all, and the most
in one codeword. -/
structure CopyRead where
  data : Option (List Byte) := none
  corrected : Nat := 0
  most : Nat := 0
deriving DecidableEq, Repr

/-- The bytes of a page once the sixteen codewords that can be have been decoded. -/
def decodePage (p : List Byte) : CopyRead :=
  let l := (List.range 16).map (fun j => readCodeword ((p.drop (1096 * j)).take 1096))
  let ok := l.filterMap id
  let data := ok.flatMap (fun e => e.1.take 1024)
  let md := ok.flatMap (fun e => e.1.drop 1024)
  let crc := natOfBytes ((md.drop 24).take 4)
  { data := if ok.length = 16 ∧ (crc32c (data ++ md.take 24)).toNat = crc then some data else none
    corrected := (ok.map (·.2)).foldl (· + ·) 0
    most := (ok.map (·.2)).foldl max 0 }

/-- The bits that a read finds wrong, at one read-retry level. -/
def flipsAt (errs : List PageErr) (region : Byte) (page : Nat) (b : Bool) (level : Nat) :
    List (BitVec 4 × BitVec 14) :=
  (errs.filter (fun e => decide (e.region.toNat = region.toNat ∧ e.page = page ∧ e.modB = b ∧
    e.level.toNat = level))).flatMap (·.flips)

/-- A page with bits that are wrong: coefficient `k` of codeword `j`. -/
def spoil (p : List Byte) (l : List (BitVec 4 × BitVec 14)) : List Byte :=
  l.foldl (fun p e => p.modify (1096 * e.1.toNat + (8767 - e.2.toNat) / 8)
    (fun b => b ^^^ (1#8 <<< (e.2.toNat % 8)))) p

/-- One attempt on a copy: a read that finds no bit wrong gives the page as it was programmed. -/
def readAttempt (m : PageMeta) (data : List Byte) (l : List (BitVec 4 × BitVec 14)) : CopyRead :=
  if l.isEmpty then { data := some data } else decodePage (spoil (flashPage m data 1152) l)

/-- A copy is read at level 0, and then at each read-retry level in turn until it is valid (R452); `n` more
levels are left after `level`. -/
def readCopy (m : PageMeta) (data : List Byte) (errs : List PageErr) (b : Bool) : Nat → Nat → CopyRead
  | 0, level => readAttempt m data (flipsAt errs m.region m.page.toNat b level)
  | n + 1, level =>
    let r := readAttempt m data (flipsAt errs m.region m.page.toNat b level)
    if r.data.isSome then r
    else
      let q := readCopy m data errs b n (level + 1)
      { q with corrected := r.corrected + q.corrected, most := max r.most q.most }

/-- A codeword whose wrong bits are `l` is read as it was programmed. -/
def patternReads (l : List Nat) : Bool :=
  let syn := (List.range 80).map (fun i => l.foldl (fun v k => v ^^^ gfAlpha ((i + 1) * k)) (0 : Gf))
  match errorPlaces syn with
  | some q => q.all (fun k => l.contains k) && l.all (fun k => q.contains k)
  | none => false

/-- One attempt on a copy of a Map page, whose bytes no rule lays out (R463): the code is linear, so what is read
depends on the wrong bits alone. -/
def mapAttempt (l : List (BitVec 4 × BitVec 14)) : CopyRead :=
  let cws := (List.range 16).map (fun j => (l.filter (fun e => decide (e.1.toNat = j))).map (fun e => e.2.toNat))
  let ok := cws.filter patternReads
  { data := if ok.length = 16 then some [] else none
    corrected := (ok.map (·.length)).foldl (· + ·) 0
    most := (ok.map (·.length)).foldl max 0 }

/-- A copy of a Map page is read at level 0, and then at each read-retry level in turn; `n` more are left. -/
def readMapCopy (errs : List PageErr) (page : Nat) (b : Bool) : Nat → Nat → CopyRead
  | 0, level => mapAttempt (flipsAt errs 0 page b level)
  | n + 1, level =>
    let r := mapAttempt (flipsAt errs 0 page b level)
    if r.data.isSome then r
    else
      let q := readMapCopy errs page b n (level + 1)
      { q with corrected := r.corrected + q.corrected, most := max r.most q.most }

/-- What a read of a page gives: its data, and what was found on each copy that was read. -/
structure PageOut where
  data : Option (List Byte) := none
  copies : List (Bool × CopyRead) := []
deriving DecidableEq, Repr

/-- A page is read from copy A where it is there, and from copy B where it is not, or where copy A is invalid at
every level (R452). -/
def readPage (a b : Bool) (f : Bool → CopyRead) : PageOut :=
  let r := f false
  let q := f true
  if a && (r.data.isSome || !b) then { data := r.data, copies := [(false, r)] }
  else if a then { data := q.data, copies := [(false, r), (true, q)] }
  else if b then { data := q.data, copies := [(true, q)] }
  else {}

end Sys2Proof.Machine
end

