-- ==== Sys2Proof/Machine/RegionMath.lean ====
section
/-! DEFINITION. What the Region Unit's pipelines compute (07, R199 to R208), as functions of the bytes
they read. -/

namespace Sys2Proof.Machine

-- ---------------------------------------------------------------- request blocks (R197, R199, R204)

def rqOp (b : BitVec 512) : Nat := (bits b 0 4).toNat
def rqRel (b : BitVec 512) : Bool := b.getLsbD 4
def rqSrc (b : BitVec 512) : Bool := b.getLsbD 5
def rqChain (b : BitVec 512) : Bool := b.getLsbD 6
def rqN1 (b : BitVec 512) : Nat := (bits b 32 32).toNat
def rqN2 (b : BitVec 512) : Nat := (bits b 64 32).toNat
def rqHandle (b : BitVec 512) : Word := bits b 96 32
def rqIn0 (b : BitVec 512) : Nat := (bits b 128 64).toNat
def rqIn1 (b : BitVec 512) : Nat := (bits b 192 64).toNat
def rqOut (b : BitVec 512) : Nat := (bits b 256 64).toNat
def rqStatus (b : BitVec 512) : Nat := (bits b 320 64).toNat
/-- Field of OPARG. -/
def rqArg (b : BitVec 512) (lo w : Nat) : Nat := (bits b (384 + lo) w).toNat

def cropW (b : BitVec 512) : Nat := rqArg b 0 10
def cropH (b : BitVec 512) : Nat := rqArg b 10 10
def cropLayout (b : BitVec 512) : Nat := rqArg b 20 2
def cropNearest (b : BitVec 512) : Bool := b.getLsbD 406
def cropFmt (b : BitVec 512) : Fmt := bits b 407 4
def cropProfile (b : BitVec 512) : Nat := rqArg b 27 3
def cropChannels (b : BitVec 512) : Nat := rqArg b 30 2
def cropStride (b : BitVec 512) : Nat := rqArg b 32 32

def decMode (b : BitVec 512) : Bool := b.getLsbD 480
def decFmtIn (b : BitVec 512) : Fmt := bits b 481 4
def decSig (b : BitVec 512) : Bool := b.getLsbD 485
def decMulti (b : BitVec 512) : Bool := b.getLsbD 486
def decCap (b : BitVec 512) : Nat := rqArg b 103 13
def decTheta (b : BitVec 512) : Word := bits b 448 32
def decAnchors (b : BitVec 512) : Nat := rqArg b 0 64

-- ---------------------------------------------------------------- sampling (R200)

/-- A box record: x1, y1, x2, y2. -/
structure FBox where
  x1 : Fv
  y1 : Fv
  x2 : Fv
  y2 : Fv
deriving DecidableEq, Repr

def boxOf (w : BitVec 128) : FBox where
  x1 := dec32 (bits w 0 32)
  y1 := dec32 (bits w 32 32)
  x2 := dec32 (bits w 64 32)
  y2 := dec32 (bits w 96 32)

def FBox.coords (b : FBox) : List Fv := [b.x1, b.y1, b.x2, b.y2]

/-- A box of which an output can be formed. -/
def boxValid (b : FBox) : Bool :=
  b.coords.all (fun v => fvLt v.abs (fvInt 1048576)) && fvLt b.x1 b.x2 && fvLt b.y1 b.y2

def half32 (v : Fv) : Fv := rne32 (fvMul v (.fin false 1 (-1)))
def fvHalf : Fv := .fin false 1 (-1)

/-- Sample position of an output pixel along one axis, in luma coordinates. -/
def sampleAt (a z : Fv) (n o : Nat) : Fv :=
  let step := rne32 (fvDiv (fvSub z a) (fvInt n))
  rne32 (fvSub (rne32 (fvAdd a (rne32 (fvMul (rne32 (fvAdd (fvInt o) fvHalf)) step)))) fvHalf)

/-- The position in the plane sampled: chroma is co-sited horizontally and centred vertically. -/
def samplePos (b : FBox) (w h ox oy : Nat) (chroma : Bool) : Fv × Fv :=
  let u := sampleAt b.x1 b.x2 w ox
  let v := sampleAt b.y1 b.y2 h oy
  if chroma then (half32 u, rne32 (fvMul (rne32 (fvSub v fvHalf)) fvHalf)) else (u, v)

def clampPx (x : Int) (n : Nat) : Nat := min x.toNat (n - 1)

/-- The pixels that a sample reads. -/
def samplePts (u v : Fv) (nearest : Bool) : List (Int × Int) :=
  if nearest then [(floorFv (rne32 (fvAdd u fvHalf)), floorFv (rne32 (fvAdd v fvHalf)))]
  else
    let i := floorFv u
    let j := floorFv v
    [(i, j), (i + 1, j), (i, j + 1), (i + 1, j + 1)]

/-- The sample itself, from the pixels as `p` gives them. -/
def sample (p : Int → Int → Fv) (u v : Fv) (nearest : Bool) : Fv :=
  if nearest then p (floorFv (rne32 (fvAdd u fvHalf))) (floorFv (rne32 (fvAdd v fvHalf)))
  else
    let i := floorFv u
    let j := floorFv v
    let fx := fvSub u (fvInt i)
    let fy := fvSub v (fvInt j)
    let mix (a z f : Fv) : Fv := rne32 (fvAdd a (rne32 (fvMul f (rne32 (fvSub z a)))))
    mix (mix (p i j) (p (i + 1) j) fx) (mix (p i (j + 1)) (p (i + 1) (j + 1)) fx) fy

/-- Address of a pixel: plane 0 is luma, 1 Cb, 2 Cr; coordinates clamp to the plane. -/
def pixelAddr (f : Surf) (plane : Nat) (i j : Int) : Nat :=
  if plane = 0 then f.addrY + clampPx j f.height * f.pitchY + clampPx i f.width * f.size
  else f.addrC + clampPx j (f.height / 2) * f.pitchC + (2 * clampPx i (f.width / 2) + (plane - 1)) * f.size

/-- A stored sample as a number: P010 keeps it in bits [15:6]. -/
def pixelVal (f : Surf) (rd : Nat → Byte) (a : Nat) : Fv :=
  if f.p010 then fvInt (((rd a).toNat + 256 * (rd (a + 1)).toNat) / 64 : Nat)
  else fvInt (rd a).toNat

def planesOf (b : BitVec 512) : List Nat := if cropChannels b = 2 then [0] else [0, 1, 2]

/-- Bytes that the pixels of one output pixel take up. -/
def pixelReads (b : BitVec 512) (f : Surf) (x : FBox) (ox oy : Nat) : List Nat :=
  (planesOf b).flatMap (fun pl =>
    let q := samplePos x (cropW b) (cropH b) ox oy (decide (pl ≠ 0))
    (samplePts q.1 q.2 (cropNearest b)).flatMap (fun e =>
      let a := pixelAddr f pl e.1 e.2
      if f.p010 then [a, a + 1] else [a]))

/-- Every byte of the picture that a CROP reads. -/
def cropReads (b : BitVec 512) (f : Surf) (boxes : List FBox) : List Nat :=
  (boxes.filter boxValid).flatMap (fun x =>
    (List.range (cropH b)).flatMap (fun oy =>
      (List.range (cropW b)).flatMap (fun ox => pixelReads b f x ox oy)))

-- ---------------------------------------------------------------- colour (R201)

/-- Word `i` of a colour profile: m in row order, o, sc, bi. -/
def cscWord (csc : SMap Word) (p i : Nat) : Fv := dec32 (mget 0 csc (32 * p + i))

/-- Output channel `k` of one pixel. -/
def cropChannel (csc : SMap Word) (b : BitVec 512) (y cb cr : Fv) (k : Nat) : Fv :=
  let w := cscWord csc (cropProfile b)
  let r := if cropChannels b = 1 then 2 - k else k
  let m (i : Nat) : Fv := w (3 * r + i)
  let t := if cropChannels b = 2 then y
    else
      let t := rne32 (fvMul (m 0) y)
      let t := rne32 (fvAdd t (rne32 (fvMul (m 1) cb)))
      let t := rne32 (fvAdd t (rne32 (fvMul (m 2) cr)))
      rne32 (fvAdd t (w (9 + r)))
  rne32 (fvAdd (rne32 (fvMul t (w (12 + r)))) (w (15 + r)))

/-- The encoded element of output channel `k` at an output pixel. -/
def cropElem (csc : SMap Word) (b : BitVec 512) (f : Surf) (rd : Nat → Byte) (x : FBox)
    (ox oy k : Nat) : Nat :=
  let smp (pl : Nat) : Fv :=
    let q := samplePos x (cropW b) (cropH b) ox oy (decide (pl ≠ 0))
    sample (fun i j => pixelVal f rd (pixelAddr f pl i j)) q.1 q.2 (cropNearest b)
  let y := smp 0
  let c (pl : Nat) : Fv := if cropChannels b = 2 then Fv.zero else smp pl
  (convNum (cropFmt b) (.flt (cropChannel csc b y (c 1) (c 2) k))).1

-- ---------------------------------------------------------------- layout (R202, R133, R153)

def cropS2d (b : BitVec 512) : Bool := decide (cropLayout b = 2)
def cropBytes (b : BitVec 512) : Nat := fmtBytes (cropFmt b)
def cropGs (b : BitVec 512) : Nat := if cropLayout b = 1 then 16 else 32
def cropPpr (b : BitVec 512) : Nat := 512 / (cropGs b * cropBytes b)
def mapW (b : BitVec 512) : Nat := if cropS2d b then cropW b / 4 else cropW b
def mapH (b : BitVec 512) : Nat := if cropS2d b then cropH b / 4 else cropH b
def mapLp (b : BitVec 512) : Nat := (mapW b + cropPpr b - 1) / cropPpr b
def mapPlanes (b : BitVec 512) : Nat := if cropS2d b then 2 else 1
/-- Bytes of one box's output. -/
def cropBoxBytes (b : BitVec 512) : Nat := mapPlanes b * mapH b * mapLp b * 512

/-- Channel `c` of map pixel (y, x), zero outside the picture and its channels. -/
def mapElem (b : BitVec 512) (px : Nat → Nat → Nat → Nat) (y x c : Nat) : Nat :=
  if x ≥ mapW b then 0
  else if cropS2d b then
    if c < 48 then px (4 * x + c % 12 / 3) (4 * y + c / 12) (c % 3) else 0
  else if c < (if cropChannels b = 2 then 1 else 3) then px x y c else 0

/-- The bytes of one box's output; `px ox oy k` are the elements. -/
def mapBytesOf (b : BitVec 512) (px : Nat → Nat → Nat → Nat) : List Byte :=
  (List.range (mapPlanes b)).flatMap (fun g =>
    (List.range (mapH b)).flatMap (fun y =>
      (List.range (mapLp b * cropPpr b)).flatMap (fun x =>
        (List.range (cropGs b)).flatMap (fun i =>
          leBytes (cropBytes b) (mapElem b px y x (cropGs b * g + i))))))

-- ---------------------------------------------------------------- candidates (R204, R205)

/-- A candidate record. -/
structure Cand where
  x1 : Word
  y1 : Word
  x2 : Word
  y2 : Word
  score : Word
  cls : Nat
  src : Nat
deriving DecidableEq, Repr

def candBytes (c : Cand) : List Byte :=
  bytesOf c.x1 4 ++ bytesOf c.y1 4 ++ bytesOf c.x2 4 ++ bytesOf c.y2 4 ++ bytesOf c.score 4 ++
    leBytes 4 (c.cls % 65536) ++ leBytes 4 c.src ++ leBytes 4 0

def candOf (w : BitVec 256) : Cand where
  x1 := bits w 0 32
  y1 := bits w 32 32
  x2 := bits w 64 32
  y2 := bits w 96 32
  score := bits w 128 32
  cls := (bits w 160 16).toNat
  src := (bits w 192 32).toNat

/-- VEXP.F32 of a value. -/
def vexp32 (z : Fv) : Fv := dec32 (BitVec.ofNat 32 (vexpElem (enc32 z).toNat).1)

def minEight (z : Fv) : Fv := if fvLt (fvInt 8) z then fvInt 8 else z

/-- The sigmoid of a score. -/
def sigmoid32 (x : Fv) : Fv :=
  match x with
  | .nan => .nan
  | _ =>
    let e := expB (x.abs.neg)
    let d := rne32 (fvAdd (fvInt 1) e)
    if fvLt x Fv.zero then rne32 (fvDiv e d) else rne32 (fvDiv (fvInt 1) d)

/-- The box of a location from its regression values and its anchor record. -/
def decodeBox (mode : Bool) (t : List Fv) (a : List Fv) : List Fv :=
  let r (i : Nat) : Fv := t.getD i Fv.zero
  let q (i : Nat) : Fv := a.getD i Fv.zero
  let mul (x y : Fv) : Fv := rne32 (fvMul x y)
  let add (x y : Fv) : Fv := rne32 (fvAdd x y)
  let sub (x y : Fv) : Fv := rne32 (fvSub x y)
  if mode then
    [sub (q 0) (mul (r 0) (q 2)), sub (q 1) (mul (r 1) (q 2)),
      add (q 0) (mul (r 2) (q 2)), add (q 1) (mul (r 3) (q 2))]
  else
    let cx := add (q 0) (mul (r 0) (q 2))
    let cy := add (q 1) (mul (r 1) (q 3))
    let w := half32 (mul (q 2) (vexp32 (minEight (r 2))))
    let h := half32 (mul (q 3) (vexp32 (minEight (r 3))))
    [sub cx w, sub cy h, add cx w, add cy h]

/-- The class of the highest score, the lowest index winning ties; NaN scores do not compete. -/
def bestClass (l : List Fv) : Option Nat :=
  (l.zipIdx).foldl (fun best e =>
    if e.1.isNan then best
    else match best with
      | none => some e.2
      | some i => if fvLt (l.getD i .nan) e.1 then some e.2 else best) none

/-- The classes of a location that are candidates or NaN: without MULTI the best one alone. -/
def classesOf (multi : Bool) (l : List Fv) : List Nat :=
  if multi then List.range l.length
  else match bestClass l with
    | some i => [i]
    | none => if l.isEmpty then [] else [0]

/-- The candidates of location `i`, with the number dropped for a NaN. -/
def locCands (b : BitVec 512) (i : Nat) (scores : List Fv) (box : List Fv) : List Cand × Nat :=
  let sc := scores.map (fun x => if decSig b then sigmoid32 x else x)
  let th := dec32 (decTheta b)
  (classesOf (decMulti b) sc).foldl (fun acc j =>
    let x := sc.getD j .nan
    if x.isNan then (acc.1, acc.2 + 1)
    else if !fvLe th x then acc
    else if box.any Fv.isNan then (acc.1, acc.2 + 1)
    else
      let w (k : Nat) : Word := enc32 (box.getD k Fv.zero)
      (acc.1 ++ [{ x1 := w 0, y1 := w 1, x2 := w 2, y2 := w 3, score := enc32 x, cls := j
                   src := i * rqN2 b + j }], acc.2)) ([], 0)

/-- Candidate `x` stands before `y`: the higher score, then the lower source index. -/
def candFirst (x y : Cand) : Bool :=
  fvLt (dec32 y.score) (dec32 x.score) ||
    (fvEq (dec32 x.score) (dec32 y.score) && decide (x.src < y.src))

/-- The `cap` first candidates, in source-index order. -/
def capCands (cap : Nat) (l : List Cand) : List Cand :=
  l.filter (fun c => decide ((l.filter (fun d => candFirst d c)).length < cap))

-- ---------------------------------------------------------------- overlap (R206)

def fvMin2 (a b : Fv) : Fv := if a.isNan || b.isNan then .nan else if fvLt b a then b else a
def fvMax2 (a b : Fv) : Fv := if a.isNan || b.isNan then .nan else if fvLt a b then b else a

def boxArea (a : FBox) : Fv :=
  rne32 (fvMul (fvMax2 (rne32 (fvSub a.x2 a.x1)) Fv.zero) (fvMax2 (rne32 (fvSub a.y2 a.y1)) Fv.zero))

def iouOf (a b : FBox) : Fv :=
  let side (a2 b2 a1 b1 : Fv) : Fv :=
    fvMax2 (rne32 (fvSub (fvMin2 a2 b2) (fvMax2 a1 b1))) Fv.zero
  let inter := rne32 (fvMul (side a.x2 b.x2 a.x1 b.x1) (side a.y2 b.y2 a.y1 b.y1))
  let union := rne32 (fvSub (rne32 (fvAdd (boxArea a) (boxArea b))) inter)
  if fvLt Fv.zero union then
    match rne32 (fvDiv inter union) with
    | .nan => Fv.zero
    | r => r
  else Fv.zero

-- ---------------------------------------------------------------- suppression (R207)

def candBox (c : Cand) : FBox where
  x1 := dec32 c.x1
  y1 := dec32 c.y1
  x2 := dec32 c.x2
  y2 := dec32 c.y2

/-- The score by which a candidate is ordered: a NaN ranks as a free value (log 29). -/
def rankScore (free : Nat) (e : Cand × Nat) : Fv :=
  match dec32 e.1.score with
  | .nan => match dec32 (Config.nanScore (4096 * free + e.2)) with
    | .nan => Fv.zero
    | x => x
  | x => x

/-- The walk's order: score descending, source index ascending, position. -/
def walksBefore (free : Nat) (x y : Cand × Nat) : Bool :=
  let a := rankScore free x
  let b := rankScore free y
  fvLt b a || (fvEq a b && (decide (x.1.src < y.1.src) || (decide (x.1.src = y.1.src) &&
    decide (x.2 < y.2))))

def insertCand (free : Nat) (x : Cand × Nat) : List (Cand × Nat) → List (Cand × Nat)
  | [] => [x]
  | y :: l => if walksBefore free x y then x :: y :: l else y :: insertCand free x l

def walkOrder (free : Nat) (l : List Cand) : List Cand :=
  ((l.zipIdx).foldl (fun acc e => insertCand free e acc) []).map (·.1)

/-- The candidates kept, in walk order. -/
def suppressWalk (tau : Fv) (maxOut : Nat) : List Cand → List Cand → List Cand
  | [], kept => kept
  | c :: l, kept =>
    if kept.length ≥ maxOut then kept
    else if kept.any (fun k => decide (k.cls = c.cls) && fvLt tau (iouOf (candBox k) (candBox c))) then
      suppressWalk tau maxOut l kept
    else suppressWalk tau maxOut l (kept ++ [c])

-- ---------------------------------------------------------------- the IoU matrix (R208)

/-- Row `i` of the matrix, with its padding columns at -1.0. -/
def iouRow (a : FBox) (l : List FBox) (pitch : Nat) : List Byte :=
  (l.flatMap (fun x => bytesOf (enc32 (iouOf a x)) 4)) ++
    (List.range (pitch / 4 - l.length)).flatMap (fun _ => bytesOf (0xBF800000 : Word) 4)

end Sys2Proof.Machine
end

