-- ==== Sys2Proof/Machine/Region.lean ====
section
/-! DEFINITION. The Region Unit (07, R197, R198, R209 to R211; 01, R25): commands submitted, accepted,
run by the four pipelines, and completed. -/

namespace Sys2Proof.Machine

def pipeCrop : Nat := 0
def pipeDecode : Nat := 1
def pipeSuppress : Nat := 2
def pipeIou : Nat := 3

-- ---------------------------------------------------------------- checks (R209, R210)

/-- A reserved OP, or another reserved value. -/
def rqReserved (b : BitVec 512) : Bool :=
  let op := rqOp b
  decide (op = 0 ∨ op > 4 ∨ bits b 7 25 ≠ 0) || (rqChain b && decide (op ≠ 2)) ||
    (!rqSrc b && decide (rqHandle b ≠ 0)) || (decide (op = 1 ∨ op = 3) && decide (rqN2 b ≠ 0)) ||
    (decide (op = 1) && (decide (cropLayout b = 3 ∨ cropChannels b = 3 ∨ rqArg b 64 64 ≠ 0 ∨
      cropStride b % 512 ≠ 0) || !(decide (cropFmt b = 0 ∨ cropFmt b = 1 ∨ cropFmt b = 6 ∨
        cropFmt b = 7)) || (cropS2d b && decide (cropChannels b = 2 ∨ cropW b % 4 ≠ 0 ∨
          cropH b % 4 ≠ 0)))) ||
    (decide (op = 2) && (decide (rqArg b 116 12 ≠ 0) || !(decide (decFmtIn b = 6 ∨ decFmtIn b = 7 ∨
      decFmtIn b = 8)))) ||
    (decide (op = 4) && decide (rqArg b 0 32 % 512 ≠ 0))

def within (v lo hi : Nat) : Bool := decide (lo ≤ v ∧ v ≤ hi)

/-- A count or size outside its range; a chained SUPPRESS has no N1 of its own. -/
def rqRange (b : BitVec 512) (chained : Bool) : Bool :=
  let op := rqOp b
  if op = 1 then
    !(within (rqN1 b) 1 1024 && within (cropW b) 16 512 && within (cropH b) 16 512)
  else if op = 2 then !(within (rqN2 b) 1 1024 && within (decCap b) 1 4096)
  else if op = 3 then !((chained || within (rqN1 b) 1 4096) && within (rqArg b 32 32) 1 4096)
  else !(within (rqN1 b) 1 1024 && within (rqN2 b) 1 1024)

/-- What R209 holds against the cap. -/
def rqLoad (b : BitVec 512) : Nat :=
  let op := rqOp b
  if op = 1 then rqN1 b * cropW b * cropH b
  else if op = 2 ∨ op = 4 then rqN1 b * rqN2 b
  else 0

/-- RU_PIXCAP of a Basket: as written, else the default of R209. -/
def pixcapOf (s : State) (b : Nat) : Word :=
  mget (if (bskOf s b).standing then 0xFFFFFFFF else 4194304) s.ru.pixcap b

/-- The reason that a handle gives: not held for the Basket, or stale, or about to be released (R195). -/
def rqHandleBad (s : State) (bsk : Nat) (b : BitVec 512) : Option Nat :=
  if rqSrc b then
    match frameOf s (rqHandle b) with
    | none => some 4
    | some e =>
      if e.basket.toNat ≠ bsk then some 4
      else if !(e.st == .owned || e.st == .borrowed) || (e.armed && decide (e.refs = 0)) then some 5
      else none
  else none

/-- BOX_STRIDE or ROW_PITCH too small. -/
def rqPitchBad (b : BitVec 512) : Bool :=
  if rqOp b = 1 then decide (cropStride b < cropBoxBytes b)
  else if rqOp b = 4 then decide (rqArg b 0 32 < 4 * rqN2 b)
  else false

/-- The reason of REGION_BAD that a request block has at its acceptance, the lowest that applies. -/
def rqBad (s : State) (bsk : Nat) (b : BitVec 512) (chained : Bool) : Option Nat :=
  if rqReserved b then some 1
  else if rqRange b chained then some 2
  else if rqLoad b > (pixcapOf s bsk).toNat then some 3
  else match rqHandleBad s bsk b with
    | some r => some r
    | none => if rqPitchBad b then some 7 else none

/-- The same for a command of one block, or of two when it is chained. -/
def cmdBadReason (s : State) (bsk : Nat) (b b2 : BitVec 512) : Option Nat :=
  match rqBad s bsk b false with
  | some r => some r
  | none =>
    if rqChain b then
      if rqOp b2 ≠ 3 || rqChain b2 then some 1 else rqBad s bsk b2 true
    else none

-- ---------------------------------------------------------------- memory of a command

/-- The pages of a list of byte addresses, in order, each once. -/
def pagesOf (l : List Nat) : List Nat := (l.map (· / 4096)).eraseDups

/-- Translates a list of pages; the first that fails is returned with the address. -/
def xlatPages (b : Nat) (slot : Option Nat) (store : Bool) : List Nat → State → Option (Nat × Xlat) × State
  | [], s => (none, s)
  | p :: l, s =>
    let r := translate s b slot (p * 4096) store
    match r.1 with
    | .ok _ => xlatPages b slot store l r.2
    | x => (some (p * 4096, x), r.2)

/-- Byte addresses of a range. -/
def span (a n : Nat) : List Nat := (List.range n).map (fun i => a + i)

/-- A byte at a virtual address whose page translates. -/
def virtByte (s : State) (b : Nat) (slot : Option Nat) (va : Nat) : Byte :=
  match (translate s b slot va false).1 with
  | .ok pa => busByte s pa
  | _ => 0

def virtWord (s : State) (b : Nat) (slot : Option Nat) (va n : Nat) : Nat :=
  natOfBytes ((span va n).map (virtByte s b slot))

/-- Bytes of one line written at a physical address: into memory, or as the peer's line (R425). -/
def putPart (s : State) (c pa : Nat) (l : List Byte) : State :=
  if (apertureOf s pa).isSome then
    let a := pa / 128 * 128
    let old := (span a 128).map (busByte s)
    let new := old.take (pa - a) ++ l ++ old.drop (pa - a + l.length)
    putLine s c a (BitVec.ofNat 1024 (natOfBytes new))
  else { s with mem := wrBytes s.mem pa l }

/-- Writes bytes at virtual addresses, line by line. -/
def putVirt (c b : Nat) (slot : Option Nat) : Nat → Nat → List Byte → State → State
  | 0, _, _, s => s
  | n + 1, va, l, s =>
    match l with
    | [] => s
    | _ =>
      let k := 128 - va % 128
      let s' := match (translate s b slot va true).1 with
        | .ok pa => putPart s c pa (l.take k)
        | _ => s
      putVirt c b slot n (va + k) (l.drop k) s'

def putOut (s : State) (c b : Nat) (slot : Option Nat) (w : Nat × List Byte) : State :=
  putVirt c b slot (w.2.length / 128 + 2) w.1 w.2 s

/-- Lines of 128 bytes among these addresses. -/
def linesIn (l : List Nat) : Nat := (l.map (· / 128)).eraseDups.length

/-- Outputs that follow one another are one. -/
def joinOuts : List (Nat × List Byte) → List (Nat × List Byte)
  | [] => []
  | w :: l =>
    match joinOuts l with
    | [] => [w]
    | x :: m => if w.1 + w.2.length = x.1 then (w.1, w.2 ++ x.2) :: m else w :: x :: m

/-- Output travels as whole aligned lines (R326): bytes of its first and last line that it does not fill are
free (DESIGN CHOICE, log 85). -/
def wholeLines (n : Nat) (w : Nat × List Byte) : Nat × List Byte :=
  let fill (a k : Nat) : List Byte := (List.range k).map (fun i => Config.fillByte (n * 2 ^ 64 + a + i))
  let lo := w.1 / 128 * 128
  let hi := w.1 + w.2.length
  if w.2.isEmpty then w else (lo, fill lo (w.1 - lo) ++ w.2 ++ fill hi ((128 - hi % 128) % 128))

-- ---------------------------------------------------------------- submission (R343, R197)

/-- A Region command of the context's ring stands with the unit: it waits for acceptance or a pipeline. -/
def ringRegion (s : State) (c : Nat) : Bool :=
  let mine (r : RegionCmd) : Bool := decide (r.ctx = c ∧ r.src = .ring)
  s.ru.calls.any mine || s.ru.queue.any (fun e => mine e.2)

/-- REGION: the ring's command is handed over. -/
def regionStart (ctx : CtxId) (s : State) : State :=
  let c := ctx.toNat
  match (ctxOf s c).cur with
  | some (.region req) =>
    if canStart s c then
      let s := beginCmd s c .running
      if ringRegion s c then s
      else { s with ru := { s.ru with
        next := s.ru.next + 1
        calls := s.ru.calls ++ [{
          id := s.ru.next, counts := true, ctx := c, basket := (ctxOf s c).basket.toNat, src := .ring
          req := req, block := 0, block2 := 0 }] } }
    else s
  | _ => s

/-- A command whose context waits for a fault's answer, or whose ring is held, is not taken up (R211). -/
def regionHeld (s : State) (r : RegionCmd) : Bool :=
  let st := (ctxOf s r.ctx).state
  st == .faultWait || st == .faultPending ||
    (decide (r.src = .ring) && !(st == .running))

-- ---------------------------------------------------------------- acceptance (R209, R195)

/-- A frame entry gains a reference. -/
def addRef (s : State) (b : BitVec 512) : State :=
  match blockHandle b with
  | some h => updFrames s (fun e => if e.handle = h then { e with refs := e.refs + 1 } else e)
  | none => s

def dropCallOf (s : State) (id : Nat) : State :=
  { s with ru := { s.ru with calls := s.ru.calls.filter (fun r => decide (r.id ≠ id)) } }

def unqueue (s : State) (r : RegionCmd) : State :=
  { s with ru := { s.ru with queue := s.ru.queue.filter (fun e => decide (e.2.id ≠ r.id)) } }

/-- The references of a command end with it (R193). -/
def dropRefs (s : State) (r : RegionCmd) : State := dropRef (dropRef s r.block) r.block2

/-- A command is discarded wherever it stands; one that was accepted gives its references back. -/
def discardCmd (s : State) (r : RegionCmd) : State :=
  dropCallOf (unqueue (if s.ru.queue.any (fun e => decide (e.2.id = r.id)) then dropRefs s r else s) r) r.id

/-- The context of a command can still take a fault of it. -/
def cmdLive (s : State) (r : RegionCmd) : Bool := !r.torn && canTear (ctxOf s r.ctx)

/-- A Region command's memory access fails (R211): a page fault leaves it queued, and any other failure tears its
context down; a command whose context is gone is discarded. -/
def regionFault (s : State) (r : RegionCmd) (va : Nat) (store : Bool) (x : Xlat) : State :=
  if cmdLive s r then xlatFault s r.ctx none va store true x else discardCmd s r

/-- The completion record (R198): status, items, items dropped, and the time. -/
def recordBytes (s : State) (status items dropped : Nat) : List Byte :=
  leBytes 4 status ++ leBytes 4 items ++ leBytes 4 dropped ++ leBytes 4 (now s).toNat

/-- REGION_BAD: the completion record with the reason in word 0, where it translates, and no other output
(R210); nothing was produced or dropped (DEDUCED, log 85). -/
def regionBad (s : State) (r : RegionCmd) (slot : Option Nat) (reason : Nat) : State :=
  let a := rqStatus r.block
  let t := xlatPages r.basket slot true (pagesOf (span a 16)) s
  let s := match t.1 with
    | none => putOut (takeCredit t.2 r.basket 1) r.ctx r.basket slot (a, recordBytes s reason 0 0)
    | some _ => t.2
  if cmdLive s r then cmdFault s r.ctx tfRegionBad reason else s

/-- The checks of a command whose block has been read. -/
def acceptBlock (s : State) (r : RegionCmd) (slot : Option Nat) : State :=
  let s := dropCallOf s r.id
  match cmdBadReason s r.basket r.block r.block2 with
  | some k => regionBad s r slot k
  | none =>
    let s := addRef (addRef s r.block) r.block2
    { s with ru := { s.ru with queue := s.ru.queue ++ [(rqOp r.block - 1, r)] } }

/-- A command can have its memory read now: a walker is free and its Basket has credit (R311, R331). -/
def mayRead (s : State) (r : RegionCmd) : Bool := walkerFree s && hasCredit s r.basket

/-- The request block of a command is read, both of its halves where the DECODE is chained (R197). -/
def readBlock (s : State) (r : RegionCmd) : State :=
  let slot := slotOfCtx s r.ctx
  let a := r.req.toNat
  let t := xlatPages r.basket slot false (pagesOf (span a 64)) s
  match t.1 with
  | some (va, x) => regionFault t.2 r va false x
  | none =>
    let b := BitVec.ofNat 512 (virtWord t.2 r.basket slot a 64)
    let s := takeCredit t.2 r.basket 1
    if rqChain b && decide (rqOp b = 2) then
      let u := xlatPages r.basket slot false (pagesOf (span (a + 64) 64)) s
      match u.1 with
      | some (va, x) => regionFault u.2 r va false x
      | none =>
        let b2 := BitVec.ofNat 512 (virtWord u.2 r.basket slot (a + 64) 64)
        acceptBlock (takeCredit u.2 r.basket 1) { r with block := b, block2 := b2 } slot
    else acceptBlock s { r with block := b } slot

/-- REGION_ACCEPT: the oldest command handed over that is not held. With an uncorrectable error in its word of
the queue (R488) it is discarded, and its context torn down with reason 8. -/
def regionAccept (ecc : Ecc) (s : State) : State :=
  match s.ru.calls.find? (fun r => !regionHeld s r) with
  | none => s
  | some r =>
    if !mayRead s r then s
    else
      let s := tableEcc s srcRu (some r.ctx) ecc
      if ecc == .double then cmdFault (dropCallOf s r.id) r.ctx tfRegionBad 8 else readBlock s r

-- ---------------------------------------------------------------- the pipelines

/-- What a pipeline makes of a command: a translation that fails, a bad descriptor, or its output. -/
inductive RunRes where
  | fault (va : Nat) (x : Xlat)
  | bad (reason : Nat)
  | done (reads : List Nat) (out : List (Nat × List Byte)) (items dropped : Nat)
deriving DecidableEq, Repr

/-- Reads once every page of `l` translates: `f` then has the bytes. -/
def reading (s : State) (r : RegionCmd) (l : List Nat) (f : State → RunRes × State) : RunRes × State :=
  let t := xlatPages r.basket (slotOfCtx s r.ctx) false (pagesOf l) s
  match t.1 with
  | some (va, x) => (.fault va x, t.2)
  | none => f t.2

def readBoxes (s : State) (r : RegionCmd) (a n : Nat) : List FBox :=
  (List.range n).map (fun i =>
    boxOf (BitVec.ofNat 128 (virtWord s r.basket (slotOfCtx s r.ctx) (a + 16 * i) 16)))

/-- The picture that a CROP reads: a frame's, physical, or a surface's. -/
def cropSurf (s : State) (r : RegionCmd) : BitVec 512 :=
  if rqSrc r.block then frameDesc s (rqHandle r.block)
  else BitVec.ofNat 512 (virtWord s r.basket (slotOfCtx s r.ctx) (rqIn1 r.block) 64)

/-- CROP (R199 to R203) once its boxes and its picture can be read. -/
def cropOut (s : State) (r : RegionCmd) (f : Surf) (boxes : List FBox) : List (Nat × List Byte) :=
  let b := r.block
  let rd : Nat → Byte := if f.virt then virtByte s r.basket (slotOfCtx s r.ctx) else busByte s
  (boxes.zipIdx).map (fun e =>
    (rqOut b + e.2 * cropStride b,
      mapBytesOf b (fun ox oy k =>
        if boxValid e.1 then cropElem s.ru.csc b f rd e.1 ox oy k else 0)))

def cropRun (s : State) (r : RegionCmd) : RunRes × State :=
  let b := r.block
  let inBytes := span (rqIn0 b) (16 * rqN1 b)
  let descBytes := if rqSrc b then [] else span (rqIn1 b) 64
  reading s r (inBytes ++ descBytes) (fun s =>
    let d := cropSurf s r
    let f := surfOf d (!rqSrc b)
    if !surfOk d then (.bad 6, s)
    else
      let boxes := readBoxes s r (rqIn0 b) (rqN1 b)
      let px := cropReads b f boxes
      let bad := (boxes.filter (fun x => !boxValid x)).length
      let fin (s : State) : RunRes × State :=
        (.done (inBytes ++ descBytes ++ px) (cropOut s r f boxes) boxes.length bad,
          count s 265 (rqLoad b))
      if f.virt then reading s r px fin else fin s)

/-- DECODE (R204, R205). -/
def decodeRun (s : State) (r : RegionCmd) : RunRes × State :=
  let b := r.block
  let slot := slotOfCtx s r.ctx
  let n1 := rqN1 b
  let n2 := rqN2 b
  let e := fmtBytes (decFmtIn b)
  let l := span (rqIn0 b) (4 * e * n1) ++ span (rqIn1 b) (e * n1 * n2) ++ span (decAnchors b) (16 * n1)
  reading s r l (fun s =>
    let val (a : Nat) : Fv := decFloat (decFmtIn b) (virtWord s r.basket slot a e)
    let res := (List.range n1).foldl (fun (acc : List Cand × Nat) i =>
      let t := (List.range 4).map (fun k => val (rqIn0 b + e * (4 * i + k)))
      let a := (List.range 4).map (fun k =>
        dec32 (BitVec.ofNat 32 (virtWord s r.basket slot (decAnchors b + 16 * i + 4 * k) 4)))
      let sc := (List.range n2).map (fun j => val (rqIn1 b + e * (i * n2 + j)))
      let x := locCands b i sc (decodeBox (decMode b) t a)
      (acc.1 ++ x.1, acc.2 + x.2)) ([], 0)
    let kept := capCands (decCap b) res.1
    (.done l [(rqOut b, kept.flatMap candBytes)] kept.length (res.2 + (res.1.length - kept.length)), s))

/-- SUPPRESS (R207). -/
def suppressRun (s : State) (r : RegionCmd) : RunRes × State :=
  let b := r.block
  let slot := slotOfCtx s r.ctx
  let l := span (rqIn0 b) (32 * rqN1 b)
  reading s r l (fun s =>
    let cs := (List.range (rqN1 b)).map (fun i =>
      candOf (BitVec.ofNat 256 (virtWord s r.basket slot (rqIn0 b + 32 * i) 32)))
    let kept := suppressWalk (dec32 (bits b 384 32)) (rqArg b 32 32) (walkOrder s.freeCount cs) []
    (.done l [(rqOut b, kept.flatMap candBytes)] kept.length 0, { s with freeCount := s.freeCount + 1 }))

/-- IOU (R208). -/
def iouRun (s : State) (r : RegionCmd) : RunRes × State :=
  let b := r.block
  let l := span (rqIn0 b) (16 * rqN1 b) ++ span (rqIn1 b) (16 * rqN2 b)
  let pitch := rqArg b 0 32
  reading s r l (fun s =>
    let bs := readBoxes s r (rqIn1 b) (rqN2 b)
    let out := ((readBoxes s r (rqIn0 b) (rqN1 b)).zipIdx).map (fun e =>
      (rqOut b + e.2 * pitch, iouRow e.1 bs pitch))
    (.done l out (rqN1 b * rqN2 b) 0, s))

-- ---------------------------------------------------------------- starting a command (R25)

/-- The first command of a Basket that waits for a pipeline. -/
def nextOf (s : State) (pipe b : Nat) : Option RegionCmd :=
  (s.ru.queue.find? (fun e => decide (e.1 = pipe ∧ e.2.basket = b) && !regionHeld s e.2)).map (·.2)

/-- The Basket whose turn it is (R12). -/
def nextCmd (s : State) (pipe : Nat) : Option RegionCmd :=
  let p := mget 0 s.ru.rr pipe
  (List.range 16).findSome? (fun i => nextOf s pipe ((p + i) % 16))

/-- A command has been taken: the Basket above it goes first the next time (R12). -/
def tookCmd (s : State) (pipe : Nat) (r : RegionCmd) : State :=
  { s with ru := { s.ru with rr := mset 0 s.ru.rr pipe ((r.basket + 1) % 16) } }

/-- The line of a virtual address, where it translates. -/
def linePa (s : State) (b : Nat) (slot : Option Nat) (va : Nat) : Option DWord :=
  match (translate s b slot va true).1 with
  | .ok pa => some (BitVec.ofNat 64 (pa / 128 * 128))
  | _ => none

/-- The output is written and the command awaits its completion. -/
def runDone (s : State) (pipe : Nat) (r : RegionCmd) (reads : List Nat) (out : List (Nat × List Byte))
    (items dropped : Nat) : State :=
  let slot := slotOfCtx s r.ctx
  let out := (joinOuts out).map (wholeLines s.freeCount)
  let all := out.flatMap (fun w => span w.1 w.2.length)
  let t := xlatPages r.basket slot true (pagesOf all) s
  match t.1 with
  | some (va, x) => regionFault t.2 r va true x
  | none =>
    let s := takeCredit t.2 r.basket (linesIn reads + linesIn all)
    let s := out.foldl (fun s w => putOut s r.ctx r.basket slot w) s
    let s := unqueue s r
    { s with ru := { s.ru with
        running := mset none s.ru.running pipe (some {
          cmd := r, items := items, dropped := dropped, sent := now s
          last := all.getLast?.bind (linePa s r.basket slot) }) } }

/-- A bad descriptor ends the command: it is discarded with its references. -/
def runBad (s : State) (r : RegionCmd) (reason : Nat) : State :=
  regionBad (discardCmd s r) r (slotOfCtx s r.ctx) reason

/-- A pipeline that is free takes its next command and carries it out. -/
def runPipe (pipe : Nat) (f : State → RegionCmd → RunRes × State) (s : State) : State :=
  match mget none s.ru.running pipe, nextCmd s pipe with
  | none, some r =>
    if !mayRead s r then s
    else
      let x := f { tookCmd s pipe r with freeCount := s.freeCount + 1 } r
      match x.1 with
      | .fault va y => regionFault x.2 r va false y
      | .bad k => runBad x.2 r k
      | .done reads out items dropped => runDone x.2 pipe r reads out items dropped
  | _, _ => s

-- ---------------------------------------------------------------- completion (R198, R193)

/-- A command with REL arms the entry of the handle it names. -/
def armRel (s : State) (b : BitVec 512) : State :=
  match blockHandle b with
  | some h =>
    if rqRel b then updFrames s (fun e => if e.handle = h then { e with armed := true } else e) else s
  | none => s

/-- A call that left a core is over: it goes from the core, or from what the saved task keeps. -/
def callDone (s : State) (x t : Nat) (p : OutCall → Bool) : State :=
  let s := match residentCore s x t with
    | some c => updSeq s c (fun q => { q with calls := q.calls.filter (fun o => !p o) })
    | none => s
  let keep (e : Nat × List OutCall) : Nat × List OutCall :=
    if e.1 = t then (e.1, e.2.filter (fun o => !p o)) else e
  updCtx s x (fun k => { k with lateCalls := (k.lateCalls.map keep).filter (fun e => !e.2.isEmpty) })

def isRegionCall (id : Nat) : OutCall → Bool
  | .region i _ => i == id
  | .append .. => false

/-- The command is complete: its counter, or the command processor, learns of it. -/
def regionReport (s : State) (r : RegionCmd) : State :=
  match r.src with
  | .ring => if r.counts && (ctxOf s r.ctx).started then finishCmd s r.ctx else s
  | .core _ t ac ord =>
    let old := callOld s r.ctx t ord (isRegionCall r.id)
    let s := callDone s r.ctx t (isRegionCall r.id)
    if r.counts then acIncCtx s r.ctx t ac.toNat 1 old else s

/-- A chained DECODE hands its output to the suppression pipeline's queue (R207). -/
def chainOn (s : State) (x : RegionRun) : State :=
  let r := x.cmd
  let b := putBits (putBits r.block2 32 (BitVec.ofNat 32 x.items)) 128 (bits r.block 256 64)
  { s with ru := { s.ru with
      queue := s.ru.queue ++ [(pipeSuppress, { r with block := b, block2 := r.block })] } }

def regionEnd (s : State) (x : RegionRun) : State :=
  if rqChain x.cmd.block then (if x.cmd.torn then dropRefs s x.cmd else chainOn s x)
  else
    let b := x.cmd.block
    let b2 := x.cmd.block2
    regionReport (armRel (armRel (dropRef (dropRef s b) b2) b) b2) x.cmd

/-- The read-back of the last output line fails; one without a response once its time has passed (R323). -/
def readbackFails (s : State) (x : RegionRun) (pa : DWord) (silent : Bool) : State :=
  let s := dropRefs s x.cmd
  if cmdLive s x.cmd then addrFault s x.cmd.ctx tfMemError (if silent then 3 else 1) none pa.toNat else s

/-- The completion record cannot be written: the command runs again, and where its context already waits for an
answer that is all. -/
def recordFault (s : State) (pipe : Nat) (r : RegionCmd) (va : Nat) (y : Xlat) : State :=
  let s := { s with ru := { s.ru with queue := (pipe, r) :: s.ru.queue } }
  let st := (ctxOf s r.ctx).state
  if !r.torn && (st == .faultWait || st == .faultPending) then s else regionFault s r va true y

/-- The completion record is written and the command is over. -/
def writeRecord (s : State) (pipe : Nat) (x : RegionRun) : State :=
  let r := x.cmd
  let slot := slotOfCtx s r.ctx
  let a := rqStatus r.block
  let t := xlatPages r.basket slot true (pagesOf (span a 16)) s
  match t.1 with
  | some (va, y) => recordFault t.2 pipe r va y
  | none =>
    regionEnd (putOut (takeCredit t.2 r.basket 1) r.ctx r.basket slot
      (a, recordBytes s 0 x.items x.dropped)) x

/-- REGION_COMPLETE: the last line of the output is read back, the record is written, and the command is
over. Lines still at a link keep it waiting (R427). -/
def regionComplete (pipe : Nat) (resp : Resp) (s : State) : State :=
  match mget none s.ru.running pipe with
  | none => s
  | some x =>
    if linkBusy s x.cmd.ctx || !mayRead s x.cmd then s
    else
      let s' := { s with ru := { s.ru with running := mset none s.ru.running pipe none } }
      match resp, x.last with
      | .ok, _ => writeRecord s' pipe x
      | _, none => writeRecord s' pipe x
      | e, some pa =>
        if mayFail s (decide (e = .none)) x.sent then readbackFails s' x pa (decide (e = .none)) else s

-- ---------------------------------------------------------------- the commands

def execRegion (ctx : CtxId) (s : State) : Out := .next (regionStart ctx s)
def execRegionAccept (ecc : Ecc) (s : State) : Out := .next (regionAccept ecc s)
def execCrop (s : State) : Out := .next (runPipe pipeCrop cropRun s)
def execDecode (s : State) : Out := .next (runPipe pipeDecode decodeRun s)
def execSuppress (s : State) : Out := .next (runPipe pipeSuppress suppressRun s)
def execIou (s : State) : Out := .next (runPipe pipeIou iouRun s)
def execRegionComplete (pipe : BitVec 2) (resp : Resp) (s : State) : Out :=
  .next (regionComplete pipe.toNat resp s)

end Sys2Proof.Machine
end

