-- ==== Sys2Proof/Machine/StoreBase.lean ====
section
/-! DEFINITION. The Ingot Store's media (16, R445 to R472): the part profile, blocks and stripes, log
pages and their programs, modules, the commit and the mount. -/

namespace Sys2Proof.Machine

def updStore (s : State) (f : Store → Store) : State := { s with store := f s.store }

def storeOff : Nat := 0x1700000
def stMounted (s : State) : Bool := decide (s.store.st = 2)

/-- An event of ST_EVENT (R480). -/
def stEvent (s : State) (bit : Nat) : State :=
  updStore s (fun t => { t with event := scEvent t.event (1#24 <<< bit) })

def stPost (s : State) (code : Nat) : State := post s code srcStore none 0 0

-- ---------------------------------------------------------------- the part profile (R449)

def profWord (s : State) (i : Nat) : Word := temperWord s (0x40 + i)
def profField (s : State) (i lo w : Nat) : Nat := (bits (profWord s i) lo w).toNat
def profTargets (s : State) : BitVec 16 := bits (profWord s 1) 0 16
def profLuns (s : State) : Nat := profField s 1 16 1 + 1
def profBlocks (s : State) : Nat := profField s 2 0 17
def profPages (s : State) : Nat := profField s 2 17 12
def profEndurance (s : State) : Nat := profField s 8 0 24
/-- Maximum time of an operation in ticks. -/
def profTime (s : State) (erase : Bool) : Nat :=
  100 * (if erase then profField s 7 0 16 else profField s 6 16 16)

/-- Reserved bits of the sixteen words. -/
def profReserved : List Word :=
  [0, 0xFFC00000, 0xE0000000, 0xFFF00000, 0xFFFFFE00, 0, 0, 0xFFFF0000, 0xFF000000, 0xFFC00000,
    0xFFFFF000, 0xFFFFFFFF, 0xFFFFFFF8, 0xFFFFFFFF, 0xFFFFFFFF, 0xFFFFFFFF]

/-- The profile is readable and every field is in its range. -/
def profOk (s : State) : Bool :=
  (List.range 16).all (fun i => !temperUnreadable s (0x40 + i) &&
    decide (profWord s i &&& profReserved.getD i 0 = 0)) &&
  decide (profField s 1 17 2 ≠ 3 ∧ 2 ≤ profField s 1 19 3 ∧ profField s 1 19 3 ≤ 4) &&
  decide (1 ≤ profBlocks s ∧ profBlocks s ≤ 65536 ∧ 64 ≤ profPages s ∧ profPages s ≤ 2048) &&
  decide (1152 ≤ profField s 3 0 16) &&
  decide (1 ≤ profField s 9 0 16 ∧ 8 ≤ profField s 9 16 6 ∧ profField s 9 16 6 ≤ 40)

-- ---------------------------------------------------------------- modules and blocks (R445, R471)

/-- A block's number: LUN position (channel, chip enable, LUN) times 65,536 plus the block. -/
def lunKey (ch ce lun : Nat) : Nat := ch * 8 + ce * 2 + lun
def blkLun (k : Nat) : Nat := k / 65536
def blkChan (k : Nat) : Nat := blkLun k / 8
def blkModB (k : Nat) : Bool := decide (blkChan k ≥ 2)
/-- CE and LUN of a block: its position on the channel. -/
def blkPos (k : Nat) : Nat := blkLun k % 8

def modOut (t : Store) (b : Bool) : Bool := if b then t.outB else t.outA
def chanPresent (t : Store) (ch : Nat) : Bool := !modOut t (decide (ch ≥ 2))

def blkOf (t : Store) (k : Nat) : Block := mget {} t.blocks k
def updBlk (t : Store) (k : Nat) (f : Block → Block) : Store :=
  { t with blocks := mset {} t.blocks k (f (blkOf t k)) }

/-- The blocks of a channel, by chip enables that are in use. -/
def chanBlocks (s : State) (ch : Nat) : List Nat :=
  (List.range 4).flatMap (fun ce =>
    if s.store.targets.getLsbD (4 * ch + ce) then
      (List.range (profLuns s)).flatMap (fun lun =>
        (List.range (profBlocks s)).map (fun b => lunKey ch ce lun * 65536 + b))
    else [])

def isGood (t : Store) (k : Nat) : Bool := decide ((blkOf t k).bad = 0)
def isFree (t : Store) (k : Nat) : Bool := isGood t k && decide ((blkOf t k).region = 4)
def allBlocks (s : State) : List Nat := (List.range 4).flatMap (chanBlocks s)
def goodCount (s : State) : Nat := ((allBlocks s).filter (isGood s.store)).length

/-- Blocks that the regions may still take (R455): four for each stripe not in use. -/
def owed (t : Store) : Nat :=
  4 * ((64 - t.mapStripes.length) + (t.journal.share - t.journal.stripes.length) +
    (t.gallery.share - t.gallery.stripes.length))

/-- Free spare blocks (R470). -/
def spareBlocks (s : State) : Nat := ((allBlocks s).filter (isFree s.store)).length - owed s.store

/-- The free block that a region takes on a channel (R454, R468): the lowest erase count, then the LUN
position `pos` where possible, then the lowest number. -/
def takeBlock (s : State) (ch pos : Nat) : Option Nat :=
  let rank (k : Nat) : Nat :=
    ((blkOf s.store k).erases * 2 + (if blkPos k = pos then 0 else 1)) * 2 ^ 21 + k
  ((chanBlocks s ch).filter (isFree s.store)).foldl (fun b k => match b with
    | none => some k
    | some x => if rank k < rank x then some k else some x) none

/-- Wall-clock second, 0 while it is not certain (R408). -/
def wallSecond (s : State) : Nat :=
  match s.sb.wall with
  | some (utc, tick) =>
    if s.sb.timeCertain then (utc.toNat + 10 * (now s - tick).toNat) / 1000000000 else 0
  | none => 0

/-- A block is given to a region. -/
def useBlock (s : State) (k region : Nat) : State :=
  let h := temperWord s 4
  let w := wallSecond s
  updStore s (fun t => updBlk t k (fun b => { b with region := region, hours := h, wall := w
                                                     corrected := 0 }))

/-- STORE_SPARE_LOW, once (R470). -/
def spareCheck (s : State) : State :=
  if stMounted s && !s.store.blank && !s.store.spareLow && decide (spareBlocks s * 50 < goodCount s) then
    postReplace (updStore s (fun t => { t with spareLow := true })) 0x187 srcStore 0 0 3
  else s

/-- A block is erased: it is free again, or, at the end of its endurance, retired (R468). -/
def eraseBlock (s : State) (k : Nat) : State :=
  updStore s (fun t => updBlk t k (fun b =>
    { b with region := 4, erases := b.erases + 1, corrected := 0, hours := 0, wall := 0
             bad := if b.bad = 0 ∧ b.erases + 1 ≥ profEndurance s ∧ profEndurance s ≠ 0 then 2
                    else b.bad }))

/-- Grown bad (R466, R467). -/
def retireBlock (s : State) (k : Nat) : State :=
  spareCheck (updStore s (fun t => updBlk t k (fun b => { b with bad := 2, region := 4 })))

-- ---------------------------------------------------------------- log regions (R454 to R459)

def logOf (t : Store) (g : Bool) : LogRegion := if g then t.gallery else t.journal
def setLog (t : Store) (g : Bool) (r : LogRegion) : Store :=
  if g then { t with gallery := r } else { t with journal := r }
def updLog (s : State) (g : Bool) (f : LogRegion → LogRegion) : State :=
  updStore s (fun t => setLog t g (f (logOf t g)))

def pageRecs (g : Bool) : Nat := if g then 51 else 256
def recBytes (g : Bool) : Nat := if g then 320 else 64
def regionNo (g : Bool) : Nat := if g then 3 else 2
def nextPage (r : LogRegion) : Nat := r.firstPage + r.pages.length

/-- A pad record (R456, R457). -/
def padRecord (g : Bool) : List Byte :=
  (List.range (recBytes g)).map (fun i => if i = 40 then 0xFF else 0)
def isPad (r : List Byte) : Bool := decide (r.getD 40 0 = 0xFF)

/-- Channels of the modules present. -/
def chansIn (t : Store) : List Nat := (List.range 4).filter (chanPresent t)

/-- Pages that a new stripe takes: two blocks' worth where mirrored, else that of every channel. -/
def stripeCap (s : State) (g : Bool) : Nat :=
  profPages s * (if g then (chansIn s.store).length else 2)

/-- A stripe's blocks, one on each channel present, in the LUN position of the first where possible. -/
def takeStripe (region : Nat) : List Nat → State → List Nat → List Nat × State
  | [], s, l => (l, s)
  | ch :: cs, s, l =>
    match takeBlock s ch (blkPos (l.headD 0)) with
    | some k => takeStripe region cs (useBlock s k region) (l ++ [k])
    | none => takeStripe region cs s l

/-- The oldest stripe of a log region is erased and its records are lost (R468). -/
def wrapLog (s : State) (g : Bool) : State :=
  let r := logOf s.store g
  match r.stripes with
  | [] => s
  | a :: rest =>
    let first := match rest with | b :: _ => b.first | [] => nextPage r
    let n := first - r.firstPage
    let s := a.blocks.foldl eraseBlock s
    let s := updStore s (fun t => { t with ops := t.ops ++ a.blocks.map (fun k =>
      { erase := true, block := k, gallery := g, page := 0, cls := 3, started := none, retried := false }) })
    stPost (updLog s g (fun r => { r with
      stripes := rest, firstPage := r.firstPage + n, pages := r.pages.drop n })) 0x189

/-- The next page of a log region has a stripe: a new one when the last is full. -/
def ensureStripe (s : State) (g : Bool) : State :=
  let r := logOf s.store g
  let p := nextPage r
  if r.share = 0 || (match r.stripes.getLast? with | some a => decide (p < a.first + a.cap) | none => false)
  then s
  else
    let s := if r.stripes.length ≥ r.share then wrapLog s g else s
    let t := takeStripe (regionNo g) (chansIn s.store) s []
    updLog t.2 g (fun r => { r with
      stripes := r.stripes ++ [{ first := p, cap := stripeCap s g, blocks := t.1 }] })

/-- The channels on which logical page `p` is programmed (R454, R471). -/
def pageChans (t : Store) (g : Bool) (p : Nat) : List Nat :=
  if g then
    (if t.outA then [2 + p % 2] else if t.outB then [p % 2] else [p % 4])
  else [p % 2, 2 + p % 2].filter (chanPresent t)

/-- The blocks that hold a page. -/
def pageBlocks (t : Store) (g : Bool) (p : Nat) : List Nat :=
  match (logOf t g).stripes.getLast? with
  | some a => a.blocks.filter (fun k => (pageChans t g p).contains (blkChan k))
  | none => []

/-- Whether the page or image is on a module that is present (R471). -/
def onPresent (t : Store) (a b : Bool) : Bool := (a && !t.outA) || (b && !t.outB)

-- ---------------------------------------------------------------- operations (R446, R447, R465)

/-- The operation that runs on a LUN, or would run next: one that has started, else the first of the
lowest class. -/
def nextOp (t : Store) (lun : Nat) : Option NandOp :=
  let l := t.ops.filter (fun o => decide (blkLun o.block = lun))
  match l.find? (fun o => o.started.isSome) with
  | some o => some o
  | none => l.foldl (fun b o => match b with
      | none => some o
      | some x => if o.cls < x.cls then some o else some x) none

/-- Every LUN with work and none running starts its next operation. -/
def pumpOps (s : State) : State :=
  let luns := (s.store.ops.map (fun o => blkLun o.block)).eraseDups
  luns.foldl (fun s l => match nextOp s.store l with
    | some o =>
      if o.started.isSome then s
      else updStore s (fun t => { t with ops := t.ops.map (fun x =>
        if x = o then { x with started := some (now s) } else x) })
    | none => s) s

/-- A page of a log region changes. -/
def updPage (s : State) (g : Bool) (p : Nat) (f : LogPage → LogPage) : State :=
  updLog s g (fun r => if p < r.firstPage then r
    else { r with pages := r.pages.modify (p - r.firstPage) f })

/-- The metadata of the next page that the store programs (R453). -/
def nextMeta (s : State) (region kind : Byte) (page : Nat) : PageMeta :=
  { region := region, kind := kind, page := BitVec.ofNat 32 page, seq := s.store.writeSeq + 1
    hours := temperWord s 4, gen := s.store.gen }

/-- `n` pages have been programmed. -/
def wroteMeta (s : State) (n : Nat) : State :=
  updStore s (fun t => { t with writeSeq := t.writeSeq + BitVec.ofNat 64 n })

/-- One open page is sealed and its programs are queued (R459). -/
def sealPage (s : State) (g : Bool) (cls : Nat) : State :=
  let s := ensureStripe s g
  let r := logOf s.store g
  let p := nextPage r
  let l := pageBlocks s.store g p
  if r.share = 0 then s
  else
    let md := nextMeta s (BitVec.ofNat 8 (regionNo g)) 0 p
    let s := updLog (wroteMeta s 1) g (fun r => { r with
      open_ := r.open_.drop (pageRecs g)
      pages := r.pages ++ [{
        md := md, recs := r.open_.take (pageRecs g), onA := false, onB := false, todo := l }] })
    pumpOps (updStore s (fun t => { t with ops := t.ops ++ l.map (fun k =>
      { erase := false, block := k, gallery := g, page := p, cls := cls, started := none
        retried := false }) }))

/-- Every full open page is sealed; `n` bounds how many. -/
def sealFull (g : Bool) (cls : Nat) : Nat → State → State
  | 0, s => s
  | n + 1, s =>
    let r := logOf s.store g
    if r.open_.length ≥ pageRecs g ∧ r.share ≠ 0 then sealFull g cls n (sealPage s g cls) else s

/-- The commit seals an open page with pad records. -/
def sealPadded (s : State) (g : Bool) : State :=
  let n := (logOf s.store g).open_.length
  if n = 0 then s
  else
    let s := updLog s g (fun r => { r with
      open_ := r.open_ ++ List.replicate (pageRecs g - n) (padRecord g) })
    sealPage s g 1

/-- Records for which the append buffer of eight pages has room. -/
def logRoom (t : Store) (g : Bool) : Nat :=
  let r := logOf t g
  let busy := (r.pages.filter (fun p => !p.todo.isEmpty)).length
  8 * pageRecs g - busy * pageRecs g - r.open_.length

/-- Records enter a log region. -/
def appendRecs (s : State) (g : Bool) (cls : Nat) (l : List (List Byte)) : State :=
  let s := updLog s g (fun r => { r with open_ := r.open_ ++ l })
  sealFull g cls 8 s

/-- A program reports success: the copy is there. -/
def programDone (s : State) (o : NandOp) : State :=
  updPage (count s 266 1) o.gallery o.page (fun p =>
    let p := { p with todo := p.todo.erase o.block }
    if blkModB o.block then { p with onB := true } else { p with onA := true })

/-- The stripe with block `k` names `new` instead, or loses it. -/
def swapBlock (k : Nat) (new : Option Nat) (a : Stripe) : Stripe :=
  { a with blocks := match new with
      | some x => a.blocks.map (fun y => if y = k then x else y)
      | none => a.blocks.filter (fun y => decide (y ≠ k)) }

def swapIn (s : State) (k : Nat) (new : Option Nat) : State :=
  updStore s (fun t =>
    let f (l : List Stripe) : List Stripe := l.map (swapBlock k new)
    { t with
      mapStripes := f t.mapStripes
      journal := { t.journal with stripes := f t.journal.stripes }
      gallery := { t.gallery with stripes := f t.gallery.stripes } })

/-- A block's pages go to a new block, which its stripe then names; the old one is erased (R466, R469). -/
def moveBlock (s : State) (k : Nat) : Option State :=
  (takeBlock s (blkChan k) (blkPos k)).map (fun n =>
    let s := swapIn (useBlock s n (blkOf s.store k).region) k (some n)
    eraseBlock (updStore s (fun t => { t with
      ops := t.ops.map (fun o => if o.block = k ∧ !o.erase then { o with block := n } else o) })) k)

-- ---------------------------------------------------------------- reads (R452, R466)

/-- Read-retry levels of the profile. -/
def retryLevels (s : State) : Nat := profField s 10 0 4

/-- The block of a stripe that holds page `p` on module A or B. -/
def stripeBlock (l : List Stripe) (p : Nat) (b : Bool) : Option Nat :=
  (l.find? (fun a => decide (a.first ≤ p ∧ p < a.first + a.cap))).bind (fun a =>
    a.blocks.find? (fun k => blkModB k == b && decide (blkChan k % 2 = p % 2)))

/-- What a read of one copy leaves behind: its corrected bits, counted and in the block's record, and an invalid
page. -/
def noteCopy (k : Option Nat) (s : State) (r : CopyRead) : State :=
  let s := updStore s (fun t => { t with ceCnt := satAdd t.ceCnt r.corrected })
  let s := match k with
    | some k => updStore s (fun t => updBlk t k (fun b => { b with corrected := b.corrected + r.corrected }))
    | none => s
  if r.data.isSome then s else stEvent (updStore s (fun t => { t with ueCnt := satAdd t.ueCnt 1 })) 3

/-- An invalid copy of a page whose other copy is good is written again in a new block (R466), where its block is
known. -/
def rewriteCopy (s : State) (k : Option Nat) : State :=
  stPost ((k.bind (moveBlock s)).getD s) 0x185

/-- What a read of a page leaves behind; `at_` gives the block of each copy. A page with no valid copy is lost. -/
def notePage (at_ : Store → Bool → Option Nat) (s : State) (o : PageOut) : State :=
  let s := o.copies.foldl (fun s e => noteCopy (at_ s.store e.1) s e.2) s
  let bad := o.copies.filter (fun e => e.2.data.isNone)
  if o.data.isSome then bad.foldl (fun s e => rewriteCopy s (at_ s.store e.1)) s
  else if bad.isEmpty then s
  else stPost s 0x186

/-- A program fails (R466, R470): the block is retired and the page goes to a new block; with no spare
left the stripe ends there, and a page left with no copy is lost. -/
def programFails (s : State) (o : NandOp) : State :=
  let region := (blkOf s.store o.block).region
  let s := retireBlock s o.block
  match takeBlock s (blkChan o.block) (blkPos o.block) with
  | some k =>
    let s := swapIn (useBlock s k region) o.block (some k)
    let s := updPage s o.gallery o.page (fun p => { p with todo := p.todo.map (fun x =>
      if x = o.block then k else x) })
    updStore s (fun t => { t with ops := t.ops ++ [{ o with block := k, cls := 1, started := none
                                                            retried := false }] })
  | none =>
    let s := swapIn s o.block none
    let s := updPage s o.gallery o.page (fun p => { p with todo := p.todo.erase o.block })
    let lost := match (logOf s.store o.gallery).pages[o.page - (logOf s.store o.gallery).firstPage]? with
      | some p => p.todo.isEmpty && !p.onA && !p.onB
      | none => false
    let cut (r : LogRegion) : LogRegion := { r with stripes := r.stripes.map (fun a =>
      if a.first ≤ o.page ∧ o.page < a.first + a.cap then { a with cap := nextPage r - a.first } else a) }
    let s := updLog s o.gallery cut
    if lost then stPost (updStore s (fun t => { t with ueCnt := satAdd t.ueCnt 1 })) 0x186 else s

/-- NAND_OP_COMPLETE, and a poll that finds RDY: the operation that runs on a LUN ends. -/
def nandDone (s : State) (lun : Nat) (fail : Bool) : State :=
  match nextOp s.store lun with
  | none => s
  | some o =>
    if o.started.isNone then s
    else
      let s := updStore s (fun t => { t with ops := t.ops.erase o })
      let s :=
        if o.erase then
          if fail then
            let s := stPost (stEvent (retireBlock s o.block) 2) 0x184
            match takeBlock s (blkChan o.block) (blkPos o.block) with
            | some k => swapIn s o.block (some k)
            | none => swapIn s o.block none
          else s
        else if fail then programFails (stPost (stEvent s 1) 0x183) o
        else programDone s o
      pumpOps s

-- ---------------------------------------------------------------- losing a module (R471)

/-- A module is marked out: its operations go, and a log stripe that was being filled across both ends. -/
def dropModule (s : State) (b : Bool) : State :=
  let drop (p : LogPage) : LogPage := { p with todo := p.todo.filter (fun k => blkModB k != b) }
  let shut (r : LogRegion) : LogRegion :=
    { r with pages := r.pages.map drop
             stripes := r.stripes.map (fun a =>
               if nextPage r < a.first + a.cap then { a with cap := nextPage r - a.first } else a) }
  updStore s (fun t => { t with
    outA := t.outA || !b, outB := t.outB || b
    ops := t.ops.filter (fun o => blkModB o.block != b)
    journal := { t.journal with pages := t.journal.pages.map drop }
    gallery := shut t.gallery })

def nandBit (s : State) : State := { s with svc := { s.svc with replace := s.svc.replace ||| 8 } }

/-- Both modules are out: FAILED and STORE_DATA_LOST. -/
def bothOut (s : State) : State :=
  if s.store.outA && s.store.outB && !decide (s.store.st = 3) then
    stPost (updStore s (fun t => { t with st := 3 })) 0x186
  else s

/-- A target fails (R447, R448): its module is out. -/
def targetFails (s : State) (target : Nat) : State :=
  let s := stEvent s 4
  let s := updStore s (fun t => { t with targets := t.targets &&& ~~~(1#16 <<< target) })
  let s := postReplace s 0x182 srcStore 0 0 3
  bothOut (dropModule s (decide (target ≥ 8)))

-- ---------------------------------------------------------------- commit (R460 to R463)

def storeTime (s : State) : DWord := now s + s.store.timeOff

/-- A root word is committed as part of the commit: counter, copies and shadow (R539). -/
def rootWrite (s : State) (w : Nat) (v : Word) : State :=
  if temperWord s w = v then s
  else
    let s := setTword s w { tword s w with
      c0 := some v, c1 := some v, c2 := some v, count := satAdd (tword s w).count 1
      lastTick := some (now s) }
    let s := if (tword s w).count = 90000000 then temperWear s else s
    { s with temper := { s.temper with
        shadow := mset 0 s.temper.shadow w v, data := v, commit := BitVec.ofNat 12 w
        last := BitVec.ofNat 12 w } }

/-- The location of a checkpoint copy (R462). -/
def locWord (k page : Nat) : Word :=
  natAt (blkChan k) 0 ||| natAt (blkPos k / 2) 2 ||| natAt (blkPos k % 2) 4 ||| natAt (k % 65536) 5 |||
    natAt (page % 2048) 21

/-- CHECK of a root slot. -/
def rootCheck (g a b : Word) : Word :=
  crc32c (leBytes 4 g.toNat ++ leBytes 4 a.toNat ++ leBytes 4 b.toNat)

/-- The Map region has a stripe for its next page; its oldest is reused when all 64 are in use. -/
def mapStripe (s : State) : State :=
  let t := s.store
  if (match t.mapStripes.getLast? with | some a => decide (t.mapNext < a.first + a.cap) | none => false)
  then s
  else
    let s := if t.mapStripes.length ≥ 64 then
        updStore ((t.mapStripes.headD { first := 0, cap := 0, blocks := [] }).blocks.foldl eraseBlock s)
          (fun t => { t with mapStripes := t.mapStripes.drop 1 })
      else s
    let x := takeStripe 0 (chansIn s.store) s []
    updStore x.2 (fun t => { t with mapStripes := t.mapStripes ++
      [{ first := t.mapNext, cap := stripeCap s false, blocks := x.1 }] })

/-- Where the next Map page lies on module A or B; a copy that is not there takes the other's place
(log 31). -/
def mapLoc (s : State) (b : Bool) : Word :=
  let t := s.store
  match t.mapStripes.getLast? with
  | none => 0
  | some a =>
    let on (m : Bool) : Option Nat :=
      a.blocks.find? (fun k => decide (blkChan k = (if m then 2 else 0) + t.mapNext % 2))
    let k := match on b with | some k => some k | none => on (!b)
    match k with
    | some k => locWord k ((t.mapNext - a.first) / 2)
    | none => 0

/-- The checkpoint of generation `g`. -/
def checkpointOf (s : State) (g : Word) : Checkpoint where
  gen := g
  page := s.store.mapNext
  seq := s.store.writeSeq + 1
  time := storeTime s
  anchor := s.store.anchor
  journal := (s.store.journal.firstPage, nextPage s.store.journal)
  gallery := (s.store.gallery.firstPage, nextPage s.store.gallery)
  ingots := s.store.ingots
  plan := s.store.plan
  onA := !s.store.outA
  onB := !s.store.outB

/-- A commit is due (R461). -/
def commitDue (s : State) : Bool :=
  match s.store.lastStart with
  | none => true
  | some t =>
    let d := (now s - t).toNat
    decide (d ≥ s.store.commitTicks.toNat) || (s.store.early && decide (d ≥ 100000000))

/-- The open pages are sealed and their programs start. -/
def commitStart (s : State) : State :=
  let t := now s
  let s := updStore s (fun x => { x with commitBusy := true, early := false, lastStart := some t })
  sealPadded (sealPadded s false) true

/-- Every page reports success. -/
def pagesDone (t : Store) : Bool :=
  t.ops.all (fun o => o.erase) && t.journal.pages.all (fun p => p.todo.isEmpty) &&
    t.gallery.pages.all (fun p => p.todo.isEmpty)

/-- The checkpoint is programmed and the root slot is moved: the commit is complete. -/
def commitEnd (s : State) : State :=
  let s := mapStripe s
  let g := s.store.gen + 1
  let slot := g.toNat % 8
  let a := mapLoc s false
  let b := mapLoc s true
  let w := 0x60 + 4 * slot
  let c := checkpointOf s g
  let s := rootWrite (rootWrite (rootWrite (rootWrite s w g) (w + 1) a) (w + 2) b) (w + 3) (rootCheck g a b)
  let s := updStore s (fun t => { t with
    gen := g, commitBusy := false, mapNext := t.mapNext + 1, writeSeq := t.writeSeq + 1
    flash := mset none t.flash slot (some c)
    journal := { t.journal with committed := nextPage t.journal }
    gallery := { t.gallery with committed := nextPage t.gallery } })
  let n := (if c.onA then 1 else 0) + (if c.onB then 1 else 0)
  trace (count (stEvent s 0) 266 n) 10 srcStore none 0 (BitVec.ofNat 128 g.toNat)

-- ---------------------------------------------------------------- mount (R464)

def rootWord (s : State) (slot i : Nat) : Word := temperWord s (0x60 + 4 * slot + i)

/-- A valid root slot's generation. -/
def rootGen (s : State) (slot : Nat) : Option Word :=
  let g := rootWord s slot 0
  let a := rootWord s slot 1
  let b := rootWord s slot 2
  let readable := (List.range 4).all (fun i => !temperUnreadable s (0x60 + 4 * slot + i))
  if readable && rootWord s slot 3 == rootCheck g a b then some g else none

/-- The valid slots, the highest generation first. -/
def rootSlots (s : State) : List (Nat × Nat) :=
  let l := (List.range 8).filterMap (fun i => (rootGen s i).map (fun g => (g.toNat, i)))
  l.foldl (fun acc e =>
    (acc.filter (fun x => decide (x.1 ≥ e.1))) ++ [e] ++ acc.filter (fun x => decide (x.1 < e.1))) []

/-- The checkpoint that a slot names, where the flash holds it. -/
def slotCkpt (s : State) (e : Nat × Nat) : Option Checkpoint :=
  match mget none s.store.flash e.2 with
  | some c => if c.gen.toNat = e.1 then some c else none
  | none => none

/-- A read of a checkpoint page. -/
def readCkpt (s : State) (errs : List PageErr) (c : Checkpoint) : PageOut :=
  readPage (c.onA && !s.store.outA) (c.onB && !s.store.outB)
    (fun b => readMapCopy errs c.page b (retryLevels s) 0)

/-- What the read of a checkpoint leaves behind; a checkpoint lost is passed over and no data of a region. -/
def noteCkpt (s : State) (c : Checkpoint) (o : PageOut) : State :=
  let at_ (t : Store) (b : Bool) : Option Nat := stripeBlock t.mapStripes c.page b
  if o.data.isSome then notePage at_ s o
  else o.copies.foldl (fun s e => noteCopy (at_ s.store e.1) s e.2) s

/-- The newest checkpoint that can be read; each slot passed over makes STORE_RECOVERED. -/
def findCkpt (errs : List PageErr) : List (Nat × Nat) → State → Option Checkpoint × State
  | [], s => (none, s)
  | e :: l, s =>
    match slotCkpt s e with
    | none => findCkpt errs l (stPost s 0x181)
    | some c =>
      let o := readCkpt s errs c
      let s := noteCkpt s c o
      if o.data.isSome then (some c, s) else findCkpt errs l (stPost s 0x181)

/-- A log region as its checkpoint has it: later pages are abandoned, and appends go on in a new stripe. -/
def mountLog (r : LogRegion) (span : Nat × Nat) : LogRegion :=
  let first := max span.1 r.firstPage
  { r with
    firstPage := first
    pages := (r.pages.drop (first - r.firstPage)).take (span.2 - first)
    open_ := []
    committed := span.2
    stripes := r.stripes.filter (fun a => decide (a.first < span.2)) |>.map (fun a =>
      if span.2 < a.first + a.cap then { a with cap := span.2 - a.first } else a) }

/-- The store holds nothing (R464). -/
def blankStore (s : State) : State :=
  stPost (updStore s (fun t => { t with
    st := 2, blank := true, journal := {}, gallery := {}, ingots := [], plan := none, mapStripes := []
    ingotShare := 0 })) 0x180

/-- The targets are up; the newest root is taken. -/
def mountRoot (s : State) (errs : List PageErr) : State :=
  let r := findCkpt errs (rootSlots s) s
  match r.1 with
  | none => blankStore r.2
  | some c =>
    let s := updStore r.2 (fun t => { t with
      st := 2, blank := false, gen := c.gen, writeSeq := c.seq, anchor := c.anchor
      timeOff := c.time + 100000000 - now s
      journal := mountLog t.journal c.journal, gallery := mountLog t.gallery c.gallery
      ingots := c.ingots, plan := c.plan })
    spareCheck (stPost s 0x180)

/-- What the store's logic forgets: what is in its buffers and registers, not what the flash holds. -/
def storeForget (t : Store) : Store :=
  { blocks := t.blocks, mapStripes := t.mapStripes, mapNext := t.mapNext, writeSeq := t.writeSeq, ingotNext := t.ingotNext
    ingotShare := t.ingotShare
    journal := { t.journal with open_ := [] }, gallery := { t.gallery with open_ := [] }
    ingots := t.ingots, plan := t.plan, flash := t.flash, event := t.event, commitTicks := t.commitTicks
    ceCnt := t.ceCnt, ueCnt := t.ueCnt, reqs := t.reqs.map (fun e => (e.1, e.2.map (fun r => { rd := r.rd, block := r.block, result := r.result }))), gen := t.gen, hoursTick := t.hoursTick }

/-- Bring-up of the targets that the profile names (R448); those of `bad` fail. A module with no target
is out. -/
def bringUp (s : State) (bad : BitVec 16) : State :=
  let want := profTargets s
  let s := updStore s (fun t => { t with
    targets := want, outA := decide (bits want 0 8 = 0), outB := decide (bits want 8 8 = 0)
    zqTick := now s })
  (coresOf (want &&& bad)).foldl targetFails s

/-- STORE_MOUNT. -/
def storeMount (s : State) (bad : BitVec 16) (errs : List PageErr) : State :=
  if s.store.enable then s
  else
    let s := updStore s (fun t => { storeForget t with enable := true, st := 1 })
    if !profOk s then updStore s (fun t => { t with st := 3 })
    else
      let s := bringUp s bad
      let s := if s.store.outA || s.store.outB then nandBit s else s
      if s.store.outA && s.store.outB then bothOut s else mountRoot s errs

/-- Running operations end well. -/
def finishOps (s : State) (p : NandOp → Bool) : State :=
  let l := s.store.ops.filter p
  let s := updStore s (fun t => { t with ops := t.ops.filter (fun o => !p o) })
  l.foldl (fun s o => if o.erase then s else programDone s o) s

/-- STORE_UNMOUNT (R480): running operations are completed. -/
def storeUnmount (s : State) : State :=
  if s.store.enable then
    updStore (finishOps s (fun _ => true)) (fun t => { storeForget t with enable := false, st := 0 })
  else s

end Sys2Proof.Machine
end

