-- ==== Sys2Proof/Machine/Store.lean ====
section
/-! DEFINITION. The Ingot Store's commands (16, R473 to R477; 10, R296 to R298): the STORE subops, SAPP,
the commit, formatting, modules, refresh and the timers. -/

namespace Sys2Proof.Machine

-- ---------------------------------------------------------------- the request block (R473)

def sqSub (b : BitVec 512) : Nat := (bits b 0 8).toNat
def sqDurable (b : BitVec 512) : Bool := b.getLsbD 8
def sqCount (b : BitVec 512) : Nat := (bits b 32 32).toNat
def sqBuf (b : BitVec 512) : Nat := (bits b 64 64).toNat
def sqLen (b : BitVec 512) : Nat := (bits b 128 64).toNat
def sqA0 (b : BitVec 512) : Nat := (bits b 192 64).toNat
def sqA1 (b : BitVec 512) : Nat := (bits b 256 64).toNat
def sqA2 (b : BitVec 512) : Nat := (bits b 320 64).toNat
def sqStatus (b : BitVec 512) : Nat := (bits b 384 64).toNat
def sqA3 (b : BitVec 512) : Nat := (bits b 448 64).toNat
/-- The fields of COUNT in a SEARCH: NQ and K. -/
def sqNq (b : BitVec 512) : Nat := sqCount b % 128 + 1
def sqK (b : BitVec 512) : Nat := sqCount b / 256 % 512 + 1

def subJournalAppend : Nat := 0x01
def subGalleryAppend : Nat := 0x02
def subJournalRead : Nat := 0x03
def subGalleryRead : Nat := 0x04
def subSearch : Nat := 0x05
def subCommit : Nat := 0x06
def subIngotWrite : Nat := 0x10
def subIngotRead : Nat := 0x11
def subIngotDelete : Nat := 0x12
def subPlanWrite : Nat := 0x13
def subFormat : Nat := 0x14
def subModuleOut : Nat := 0x15
def subModuleIn : Nat := 0x16

/-- ID of the plan record. -/
def planId : Nat := 0xFFFFFFF0

/-- A subop that R474 lists. -/
def subListed (sub : Nat) : Bool := decide (1 ≤ sub ∧ sub ≤ 6) || decide (0x10 ≤ sub ∧ sub ≤ 0x16)

/-- The block keeps its layout for the command's subop; a value outside what R474 gives an argument
breaks it (log 33). -/
def sqOk (sub : Nat) (b : BitVec 512) : Bool :=
  decide (sqSub b = sub ∧ bits b 9 23 = 0 ∧ sqBuf b % 128 = 0) &&
  (if sub = subSearch then decide (sqNq b ≤ 64 ∧ sqK b ≤ 256)
   else if sub = subIngotWrite ∨ sub = subIngotDelete then decide (1 ≤ sqA0 b ∧ sqA0 b < planId)
   else if sub = subIngotRead then decide (1 ≤ sqA0 b ∧ sqA0 b ≤ planId)
   else if sub = subModuleOut ∨ sub = subModuleIn then decide (sqA0 b ≤ 1)
   else true)

def reqOf (s : State) (c : Nat) : Option StoreReq := mget none s.store.reqs c
def setReq (s : State) (c : Nat) (r : Option StoreReq) : State :=
  updStore s (fun t => { t with reqs := mset none t.reqs c r })

/-- The EXEC that a SEARCH is carried out as (R477). -/
def searchExec : ExecCmd where
  cores := 1
  ndesc := 0
  entry := 0
  length := 1
  image := 0
  descTable := 0
  rows := 512
  declared := 0
  args := []
  search := true

/-- STORE: a reserved subop is CMD_BAD, any other asks for the grant; then the request block is read and handed
over, and a SEARCH becomes a task (R342, R473, R474, R477). -/
def storeStart (s : State) (c sub : Nat) (req : DWord) : State :=
  let k := ctxOf s c
  if !subListed sub then cmdFault s c tfCmdBad 5
  else if !k.grant then cmdFault s c tfStoreDenied 0
  else if !mayLookup s k.basket.toNat (slotOfCtx s c) (pagesOf (span req.toNat 64)) then s
  else
    let s := if sub = subSearch then s else beginCmd s c .running
    let again : Bool := match reqOf s c with | some r => r.rd == k.rd | none => false
    let slot := slotOfCtx s c
    let t := xlatPages k.basket.toNat slot false (pagesOf (span req.toNat 64)) s
    match t.1 with
    | some (va, x) => if again then t.2 else xlatFault t.2 c none va false false x
    | none =>
      let b := BitVec.ofNat 512 (virtWord t.2 k.basket.toNat slot req.toNat 64)
      let s := t.2
      if again then (if sub = subSearch then beginExec s c searchExec else s)
      else if !sqOk sub b then cmdFault s c tfCmdBad 9
      else
        let s := setReq s c (some { rd := k.rd, block := b })
        if sub = subSearch then beginExec s c searchExec else s

def storeCmd (ctx : CtxId) (s : State) : State :=
  let c := ctx.toNat
  match (ctxOf s c).cur with
  | some (.store sub req) => if canStart s c then storeStart s c sub req else s
  | _ => s

-- ---------------------------------------------------------------- completion (R473, R475)

/-- The completion record is written, and the command is over. -/
def storeFinish (s : State) (c : Nat) (r : StoreReq) (q : Nat × Nat × Nat) : State :=
  let bsk := ctxBsk s c
  let slot := slotOfCtx s c
  let a := sqStatus r.block
  let s := setReq s c (some { r with waits := false, result := some q })
  let t := xlatPages bsk slot true (pagesOf (span a 16)) s
  match t.1 with
  | some (va, x) => xlatFault t.2 c none va true false x
  | none =>
    let l := leBytes 4 q.1 ++ leBytes 4 q.2.1 ++ leBytes 4 q.2.2 ++ leBytes 4 (now s).toNat
    let s := putOut t.2 c bsk slot (a, l)
    let s := setReq s c none
    match (ctxOf s c).task with
    | some _ => s
    | none => finishCmd s c

/-- The request that a subop's row carries on: its command is under way, waits for no commit, and has no
result yet; one with a result is finished first. It waits while the walk for its record would find no walker or
no credit (R311, R331). -/
def subopRow (ctx : CtxId) (sub : Nat) (f : Nat → StoreReq → State → State) (s : State) : State :=
  let c := ctx.toNat
  let k := ctxOf s c
  match k.cur, reqOf s c with
  | some (.store n _), some r =>
    if n = sub && k.started && !k.finished && k.state == .running && r.rd == k.rd && !r.waits &&
        mayLookup s k.basket.toNat (slotOfCtx s c) (pagesOf (span (sqStatus r.block) 16)) then
      match r.result with
      | some q => storeFinish s c r q
      | none => f c r s
    else s
  | _, _ => s

/-- As above, where the store must hold regions to serve it: REFUSED while it is not mounted. -/
def mountedRow (ctx : CtxId) (sub : Nat) (f : Nat → StoreReq → State → State) (s : State) : State :=
  subopRow ctx sub (fun c r s =>
    if stMounted s then f c r s else storeFinish s c r (7, 0, 0)) s

/-- Bytes of the data buffer, once every page of it translates. -/
def readBuf (s : State) (c : Nat) (l : List (Nat × Nat)) (f : State → State) : State :=
  let t := xlatPages (ctxBsk s c) (slotOfCtx s c) false (pagesOf (l.flatMap (fun e => span e.1 e.2))) s
  match t.1 with
  | some (va, x) => xlatFault t.2 c none va false false x
  | none => f t.2

/-- Bytes at a virtual address that translates. -/
def bufBytes (s : State) (c a n : Nat) : List Byte :=
  (span a n).map (virtByte s (ctxBsk s c) (slotOfCtx s c))

/-- The result goes to the buffer in whole lines, as COPY writes (R473, R326), then the command is finished. -/
def writeBuf (s : State) (c : Nat) (r : StoreReq) (l : List Byte) (q : Nat × Nat × Nat) : State :=
  let bsk := ctxBsk s c
  let w := wholeLines s.freeCount (sqBuf r.block, l)
  let s := { s with freeCount := s.freeCount + 1 }
  let t := xlatPages bsk (slotOfCtx s c) true (pagesOf (span w.1 w.2.length)) s
  match t.1 with
  | some (va, x) => xlatFault t.2 c none va true false x
  | none => storeFinish (putOut t.2 c bsk (slotOfCtx s c) w) c r q

-- ---------------------------------------------------------------- appends (R459, R474)

/-- Class of a context's appends (R465). -/
def appendClass (s : State) (c : Nat) : Nat := if ctxStanding s c then 2 else 3

/-- Records go in as far as there is room; the last one in, the command ends or waits for its commit. -/
def appendMore (s : State) (c : Nat) (g : Bool) (r : StoreReq) : State :=
  let n := min r.left.length (logRoom s.store g)
  let s := appendRecs s g (appendClass s c) (r.left.take n)
  let r := { r with left := r.left.drop n }
  if r.left.isEmpty then
    if sqDurable r.block && decide (sqCount r.block ≠ 0) then
      let x := logOf s.store g
      let p := if x.open_.isEmpty then nextPage x - 1 else nextPage x
      setReq s c (some { r with waits := true, page := some (g, p) })
    else storeFinish s c r (0, sqCount r.block, 0)
  else setReq s c (some r)

def appendSub (g : Bool) (c : Nat) (r : StoreReq) (s : State) : State :=
  let n := sqCount r.block
  if r.taken then appendMore s c g r
  else if s.store.blank then storeFinish s c r (2, 0, 0)
  else if n * recBytes g > sqLen r.block then storeFinish s c r (6, 0, 0)
  else readBuf s c [(sqBuf r.block, n * recBytes g)] (fun s =>
    appendMore s c g { r with
      taken := true
      left := (List.range n).map (fun i => bufBytes s c (sqBuf r.block + i * recBytes g) (recBytes g)) })

def journalAppend (ctx : CtxId) (s : State) : State :=
  mountedRow ctx subJournalAppend (appendSub false) s
def galleryAppend (ctx : CtxId) (s : State) : State :=
  mountedRow ctx subGalleryAppend (appendSub true) s

-- ---------------------------------------------------------------- SAPP (R296 to R298, R471)

/-- A call that a core made or left, with its context and task core: the oldest SAPP. -/
def oldestAppend (l : List OutCall) : Option OutCall :=
  l.find? (fun o => match o with | .append .. => true | .region .. => false)

/-- Task cores whose saved task stood on core `c` and whose calls go on (R271). -/
def lateOn (s : State) (c : Nat) : List (Nat × Nat × OutCall) :=
  s.cp.ctxs.flatMap (fun e => match e.2.task with
    | some t => (taskPairs t).filterMap (fun p =>
        if p.2 = c ∧ t.phase = .saved then
          (oldestAppend (mget [] e.2.lateCalls p.1)).map (fun o => (e.1, p.1, o)) else none)
    | none => [])

def sappCall (s : State) (c : Nat) : Option (Nat × Nat × OutCall) :=
  match (coreOf s c).task with
  | some (x, t) =>
    match oldestAppend (coreOf s c).seq.calls with
    | some o => some (x, t, o)
    | none => (lateOn s c).head?
  | none => (lateOn s c).head?

/-- The pair `(ord, seq)` lies above the record kept for the context. -/
def pairAbove (old : Option (Nat × Nat)) (ord seq : Nat) : Bool :=
  match old with
  | none => true
  | some (o, q) => decide (o < ord ∨ (o = ord ∧ q < seq))

def isAppendCall (ord seq : Nat) : OutCall → Bool
  | .region .. => false
  | .append _ _ _ _ _ o q => o == ord && q == seq

/-- The SAPPs of a context that are not accepted yet: on the cores of its task, and those that a saved task
left. -/
def openAppends (s : State) (x : Nat) : List OutCall :=
  let live := s.cores.flatMap (fun e => match e.2.task with
    | some (y, _) => if y = x then e.2.seq.calls else []
    | none => [])
  let late := match (ctxOf s x).task with
    | some t => if t.phase == .saved then (ctxOf s x).lateCalls.flatMap (·.2) else []
    | none => []
  live ++ late

/-- An earlier SAPP of the context is still to be accepted (R296). -/
def appendBehind (s : State) (x ord seq : Nat) : Bool :=
  (openAppends s x).any (fun o => match o with
    | .append _ _ _ _ _ o q => decide (o < ord ∨ (o = ord ∧ q < seq))
    | .region .. => false)

/-- SAPP_ACCEPT: the records of one context enter in the order of issue (R296). -/
def sappAccept (s : State) (c : Nat) : State :=
  match sappCall s c with
  | some (x, t, .append g _ n recs ac ord seq) =>
    let fresh := pairAbove (ctxOf s x).sappPair ord seq
    let failed := decide (s.store.st = 3)
    let old := callOld s x t ord (isAppendCall ord seq)
    let take (s : State) : State := acIncCtx (callDone s x t (isAppendCall ord seq)) x t ac.toNat 1 old
    let mark (s : State) : State := updCtx s x (fun k => { k with sappPair := some (ord, seq) })
    if appendBehind s x ord seq then s
    else if !fresh then take s
    else if failed then take (mark (updStore s (fun t => { t with ueCnt := satAdd t.ueCnt n })))
    else if stMounted s && decide (n ≤ logRoom s.store g) then
      take (mark (appendRecs s g (appendClass s x) recs))
    else s
  | _ => s

-- ---------------------------------------------------------------- the commit (R460, R461)

/-- The requests that a completed commit covers are finished. -/
def covered (t : Store) (r : StoreReq) : Bool :=
  r.waits && (match r.page with
    | some (g, p) => decide (p < (logOf t g).committed)
    | none => true)

def finishCovered (s : State) : State :=
  s.store.reqs.foldl (fun s e => match e.2 with
    | some r =>
      let k := ctxOf s e.1
      if covered s.store r && r.rd == k.rd && k.started && !k.finished then
        storeFinish s e.1 r (0, sqCount r.block, 0)
      else s
    | none => s) s

/-- JOURNAL_COMMIT: a commit that is due starts; once every page it seals has been programmed, its
checkpoint and its root follow (log 31). -/
def journalCommit (s : State) : State :=
  if stMounted s && !s.store.blank && forgeRuns s && s.temper.busy.isNone then
    let s := if s.store.commitBusy then s else if commitDue s then commitStart s else s
    if s.store.commitBusy && pagesDone s.store then finishCovered (commitEnd s) else s
  else s

/-- COMMIT: an early commit is asked for. -/
def commitSub (_c : Nat) (r : StoreReq) (s : State) : State :=
  storeFinish (updStore s (fun t => { t with early := true })) _c r (0, 0, 0)

-- ---------------------------------------------------------------- reads (R476)

def recTime (r : List Byte) : Nat := natOfBytes (r.drop 8 |>.take 8)
def recStream (r : List Byte) : Nat := natOfBytes (r.take 2)

/-- A record passes the filters: not a pad, in the window, and of a stream that the mask names. -/
def recPasses (t0 t1 : Nat) (mask : Option (List Byte)) (r : List Byte) : Bool :=
  !isPad r && decide (t0 ≤ recTime r ∧ recTime r < t1) && (match mask with
    | none => true
    | some m => (m.getD (recStream r / 8) 0).getLsbD (recStream r % 8))

/-- The committed pages, by number. -/
def committedPages (x : LogRegion) : List (Nat × LogPage) :=
  (x.pages.take (x.committed - x.firstPage)).zipIdx.map (fun e => (x.firstPage + e.2, e.1))

/-- A stripe's committed records lie outside the window (R463, R476). -/
def stripeSkipped (x : LogRegion) (t0 t1 : Nat) (a : Stripe) : Bool :=
  let l := (committedPages x).filter (fun e => decide (a.first ≤ e.1 ∧ e.1 < a.first + a.cap))
  let ts := l.flatMap (fun e => (e.2.recs.filter (fun r => !isPad r)).map recTime)
  decide (ts.max?.getD 0 < t0 ∨ ts.min?.getD 0 ≥ t1) || ts.isEmpty

/-- What a scan has found: next record, records scanned, holes, matches (the latest first) with their
numbers, whether it has stopped, the pages read, and what reads of pages with wrong bits found (the latest
first). -/
structure Scan where
  next : Nat
  scanned : Nat := 0
  holes : Nat := 0
  found : List (Nat × List Byte) := []
  stop : Bool := false
  read : Nat := 0
  outs : List (Nat × PageOut) := []
deriving DecidableEq, Repr

/-- One record of a scan. -/
def scanRec (start cap : Nat) (pass : List Byte → Bool) (z : Scan) (e : Nat × List Byte) : Scan :=
  if z.stop || decide (e.1 < start) then z
  else
    let hit := pass e.2
    let f := if hit then e :: z.found else z.found
    { z with next := e.1 + 1, scanned := z.scanned + 1, found := f, stop := decide (f.length ≥ cap) && hit }

/-- The records in the data of a page. -/
def cutRecs (g : Bool) (data : List Byte) : List (List Byte) :=
  (List.range (pageRecs g)).map (fun i => (data.drop (i * recBytes g)).take (recBytes g))

/-- A read of a log page: its records where it is valid, and what the read found. -/
def readLogPage (s : State) (errs : List PageErr) (g : Bool) (e : Nat × LogPage) :
    Option (List (List Byte)) × PageOut :=
  let p := e.2
  if errs.any (fun x => decide (x.region.toNat = regionNo g ∧ x.page = e.1)) then
    let o := readPage (p.onA && !s.store.outA) (p.onB && !s.store.outB)
      (fun b => readCopy p.md (padPage p.recs.flatten) errs b (retryLevels s) 0)
    (o.data.map (cutRecs g), o)
  else (if onPresent s.store p.onA p.onB then some p.recs else none, {})

/-- One page of a scan: a page that cannot be read is a hole. -/
def scanPage (s : State) (errs : List PageErr) (g : Bool) (start cap : Nat) (pass : List Byte → Bool) (z : Scan)
    (e : Nat × LogPage) : Scan :=
  let a := e.1 * pageRecs g
  let fin := a + pageRecs g
  if z.stop || decide (fin ≤ start) then z
  else
    let r := readLogPage s errs g e
    let z := { z with outs := if r.2.copies.isEmpty then z.outs else (e.1, r.2) :: z.outs }
    match r.1 with
    | some recs =>
      (recs.zipIdx.map (fun r => (a + r.2, r.1))).foldl (scanRec start cap pass) { z with read := z.read + 1 }
    | none => { z with next := fin, holes := z.holes + 1 }

/-- A scan of the committed records from `start` on that stops at `cap` matches. -/
def scanLog (s : State) (errs : List PageErr) (g : Bool) (start cap t0 t1 : Nat)
    (mask : Option (List Byte)) : Scan :=
  let x := logOf s.store g
  let skip := x.stripes.filter (stripeSkipped x t0 t1)
  let lo := max start (x.firstPage * pageRecs g)
  let pages := (committedPages x).filter (fun e =>
    !skip.any (fun a => decide (a.first ≤ e.1 ∧ e.1 < a.first + a.cap)))
  let z : Scan := { next := lo, stop := decide (cap = 0) }
  let z := pages.foldl (scanPage s errs g lo cap (recPasses t0 t1 mask)) z
  if z.stop then z else { z with next := max lo (x.committed * pageRecs g) }

/-- The stream mask of a request, where it names one. -/
def maskOf (s : State) (c : Nat) (b : BitVec 512) : Option (List Byte) :=
  if sqA3 b = 0 then none else some (bufBytes s c (sqA3 b) 64)

def maskRange (b : BitVec 512) : List (Nat × Nat) := if sqA3 b = 0 then [] else [(sqA3 b, 64)]

/-- Records between a start and the end of what is committed. -/
def spanRecs (t : Store) (g : Bool) (start : Nat) : Nat :=
  let x := logOf t g
  x.committed * pageRecs g - max start (x.firstPage * pageRecs g)

/-- What the reads of a scan leave behind. -/
def noteScan (s : State) (g : Bool) (z : Scan) : State :=
  z.outs.reverse.foldl (fun s e => notePage (fun t b => stripeBlock (logOf t g).stripes e.1 b) s e.2) s

/-- DATA_LOST where holes were met. -/
def holeStatus (n items : Nat) : Nat × Nat × Nat := (if n = 0 then 0 else 3, items, n)

def readSub (errs : List PageErr) (g : Bool) (c : Nat) (r : StoreReq) (s : State) : State :=
  let b := r.block
  if sqLen b < 64 ∨ spanRecs s.store g (sqA0 b) > 2 ^ 32 then storeFinish s c r (6, 0, 0)
  else readBuf s c (maskRange b) (fun s =>
    let cap := min (sqCount b) ((sqLen b - 64) / recBytes g)
    let z := scanLog s errs g (sqA0 b) cap (sqA1 b) (sqA2 b) (maskOf s c b)
    let head := leBytes 8 z.next ++ leBytes 8 z.scanned ++ leBytes 8 z.holes ++ List.replicate 40 0
    writeBuf (count (noteScan s g z) 267 z.read) c r (head ++ z.found.reverse.flatMap (·.2))
      (holeStatus z.holes z.found.length))

def journalRead (ctx : CtxId) (errs : List PageErr) (s : State) : State :=
  mountedRow ctx subJournalRead (readSub errs false) s
def galleryRead (ctx : CtxId) (errs : List PageErr) (s : State) : State :=
  mountedRow ctx subGalleryRead (readSub errs true) s

-- ---------------------------------------------------------------- SEARCH (R477, R183 to R185)

/-- The list of one query over the matching records. -/
def searchList (k : Nat) (q : BitVec 2048) (base : Nat) (l : List (Nat × List Byte)) : List (Word × Word) :=
  l.foldl (fun acc e =>
    let emb : BitVec 2048 := ofBytes 2048 (e.2.drop 64)
    simOffer k (BitVec.ofInt 32 (simScore emb q), BitVec.ofNat 32 (e.1 - base)) acc) []

/-- The K entries of a list: one beyond its fill reads 0x8000_0000 and 0xFFFF_FFFF. -/
def searchEntries (k : Nat) (l : List (Word × Word)) : List Byte :=
  (List.range k).flatMap (fun i =>
    let e := l.getD i (0x80000000, 0xFFFFFFFF)
    leBytes 4 e.1.toNat ++ leBytes 4 e.2.toNat)

/-- What a search leaves at BUF, with its matches and its scan; A0 is the address of the queries. -/
def searchOut (s : State) (errs : List PageErr) (c : Nat) (b : BitVec 512) : List Byte × Nat × Scan :=
  let z := scanLog s errs true 0 (2 ^ 33) (sqA1 b) (sqA2 b) (maskOf s c b)
  let base := s.store.gallery.firstPage * 51
  let found := z.found.reverse
  let q (i : Nat) : BitVec 2048 := ofBytes 2048 (bufBytes s c (sqA0 b + 256 * i) 256)
  let head := leBytes 8 base ++ leBytes 8 z.scanned ++ leBytes 8 found.length ++ leBytes 8 z.holes ++
    List.replicate 32 0
  (head ++ (List.range (sqNq b)).flatMap (fun i => searchEntries (sqK b) (searchList (sqK b) (q i) base found)),
    found.length, z)

/-- The core of a search has run its program to its end. -/
def endSearch (s : State) (c : Nat) : State :=
  match (ctxOf s c).task with
  | some t =>
    if t.phase == .running then t.cores.foldl (fun s d => updSeq s d (fun q => { q with ended := true })) s
    else s
  | none => s

/-- The search itself: the result goes to BUF and the record to STATUS. -/
def searchRun (s : State) (errs : List PageErr) (c : Nat) (r : StoreReq) : State :=
  let b := r.block
  if !stMounted s then endSearch (storeFinish s c r (7, 0, 0)) c
  else if sqLen b < 64 + 8 * sqNq b * sqK b ∨ spanRecs s.store true 0 > 2 ^ 32 then
    endSearch (storeFinish s c r (6, 0, 0)) c
  else readBuf s c ((sqA0 b, 256 * sqNq b) :: maskRange b) (fun s =>
    let o := searchOut s errs c b
    endSearch (writeBuf (count (noteScan s true o.2.2) 267 o.2.2.read) c r o.1
      (holeStatus o.2.2.holes o.2.1)) c)

/-- SEARCH: the task that the command became has its core. -/
def search (ctx : CtxId) (errs : List PageErr) (s : State) : State :=
  let c := ctx.toNat
  match (ctxOf s c).task, reqOf s c with
  | some t, some r => if t.cmd.search && t.phase == .running then searchRun s errs c r else s
  | _, _ => s

-- ---------------------------------------------------------------- Ingots and the plan (R463, R470, R474)

/-- Pages that an image takes. -/
def imagePages16 (n : Nat) : Nat := (n + 16383) / 16384

/-- Pages of the Ingot region in use, without image `id`. -/
def ingotPages (t : Store) (id : Nat) : Nat :=
  (t.ingots.map (fun e => match e.2 with
    | some i => if e.1 = id then 0 else imagePages16 i.bytes.length
    | none => 0)).foldl (· + ·) 0

def ingotRoom (s : State) (id n : Nat) : Bool :=
  decide (ingotPages s.store id + imagePages16 n ≤ s.store.ingotShare * 2 * profPages s)

def ingotOf (t : Store) (id : Nat) : Option Image := mget none t.ingots id

/-- The image that a context's Ingot ID resolves to, where one copy can be read. -/
def readIngot (t : Store) (id : Nat) : Option (List Byte) :=
  match ingotOf t id with
  | some i => if onPresent t i.onA i.onB then some i.bytes else none
  | none => none

/-- An image is written on the modules present; its command waits for the commit that covers it. -/
def imageWrite (id : Nat) (f : Store → Store) (c : Nat) (r : StoreReq) (s : State) : State :=
  let n := sqLen r.block
  if !ingotRoom s id n then storeFinish s c r (2, 0, 0)
  else readBuf s c [(sqBuf r.block, n)] (fun s =>
    let i : Image := {
      md := nextMeta s 1 0 s.store.ingotNext, bytes := bufBytes s c (sqBuf r.block) n
      onA := !s.store.outA, onB := !s.store.outB }
    let copies := (if i.onA then 1 else 0) + (if i.onB then 1 else 0)
    let s := wroteMeta (count s 266 (imagePages16 n * copies)) (imagePages16 n)
    setReq (updStore s (fun t => f { t with
      ingotNext := t.ingotNext + imagePages16 n, ingots := mset none t.ingots id (some i) })) c
      (some { r with waits := true }))

def ingotWrite (ctx : CtxId) (s : State) : State :=
  mountedRow ctx subIngotWrite (fun c r s =>
    imageWrite (sqA0 r.block) (fun t => { t with early := true }) c r s) s

/-- PLAN_WRITE: `p` is what the record spells (R393 lays out no bits). -/
def planWrite (ctx : CtxId) (p : Plan) (s : State) : State :=
  mountedRow ctx subPlanWrite (fun c r s => imageWrite planId (fun t => { t with plan := some p }) c r s) s

/-- Page `j` of an image, as a read finds it. -/
def readImagePage (s : State) (errs : List PageErr) (i : Image) (j : Nat) : PageOut :=
  let md := { i.md with page := i.md.page + BitVec.ofNat 32 j, seq := i.md.seq + BitVec.ofNat 64 j }
  let data := padPage ((i.bytes.drop (16384 * j)).take 16384)
  readPage (i.onA && !s.store.outA) (i.onB && !s.store.outB)
    (fun b => readCopy md data errs b (retryLevels s) 0)

/-- An image read page by page, where a read finds wrong bits in some of them: the result omits holes. -/
def readImage (s : State) (errs : List PageErr) (c : Nat) (r : StoreReq) (i : Image) : State :=
  let n := imagePages16 i.bytes.length
  let outs := (List.range n).map (readImagePage s errs i)
  let l := ((outs.zipIdx).map (fun e => match e.1.data with
    | some d => d.take (i.bytes.length - 16384 * e.2)
    | none => [])).flatten
  let holes := (outs.filter (fun o => o.data.isNone)).length
  let s := outs.foldl (notePage (fun _ _ => none)) s
  writeBuf (count s 267 n) c r l (holeStatus holes l.length)

def ingotReadSub (errs : List PageErr) (c : Nat) (r : StoreReq) (s : State) : State :=
  match ingotOf s.store (sqA0 r.block) with
  | none => storeFinish s c r (1, 0, 0)
  | some i =>
    if i.bytes.length > sqLen r.block then storeFinish s c r (6, 0, 0)
    else if !onPresent s.store i.onA i.onB then storeFinish s c r (3, 0, imagePages16 i.bytes.length)
    else if errs.any (fun x => decide (x.region = 1)) then readImage s errs c r i
    else writeBuf (count s 267 (imagePages16 i.bytes.length)) c r i.bytes (0, i.bytes.length, 0)

def ingotRead (ctx : CtxId) (errs : List PageErr) (s : State) : State :=
  mountedRow ctx subIngotRead (ingotReadSub errs) s

/-- The Ingot of a plan context under schedule entry `e`. -/
def ctxIngot (p : PlanBasket) (e : Nat) (x : PlanCtx) : Word :=
  match p.entries[e]? with
  | some en => (match en.change.find? (fun q => q.1 == x.index) with
      | some q => q.2
      | none => x.ingot)
  | none => x.ingot

/-- The schedule entry in force of a Basket (R412). -/
def entryOf (s : State) (b : Nat) : Nat := (mget 0 s.sb.entry b).toNat

/-- An Ingot is named by a plan entry in force. -/
def ingotInForce (s : State) (id : Nat) : Bool :=
  match s.sb.plan with
  | some p => p.baskets.any (fun b => b.ctxs.any (fun x =>
      decide ((ctxIngot b (entryOf s b.slot.toNat) x).toNat = id)))
  | none => false

def ingotDeleteSub (c : Nat) (r : StoreReq) (s : State) : State :=
  let id := sqA0 r.block
  if (ingotOf s.store id).isNone then storeFinish s c r (1, 0, 0)
  else if ingotInForce s id then storeFinish s c r (4, 0, 0)
  else storeFinish (updStore s (fun t => { t with ingots := mset none t.ingots id none })) c r (0, 0, 0)

def ingotDelete (ctx : CtxId) (s : State) : State := mountedRow ctx subIngotDelete ingotDeleteSub s

-- ---------------------------------------------------------------- FORMAT (R455, R467)

def standingUnparked (s : State) : Bool :=
  (List.range 16).any (fun b => (bskOf s b).valid && (bskOf s b).standing && !s.sb.parked.getLsbD b)

/-- FORMAT's erasure: every good block is erased once, those of `bad` are factory bad. -/
def formatBlock (s : State) (bad : List Nat) (k : Nat) : State :=
  if bad.contains k then updStore s (fun t => updBlk t k (fun b => { b with region := 4, bad := max b.bad 1 }))
  else if isGood s.store k then eraseBlock s k
  else s

/-- Stripes taken for the Ingot region's own pool (R468). -/
def ingotPool : Nat → State → State
  | 0, s => s
  | n + 1, s => ingotPool n (takeStripe 1 (chansIn s.store) s []).2

/-- The shares in stripes: Ingot, Gallery, Journal; none where the blocks do not reach. -/
def formatShares (good a0 : Nat) : Option (Nat × Nat × Nat) :=
  let total := good / 4
  let ingot := total * (a0 % 65536) / 1000
  let gallery := total * (a0 / 65536 % 65536) / 1000
  let spare := ((good + 49) / 50 + 3) / 4
  if 64 + ingot + gallery + spare < total then some (ingot, gallery, total - 64 - ingot - gallery - spare)
  else none

def formatStore (s : State) (bad : List Nat) (q : Nat × Nat × Nat) : State :=
  let s := updStore s (fun t => { t with
    ops := [], mapStripes := [], mapNext := 0, journal := {}, gallery := {}, ingots := [], plan := none
    flash := [], anchor := none, commitBusy := false })
  let s := (allBlocks s).foldl (fun s k => formatBlock s bad k) s
  let s := ingotPool q.1 s
  updStore s (fun t => { t with
    ingotShare := q.1, gallery := { share := q.2.1 }, journal := { share := q.2.2 }, blank := false
    spareLow := false, early := true })

def eraseArmed (s : State) : Bool := s.store.armedUntil.isSome

def formatSub (bad : List Nat) (c : Nat) (r : StoreReq) (s : State) : State :=
  if !eraseArmed s then storeFinish s c r (5, 0, 0)
  else
    let s := updStore s (fun t => { t with armedUntil := none })
    let good := ((allBlocks s).filter (fun k => isGood s.store k && !bad.contains k)).length
    if standingUnparked s then storeFinish s c r (4, 0, 0)
    else match formatShares good (sqA0 r.block) with
      | none => storeFinish s c r (2, 0, 0)
      | some q => storeFinish (formatStore s bad q) c r (0, 0, 0)

def format (ctx : CtxId) (bad : List Nat) (s : State) : State :=
  mountedRow ctx subFormat (formatSub bad) s

-- ---------------------------------------------------------------- modules (R472)

def nandDom (b : Bool) : Nat := if b then 212 else 211

/-- A domain is switched within a step. -/
def setDom (s : State) (d : Nat) (on : Bool) : State :=
  let m : BitVec 224 := 1#224 <<< d
  let f (x : BitVec 224) : BitVec 224 := if on then x ||| m else x &&& ~~~m
  { s with pwr := { s.pwr with en := f s.pwr.en, on := f s.pwr.on } }

def moduleOutSub (c : Nat) (r : StoreReq) (s : State) : State :=
  let b := decide (sqA0 r.block = 1)
  if modOut s.store (!b) || s.store.rebuilding then storeFinish s c r (7, 0, 0)
  else if modOut s.store b then storeFinish s c r (0, 0, 0)
  else
    let s := finishOps s (fun o => blkModB o.block == b)
    storeFinish (setDom (nandBit (dropModule s b)) (nandDom b) false) c r (0, 0, 0)

def moduleOut (ctx : CtxId) (s : State) : State := mountedRow ctx subModuleOut moduleOutSub s

/-- The stripes of a region after a module was replaced: new blocks on its channels. -/
def restripe (region : Nat) (b : Bool) : List Stripe → State → List Stripe → List Stripe × State
  | [], s, acc => (acc, s)
  | a :: l, s, acc =>
    let x := takeStripe region (if b then [2, 3] else [0, 1]) s []
    restripe region b l x.2 (acc ++ [{ a with blocks := a.blocks.filter (fun k => blkModB k != b) ++ x.1 }])

/-- What a module held is gone: a new one is fitted. -/
def loseCopy (b : Bool) (onA onB : Bool) : Bool × Bool := (onA && b, onB && !b)

def eraseCopies (s : State) (b : Bool) : State :=
  let pg (p : LogPage) : LogPage :=
    { p with onA := (loseCopy b p.onA p.onB).1, onB := (loseCopy b p.onA p.onB).2 }
  let im (i : Image) : Image :=
    { i with onA := (loseCopy b i.onA i.onB).1, onB := (loseCopy b i.onA i.onB).2 }
  let ck (x : Checkpoint) : Checkpoint :=
    { x with onA := (loseCopy b x.onA x.onB).1, onB := (loseCopy b x.onA x.onB).2
             ingots := x.ingots.map (fun e => (e.1, e.2.map im)) }
  updStore s (fun t => { t with
    journal := { t.journal with pages := t.journal.pages.map pg }
    gallery := { t.gallery with pages := t.gallery.pages.map pg }
    ingots := t.ingots.map (fun e => (e.1, e.2.map im))
    flash := t.flash.map (fun e => (e.1, e.2.map ck)) })

/-- The new module's blocks are erased, and the stripes in use take blocks on it. -/
def moduleFresh (s : State) (b : Bool) (bad : List Nat) : State :=
  let ks := (if b then [2, 3] else [0, 1]).flatMap (chanBlocks s)
  let s := updStore s (fun t => { t with blocks := t.blocks.filter (fun e => blkModB e.1 != b) })
  let s := ks.foldl (fun s k => formatBlock s bad k) (eraseCopies s b)
  let g := s.store.gallery
  let s := updLog s true (fun r => { r with stripes := r.stripes.map (fun a =>
    if nextPage g < a.first + a.cap then { a with cap := nextPage g - a.first } else a) })
  let x := restripe 0 b s.store.mapStripes s []
  let s := updStore x.2 (fun t => { t with mapStripes := x.1 })
  let y := restripe 2 b s.store.journal.stripes s []
  updLog y.2 false (fun r => { r with stripes := y.1 })

def moduleInSub (badT : BitVec 16) (bad : List Nat) (c : Nat) (r : StoreReq) (s : State) : State :=
  let b := decide (sqA0 r.block = 1)
  let m : BitVec 16 := profTargets s &&& (if b then 0xFF00 else 0x00FF)
  if !modOut s.store b then storeFinish s c r (7, 0, 0)
  else
    let s := setDom s (nandDom b) true
    let s := updStore s (fun t => { t with
      targets := t.targets ||| m
      outA := t.outA && b, outB := t.outB && !b })
    let fails := m &&& badT
    if fails ≠ 0 ∨ m = 0 then
      let s := (coresOf fails).foldl targetFails (updStore s (fun t => { t with
        outA := t.outA || !b, outB := t.outB || b }))
      storeFinish s c r (7, 0, 0)
    else
      let s := updStore (moduleFresh s b bad) (fun t => { t with rebuilding := true, copiedGen := none })
      storeFinish (stPost s 0x18A) c r (0, 0, 0)

def moduleIn (ctx : CtxId) (badT : BitVec 16) (bad : List Nat) (s : State) : State :=
  mountedRow ctx subModuleIn (moduleInSub badT bad) s

/-- The rebuild copies every live page of the mirrored regions that the present module holds. -/
def rebuildCopy (s : State) : State :=
  let pg (p : LogPage) : LogPage := { p with onA := p.onA || p.onB, onB := p.onA || p.onB }
  let im (i : Image) : Image := { i with onA := i.onA || i.onB, onB := i.onA || i.onB }
  updStore s (fun t => { t with
    journal := { t.journal with pages := t.journal.pages.map pg }
    ingots := t.ingots.map (fun e => (e.1, e.2.map im))
    flash := t.flash.map (fun e => (e.1, e.2.map (fun x => { x with
      onA := x.onA || x.onB, onB := x.onA || x.onB
      ingots := x.ingots.map (fun q => (q.1, q.2.map im)) })))
    copiedGen := some t.gen })

/-- SVC_REPLACE.NAND clears when no module is out and spares are not low (R483). -/
def clearNandBit (s : State) : State :=
  if s.store.outA || s.store.outB || s.store.spareLow then s
  else { s with svc := { s.svc with replace := s.svc.replace &&& 0b110111 } }

/-- MIRROR_REBUILT: the copy ends; once a commit has followed it, REBUILDING clears. -/
def mirrorRebuilt (s : State) : State :=
  if s.store.rebuilding && stMounted s && !s.store.outA && !s.store.outB then
    match s.store.copiedGen with
    | none => rebuildCopy s
    | some g =>
      if s.store.gen = g then s
      else
        let s := updStore s (fun t => { t with rebuilding := false, copiedGen := none })
        clearNandBit (stPost (stEvent s 5) 0x18B)
  else s

-- ---------------------------------------------------------------- arming, refresh, timers

/-- The completed twin write of ST_ERASE_ARM (R480). -/
def eraseArmDone (s : State) (v : Word) : State :=
  if v.getLsbD 0 then updStore s (fun t => { t with armedUntil := some (now s + 100000000) }) else s

def eraseArmExpiry (s : State) : State :=
  match s.store.armedUntil with
  | some t => if (now s - t).toNat < 2 ^ 63 then updStore s (fun x => { x with armedUntil := none }) else s
  | none => s

/-- A block is due for relocation (R469): its age in powered hours or in wall time, or the bits that a read
corrected. -/
def refreshDue (s : State) (k corrected : Nat) : Bool :=
  let b := blkOf s.store k
  let days := profField s 9 0 16
  let aged := (temperWord s 4 - b.hours).toNat > 24 * days
  let old := decide (b.wall ≠ 0 ∧ wallSecond s ≠ 0 ∧ wallSecond s - b.wall > 86400 * days)
  decide (b.region < 4 ∧ b.bad = 0) && (aged || old || decide (corrected ≥ profField s 9 16 6))

/-- STORE_REFRESH: `corrected` bits were corrected in one codeword of the block. -/
def storeRefresh (s : State) (k corrected : Nat) : State :=
  if stMounted s then
    let s := updStore s (fun t => updBlk { t with ceCnt := satAdd t.ceCnt corrected } k
      (fun b => { b with corrected := b.corrected + corrected }))
    if forgeRuns s && refreshDue s k corrected then
      match moveBlock s k with
      | some s => stPost s 0x188
      | none => s
    else s
  else s

/-- STORE_HOURS_TICK: an hour of 360,000,000,000 ticks has passed (R453). -/
def storeHoursTick (s : State) : State :=
  if forgeRuns s && decide ((now s - s.store.hoursTick).toNat ≥ 360000000000) then
    forgeTemper (updStore s (fun t => { t with hoursTick := now s })) 4 (forgeWord s 4 + 1) true
  else s

def zqTimer (s : State) : State :=
  if stMounted s && decide ((now s - s.store.zqTick).toNat ≥ 1000000000) then
    updStore s (fun t => { t with zqTick := now s })
  else s

/-- A LUN's number; a channel, chip enable or LUN that does not exist names none. -/
def lunOf (ch ce lun : Nat) : Option Nat :=
  if ch < 4 ∧ ce < 4 ∧ lun < 2 then some (lunKey ch ce lun) else none

/-- STATUS_POLL (R447): RDY ends the wait, FAIL marks the operation failed. -/
def statusPoll (s : State) (ch ce lun : Nat) (status : Byte) : State :=
  match lunOf ch ce lun with
  | some l => if status.getLsbD 6 then nandDone s l (status.getLsbD 0) else s
  | none => s

/-- NAND_OP_TIMEOUT (R447): RESET and one repetition; the second timeout fails the target. -/
def nandOpTimeout (s : State) (ch ce lun : Nat) : State :=
  match (lunOf ch ce lun).bind (nextOp s.store) with
  | some o =>
    match o.started with
    | some t =>
      if (now s - t).toNat > 2 * profTime s o.erase then
        if o.retried then targetFails s (4 * ch + ce)
        else updStore s (fun x => { x with ops := x.ops.map (fun y =>
          if y = o then { y with started := some (now s), retried := true } else y) })
      else s
    | none => s
  | none => s

/-- The store reset (R516): running operations end, a commit in progress is abandoned, and the store is
mounted again; the commands under way begin again. -/
def storeResetDone (s : State) : State :=
  let t := finishOps s (fun o => o.started.isSome)
  let s := updStore t (fun x => { storeForget x with enable := false, st := 0 })
  if t.store.enable then storeMount s 0 [] else s

-- ---------------------------------------------------------------- the commands

def execStore (ctx : CtxId) (s : State) : Out := .next (storeCmd ctx s)
def execSappAccept (core : CoreId) (s : State) : Out := .next (sappAccept s core.toNat)
def execStoreMount (badTargets : BitVec 16) (errs : List PageErr) (s : State) : Out :=
  .next (gated s storeOff 1 .forge true 210 (fun s => storeMount s badTargets errs))
def execStoreUnmount (s : State) : Out := .next (gated s storeOff 0 .forge true 210 storeUnmount)
def execStatusPoll (ch ce lun : Nat) (status : Byte) (s : State) : Out :=
  .next (statusPoll s ch ce lun status)
def execNandOpTimeout (ch ce lun : Nat) (s : State) : Out := .next (nandOpTimeout s ch ce lun)
def execNandOpComplete (ch ce lun : Nat) (fail : Bool) (s : State) : Out :=
  .next (match lunOf ch ce lun with | some l => nandDone s l fail | none => s)
def execZqCalibrationTimer (s : State) : Out := .next (zqTimer s)
def execJournalCommit (s : State) : Out := .next (journalCommit s)
def execJournalAppend (ctx : CtxId) (s : State) : Out := .next (journalAppend ctx s)
def execGalleryAppend (ctx : CtxId) (s : State) : Out := .next (galleryAppend ctx s)
def execJournalRead (ctx : CtxId) (errs : List PageErr) (s : State) : Out := .next (journalRead ctx errs s)
def execGalleryRead (ctx : CtxId) (errs : List PageErr) (s : State) : Out := .next (galleryRead ctx errs s)
def execSearch (ctx : CtxId) (errs : List PageErr) (s : State) : Out := .next (search ctx errs s)
def execCommit (ctx : CtxId) (s : State) : Out := .next (mountedRow ctx subCommit commitSub s)
def execIngotWrite (ctx : CtxId) (s : State) : Out := .next (ingotWrite ctx s)
def execIngotRead (ctx : CtxId) (errs : List PageErr) (s : State) : Out := .next (ingotRead ctx errs s)
def execIngotDelete (ctx : CtxId) (s : State) : Out := .next (ingotDelete ctx s)
def execPlanWrite (ctx : CtxId) (p : Plan) (s : State) : Out := .next (planWrite ctx p s)
def execFormat (ctx : CtxId) (badBlocks : List Nat) (s : State) : Out := .next (format ctx badBlocks s)
def execModuleOut (ctx : CtxId) (s : State) : Out := .next (moduleOut ctx s)
def execModuleIn (ctx : CtxId) (badTargets : BitVec 16) (badBlocks : List Nat) (s : State) : Out :=
  .next (moduleIn ctx badTargets badBlocks s)
def execMirrorRebuilt (s : State) : Out := .next (mirrorRebuilt s)
def execEraseArmExpiry (s : State) : Out := .next (eraseArmExpiry s)
def execStoreRefresh (block corrected : Nat) (s : State) : Out := .next (storeRefresh s block corrected)
def execStoreHoursTick (s : State) : Out := .next (storeHoursTick s)

end Sys2Proof.Machine
end

