-- ==== Sys2Proof/Machine/Standing.lean ====
section
/-! DEFINITION. Standing operation (14): host resets, the Forge's start, supervision, triggers, Ingot
switches and adoption. -/

namespace Sys2Proof.Machine

def updSb (s : State) (f : Sb → Sb) : State := { s with sb := f s.sb }

/-- Valid contexts of Baskets that are not standing. -/
def hostCtxs (s : State) : List Nat :=
  (s.cp.ctxs.filter (fun e => e.2.valid && !ctxStanding s e.1)).map (·.1)

-- ---------------------------------------------------------------- host reset (R401, R402)

/-- Every open record of a space without FORGE, and every pending one, is treated as ABORT. -/
def abortOpen (s : State) : State :=
  (List.range 64).foldl (fun s i => match recOf s i with
    | some r => if slotForge s r.slot then s else closeRec (abortCtxs s r) i
    | none => s) s

/-- HOST_RESET; a second one while the host is gone changes nothing (R403). -/
def hostReset (s : State) : State :=
  if s.cp.detached then s
  else
    let vecs := ((List.range 24).map (fun v => (v, { mget {} s.cp.vecs v with mask := true }))).filter
      (fun e => !decide (e.2 = {}))
    let t := now s
    let s := { s with
      cp := { s.cp with detached := true, vecs := vecs }
      geq := { s.geq with enable := false }
      mbx := { s.mbx with reqBusy := false, rspValid := false } }
    abortOpen (updSb s (fun b => { b with hostQuiet := false, hostResetTick := some t }))

/-- QUIET_LIMIT_EXPIRY: TEARDOWN reason 3 for each host context still RUNNING (R413). -/
def quietLimitExpiry (s : State) : State :=
  match s.sb.hostResetTick with
  | some t =>
    if s.cp.detached && decide ((now s - t).toNat ≥ s.sb.quietLimit.toNat) then
      (hostCtxs s).foldl (fun s c =>
        if (ctxOf s c).state == .running then cmdFault s c tfTeardown 3 else s) s
    else s
  | none => s

/-- A line request of a host context is in flight: a load or store line of a core that was translated by a
space of the host, whether or not its stream still stands, or a walk in such a space. -/
def hostLines (s : State) : Bool :=
  let host (slot : Nat) : Bool := !slotForge s slot
  s.cores.any (fun e => (e.2.mem.lines ++ strayStores e.2.mem).any (fun l => host l.slot)) ||
    s.atu.walks.any (fun w => match w.2 with | some w => host w.slot | none => false) ||
    s.atu.walkQueue.any (fun w => host w.slot)

/-- The four conditions of R402; a trailing FENCE_SIGNAL counts as running. -/
def quietNow (s : State) : Bool :=
  (hostCtxs s).all (fun c =>
    let k := ctxOf s c
    !(k.state == .running || k.state == .teardown || k.trail)) &&
  s.fu.signals.isEmpty && !hostLines s

/-- A window maps memory outside the carve-out. -/
def windowOutside (s : State) (l : Nat) (x : PltWin) : Bool :=
  x.opened && (List.range x.count.toNat).any (fun i =>
    let e := mget 0 (linkOf s l).table (x.first.toNat + i)
    let a := (bits e 12 40).toNat * 4096
    entryOk x e && x.kind && decide (a < carveLo s ∨ carveHi s < a + 2 ^ x.g.toNat))

def closeOutside (s : State) : State :=
  { s with links := s.links.map (fun e => (e.1, { e.2 with
      wins := e.2.wins.map (fun w =>
        (w.1, if windowOutside s e.1 w.2 then { w.2 with opened := false } else w.2)) })) }

/-- The wait of a host context's FENCE_WAIT is withdrawn: DETACHED. -/
def quietWait (s : State) (c : Nat) : State :=
  let k := ctxOf s c
  match k.cur with
  | some (.fenceWait _ _ _) =>
    if k.state == .fenceWait then
      updCtx (withdrawWait s c) c (fun k => { k with
        state := if k.stopPend then .stopped else .detached, stopPend := false, withdrawn := true })
    else s
  | _ => s

/-- HOST_QUIET (R402). -/
def hostQuiet (s : State) : State :=
  if s.cp.detached && !s.sb.hostQuiet && quietNow s then
    closeOutside ((hostCtxs s).foldl quietWait (updSb s (fun b => { b with hostQuiet := true })))
  else s

-- ---------------------------------------------------------------- the carve-out (R396, R397)

/-- CARVE_BASE and CARVE_SIZE can be read and name at least 256 MiB (R545). -/
def carveOk (s : State) : Bool :=
  !temperUnreadable s 5 && !temperUnreadable s 6 && decide ((temperWord s 6).toNat ≥ 16)

/-- The check value over the header (log 36). -/
def headerCheck (m : List Host.Cell) (a : Nat) : Word := crc32c (rdBytes m a 4092)

def headerIntact (s : State) : Bool :=
  let a := carveLo s
  decide (rd32 s.mem a = 1) && decide (rd32 s.mem (a + 4092) = headerCheck s.mem a)

/-- Memory with the bytes of a range at zero. -/
def zeroRange (m : List Host.Cell) (lo hi : Nat) : List Host.Cell :=
  m.filter (fun e => !decide (lo ≤ e.1 ∧ e.1 < hi))

/-- Pages of 2 MiB of the carve-out: address and PTE with V, R, W, U, A and D (R395). -/
def carveLeaves (lo size : Nat) : List (Nat × Nat) :=
  (List.range (size / 2 ^ 21)).map (fun i =>
    let a := lo + i * 2 ^ 21
    (a, a / 4096 * 1024 + 0xD7))

/-- The standing spaces' page tables, at `t`: the root, then a table for each 512 GiB, then one for each
1 GiB that the carve-out meets (log 36). -/
def carveTables (lo size t : Nat) : List (Nat × Nat) :=
  let g0 := lo / 2 ^ 30
  let n := (lo + size - 1) / 2 ^ 30 + 1 - g0
  let h0 := lo / 2 ^ 39
  let m := (lo + size - 1) / 2 ^ 39 + 1 - h0
  let l2 (i : Nat) : Nat := t + 4096 * (1 + i)
  let l1 (i : Nat) : Nat := t + 4096 * (1 + m + i)
  let ptr (a : Nat) : Nat := a / 4096 * 1024 + 1
  (List.range m).map (fun i => (t + 8 * ((h0 + i) % 512), ptr (l2 i))) ++
  (List.range n).map (fun i => (l2 ((g0 + i) / 512 - h0) + 8 * ((g0 + i) % 512), ptr (l1 i))) ++
  (carveLeaves lo size).map (fun e => (l1 (e.1 / 2 ^ 30 - g0) + 8 * (e.1 / 2 ^ 21 % 512), e.2))

/-- Bytes of those tables. -/
def carveTableBytes (lo size : Nat) : Nat :=
  4096 * (1 + ((lo + size - 1) / 2 ^ 39 + 1 - lo / 2 ^ 39) + ((lo + size - 1) / 2 ^ 30 + 1 - lo / 2 ^ 30))

/-- The Forge lays out the carve-out: the event log stays where the header is intact, the rest is built
again. -/
def layCarve (s : State) (version : Word) : State :=
  let a := carveLo s
  let keep := headerIntact s
  let starts := if keep then rd32 s.mem (a + 8) + 1 else 1
  let wr := if keep then rd32 s.mem (a + 0x21000) else 0
  let m := zeroRange s.mem (a + (if keep then 0x41000 else 0)) (carveHi s)
  let m := if keep then zeroRange m a (a + 0x1000) else m
  let size := carveHi s - a
  let m := (carveTables a size (a + 0x41000)).foldl (fun m e => wrNat m e.1 8 e.2) m
  let m := wr32 (wr32 (wr32 m a 1) (a + 4) version) (a + 8) starts
  updSb { s with mem := m } (fun b => { b with
    starts := starts, logWr := wr, alloc := 0x41000 + carveTableBytes a size })

/-- The header names where the allocation ends, and its check value is renewed. -/
def sealHeader (s : State) : State :=
  let a := carveLo s
  let m := wrNat s.mem (a + 16) 8 s.sb.alloc
  { s with mem := wr32 m (a + 4092) (headerCheck m a) }

/-- `n` bytes of the carve-out, from a multiple of 4,096; none when they do not fit. -/
def carveTake (s : State) (n : Nat) : Option (Nat × State) :=
  let o := (s.sb.alloc + 4095) / 4096 * 4096
  if carveLo s + o + n ≤ carveHi s then
    some (carveLo s + o, updSb s (fun b => { b with alloc := o + n }))
  else none

-- ---------------------------------------------------------------- standing Baskets (R394, R395, R407)

def standCtx (b i : Nat) : Nat := 3968 + 8 * b + i

/-- An Ingot cannot be used: its signature or ECC fails, or the store that holds the plan has no readable
copy of it. -/
def ingotBad (s : State) (bad : List Word) (id : Word) : Bool :=
  bad.contains id || (s.store.plan.isSome && (readIngot s.store id.toNat).isNone)

/-- Every Ingot of an entry can be used. -/
def entryGood (s : State) (bad : List Word) (p : PlanBasket) (e : Nat) : Bool :=
  p.ctxs.all (fun x => !ingotBad s bad (ctxIngot p e x))

/-- The entry that a Basket starts with: the one in force, else the fallback. -/
def startEntry (s : State) (bad : List Word) (p : PlanBasket) : Option Nat :=
  let e := (bits (temperWord s (0x30 + p.slot.toNat)) 0 4).toNat
  if entryGood s bad p e then some e
  else match p.fallback with
    | some f => if entryGood s bad p f.toNat then some f.toNat else none
    | none => none

/-- Cores in service that no Basket holds. -/
def idleCores (s : State) : List Nat :=
  (List.range 16).filter (fun c => (coreOf s c).ta.st == .service && (bskOfCore s c).isNone)

def maskOf16 (l : List Nat) : BitVec 16 := l.foldl (fun m c => m ||| (1#16 <<< c)) 0

/-- The Basket that a plan entry makes of `cores`. -/
def planBasketOf (old : Basket) (p : PlanBasket) (cores : List Nat) : Basket :=
  { freshBasket old with
    valid := true, standing := true, cores := maskOf16 cores, segs := p.segs, rsvd := p.rsvd
    slice := p.slice
    regions := (p.regions.take 8).zipIdx.map (fun e => (e.2, e.1)) |>.filter (fun e => !decide (e.2 = 0)) }

/-- Ring and save area of the eight contexts of a Basket. -/
def standAreas (s : State) (b n bound : Nat) : Option State :=
  let size := (saveBytes n bound + 4095) / 4096 * 4096
  (List.range 8).foldl (fun o i => o.bind (fun s =>
    match carveTake s 16384 with
    | none => none
    | some (r, s) => match carveTake s size with
      | none => none
      | some (v, s) => some (updCtx s (standCtx b i) (fun k => { k with
          ringBase := BitVec.ofNat 64 r, ringLog2 := 8, saveBase := BitVec.ofNat 64 v
          sizeKib := BitVec.ofNat 20 (size / 1024) })))) (some s)

/-- An Ingot's image is placed in the carve-out. -/
def placeIngot (s : State) (id : Word) : Option State :=
  let l := (readIngot s.store id.toNat).getD []
  (carveTake s l.length).map (fun r => { r.2 with mem := wrBytes r.2.mem r.1 l })

/-- The space of a standing Basket: ENGINE and FORGE, its own slot (R394, R395). -/
def standSpace (s : State) (b : Nat) : State :=
  let id : BitVec 20 := BitVec.ofNat 20 (0xFFF00 + b)
  let ppn : DWord := BitVec.ofNat 64 ((carveLo s + 0x41000) / 4096)
  let slot := match slotOfId s id with
    | some k => some k
    | none => (List.range 4096).reverse.find? (fun k => !(spaceOf s k).valid)
  match slot with
  | some k => putSpace s k { id := id, valid := true, engine := true, forge := true, root := ppn }
  | none => s

/-- A standing context is bound under index `i` and started. -/
def standBind (s : State) (b i : Nat) (x : PlanCtx) : State :=
  let c := standCtx b i
  let s := bindCtx s c (BitVec.ofNat 4 b) x.prio true
  let s := updCtx s c (fun k => { k with
    space := BitVec.ofNat 20 (0xFFF00 + b), region := x.region, affinity := 0, rd := 0, wr := 0
    thresh := if x.prio = 0 then 256 else 512 })
  let s := updSb s (fun q => { q with bound := mset 0 q.bound (8 * b + x.index.toNat) (i + 1) })
  startCtx s .forge c

/-- The context index under which a plan context of Basket `b` is bound. -/
def boundAt (s : State) (b : Nat) (x : PlanCtx) : Nat :=
  match mget 0 s.sb.bound (8 * b + x.index.toNat) with
  | 0 => x.index.toNat
  | n + 1 => n

/-- A Basket of the plan is parked before it has come into being. -/
def parkPlanned (s : State) (b : Nat) : State :=
  updSb s (fun q => { q with parked := q.parked ||| (1#16 <<< b), standing := q.standing &&& ~~~(1#16 <<< b) })

/-- One Basket of the plan is brought up, or parked. -/
def startBasket (s : State) (bad : List Word) (p : PlanBasket) : State :=
  let b := p.slot.toNat
  let cores := (idleCores s).take p.wantCores
  match startEntry s bad p with
  | none => parkPlanned s b
  | some e =>
    if (bskOf s b).valid || decide (cores.length < max 1 p.minCores) then parkPlanned s b
    else
      let k := planBasketOf (bskOf s b) p cores
      let bound := (p.regions.map rgSize).foldl max 0
      let room := (standAreas s b cores.length bound).bind (fun s =>
        p.ctxs.foldl (fun o x => o.bind (fun s => placeIngot s (ctxIngot p e x))) (some s))
      match room with
      | none => parkPlanned s b
      | some s' =>
        if !basketOk s b k then parkPlanned s b
        else
          let s := setRate (setBsk s' b k) b p.rate.toNat p.depth.toNat
          let s := standSpace { s with ru := { s.ru with pixcap := mset 4194304 s.ru.pixcap b 0xFFFFFFFF } } b
          let s := p.ctxs.foldl (fun s x => standBind s b x.index.toNat x) s
          updSb s (fun q => { q with
            standing := q.standing ||| (1#16 <<< b), parked := q.parked &&& ~~~(1#16 <<< b)
            entry := mset 0 q.entry b (BitVec.ofNat 4 e)
            teardowns := mset [] q.teardowns b [], fallback := q.fallback &&& ~~~(1#16 <<< b) })

/-- The release context of a Basket's routes: its first context with a frame template. -/
def relCtx (s : State) (p : PlanBasket) : Nat :=
  let b := p.slot.toNat
  match p.ctxs.find? (fun x => x.template) with
  | some x => standCtx b (boundAt s b x)
  | none => standCtx b 0

def routeWord (b template rel : Nat) : BitVec 23 :=
  BitVec.ofNat 23 (1 + b * 2 + template * 32 + rel * 2048)

def setRoute (s : State) (stream : Nat) (v : BitVec 23) : State :=
  { s with fp := { s.fp with routes := mset 0 s.fp.routes stream v } }

/-- The route entries of the plan for the Baskets that `sel` holds of. -/
def planRoutes (s : State) (p : Plan) (sel : Nat → Bool) : State :=
  p.routes.foldl (fun s r =>
    let b := r.basket.toNat
    match p.baskets.find? (fun e => decide (e.slot.toNat = b)) with
    | some e =>
      if sel b && s.sb.standing.getLsbD b && !s.sb.parked.getLsbD b then
        (List.range (r.last.toNat + 1 - r.first.toNat)).foldl (fun s i =>
          setRoute s (r.first.toNat + i) (routeWord b r.template.toNat (relCtx s e))) s
      else s
    | none => s) s

-- ---------------------------------------------------------------- the Forge's start (R407, R483, R518)

/-- SVC_REPLACE at a Forge start. -/
def replaceBits (s : State) : BitVec 6 :=
  let bit (b : Bool) (i : Nat) : BitVec 6 := if b then 1#6 <<< i else 0
  bit ((List.range 16).any (coreRetiredTa s)) 0 |||
  bit ((List.range 16).any (fun c => decide (bits (temperWord s (0x20 + c)) 8 8 ≠ 0))) 1 |||
  bit (decide (temperWord s 8 ≠ 0 ∨ temperWord s 9 ≠ 0)) 2 |||
  bit (s.temper.words.any (fun e => decide (e.2.count.toNat ≥ 90000000 ∨
    ((List.range 3).filter (fun k => e.2.failed.getLsbD k)).length ≥ 2))) 4

/-- The plan that the Forge reads: the store's, else what the flash is said to have held (log 34). -/
def planRead (s : State) (f : ForgeInputs) : Option Plan :=
  match s.store.plan with
  | some p => if (readIngot s.store planId).isSome then some p else f.plan
  | none => f.plan

/-- The day of a TIME trigger that wall second `w` has reached, plus one (R409). -/
def dayMark (w minutes offset : Nat) : Nat := (w + offset * 60 + 86400 - minutes * 60) / 86400

/-- TIME triggers count from the wall time as it stands. -/
def markDays (s : State) : State :=
  match s.sb.plan with
  | none => s
  | some p => p.baskets.foldl (fun s b => b.entries.zipIdx.foldl (fun s e => match e.1.trigger with
      | .time m o => updSb s (fun q => { q with
          samples := mset 0 q.samples (16 * b.slot.toNat + e.2) (dayMark (wallSecond s) m o) })
      | .scene _ _ _ _ => s) s) s

/-- Steps 3 to 6 of R407 with a plan. -/
def applyPlan (s : State) (f : ForgeInputs) (p : Plan) : State :=
  let s := layCarve s p.version
  let s := updSb s (fun q => { q with plan := some p, planValid := true })
  let s := p.baskets.foldl (fun s b => startBasket s f.badIngots b) s
  let s := { s with fp := { s.fp with templates := f.templates.foldl (fun m e => mset [] m e.1 e.2) s.fp.templates } }
  sealHeader (planRoutes s p (fun _ => true))

/-- The wall-time anchor of the checkpoint (R458). -/
def takeAnchor (s : State) : State :=
  match s.store.anchor with
  | some (t, utc) => updSb s (fun q => { q with wall := some (utc, t - s.store.timeOff) })
  | none => s

/-- FORGE_START: the store, the standing Baskets, the links, then FORGE_READY. -/
def forgeStart (s : State) (f : ForgeInputs) : State :=
  if !forgeRuns s || s.mbx.forgeReady then s
  else
    let s := { s with svc := { s.svc with replace := s.svc.replace ||| replaceBits s } }
    let s := storeMount (setDom (setDom (setDom s 210 true) 211 true) 212 true) 0 []
    let s := if s.store.spareLow then nandBit s else s
    let s := takeAnchor s
    let s := match (if carveOk s then planRead s f else none) with
      | some p => applyPlan s f p
      | none => s
    let s := { s with fp := { s.fp with enable := true } }
    let s := (List.range 2).foldl (fun s l => if (linkOf s l).enable then linkTry s l else s) s
    let s := { s with mbx := { s.mbx with forgeReady := true } }
    post s 0x1E7 srcPwr none (if s.pwr.warm then 1 else 0) 0

-- ---------------------------------------------------------------- supervision (R399, R400)

/-- A trigger fires: the switch starts, or waits for one in progress. -/
def fireEntry (s : State) (b e : Nat) : State :=
  match mget none s.sb.switching b with
  | some _ => updSb s (fun q => { q with
      fired := if q.fired.contains (b, e) then q.fired else q.fired ++ [(b, e)] })
  | none =>
    if entryOf s b = e then s
    else updSb s (fun q => { q with
      switching := mset none q.switching b (some { entry := BitVec.ofNat 4 e }) })

/-- Eight teardowns within 60 s: the fallback entry, then parking. -/
def superviseBasket (s : State) (b : Nat) : State :=
  let l := (mget [] s.sb.teardowns b).filter (fun t => decide ((now s - t).toNat ≤ 6000000000)) ++ [now s]
  if l.length ≥ 8 then
    let s := updSb s (fun q => { q with teardowns := mset [] q.teardowns b [] })
    match (planOf s b).bind (·.fallback) with
    | some e =>
      if s.sb.fallback.getLsbD b then parkBasket s b
      else fireEntry (updSb s (fun q => { q with fallback := q.fallback ||| (1#16 <<< b) })) b e.toNat
    | none => parkBasket s b
  else updSb s (fun q => { q with teardowns := mset [] q.teardowns b l })

/-- STANDING_RESTART. -/
def standingRestart (s : State) (c : Nat) : State :=
  let k := ctxOf s c
  let b := k.basket.toNat
  if forgeRuns s && ctxStanding s c && k.state == .error then
    let e := geqEntry s k.code.toNat srcCp (some c) (faultObj k k.reason.toNat none) 0 false true
    let s := if s.cp.detached then s else eventLog s e
    let s := resetCtx s .forge c
    let s := if s.sb.parked.getLsbD b then s
      else updSb (startCtx s .forge c) (fun q => { q with restartCnt := satAdd q.restartCnt 1 })
    superviseBasket s b
  else s

-- ---------------------------------------------------------------- triggers (R409)

/-- A sample of one schedule entry. -/
def sampleEntry (s : State) (b : Nat) (e : PlanEntry × Nat) : State :=
  match e.1.trigger with
  | .time _ _ => s
  | .scene a th below hold =>
    let w := rd32 s.mem (carveLo s + a)
    let fires := if below then w.ult th else th.ult w
    let n := if fires then mget 0 s.sb.samples (16 * b + e.2) + 1 else 0
    let s := updSb s (fun q => { q with samples := mset 0 q.samples (16 * b + e.2) n })
    if n = hold then fireEntry s b e.2 else s

/-- SCENE_SAMPLE: once every 100,000,000 ticks. -/
def sceneSample (s : State) : State :=
  let due : Bool := match s.sb.sampled with
    | some t => decide ((now s - t).toNat ≥ 100000000)
    | none => true
  match s.sb.plan with
  | some p =>
    if forgeRuns s && due then
      let t := now s
      let s := updSb s (fun q => { q with sampled := some t })
      p.baskets.foldl (fun s b =>
        if s.sb.standing.getLsbD b.slot.toNat && !s.sb.parked.getLsbD b.slot.toNat then
          b.entries.zipIdx.foldl (fun s e => sampleEntry s b.slot.toNat e) s
        else s) s
    else s
  | none => s

/-- TIME_TRIGGER: the wall time has passed the entry's time of day since it was last seen. -/
def timeTrigger (s : State) (b e : Nat) : State :=
  match (planOf s b).bind (fun p => p.entries[e]?) with
  | some en =>
    match en.trigger with
    | .time m o =>
      if forgeRuns s && s.sb.timeCertain && s.sb.standing.getLsbD b && !s.sb.parked.getLsbD b then
        let d := dayMark (wallSecond s) m o
        let old := mget 0 s.sb.samples (16 * b + e)
        let s := updSb s (fun q => { q with samples := mset 0 q.samples (16 * b + e) d })
        if old ≠ 0 ∧ d > old then fireEntry s b e else s
      else s
    | .scene _ _ _ _ => s
  | none => s

-- ---------------------------------------------------------------- Ingot switches (R410)

/-- The plan contexts whose Ingot changes from entry `a` to entry `e`. -/
def incoming (p : PlanBasket) (a e : Nat) : List PlanCtx :=
  p.ctxs.filter (fun x => decide (ctxIngot p a x ≠ ctxIngot p e x))

def freeIndexes (s : State) (b : Nat) : List Nat :=
  (List.range 8).filter (fun i => (ctxOf s (standCtx b i)).state == .free)

/-- An entry of the Forge's own in the event log (log 37). -/
def switchLog (s : State) (b e : Nat) : State :=
  eventLog s (geqEntry s 0 srcForge none (BitVec.ofNat 64 b) (BitVec.ofNat 64 e) false true)

/-- A context's number under the substitution `m`. -/
def swapCtx (m : List (Nat × Nat)) (c : Nat) : Nat :=
  match m.find? (fun e => decide (e.1 = c)) with
  | some e => e.2
  | none => c

/-- Template indexes that no route of the table uses. -/
def freeTemplates (s : State) : List Nat :=
  (List.range 64).filter (fun i => !s.fp.routes.any (fun r => decide ((bits r.2 5 6).toNat = i)))

/-- The routes of a Basket change to new templates, in which the incoming contexts stand for the outgoing
ones (log 35). -/
def switchRoutes (s : State) (b : Nat) (m : List (Nat × Nat)) : State :=
  let mine (r : BitVec 23) : Bool := r.getLsbD 0 && decide ((bits r 1 4).toNat = b)
  let olds := ((s.fp.routes.filter (fun r => mine r.2)).map (fun r => (bits r.2 5 6).toNat)).eraseDups
  let pairs := olds.zip (freeTemplates s)
  let t := pairs.foldl (fun t e => mset [] t e.2
    ((mget [] s.fp.templates e.1).map (fun x => { x with ctx := swapCtx m x.ctx }))) s.fp.templates
  let f (r : BitVec 23) : BitVec 23 :=
    if mine r then
      routeWord b (swapCtx pairs (bits r 5 6).toNat) (swapCtx m (bits r 11 12).toNat) else r
  { s with fp := { s.fp with templates := t, routes := s.fp.routes.map (fun e => (e.1, f e.2)) } }

def setSwitch (s : State) (b : Nat) (r : Option SwitchRec) : State :=
  updSb s (fun q => { q with switching := mset none q.switching b r })

/-- The Basket has no free index for every incoming context, or no room: the entry stays pending. -/
def switchPends (s : State) (b : Nat) (r : SwitchRec) : State :=
  if r.said then s else setSwitch (switchLog s b r.entry.toNat) b (some { r with said := true })

/-- Steps 1 to 3. -/
def switchPlace (s : State) (b : Nat) (p : PlanBasket) (r : SwitchRec) (bad : List Word) : State :=
  let e := r.entry.toNat
  let l := incoming p (entryOf s b) e
  if l.any (fun x => ingotBad s bad (ctxIngot p e x)) then
    match p.fallback with
    | some f => if f.toNat = e then setSwitch (parkBasket s b) b none
                else setSwitch s b (some { entry := f })
    | none => setSwitch (parkBasket s b) b none
  else
    let idx := freeIndexes s b
    if idx.length < l.length then switchPends s b r
    else match l.foldl (fun o x => o.bind (fun s => placeIngot s (ctxIngot p e x))) (some s) with
      | none => switchPends s b r
      | some s' =>
        let olds := l.map (fun x => standCtx b (boundAt s b x))
        let news := idx.map (standCtx b)
        let s := (l.zip idx).foldl (fun s y => standBind s b y.2 y.1) (sealHeader s')
        setSwitch (switchRoutes s b (olds.zip news)) b (some { r with placed := true, out := olds })

/-- The next entry that waits for this Basket. -/
def nextFired (s : State) (b : Nat) : State :=
  match s.sb.fired.find? (fun e => decide (e.1 = b)) with
  | some e => fireEntry (updSb s (fun q => { q with fired := q.fired.erase e })) b e.2
  | none => s

/-- Steps 4 and 5. -/
def switchEnd (s : State) (b : Nat) (r : SwitchRec) : State :=
  if r.out.all (fun c => (ctxOf s c).state == .idle &&
      !s.fp.table.any (fun h => decide (h.relCtx.toNat = c))) then
    let s := r.out.foldl (fun s c => freeCtx (stopCtx s c) c) s
    let s := forgeTemper s (0x30 + b) (r.entry.setWidth 32) true
    let s := updSb s (fun q => { q with
      entry := mset 0 q.entry b r.entry, switchCnt := satAdd q.switchCnt 1
      switching := mset none q.switching b none })
    nextFired (switchLog s b r.entry.toNat) b
  else s

/-- INGOT_SWITCH. -/
def ingotSwitch (s : State) (b : Nat) (bad : List Word) : State :=
  match mget none s.sb.switching b, planOf s b with
  | some r, some p =>
    if !forgeRuns s || s.sb.parked.getLsbD b then s
    else if r.placed then switchEnd s b r
    else switchPlace s b p r bad
  | _, _ => s

-- ---------------------------------------------------------------- adoption (R405, R406)

/-- REPLACE_REMINDER (R483). -/
def remind (s : State) : State :=
  if s.svc.replace = 0 then s
  else geqPut s (geqEntry s 0x1D6 srcForge none (s.svc.replace.setWidth 64) 0 true false)

/-- The wall time that a request carries. -/
def adoptTime (s : State) : State :=
  let utc : DWord := reqW s 3 ++ reqW s 2
  if utc = 0 then s
  else
    let t := now s
    let st := storeTime s
    let s := updStore s (fun x => { x with anchor := some (st, utc) })
    markDays (updSb s (fun q => { q with wall := some (utc, t), timeCertain := true }))

def adoptReply (s : State) : State :=
  let a := carveLo s + 0x1000
  let s := remind (adoptTime s)
  mbxReply s 0 [(s.sb.standing &&& ~~~s.sb.parked).setWidth 32, s.sb.parked.setWidth 32
    , BitVec.ofNat 32 a, BitVec.ofNat 32 (a / 2 ^ 32), s.sb.logWr
    , match s.sb.plan with | some p => p.version | none => 0]

/-- An ADOPT of mode `m`; mode 3 is reserved. -/
def adoptRow (s : State) (m : Nat) (f : State → State) : State :=
  mbxOpRow s 7 [(1, 3), (2, 0xFFFFFFFF), (3, 0xFFFFFFFF)] (fun s =>
    let q := (bits (reqW s 1) 0 2).toNat
    if q = 3 then mbxReply s 2 [] else if q = m then f s else s)

/-- A context becomes FREE with no signal and no entry. -/
def forgetCtx (s : State) (c : Nat) : State :=
  let l := match (ctxOf s c).task with
    | some t => if t.phase = .running then t.cores else []
    | none => []
  freeCtx (dropFaults (dropRegion (releaseCores (dropBundles s l) l) c) c) c

/-- A Basket is reset and freed. -/
def forgetBasket (s : State) (b : Nat) : State :=
  let k := bskOf s b
  let s := (coresOf k.cores).foldl (fun s c =>
    updCore s c (fun x => zeroSegments k.segs (clearCore x))) s
  freeBasket s b

/-- FRESH. -/
def adoptFresh (s : State) : State :=
  if !s.sb.hostQuiet then mbxReply s 1 []
  else
    let s := (hostCtxs s).foldl forgetCtx s
    let s := ((List.range 16).filter (fun b => (bskOf s b).valid && !(bskOf s b).standing)).foldl
      forgetBasket s
    let s := ((s.atu.slots.filter (fun e => e.2.valid && !e.2.engine)).map (·.1)).foldl
      (fun s k => putSpace s k { spaceOf s k with valid := false }) s
    adoptReply (updSb { s with cp := { s.cp with detached := false } }
      (fun q => { q with hostResetTick := none }))

/-- RESUME. -/
def adoptResume (s : State) : State :=
  if !s.sb.hostQuiet then mbxReply s 1 []
  else
    let s := (hostCtxs s).foldl (fun s c =>
      updCtx s c (fun k => if k.state == .detached then { k with state := .stopped } else k)) s
    adoptReply (updSb { s with cp := { s.cp with detached := false } }
      (fun q => { q with hostResetTick := none }))

/-- The standing Baskets that a new plan changes: parked ones, those gone, those whose entry differs. -/
def changedBaskets (s : State) (p : Plan) : List Nat :=
  (List.range 16).filter (fun b =>
    let new := p.baskets.find? (fun e => decide (e.slot.toNat = b))
    s.sb.parked.getLsbD b || ((s.sb.standing.getLsbD b || new.isSome) && decide (planOf s b ≠ new)))

/-- A standing Basket is taken down for its new plan entry. -/
def dropStanding (s : State) (b : Nat) : State :=
  let s := (bskCtxs s b).foldl forgetCtx s
  let s := dropRoutes (if (bskOf s b).standing then forgetBasket s b else s) b
  updSb s (fun q => { q with
    standing := q.standing &&& ~~~(1#16 <<< b), parked := q.parked &&& ~~~(1#16 <<< b)
    bound := q.bound.filter (fun e => !decide (e.1 / 8 = b))
    samples := q.samples.filter (fun e => !decide (e.1 / 16 = b)) })

/-- PLAN: the Baskets whose entries changed are drained, then rebuilt. -/
def adoptPlan (s : State) (f : ForgeInputs) : State :=
  if s.sb.switching.any (fun e => e.2.isSome) then mbxReply s 1 []
  else match (if carveOk s then planRead s f else none) with
    | none => mbxReply s 2 []
    | some p =>
      let l := changedBaskets s p
      let live := l.filter (fun b => (bskOf s b).valid && (bskOf s b).standing)
      let s := live.foldl (fun s b => if (bskOf s b).drain then s else drainBegin s b) s
      if live.all (drainOver s) then
        let s := l.foldl dropStanding s
        let s := if s.sb.alloc = 0 then layCarve s p.version else s
        let s := updSb s (fun q => { q with plan := some p, planValid := true })
        let s := (p.baskets.filter (fun b => l.contains b.slot.toNat)).foldl
          (fun s b => startBasket s f.badIngots b) s
        let s := { s with fp := { s.fp with
          templates := f.templates.foldl (fun m e => mset [] m e.1 e.2) s.fp.templates } }
        adoptReply (sealHeader (planRoutes s p (fun b => l.contains b)))
      else mbxKeep s

-- ---------------------------------------------------------------- the commands

def execHostReset (s : State) : Out := .next (hostReset s)
def execQuietLimitExpiry (s : State) : Out := .next (quietLimitExpiry s)
def execHostQuiet (s : State) : Out := .next (hostQuiet s)
def execForgeStart (f : ForgeInputs) (s : State) : Out := .next (forgeStart s f)
def execStandingRestart (ctx : CtxId) (s : State) : Out := .next (standingRestart s ctx.toNat)
def execSceneSample (s : State) : Out := .next (sceneSample s)
def execTimeTrigger (b : BasketId) (entry : BitVec 4) (s : State) : Out :=
  .next (timeTrigger s b.toNat entry.toNat)
def execIngotSwitch (b : BasketId) (badIngots : List Word) (s : State) : Out :=
  .next (ingotSwitch s b.toNat badIngots)
def execAdoptFresh (s : State) : Out := .next (adoptRow s 0 adoptFresh)
def execAdoptResume (s : State) : Out := .next (adoptRow s 1 adoptResume)
def execAdoptPlan (f : ForgeInputs) (s : State) : Out := .next (adoptRow s 2 (fun s => adoptPlan s f))

end Sys2Proof.Machine
end

