-- ==== Sys2Proof/Machine/Service.lean ====
section
/-! DEFINITION. Service (17): fabric links, the Forge's watchdog, recovery and live update, reminders. -/

namespace Sys2Proof.Machine

def updSvc (s : State) (f : Svc → Svc) : State := { s with svc := f s.svc }

-- ---------------------------------------------------------------- fabric links (R14 to R16, R486, R487)

/-- The mesh link that joins cores `a` and `b`: 0 to 11 along the rows, 12 to 23 along the columns
(log 38). -/
def meshLink (a b : Nat) : Nat :=
  let lo := min a b
  if a / 4 = b / 4 then 3 * (lo / 4) + lo % 4 else 12 + lo

/-- One hop from `a` towards column `col` of its row, or towards row `row` of its column. -/
def hopCol (a col : Nat) : Nat := if a % 4 < col then a + 1 else if a % 4 > col then a - 1 else a
def hopRow (a row : Nat) : Nat := if a / 4 < row then a + 4 else if a / 4 > row then a - 4 else a

def hops (f : Nat → Nat) : Nat → Nat → List Nat
  | 0, _ => []
  | n + 1, a => if f a = a then [] else meshLink a (f a) :: hops f n (f a)

/-- The links of the route from `a` to `b`: row first, or column first. -/
def meshRoute (a b : Nat) (colFirst : Bool) : List Nat :=
  if colFirst then
    hops (fun x => hopRow x (b / 4)) 4 a ++ hops (fun x => hopCol x (b % 4)) 4 (b / 4 * 4 + a % 4)
  else
    hops (fun x => hopCol x (b % 4)) 4 a ++ hops (fun x => hopRow x (b / 4)) 4 (a / 4 * 4 + b % 4)

/-- A pair has a route that crosses no retired link. -/
def meshJoins (r : BitVec 40) (a b : Nat) : Bool :=
  let ok (c : Bool) : Bool := (meshRoute a b c).all (fun l => !r.getLsbD l)
  ok false || ok true

/-- The border core next to edge link `k`: north and south by column, west and east by row (R15). -/
def borderCore (k : Nat) : Nat :=
  if k < 4 then k else if k < 8 then 8 + k else if k < 12 then 4 * (k - 8) else 4 * (k - 12) + 3

/-- Core `b` has no route to or from a lower-numbered core that is not retired. -/
def cutOff (s : State) (b : Nat) : Bool :=
  let r := s.svc.meshRetired
  (List.range b).any (fun a => !coreRetiredTa s a && !(meshJoins r a b && meshJoins r b a))

/-- The cores whose routes are lost are retired: the higher of each pair without one, in ascending order; the
border core of an edge link. -/
def retireLost (s : State) (link : Nat) : State :=
  let one (s : State) (c : Nat) : State := if coreRetiredTa s c then s else retireCore s c
  if link ≥ 24 then one s (borderCore (link - 24))
  else (List.range 16).foldl (fun s b => if cutOff s b then one s b else s) s

/-- FABRIC_LINK_RETIRED: the link's Temper word, its request, and the cores whose routes are lost. -/
def retireLink (s : State) (link : Nat) : State :=
  let r := s.svc.meshRetired ||| (1#40 <<< link)
  let s := updSvc s (fun v => { v with meshRetired := r, resends := mset 0 v.resends link 0 })
  let s := if link < 24 then forgeTemper s 8 (forgeWord s 8 ||| (1#32 <<< link)) false
    else forgeTemper s 9 (forgeWord s 9 ||| (1#32 <<< (link - 24))) false
  retireLost (postReplace s 0x1D4 srcForge (BitVec.ofNat 64 link) 0 2) link

/-- PACKET_RESEND: a packet fails its CRC on a link and is resent, which is counted; `again` says that the
packet was itself a resend. The sixteenth resend of one packet that fails retires the link. -/
def packetResend (s : State) (link : Nat) (again : Bool) : State :=
  if link < 40 && !s.svc.meshRetired.getLsbD link then
    let n := if again then mget 0 s.svc.resends link + 1 else 0
    if n ≥ 16 then retireLink s link
    else updSvc (count s 262 1) (fun v => { v with resends := mset 0 v.resends link n })
  else s

-- ---------------------------------------------------------------- watchdog and recovery (R489)

def offSvcWdog : Nat := 0x10020C

def svcWdog (s : State) (i : Initiator) (v : Word) : State :=
  gated s offSvcWdog v i (byForge i) 209 (fun s =>
    if v.getLsbD 0 then
      let t := now s
      updSvc s (fun x => { x with wdog := t })
    else s)

/-- FORGE_RECOVERED's entry: with REPLACE when the Forge stays halted. -/
def recoveredEntry (s : State) (halted : Bool) : State :=
  if halted then postReplace s 0x1D2 srcForge 0 0 5 else post s 0x1D2 srcForge none 0 0

/-- FORGE_WATCHDOG_EXPIRY: a recovery starts, or the Forge stays halted when one ended less than 600 s ago;
a commit in progress is abandoned, to start again. -/
def forgeWatchdogExpiry (s : State) : State :=
  if forgeRuns s && s.mbx.forgeReady && decide ((now s - s.svc.wdog).toNat ≥ 10000000) then
    let again : Bool := match s.svc.lastRecovery with
      | some t => decide ((now s - t).toNat < 60000000000)
      | none => false
    let busy := s.store.commitBusy
    let s := updStore s (fun t => { t with
      commitBusy := false, lastStart := if busy then none else t.lastStart })
    let s := { s with mbx := { s.mbx with forgeReady := false } }
    if again then recoveredEntry (updSvc s (fun v => { v with halted := true })) true
    else updSvc s (fun v => { v with recovering := true, update := none })
  else s

/-- FORGE_RECOVERED: the new instance runs in the other half. -/
def forgeRecovered (s : State) : State :=
  if s.svc.recovering then
    let t := now s
    let s := updSvc s (fun v => { v with recovering := false, half := !v.half, wdog := t
                                         lastRecovery := some t })
    recoveredEntry { s with mbx := { s.mbx with forgeReady := true } } false
  else s

-- ---------------------------------------------------------------- live update (R490 to R492)

/-- No commit, repair, Ingot switch or Temper write is in progress, and no other mailbox request waits. -/
def quiescent (s : State) : Bool :=
  !s.mbx.reqBusy && !s.store.commitBusy && s.temper.busy.isNone && s.temper.wait.isEmpty &&
    !s.sb.switching.any (fun e => e.2.isSome) &&
    !s.cores.any (fun e => e.2.ta.diagBusy || e.2.vu.diagBusy || e.2.ta.st == .draining)

/-- The request of an update is answered; it was taken when the update began. -/
def updateReply (s : State) (status : Nat) (words : List Word) : State :=
  mbxReply (updSvc s (fun v => { v with update := none })) status words

/-- Step 3: the handover. -/
def handOver (s : State) (u : Update) : State :=
  let t := now s
  updSvc { s with mbx := { s.mbx with handover := true, forgeReady := false } }
    (fun v => { v with update := some { u with since := t } })

/-- A request of FW_UPDATE as it is taken. -/
def fwUpdateReq (s : State) (authentic : Bool) (version : Word) : State :=
  let n := (reqW s 3).toNat
  if reqW s 1 &&& 0xFFF ≠ 0 ∨ n = 0 ∨ n > 524288 then mbxReply s 2 []
  else if !authentic then mbxReply s 3 []
  else
    let u : Update := { tag := mbxTag s, version := version, authentic := true, loaded := true, since := now s }
    let s := mbxKeep s
    if quiescent s then handOver s u else updSvc s (fun v => { v with update := some u })

/-- FW_UPDATE: the image is loaded, and handed over to at the first quiescent point. -/
def fwUpdate (s : State) (authentic : Bool) (version : Word) : State :=
  match s.svc.update with
  | some u => if !s.mbx.handover && forgeRuns s && quiescent s then handOver s u else s
  | none =>
    mbxOpRow s 8 [(1, 0xFFFFFFFF), (2, 0xFFFFFFFF), (3, 0xFFFFFFFF), (4, 1)]
      (fun s => fwUpdateReq s authentic version)

/-- HANDOVER_READY: the new image runs. -/
def handoverReady (s : State) : State :=
  match s.svc.update with
  | some u =>
    if s.mbx.handover then
      let old := s.svc.version
      let t := now s
      let s := updSvc s (fun v => { v with half := !v.half, version := u.version, wdog := t })
      let s := { s with mbx := { s.mbx with handover := false, forgeReady := true } }
      post (updateReply s 0 [u.version, old]) 0x1D0 srcForge none 0 0
    else s
  | none => s

/-- HANDOVER_TIMEOUT: 200,000 ticks after step 3 the old image resumes. -/
def handoverTimeout (s : State) : State :=
  match s.svc.update with
  | some u =>
    if s.mbx.handover && decide ((now s - u.since).toNat ≥ 200000) then
      let t := now s
      let s := updSvc s (fun v => { v with wdog := t })
      let s := { s with mbx := { s.mbx with handover := false, forgeReady := true } }
      updateReply (post s 0x1D1 srcForge none 0 0) 5 []
    else s
  | none => s

/-- QUIESCENCE_TIMEOUT: no quiescent point came within 1 s. -/
def quiescenceTimeout (s : State) : State :=
  match s.svc.update with
  | some u =>
    if !s.mbx.handover && decide ((now s - u.since).toNat ≥ 100000000) then updateReply s 1 [] else s
  | none => s

-- ---------------------------------------------------------------- reminders (R483)

/-- REPLACE_REMINDER: every 86,400 s while any bit is set. -/
def replaceReminder (s : State) : State :=
  if forgeRuns s && decide (s.svc.replace ≠ 0) &&
      decide ((now s - s.svc.reminder).toNat ≥ 8640000000000) then
    let t := now s
    updSvc (remind s) (fun v => { v with reminder := t })
  else s

-- ---------------------------------------------------------------- the commands

def execPacketResend (link : Nat) (again : Bool) (s : State) : Out := .next (packetResend s link again)
def execSvcWdog (init : Initiator) (value : Word) (s : State) : Out := .next (svcWdog s init value)
def execForgeWatchdogExpiry (s : State) : Out := .next (forgeWatchdogExpiry s)
def execForgeRecovered (s : State) : Out := .next (forgeRecovered s)
def execFwUpdate (authentic : Bool) (version : Word) (s : State) : Out :=
  .next (fwUpdate s authentic version)
def execHandoverReady (s : State) : Out := .next (handoverReady s)
def execHandoverTimeout (s : State) : Out := .next (handoverTimeout s)
def execQuiescenceTimeout (s : State) : Out := .next (quiescenceTimeout s)
def execReplaceReminder (s : State) : Out := .next (replaceReminder s)

end Sys2Proof.Machine
end

