-- ==== Sys2Proof/Machine/Power.lean ====
section
/-! DEFINITION. Power, clocks, temperature, resets and start-up (18). -/

namespace Sys2Proof.Machine

def updPwr (s : State) (f : Pwr → Pwr) : State := { s with pwr := f s.pwr }

def pwrEvent (s : State) (bit : Nat) : State :=
  updPwr s (fun p => { p with event := scEvent p.event (1#24 <<< bit) })

def offForceOff : Nat := 0xA00010
def domEnOff (d : Nat) : Nat := 0xA00020 + 4 * (d / 32)
def domBit (d : Nat) : BitVec 224 := 1#224 <<< d
def setEn (s : State) (d : Nat) (b : Bool) : State :=
  updPwr s (fun p => { p with en := if b then p.en ||| domBit d else p.en &&& ~~~domBit d })
def setOn (s : State) (d : Nat) (b : Bool) : State :=
  updPwr s (fun p => { p with on := if b then p.on ||| domBit d else p.on &&& ~~~domBit d })

-- ---------------------------------------------------------------- domains (R501 to R503)

/-- The parent of a domain, where it has one. -/
def domParent (d : Nat) : Option Nat :=
  if d < 208 then (if d % 13 = 0 then none else some (d / 13 * 13))
  else if d = 211 ∨ d = 212 then some 210
  else none

/-- The domain of a retired core or segment; a quadrant is retired with its core. -/
def domRetired (s : State) (d : Nat) : Bool :=
  decide (d < 208) && (coreRetiredTa s (d / 13) ||
    (decide (d % 13 ≥ 5) && (coreOf s (d / 13)).pan.retired.getLsbD (d % 13 - 5)))

/-- A request to turn a domain off waits behind those of the domains that go off before it (R504). -/
def behind (s : State) (q : Nat × Bool) : Bool :=
  let child (d : Nat) (on : Bool) : Bool := !on && decide (domParent d = some q.1)
  !q.2 && (s.pwr.queue.any (fun x => child x.1 x.2) || s.pwr.reqs.any (fun r => child r.domain r.on))

/-- Requests go out in ascending domain order, at most four at a time. -/
def pumpSeq : Nat → State → State
  | 0, s => s
  | n + 1, s =>
    if s.pwr.reqs.length ≥ 4 then s
    else
      let l := s.pwr.queue.filter (fun q =>
        !s.pwr.reqs.any (fun r => decide (r.domain = q.1)) && !behind s q)
      match l.foldl (fun b q => match b with
          | none => some q
          | some x => if q.1 < x.1 then some q else some x) none with
      | none => s
      | some q =>
        pumpSeq n (updPwr s (fun p => { p with
          queue := p.queue.erase q
          reqs := p.reqs ++ [{ domain := q.1, on := q.2, since := s.clk.tb }] }))

/-- A request to the sequencer joins those that wait. -/
def askSeq (s : State) (d : Nat) (on : Bool) : State :=
  pumpSeq 4 (updPwr s (fun p => { p with queue := p.queue ++ [(d, on)] }))

/-- A write of 1 to a domain's EN bit (R502). -/
def enableDomain (s : State) (d : Nat) : State :=
  if s.pwr.en.getLsbD d then s
  else
    let up : Bool := match domParent d with | some p => domOn s p | none => true
    if !up || domRetired s d then pwrRefused s (domEnOff d)
    else askSeq (setEn s d true) d true

/-- DOMAIN_ON: a write of one bit of the PWR_DOM_EN registers. Bits 217 to 223 are reserved (R521), and a
write of them is ignored (R8); beyond them there is no register. -/
def domainOn (s : State) (i : Initiator) (d : Nat) : State :=
  let v : Word := 1#32 <<< (d % 32)
  if d ≥ 224 then regReserved s (domEnOff d) v i
  else gated s (domEnOff d) v i (byForge i) 209 (fun s => if d < 217 then enableDomain s d else s)

-- ---------------------------------------------------------------- turning off (R504, R505)

/-- A segment's rows are held by a task, a real-time range, or an access in progress (R235). -/
def segmentHeld (s : State) (c g : Nat) : Bool :=
  let k := coreOf s c
  let grp := groupFirst k.pan.group g
  let wide := groupWidth k.pan.group g
  let meets (lo n : Nat) : Bool := decide (n ≠ 0) &&
    (List.range wide).any (fun i => segOfRows k.pan.group lo (lo + n - 1) (grp + i))
  let task : Bool := match k.task with
    | some (x, _) => (match (ctxOf s x).task with | some t => meets t.base t.bound | none => false)
    | none => false
  let rt : Bool := match bskOfCore s c with
    | some b => (List.range wide).any (fun i => (bskOf s b).rsvd.getLsbD (grp + i)) ||
        (regionList (bskOf s b)).any (fun w => rgValid w && rgRt w && meets (rgStart w) (rgSize w))
    | none => false
  task || rt || k.pan.wbuf.any (fun w => meets w.row 1) || remoteOn s c meets

/-- The conditions of R504. -/
def mayTurnOff (s : State) (d : Nat) : Bool :=
  let core (c : Nat) : Bool := coreRetiredTa s c || ((bskOfCore s c).isNone && (coreOf s c).task.isNone)
  if d < 208 then (if d % 13 < 5 then core (d / 13) else !segmentHeld s (d / 13) (d % 13 - 5))
  else if d = 208 ∨ d = 209 then false
  else if d = 210 then decide (s.store.st = 0)
  else if d = 211 then s.store.outA
  else if d = 212 then s.store.outB
  else if d = 213 ∨ d = 214 then !(linkOf s (d - 213)).enable && (linkOf s (d - 213)).st == .down
  else if d = 215 then (List.range 16).all (fun b => !(bskOf s b).valid)
  else decide (d = 216)

/-- What a domain that is off has lost. -/
def loseDomain (s : State) (d : Nat) : State :=
  if d < 208 then
    let c := d / 13
    if d % 13 = 0 then
      let st := (coreOf s c).ta.st
      updTa (resetCore s c (coreEnabled s c)) c (fun t => { t with st := if st == .retired then st else t.st })
    else if d % 13 < 5 then updTa s c (fun t => { t with active := {}, shadow := none })
    else updPan s c (fun p => { zeroSegment p (d % 13 - 5) with ready := p.ready &&& ~~~(1#8 <<< (d % 13 - 5)) })
  else if d = 210 then updStore s (fun t => { storeForget t with event := {}, commitTicks := 200000000, ceCnt := 0, ueCnt := 0 })
  else if d = 213 ∨ d = 214 then setLink s (d - 213) {}
  else if d = 215 then { s with ru := {} }
  else if d = 216 then { s with tel := {} }
  else s

/-- A domain goes off: it is isolated, and its supply is asked away. -/
def turnOff (s : State) (d : Nat) : State :=
  if domOn s d then askSeq (loseDomain (setOn (setEn s d false) d false) d) d false else setEn s d false

/-- The domains that go off with `d`, in order, `d` last. -/
def offOrder (d : Nat) : List Nat :=
  if d < 208 ∧ d % 13 = 0 then (List.range 12).map (fun i => d + 1 + i) ++ [d]
  else if d = 210 then [211, 212, 210]
  else [d]

/-- The completed twin write of PWR_FORCE_OFF; one that meets a turn-on waits for it (R505). -/
def forceOffNow (s : State) (d : Nat) : State :=
  if s.pwr.reqs.any (fun r => r.on && decide (r.domain = d)) ||
      s.pwr.queue.any (fun q => q.2 && decide (q.1 = d)) then
    updPwr s (fun p => { p with queue := p.queue ++ [(d, false)] })
  else if mayTurnOff s d then
    (offOrder d).foldl turnOff (updPwr s (fun p => { p with forceOff := BitVec.ofNat 8 d }))
  else pwrRefused s offForceOff

def forceOffDone (s : State) (i : Initiator) (v : Word) : State :=
  let d := v.toNat % 256
  if d ≥ 217 then regReserved s offForceOff v i
  else forceOffNow s d

/-- What a domain holds when it comes on (R503). -/
def domainUp (s : State) (d : Nat) : State :=
  let s := setOn s d true
  if d = 213 ∨ d = 214 then linkTry s (d - 213) else s

/-- A force-off that waited for a turn-on. -/
def offAfterOn (s : State) (d : Nat) : State :=
  if s.pwr.queue.contains (d, false) then
    forceOffNow (updPwr s (fun p => { p with queue := p.queue.erase (d, false) })) d
  else s

/-- POWER_ACK. -/
def powerAck (s : State) (d : Nat) : State :=
  match s.pwr.reqs.find? (fun r => decide (r.domain = d)) with
  | none => s
  | some r =>
    let s := updPwr s (fun p => { p with reqs := p.reqs.erase r })
    pumpSeq 4 (if r.on then offAfterOn (domainUp s d) d else s)

/-- PWR_SEQ_TIMEOUT: no acknowledgement within 5,000 ticks. -/
def pwrSeqTimeout (s : State) (d : Nat) : State :=
  match s.pwr.reqs.find? (fun r => decide (r.domain = d)) with
  | none => s
  | some r =>
    if (now s - r.since).toNat ≥ 5000 then
      let s := updPwr s (fun p => { p with reqs := p.reqs.erase r })
      let s := post (pwrEvent s 0) 0x1E0 srcPwr none (BitVec.ofNat 64 d) 0
      let s := if r.on then setEn s d false else s
      pumpSeq 4 (if r.on then updPwr s (fun p => { p with queue := p.queue.erase (d, false) }) else s)
    else s

-- ---------------------------------------------------------------- operating points (R506 to R511)

/-- Rate of an operating point, in 1/240 of the root clock over 16. -/
def pointRate (div gate : Nat) : Nat := (16 - gate) * [30, 24, 20, 15].getD div 15
/-- Points in their order: by rate, the lower G above at equal rates. -/
def pointRank (p : Nat × Nat) : Nat := pointRate p.1 p.2 * 8 + (7 - p.2)
def allPoints : List (Nat × Nat) :=
  (List.range 4).flatMap (fun d => (List.range 8).map (fun g => (d, g)))
def slowest : Nat × Nat := (3, 7)

/-- The best of a list by `f`. -/
def bestBy (f : Nat × Nat → Nat) (l : List (Nat × Nat)) : Option (Nat × Nat) :=
  l.foldl (fun b p => match b with
    | none => some p
    | some x => if f p > f x then some p else some x) none

def fasterPoint (p : Nat × Nat) : Option (Nat × Nat) :=
  bestBy (fun q => 100000 - pointRank q) (allPoints.filter (fun q => decide (pointRank q > pointRank p)))
def slowerPoint (p : Nat × Nat) : Nat × Nat :=
  (bestBy pointRank (allPoints.filter (fun q => decide (pointRank q < pointRank p)))).getD slowest

def pointNow (s : State) : Nat × Nat := (s.pwr.div.toNat, s.pwr.gate.toNat)

/-- S + D × r / r_now is at most `b`, all in 0.25 W steps (R508). -/
def fits (s : State) (p : Nat × Nat) (b : Nat) : Bool :=
  let r := pointRate s.pwr.div.toNat s.pwr.gate.toNat
  decide (s.pwr.stat * r + s.pwr.dyn * pointRate p.1 p.2 ≤ b * r)

/-- A change of the operating point, with its trace record. -/
def toPoint (s : State) (p : Nat × Nat) : State :=
  if p = pointNow s then s
  else
    let s := updPwr s (fun w => { w with div := BitVec.ofNat 2 p.1, gate := BitVec.ofNat 3 p.2 })
    trace s 7 srcPwr none 0 (BitVec.ofNat 128 (p.1 + p.2 * 256 + s.pwr.est.toNat * 65536))

/-- T is at or above THERM_LIMIT plus `d` degrees. -/
def thermAbove (s : State) (d : Nat) : Bool :=
  decide (s.pwr.t.toNat ≥ 4 * (s.pwr.limit.toNat + 40 + d))
/-- A faster step is allowed by the thermal rules (R512, R513). -/
def thermAllows (s : State) : Bool :=
  decide (s.pwr.t.toNat + 12 ≤ 4 * (s.pwr.limit.toNat + 40)) && !s.pwr.trip &&
    !decide (s.pwr.invalid &&& 0xFFFF = 0xFFFF)

/-- PWR_BUDGET_UNMET, once per episode (R511). -/
def unmetCheck (s : State) : State :=
  let p := s.pwr.stat + s.pwr.dyn
  let bad := decide (s.pwr.budget.toNat < s.pwr.floor.toNat) ||
    (decide (pointNow s = slowest) && decide (p > s.pwr.budget.toNat))
  if bad && !s.pwr.unmet then
    let s := updPwr (toPoint s slowest) (fun w => { w with unmet := true })
    post (pwrEvent s 1) 0x1E2 srcPwr none 0 0
  else updPwr s (fun w => { w with unmet := bad })

/-- The prediction at the slowest point. -/
def floorOf (s : State) (stat dyn : Nat) : BitVec 10 :=
  let r := pointRate s.pwr.div.toNat s.pwr.gate.toNat
  BitVec.ofNat 10 (min 1023 (stat + (dyn * pointRate 3 7 + r / 2) / r))

/-- POWER_PERIOD: S and D of the period just ended, in 0.25 W steps (R508, R509). -/
def powerPeriod (s : State) (stat dyn : Nat) : State :=
  if (now s - s.pwr.period).toNat < 1000 then s
  else
    let t := now s
    let p := stat + dyn
    let fl := floorOf s stat dyn
    let s := updPwr s (fun w => { w with
      period := t, stat := stat, dyn := dyn, est := BitVec.ofNat 10 (min 1023 p), floor := fl })
    let s := count s 271 ((p * 25 + 5000) / 10000)
    let here := pointNow s
    let s :=
      if p > s.pwr.budget.toNat || thermAbove s 0 then toPoint s (slowerPoint here)
      else if thermAllows s then
        (match fasterPoint here with
        | some q => if decide (8 ≤ s.pwr.budget.toNat) && fits s q (s.pwr.budget.toNat - 8) then toPoint s q else s
        | none => s)
      else s
    unmetCheck s

/-- PWR_BUDGET_WRITE (R510). -/
def budgetWrite (s : State) (i : Initiator) (v : Word) : State :=
  gated s 0xA00000 v i (i == .pmgr) 209 (fun s =>
    let n := v.toNat % 1024
    if n > 600 then regReserved s 0xA00000 v i
    else
      let s := updPwr s (fun w => { w with budget := BitVec.ofNat 10 n })
      if n < s.pwr.est.toNat then
        let l := allPoints.filter (fun q => fits s q n && decide (pointRank q ≤ pointRank (pointNow s)))
        unmetCheck (toPoint s ((bestBy pointRank l).getD slowest))
      else s)

-- ---------------------------------------------------------------- temperature (R512, R513)

/-- A reading with its sensor's offset, in 0.25 degree steps above −40 °C. -/
def sensorValue (s : State) (k : Nat) (r : BitVec 11) : Int :=
  (r.toNat : Int) + (bits (temperWord s (0xA0 + k)) 0 16).toInt

/-- Readings between −40 and 150 °C of sensors whose self-test passes are valid. -/
def sensorOk (s : State) (bad : BitVec 20) (l : List (BitVec 11)) (k : Nat) : Bool :=
  let v := sensorValue s k (l.getD k 0)
  !bad.getLsbD k && decide (0 ≤ v ∧ v ≤ 760)

/-- THERM_TRIP (R512). -/
def thermTrip (s : State) : State :=
  if thermAbove s 10 then
    if s.pwr.trip then s
    else
      let s := updPwr (toPoint s slowest) (fun w => { w with trip := true })
      let s := post s 0x1E4 srcPwr none 0 0
      let n := forgeWord s 3
      forgeTemper s 3 (satAdd n 1) false
  else s

/-- The twenty sensors as they read now: T is the highest valid reading, with no valid one a free value
(log 86), and an invalid sensor reads 5 degrees more. -/
def sense (s : State) (l : List (BitVec 11)) (bad : BitVec 20) : State :=
  let good := (List.range 20).filter (sensorOk s bad l)
  let val (k : Nat) : Nat := (sensorValue s k (l.getD k 0)).toNat
  let top := if good.isEmpty then (bits (Config.noSensor s.freeCount) 0 11).toNat
    else (good.map val).foldl max 0
  let which : BitVec 5 := if good.isEmpty then bits (Config.noSensor s.freeCount) 11 5
    else BitVec.ofNat 5 ((good.find? (fun k => decide (val k = top))).getD 0)
  let ok : BitVec 20 := good.foldl (fun m k => m ||| (1#20 <<< k)) 0
  let temps := ((List.range 20).map (fun k =>
    (k, (BitVec.ofNat 11 (if good.contains k then val k else top + 20))))).filter (fun e => !decide (e.2 = 0))
  let t := now s
  updPwr { s with freeCount := if good.isEmpty then s.freeCount + 1 else s.freeCount } (fun w => { w with
    thermAt := t, t := BitVec.ofNat 11 top, sensor := which, temps := temps, valid := ok, invalid := ~~~ok })

/-- One THERM_SENSOR_BAD for each sensor that `old` counted as valid. -/
def sensorBad (s : State) (old : BitVec 20) : State :=
  ((List.range 20).filter (fun k => s.pwr.invalid.getLsbD k && !old.getLsbD k)).foldl
    (fun s _ => post (pwrEvent s 3) 0x1E5 srcPwr none 0 0) s

/-- THERM_HIGH, once per excursion (R512). -/
def thermHigh (s : State) : State :=
  if thermAbove s 0 then
    (if s.pwr.high then s
    else post (pwrEvent (updPwr s (fun w => { w with high := true })) 2) 0x1E3 srcPwr none 0 0)
  else updPwr s (fun w => { w with high := false })

/-- A reading of the sensors and what follows from it. -/
def thermRead (s : State) (l : List (BitVec 11)) (bad : BitVec 20) : State :=
  let s := sensorBad (sense s l bad) s.pwr.invalid
  thermTrip (thermHigh (if s.pwr.invalid &&& 0xFFFF = 0xFFFF then toPoint s slowest else s))

/-- THERMAL_SAMPLE: `l` are the 20 sensors' readings. -/
def thermalSample (s : State) (l : List (BitVec 11)) (bad : BitVec 20) : State :=
  if (now s - s.pwr.thermAt).toNat < 1000 then s else thermRead s l bad

-- ---------------------------------------------------------------- loss of clock (R514)

def pllUnlock (s : State) : State :=
  if s.pwr.lostSince.isSome then s
  else
    let t := now s
    let n := s.pwr.unlocks
    updPwr s (fun w => { w with
      lock := false, lostSince := some t, unlocks := if n = 0xFFFF then n else n + 1 })

def pllRelock (s : State) : State :=
  match s.pwr.lostSince with
  | some t =>
    let s := updPwr s (fun w => { w with lock := true, lostSince := none })
    post (pwrEvent s 4) 0x1E6 srcPwr none (now s - t) 0
  | none => s

/-- PLL_UNLOCK_TIMEOUT: after 1,000,000 ticks a block cold reset is asked for. -/
def pllUnlockTimeout (s : State) : State :=
  match s.pwr.lostSince with
  | some t =>
    if (now s - t).toNat ≥ 1000000 then updPwr s (fun w => { w with coldAsk := true }) else s
  | none => s

-- ---------------------------------------------------------------- block resets and start-up (R515 to R519)

/-- What of the store outlasts a reset: the flash. -/
def storeFlash (t : Store) : Store :=
  { storeForget t with event := {}, commitTicks := 200000000, ceCnt := 0, ueCnt := 0, reqs := [], gen := 0
                       hoursTick := 0 }

/-- A commit of the Temper array that is in progress completes (R517). -/
def temperSettle (s : State) : State := temperCommitDone 0 0 s

/-- The engine's logic cleared: memory, Temper's array and the flash stay. -/
def cleared (s : State) : State :=
  { State.reset with
    pending := s.pending, mem := s.mem, freeCount := s.freeCount
    temper := { words := (temperSettle s).temper.words, shadow := [] }
    store := storeFlash s.store }

/-- One core of a start-up: its maps from Temper, its domains, its segments swept (R518 step 6). -/
def startUpCore (s : State) (c : Nat) : State :=
  let on := coreEnabled s c
  let s := resetCore s c on
  if on then
    let r := (coreOf s c).pan.retired
    let ds := (List.range 13).filter (fun i => decide (i < 5) || !r.getLsbD (i - 5))
    let s := ds.foldl (fun s i => setOn (setEn s (13 * c + i) true) (13 * c + i) true) s
    updPan s c (fun p => { p with ready := ~~~r })
  else s

/-- The start-up calibration of a core (R90, R518 step 7). -/
def startUpCal (calFails : List (CoreId × List (Nat × Nat))) (s : State) (c : Nat) : State :=
  if (coreOf s c).ta.st == .hold then
    let s := updTa s c (fun t => { t with diagKind := true, calRun := true, diagBusy := true })
    match calFails.find? (fun e => decide (e.1.toNat = c)) with
    | some (_, x :: l) => calFail s c (x :: l)
    | _ => updTa (calPass s c) c (fun t => { t with st := .service })
  else s

/-- The Forge's window for the carve-out (R396). -/
def carveWindow (s : State) : State :=
  if carveOk s then
    let m := mset 0 (mset 0 s.atu.pa 0 (BitVec.ofNat 32 (carveLo s / 2 ^ 24))) 1
      (BitVec.ofNat 32 (carveHi s / 2 ^ 24))
    { s with atu := { s.atu with pa := m } }
  else s

/-- The mesh links that the Temper array records as retired (R496). -/
def meshStart (s : State) : State :=
  updSvc s (fun v => { v with meshRetired := bits (temperWord s 9) 0 16 ++ bits (temperWord s 8) 0 24 })

/-- Start-up from step 3 on, to the end of step 7. -/
def startUp (s : State) (i : StartInputs) : State :=
  let s := meshStart (temperStart s i.temper)
  let s := thermRead (updPwr s (fun w => { w with lock := true, div := 0, gate := 0 })) i.readings i.selfTestFail
  let s := if thermAbove s 0 then toPoint s slowest else s
  let s := setOn (setEn s 208 true) 208 true
  let s := updSvc s (fun v => { v with held := !i.authentic, version := if i.authentic then i.version else 0 })
  if i.authentic then
    let t := now s
    let s := updSvc (carveWindow s) (fun v => { v with wdog := t, reminder := t })
    let s := (List.range 16).foldl startUpCore s
    (List.range 16).foldl (startUpCal i.calFails) s
  else
    (List.range 16).foldl (fun s c => resetCore s c (coreEnabled s c)) s

/-- BLOCK_COLD_RESET: steps 1 to 7; without lock, step 2 stands. -/
def blockColdReset (s : State) (i : StartInputs) : State :=
  let s := cleared s
  if i.lock then startUp s i else s

/-- BLOCK_WARM_RESET: the timebase, the lock and the losses of lock stay; steps 3 to 7. -/
def blockWarmReset (s : State) (i : StartInputs) : State :=
  let n := s.pwr.unlocks
  let c := s.clk
  let s := { cleared s with clk := c }
  startUp (updPwr s (fun w => { w with unlocks := n, warm := true })) i

/-- STORE_RESET (R516). -/
def storeResetReq (s : State) : State :=
  if domOn s 210 then storeResetDone s else pwrRefused s offRstCtl

/-- POWER_LOSS: the Temper array as the loss leaves it (R542), the flash, and nothing else; memory reads
again as after power-on (R396, log 39). -/
def powerLoss (s : State) (step : BitVec 3) (torn : Option Word) : State :=
  { State.reset with
    pending := s.pending, freeCount := s.freeCount
    temper := { words := temperTorn s step torn, shadow := [] }
    store := storeFlash s.store }

-- ---------------------------------------------------------------- the commands

def execDomainOn (init : Initiator) (d : Byte) (s : State) : Out := .next (domainOn s init d.toNat)
def execPowerAck (d : Byte) (s : State) : Out := .next (powerAck s d.toNat)
def execPwrSeqTimeout (d : Byte) (s : State) : Out := .next (pwrSeqTimeout s d.toNat)
def execPowerPeriod (stat dyn : Nat) (s : State) : Out := .next (powerPeriod s stat dyn)
def execPwrBudgetWrite (init : Initiator) (v : Word) (s : State) : Out := .next (budgetWrite s init v)
def execThermalSample (readings : List (BitVec 11)) (selfTestFail : BitVec 20) (s : State) : Out :=
  .next (thermalSample s readings selfTestFail)
def execPllUnlock (s : State) : Out := .next (pllUnlock s)
def execPllRelock (s : State) : Out := .next (pllRelock s)
def execPllUnlockTimeout (s : State) : Out := .next (pllUnlockTimeout s)
def execBlockColdReset (i : StartInputs) (s : State) : Out := .next (blockColdReset s i)
def execBlockWarmReset (i : StartInputs) (s : State) : Out := .next (blockWarmReset s i)
def execStoreReset (init : Initiator) (s : State) : Out :=
  .next (gated s offRstCtl 32 init (byForge init) 209 storeResetReq)
def execPowerLoss (step : BitVec 3) (torn : Option Word) (s : State) : Out :=
  .next (powerLoss s step torn)

end Sys2Proof.Machine
end

