-- ==== Sys2Proof/Machine/Telemetry.lean ====
section
/-! DEFINITION. Telemetry (20): scheduled snapshots of the counters and the trace ring. The counters
themselves and the making of a record stand in Ops. -/

namespace Sys2Proof.Machine

def updTel (s : State) (f : Tel → Tel) : State := { s with tel := f s.tel }

def offTelCtl : Nat := 0xE00000
def offSnapArm : Nat := 0xE00010

/-- The derived clocks run (R514). -/
def clocksRun (s : State) : Bool := s.pwr.lostSince.isNone

-- ---------------------------------------------------------------- snapshots (R551 to R553)

/-- A snapshot is armed at tick `t`, in place of one that is pending; a tick that has begun gives way to the
next boundary, and the snapshot will be late. -/
def armAt (s : State) (t : DWord) : State :=
  let n := now s
  if t.toNat ≤ n.toNat then updTel s (fun x => { x with pending := some (n + 1), lateNext := true })
  else updTel s (fun x => { x with pending := some t, lateNext := false })

/-- A write of GO to TEL_SNAP_ARM. -/
def snapshotArm (s : State) (i : Initiator) : State :=
  gated s offSnapArm 1 i (byHostForge i) 216 (fun s => armAt s s.tel.tick)

/-- Every counter copies itself into its shadow. -/
def takeSnapshot (s : State) (t : DWord) : State :=
  let n := now s
  let late := s.tel.lateNext || decide (n ≠ t)
  let q := s.tel.seq + 1
  let s := updTel s (fun x => { x with
    shadows := x.counters, taken := n, seq := q, late := late, lateNext := false, pending := none })
  let s := trace s 8 srcTel none 0 (BitVec.ofNat 128 (n.toNat + q.toNat * 2 ^ 64 + (if late then 2 ^ 80 else 0)))
  if s.tel.period = 0 then s
  else
    let next := n + s.tel.period.setWidth 64
    updTel s (fun x => { x with pending := some next })

/-- SNAPSHOT: the pending snapshot, at the boundary of its tick, or at the first one at which the clocks
run. -/
def snapshot (s : State) : State :=
  match s.tel.pending with
  | some t => if clocksRun s && domOn s 216 && decide (t.toNat ≤ (now s).toNat) then takeSnapshot s t else s
  | none => s

-- ---------------------------------------------------------------- the trace ring (R555 to R559)

/-- TRACE_EN goes from 0 to 1. -/
def traceEnableTo (s : State) : State :=
  if s.tel.traceEn then s else updTel s (fun x => { x with traceEn := true, wr := 0, rd := 0 })

/-- TRACE_EN goes to 0: records that wait are not written. -/
def traceStop (s : State) : State := updTel s (fun x => { x with traceEn := false, queue := [] })

def traceEnable (s : State) (i : Initiator) : State :=
  gated s offTelCtl 1 i (byHostForge i) 216 traceEnableTo

def padRec (t : DWord) : TraceRec where
  tick := t
  type := 0
  lostBefore := false
  source := BitVec.ofNat 16 srcTel
  ctx := 0xFFFF
  mask := 0
  payload := 0

/-- TRACE_LINE_TIMEOUT: the line being filled is completed with PAD records 1,000 ticks after its first. -/
def traceLineTimeout (s : State) : State :=
  let n := s.tel.queue.length
  match s.tel.queue[n / 4 * 4]? with
  | some r =>
    if s.tel.traceEn && decide ((now s - r.tick).toNat ≥ 1000) then
      let p := padRec (now s)
      updTel s (fun x => { x with queue := x.queue ++ List.replicate (4 - n % 4) p })
    else s
  | none => s

/-- The 32 bytes of a record as one number (R557). -/
def traceNat (r : TraceRec) (phase : Bool) : Nat :=
  r.tick.toNat + r.type.toNat * 2 ^ 64 +
    ((if phase then 1 else 0) + (if r.lostBefore then 2 else 0)) * 2 ^ 72 + r.source.toNat * 2 ^ 80 +
    r.ctx.toNat * 2 ^ 96 + r.mask.toNat * 2 ^ 112 + r.payload.toNat * 2 ^ 128

def traceAddr (s : State) : Nat := s.tel.base.toNat + 32 * (s.tel.wr.toNat % traceSize s)

/-- PHASE of the records of the lap that WR stands in. -/
def tracePhase (s : State) : Bool := decide (s.tel.wr.toNat / traceSize s % 2 = 0)

/-- The ring has room for a line. -/
def traceRoom (s : State) : Bool := decide ((s.tel.wr - s.tel.rd).toNat + 4 ≤ traceSize s)

/-- A refused or failed write of the line at `a` ends the trace (R555). -/
def traceFails (s : State) (a : Nat) : State := post (traceStop s) 0x101 srcTel none (BitVec.ofNat 64 a) 0

/-- A line has gone less than 128 fabric cycles ago (R555). -/
def linePaced (s : State) : Bool :=
  match s.tel.lineAt with
  | some t => decide (s.clk.fabCyc < t + 128)
  | none => false

def putRecords (m : List Host.Cell) (phase : Bool) : Nat → List TraceRec → List Host.Cell
  | _, [] => m
  | a, r :: l => putRecords (wrNat m a 32 (traceNat r phase)) phase (a + 32) l

/-- TRACE_LINE_WRITE: the oldest four records, checked, written, read back and counted. -/
def traceLineWrite (s : State) (resp : Resp) : State :=
  let l := s.tel.queue.take 4
  if s.tel.traceEn && clocksRun s && decide (l.length = 4) && traceRoom s && !linePaced s then
    let a := traceAddr s
    let n := s.clk.fabCyc
    let s := updTel s (fun x => { x with lineAt := some n })
    if !physOk s false a (a + 127) then traceFails s a
    else match resp with
      | .ok =>
        let m := putRecords s.mem (tracePhase s) a l
        { s with mem := m, tel := { s.tel with queue := s.tel.queue.drop 4, wr := s.tel.wr + 4 } }
      | _ => traceFails (scramble s a 128) a
  else s

-- ---------------------------------------------------------------- the commands

def execSnapshotArm (init : Initiator) (s : State) : Out := .next (snapshotArm s init)
def execSnapshot (s : State) : Out := .next (snapshot s)
def execTraceEnable (init : Initiator) (s : State) : Out := .next (traceEnable s init)
def execTraceLineTimeout (s : State) : Out := .next (traceLineTimeout s)
def execTraceLineWrite (resp : Resp) (s : State) : Out := .next (traceLineWrite s resp)

end Sys2Proof.Machine
end

