-- ==== Sys2Proof/Machine/RegRead.lean ====
section
/-! DEFINITION. What a read of each register returns, by the field maps of the unit chapters. An answer of
`none` stands for an offset that no chapter assigns (R525). -/

namespace Sys2Proof.Machine

/-- A 32-bit field of a 64-bit value: 0 the low word, 1 the high word. -/
def wordOf (v : DWord) (hi : Nat) : Word := if hi = 0 then bits v 0 32 else bits v 32 32

/-- One bit for each index below `n` that `p` holds of. -/
def maskOf32 (n : Nat) (p : Nat → Bool) : Word :=
  (List.range n).foldl (fun m i => if p i then m ||| (1#32 <<< i) else m) 0

-- ---------------------------------------------------------------- global (R534, R535)

def engCaps : Word :=
  natAt 16 0 ||| natAt 2 5 ||| natAt 4 7 ||| bitAt true 10 ||| bitAt true 11 ||| bitAt true 12 |||
    bitAt true 13 ||| natAt 15 14 ||| natAt 4096 18

def rdGlobal (s : State) (o : Nat) : Option Word :=
  if o = 0 then some (temperWord s 0)
  else if o = 4 then some 0x00010016
  else if o = 8 then some engCaps
  else if o = 0xC then
    some (temperWord s 7 &&& 0xFFFF ||| maskOf32 16 (fun c => (coreOf s c).ta.st == .service) <<< 16)
  else if o = 0x10 then some (wordOf (now s) 0)
  else if o = 0x14 then some (wordOf (now s) 1)
  else none

-- ---------------------------------------------------------------- mailbox, standing, service (R359, R411, R499)

/-- Teardowns of a standing Basket within the last 60 s. -/
def recentTeardowns (s : State) (b : Nat) : Nat :=
  ((mget [] s.sb.teardowns b).filter (fun t => decide ((now s - t).toNat ≤ 6000000000))).length

def rdMailbox (s : State) (o : Nat) : Option Word :=
  let m := s.mbx
  if o < 0x40 then some (mget 0 m.req (o / 4))
  else if o = 0x40 ∨ o = 0x48 then some 0
  else if o = 0x44 then
    some (bitAt m.reqBusy 0 ||| bitAt m.rspValid 1 ||| bitAt m.forgeReady 2 ||| bitAt m.handover 3)
  else if 0x80 ≤ o ∧ o < 0xC0 then some (mget 0 m.rsp ((o - 0x80) / 4))
  else if o = 0x100 then
    some (s.sb.standing.setWidth 32 ||| bitAt s.sb.hostQuiet 16 ||| bitAt s.sb.planValid 17 |||
      bitAt s.sb.timeCertain 18)
  else if o = 0x104 then some (s.sb.parked.setWidth 32)
  else if o = 0x108 then some s.sb.quietLimit
  else if o = 0x10C then some s.sb.logWr
  else if o = 0x110 then some s.sb.restartCnt
  else if o = 0x114 then some s.sb.switchCnt
  else if 0x140 ≤ o ∧ o < 0x180 then
    let b := (o - 0x140) / 4
    some (natAt (mget 0 s.sb.entry b).toNat 0 ||| bitAt (mget none s.sb.switching b).isSome 4 |||
      natAt (min 255 (recentTeardowns s b)) 5)
  else if o = 0x200 then
    some (bitAt s.svc.half 0 ||| bitAt s.svc.recovering 1 ||| bitAt s.svc.halted 2)
  else if o = 0x204 then some (s.svc.replace.setWidth 32)
  else if o = 0x208 then some s.svc.version
  else if o = 0x20C then some 0
  else none

-- ---------------------------------------------------------------- command processor (R335, R359, R391)

/-- The number of a context's state (R336). -/
def stateNo : CtxState → Nat
  | .free => 0 | .stopped => 1 | .idle => 2 | .ready => 3 | .running => 4 | .saved => 5
  | .fenceWait => 6 | .faultWait => 7 | .faultPending => 8 | .detached => 9 | .teardown => 10
  | .error => 11

def rdCtx (s : State) (c o : Nat) : Word :=
  let k := ctxOf s c
  if o = 0 then ctxCtlWord k.basket k.prio k.grant k.valid
  else if o = 4 then natAt k.space.toNat 0 ||| natAt k.vec.toNat 20
  else if o = 8 then wordOf k.ringBase 0
  else if o = 0xC then wordOf k.ringBase 1
  else if o = 0x10 then natAt k.ringLog2.toNat 0
  else if o = 0x14 then k.rd
  else if o = 0x18 then k.wr
  else if o = 0x1C then wordOf k.saveBase 0
  else if o = 0x20 then wordOf k.saveBase 1
  else if o = 0x24 then
    natAt (stateNo k.state) 0 ||| bitAt k.faultLost 4 ||| natAt k.code.toNat 5 ||| natAt k.reason.toNat 13
  else if o = 0x28 then k.done
  else if o = 0x30 then k.faultRd
  else 0

def rdBsk (s : State) (b o : Nat) : Option Word :=
  let k := bskOf s b
  if o = 0 then some (bskCtlWord k ||| natAt (bskStateNo k) 9)
  else if o = 4 then some (k.cores.setWidth 32)
  else if o = 8 then some (natAt k.segs.toNat 0 ||| natAt k.rsvd.toNat 8)
  else if o = 0xC then some 0
  else if o = 0x10 then
    let busy := maskOf32 16 (fun c => k.cores.getLsbD c && (coreOf s c).task.isSome)
    some (busy ||| natAt (candidates s b).length 16 ||| bitAt k.drained 29)
  else if o = 0x18 then some k.preemptCnt
  else if o = 0x1C then some k.evictCnt
  else if 0x20 ≤ o then some (regionOf k ((o - 0x20) / 4))
  else none

def rdSched (k : Ctx) (o : Nat) : Word :=
  if o = 0 then natAt k.affinity.toNat 0 ||| natAt k.region.toNat 16
  else if o = 4 then natAt k.sizeKib.toNat 0
  else if o = 8 then natAt k.ratio.toNat 0 ||| natAt k.thresh.toNat 16
  else k.ovr

def rdVec (v : Vec) (o : Nat) : Word :=
  if o = 0 then wordOf v.addr 0
  else if o = 4 then wordOf v.addr 1
  else if o = 8 then v.data
  else bitAt v.mask 0

def rdCp (s : State) (o : Nat) : Option Word :=
  if o = 0 then
    some (natAt (s.cp.ctxs.filter (fun e => e.2.valid)).length 0 ||| bitAt s.cp.detached 13)
  else if o = 0x10 then some (scRead s.cp.intPend)
  else if o = 0x14 then some s.cp.intErr
  else if 0x100 ≤ o ∧ o < 0x280 then some (rdVec (mget {} s.cp.vecs ((o - 0x100) / 16)) (o % 16))
  else if 0x800 ≤ o ∧ o < 0xC00 then rdBsk s ((o - 0x800) / 64) (o % 64)
  else if 0x10000 ≤ o ∧ o < 0x50000 then some (rdCtx s ((o - 0x10000) / 64) (o % 64))
  else if 0x60000 ≤ o ∧ o < 0x70000 then some (rdSched (ctxOf s ((o - 0x60000) / 16)) (o % 16))
  else if 0x80000 ≤ o ∧ o < 0x84000 then some 0
  else none

-- ---------------------------------------------------------------- ATU, Fence Unit, GEQ (R334, R359)

def rdAtu (s : State) (o : Nat) : Option Word :=
  let a := s.atu
  let k := spaceOf s a.sel.toNat
  if o = 0 then some (bitAt a.disable 0)
  else if o = 4 then
    some (natAt (a.slots.filter (fun e => e.2.valid)).length 0 |||
      natAt (a.faults.filter (fun e => e.2.isSome)).length 13 |||
      natAt (a.walks.filter (fun e => e.2.isSome)).length 20 ||| natAt a.inv.length 25)
  else if o = 0x10 then some (a.sel.setWidth 32)
  else if o = 0x14 then
    some (natAt k.id.toNat 0 ||| bitAt k.valid 20 ||| bitAt k.engine 21 ||| bitAt k.forge 22)
  else if o = 0x18 then some (wordOf k.root 0)
  else if o = 0x1C then some (wordOf k.root 1)
  else if o = 0x20 then some 0
  else if o = 0x24 then some (wordOf (epochOf s a.sel.toNat) 0)
  else if o = 0x28 then some (wordOf (epochOf s a.sel.toNat) 1)
  else if o = 0x30 then some (respWord a.respId a.respAct.toNat)
  else if o = 0x34 then some a.timeout
  else if o = 0x38 then some (a.retries.setWidth 32)
  else if 0x40 ≤ o ∧ o < 0x60 then some (mget 0 a.pa ((o - 0x40) / 4))
  else if 0x80 ≤ o ∧ o < 0xC0 then
    let w := bwOf s ((o - 0x80) / 4)
    some (natAt w.rate.toNat 0 ||| natAt w.depth.toNat 16)
  else if o = 0x100 then some a.invCnt
  else if o = 0x104 then some a.walkCnt
  else if o = 0x108 then some a.missCnt
  else if o = 0x10C then some a.faultCnt
  else none

def rdFu (s : State) (o : Nat) : Option Word :=
  if o = 0 then some 0
  else if o = 4 then some (natAt s.fu.watch.length 0 ||| natAt s.fu.overflow.length 10)
  else if o = 8 then some s.fu.staleCnt
  else none

/-- GEQ_LOST reads 0 but for the driver and the Forge (R359). -/
def rdGeq (s : State) (i : Initiator) (o : Nat) : Option Word :=
  let g := s.geq
  if o = 0 then some (bitAt g.enable 0)
  else if o = 4 then some (wordOf g.base 0)
  else if o = 8 then some (wordOf g.base 1)
  else if o = 0xC then some (g.log2.setWidth 32)
  else if o = 0x10 then some g.wr
  else if o = 0x14 then some g.rd
  else if o = 0x18 then some (if byHostForge i then g.lost else 0)
  else if o = 0x1C then some (natAt g.staging.length 0 ||| bitAt g.writeErr 9)
  else none

-- ---------------------------------------------------------------- power (R521)

def domWord (v : BitVec 224) (i : Nat) : Word :=
  bits v (32 * i) 32 &&& (if i = 6 then 0x01FFFFFF else 0xFFFFFFFF)

def rdPower (s : State) (o : Nat) : Option Word :=
  let p := s.pwr
  if o = 0 then some (p.budget.setWidth 32)
  else if o = 4 then
    some (natAt p.div.toNat 0 ||| natAt p.gate.toNat 2 ||| bitAt p.unmet 5 ||| natAt p.est.toNat 16)
  else if o = 8 then some (p.floor.setWidth 32)
  else if o = 0xC then some (scRead p.event)
  else if o = 0x10 then some (p.forceOff.setWidth 32)
  else if 0x20 ≤ o ∧ o < 0x3C then some (domWord p.en ((o - 0x20) / 4))
  else if 0x40 ≤ o ∧ o < 0x5C then some (domWord p.on ((o - 0x40) / 4))
  else if o = 0x60 then some (p.limit.setWidth 32)
  else if o = 0x64 then
    some (natAt p.t.toNat 0 ||| natAt p.sensor.toNat 11 ||| natAt (p.invalid.toNat % 65536) 16)
  else if o = 0x68 then some (p.sel.setWidth 32)
  else if o = 0x6C then
    some (natAt (mget 0 p.temps p.sel.toNat).toNat 0 ||| bitAt (p.valid.getLsbD p.sel.toNat) 11)
  else if o = 0x70 then some (bitAt p.lock 0 ||| natAt p.unlocks.toNat 16)
  else if o = 0x74 then some (p.rstCore.setWidth 32)
  else if o = 0x78 then some (p.invalid.setWidth 32)
  else none

-- ---------------------------------------------------------------- Temper, telemetry (R548, R559)

def wordWorn (x : TWord) : Bool :=
  decide (x.count.toNat ≥ 90000000) || decide (popcount x.failed ≥ 2)

def rdTemper (s : State) (o : Nat) : Option Word :=
  let t := s.temper
  let x := tword s t.sel.toNat
  if o = 0 then
    some (bitAt t.busy.isSome 0 ||| bitAt t.loaded 1 ||| bitAt t.lastFail 2 |||
      natAt t.unreadable.toNat 16)
  else if o = 4 then some t.data
  else if o = 8 then some (t.commit.setWidth 32)
  else if o = 0x14 then some (t.last.setWidth 32)
  else if o = 0x18 then some (t.sel.setWidth 32)
  else if o = 0x1C then some x.count
  else if o = 0x20 then
    some (natAt x.corrected.toNat 0 ||| natAt x.failed.toNat 3 ||| bitAt x.unreadable 6 |||
      bitAt (wordWorn x) 7)
  else if 0x4000 ≤ o ∧ o < 0x8000 then some (temperWord s ((o - 0x4000) / 4))
  else none

def rdTel (s : State) (o : Nat) : Option Word :=
  let t := s.tel
  if o = 0 then some (bitAt t.traceEn 0)
  else if o = 4 then some (bitAt t.pending.isSome 0 ||| bitAt t.late 1 ||| natAt t.seq.toNat 16)
  else if o = 8 then some (wordOf t.tick 0)
  else if o = 0xC then some (wordOf t.tick 1)
  else if o = 0x10 then some 0
  else if o = 0x14 then some t.period
  else if o = 0x18 then some (wordOf t.taken 0)
  else if o = 0x1C then some (wordOf t.taken 1)
  else if o = 0x20 then some t.mask
  else if o = 0x24 then some (wordOf t.base 0)
  else if o = 0x28 then some (wordOf t.base 1)
  else if o = 0x2C then some (t.log2.setWidth 32)
  else if o = 0x30 then some t.wr
  else if o = 0x34 then some t.rd
  else if o = 0x38 then some t.lost
  else if 0x1000 ≤ o ∧ o < 0x2000 then
    some (wordOf (mget 0 t.shadows ((o - 0x1000) / 8)) ((o - 0x1000) / 4 % 2))
  else none

-- ---------------------------------------------------------------- cores

def taStateNo : TaSt → Nat
  | .service => 0 | .draining => 1 | .hold => 2 | .uncal => 3 | .retired => 4

/-- The skew-table entry of logical row `k` (R69): normal mode and Wale mode. -/
def skewEntry (w : Word) (k : Nat) : Nat × Nat :=
  let own := arrayRow w k - (33 * (k / 32) + k % 32)
  (((List.range (k / 32)).filter (fun q => (repairRow w q).isSome)).length + own, own)

def rdTa (s : State) (c o : Nat) : Option Word :=
  let t := (coreOf s c).ta
  if o = 0 then
    some (natAt (taStateNo t.st) 0 ||| bitAt t.wale 3 ||| natAt t.active.fmt.toNat 4 |||
      natAt t.passes.length 8 ||| bitAt (t.repairHold.isSome && (coreOf s c).task.isSome) 13 |||
      maskOf32 4 (fun q => (repairRow t.repairMap q).isSome) <<< 16)
  else if o = 4 then some (scRead t.event)
  else if o = 8 then some t.checkCnt
  else if o = 0xC then some (t.replayLimit.setWidth 32)
  else if o = 0x10 then some t.syn.info
  else if o = 0x14 then some t.syn.row
  else if 0x18 ≤ o ∧ o < 0x28 then some (bits t.syn.cols (32 * ((o - 0x18) / 4)) 32)
  else if o = 0x28 then some t.syn.col4
  else if o = 0x2C then some t.syn.tick
  else if o = 0x30 then some (t.spareCtl.setWidth 32)
  else if o = 0x40 then some t.repairMap
  else if o = 0x44 then some (t.skewSel.setWidth 32)
  else if o = 0x48 then
    let e := skewEntry t.repairMap t.skewSel.toNat
    some (natAt e.1 0 ||| natAt e.2 3)
  else if o = 0x50 then some (bitAt t.diagBusy 0 ||| bitAt t.diagKind 1)
  else if o = 0x54 then some (t.diagStatus.setWidth 32)
  else none

def rdBrd (s : State) (c o : Nat) : Option Word :=
  let k := coreOf s c
  let b := k.brd
  if o = 0 then
    some (maskOf32 4 (fun i => (mget {} b.slots i).valid) |||
      maskOf32 4 (fun i => b.rowstat.any (fun e =>
        decide (e.1 / 512 = i) && decide (e.2.uses ≠ 0))) <<< 4 |||
      (List.range 4).foldl (fun w i => w ||| natAt (mget [] b.pend i).length (8 + 4 * i)) 0 |||
      maskOf32 4 (fun i => k.invs.any (fun v => decide (v.slot.toNat = i))) <<< 24)
  else if o = 4 then some (k.brdFault.setWidth 32)
  else if o = 8 then some k.brdCnt
  else none

/-- Slots are numbered in the order of their use, latest first (log 41). -/
def rdCnv (s : State) (c o : Nat) : Option Word :=
  let v := (coreOf s c).cnv
  if o = 0 then
    some (maskOf32 7 (fun i => decide (i < v.slots.length)) |||
      maskOf32 7 (fun i => match v.slots[i]? with
        | some x => feederHeld (coreOf s c) x
        | none => false) <<< 7 |||
      bitAt v.wanted.isSome 14 ||| maskOf32 4 (fun i => decide (i < v.descs.length)) <<< 16)
  else if o = 4 then some (v.fault.setWidth 32)
  else if o = 8 then some v.fillCnt
  else if o = 0xC then some v.reuseCnt
  else none

def rdVu (s : State) (c o : Nat) : Option Word :=
  let v := (coreOf s c).vu
  if o = 0 then
    some (natAt v.regs.nq.toNat 0 ||| natAt v.regs.k.toNat 7 ||| bitAt v.regs.armed 16 |||
      maskOf32 7 (fun i => decide (i < v.win.length)) <<< 17 ||| natAt v.dw.length 24)
  else if o = 4 then some (v.fault.setWidth 32)
  else if o = 8 then some v.checkCnt
  else if o = 0xC then some v.eccCnt
  else none

def rdPan (s : State) (c o : Nat) : Option Word :=
  let p := (coreOf s c).pan
  if o = 0 then
    some (maskOf32 8 (segOn s c) ||| natAt p.ready.toNat 8 ||| natAt p.retired.toNat 16 |||
      bitAt p.copying.isSome 24 ||| bitAt (!p.wbuf.isEmpty) 25)
  else if o = 4 then some (scRead p.event)
  else if o = 8 then some (p.group.setWidth 32)
  else if o = 0xC then some (bitAt p.scrubEn 0 ||| natAt p.scrubShift.toNat 1)
  else if o = 0x10 then some (bitAt p.winEn 0 ||| bitAt p.winWrite 1)
  else if o = 0x14 then some (p.fault.setWidth 32)
  else if o = 0x18 then some p.errAddr
  else if 0x20 ≤ o ∧ o < 0x40 then some (mget 0 p.ceCnt ((o - 0x20) / 4))
  else if o = 0x40 then some (p.mapCtl.setWidth 32)
  else if o = 0x50 then some (p.mapSel.setWidth 32)
  else if o = 0x54 then
    some ((mapEntry p (bits p.mapSel 0 3).toNat (bits p.mapSel 3 6).toNat).setWidth 32)
  else if o = 0x58 then some (wordOf p.ovf 0)
  else if o = 0x5C then some (wordOf p.ovf 1)
  else none

/-- STATE of SEQ_STATUS: a core in repair hold, or rolled back, stands STOPPED. -/
def seqStateNo (k : Core) : Nat :=
  if k.ta.repairHold.isSome then 3
  else match k.seq.run with
    | .idle => 0 | .running => 1 | .atYield => 2 | .stopped => 3

def rdSeq (s : State) (c o : Nat) : Option Word :=
  let k := coreOf s c
  let q := k.seq
  if o = 0 then
    some (natAt (seqStateNo k) 0 ||| natAt q.pc.toNat 2 ||| natAt (q.ord % 256) 15 |||
      natAt q.livePend.length 23)
  else if o = 4 then some (q.fault.setWidth 32)
  else if o = 8 then some q.eccCnt
  else if o = 0xC then some q.yieldCnt
  else none

def rdMemUnit (s : State) (c o : Nat) : Option Word :=
  let m := (coreOf s c).mem
  let st (t : Nat) : TagSt := (mget {} m.tags t).st
  if o = 0 then
    some (natAt (inFlight m) 0 |||
      natAt ((List.range 32).filter (fun t => st t == .active)).length 9)
  else if o = 4 then some (maskOf32 32 (fun t => st t == .active || st t == .sent))
  else if o = 8 then some (m.fault.setWidth 32)
  else if o = 0xC then some m.lineCnt
  else none

def rdSvc (s : State) (c o : Nat) : Option Word :=
  let v := (coreOf s c).vu
  if o = 0 then some (bitAt v.diagBusy 0)
  else if o = 4 then some (v.diagStatus.setWidth 32)
  else none

def rdCore (s : State) (c o : Nat) : Option Word :=
  let r := o % 0x1000
  match o / 0x1000 with
  | 1 => rdTa s c r
  | 2 => rdBrd s c r
  | 3 => rdCnv s c r
  | 4 => rdVu s c r
  | 5 => rdPan s c r
  | 6 => rdSeq s c r
  | 7 => rdMemUnit s c r
  | 8 => rdSvc s c r
  | _ => none

-- ---------------------------------------------------------------- Frame Port, Region Unit (R212, R213)

def routeSelected (s : State) : BitVec 23 := mget 0 s.fp.routes s.fp.routeSel.toNat

def rdFp (s : State) (o : Nat) : Option Word :=
  let p := s.fp
  let stale (e : FrameEntry) : Bool := e.st == .staleOwned || e.st == .staleBorrowed
  if o = 0 then some (bitAt p.enable 0 ||| natAt p.owner.toNat 1)
  else if o = 4 then some (natAt p.table.length 0 ||| natAt (p.table.filter stale).length 13)
  else if o = 8 ∨ o = 0xC then some (wordOf p.descBase (o / 4 % 2))
  else if o = 0x10 ∨ o = 0x14 then some (wordOf p.poolBase (o / 4 % 2))
  else if o = 0x18 ∨ o = 0x1C then some (wordOf p.poolLimit (o / 4 % 2))
  else if o = 0x20 ∨ o = 0x24 then some (wordOf p.releaseAddr (o / 4 % 2))
  else if o = 0x28 then some p.holdLimit
  else if o = 0x30 then some p.dropCnt
  else if o = 0x40 then some (p.routeSel.setWidth 32)
  else if o = 0x44 then some ((routeSelected s).setWidth 32)
  else none

/-- A word of RU_CSC: its profile and number; words 18 to 31 of a profile are reserved. -/
def rdRu (s : State) (o : Nat) : Option Word :=
  if o = 0 then
    some (maskOf32 4 (fun p => (mget none s.ru.running p).isSome) ||| natAt s.ru.queue.length 4)
  else if 0x10 ≤ o ∧ o < 0x50 then some (pixcapOf s ((o - 0x10) / 4))
  else if 0x100 ≤ o ∧ o < 0x500 then
    some (if (o - 0x100) / 4 % 32 < 18 then mget 0 s.ru.csc ((o - 0x100) / 4) else 0)
  else none

-- ---------------------------------------------------------------- Plait links (R442, R443)

def linkStNo : LinkSt → Nat
  | .down => 0 | .detect => 1 | .align => 2 | .train => 3 | .active => 4 | .retrain => 5

def winOwnerWord (x : PltWin) : Word :=
  natAt x.owner.toNat 0 ||| bitAt x.owned 12 ||| natAt x.ac.toNat 13 ||| bitAt x.acen 19 |||
    natAt x.acCore.toNat 20

/-- No accepted request of the window is still writing or reading. -/
def winDrained (k : Link) (w : Nat) : Bool :=
  match k.inb with
  | some r => decide (bWindow r.body ≠ w)
  | none => true

def rdWin (k : Link) (w o : Nat) : Word :=
  let x := mget {} k.wins w
  if o = 0 then winCtl x
  else if o = 4 then natAt x.first.toNat 0 ||| natAt x.count.toNat 10
  else if o = 8 then winOwnerWord x
  else bitAt (winDrained k w) 0 ||| natAt x.late.toNat 16

def rdLink (s : State) (l o : Nat) : Option Word :=
  let k := linkOf s l
  if o = 0 then some (lnkCtl k)
  else if o = 4 then
    some (natAt (linkStNo k.st) 0 ||| natAt k.session.toNat 3 ||| natAt k.lastDown.toNat 19)
  else if o = 8 then some (scRead k.event)
  else if o = 0x10 then some 0
  else if o = 0x20 then some k.peerId
  else if o = 0x24 then some (bitAt k.peerLink 0)
  else if o = 0x28 then some (k.rtt.setWidth 32)
  else if o = 0x30 then some k.outBase
  else if o = 0x40 then some k.crcCnt
  else if o = 0x44 then some k.replayCnt
  else if o = 0x48 then some k.retrainCnt
  else if o = 0x4C then some k.txCnt
  else if o = 0x50 then some k.rxCnt
  else if 0x60 ≤ o ∧ o < 0x70 then some (mget 0 k.msgData ((o - 0x60) / 4))
  else if o = 0x70 then some (bitAt k.msgForge 1)
  else if o = 0x74 then some (bitAt k.msgBusy 0 ||| natAt k.msgStatus.toNat 1)
  else if 0x1000 ≤ o ∧ o < 0x1400 then some (rdWin k ((o - 0x1000) / 16) (o % 16))
  else if o = 0x2000 then some (k.xtSel.setWidth 32)
  else if o = 0x2004 then some (wordOf (mget 0 k.table k.xtSel.toNat) 0)
  else if o = 0x2008 then some (wordOf (mget 0 k.table k.xtSel.toNat) 1)
  else none

-- ---------------------------------------------------------------- Ingot Store (R479, R480)

def spareWord (s : State) : Word :=
  let n := spareBlocks s
  let g := goodCount s
  natAt (min 65535 n) 0 ||| natAt (if g = 0 then 0 else n * 1000 / g) 16

def badCount (s : State) (k : Nat) : Nat :=
  (s.store.blocks.filter (fun e => decide (e.2.bad = k))).length

def rdStore (s : State) (o : Nat) : Option Word :=
  let t := s.store
  if o = 0 then some (bitAt t.enable 0)
  else if o = 4 then
    some (natAt t.st.toNat 0 ||| bitAt t.outA 2 ||| bitAt t.outB 3 ||| bitAt t.rebuilding 4 |||
      bitAt t.spareLow 5 ||| bitAt t.commitBusy 6 ||| bitAt t.blank 7)
  else if o = 8 then some (scRead t.event)
  else if o = 0xC then some t.commitTicks
  else if o = 0x10 then some (bitAt t.armedUntil.isSome 0)
  else if o = 0x20 then some t.gen
  else if o = 0x24 then some (spareWord s)
  else if o = 0x28 then some (wordOf t.timeOff 0)
  else if o = 0x2C then some (wordOf t.timeOff 1)
  else if o = 0x30 then some t.ceCnt
  else if o = 0x34 then some t.ueCnt
  else if o = 0x38 then some (natAt (badCount s 2) 0 ||| natAt (badCount s 1) 16)
  else if 0x40 ≤ o ∧ o < 0x50 then
    let c := (o - 0x40) / 4
    let fit (m : BitVec 16) : Nat := (bits m (4 * c) 4).toNat
    some (natAt (fit (profTargets s)) 0 ||| natAt (fit t.targets) 4 |||
      bitAt (t.ops.any (fun p => p.started.isSome && decide (blkChan p.block = c))) 8)
  else none

-- ---------------------------------------------------------------- the whole space (R523, R526)

/-- The power domain of the unit that holds offset `o`. -/
def regDom (o : Nat) : Nat :=
  if 0xE00000 ≤ o ∧ o < 0x1000000 then 216
  else if 0x1000000 ≤ o ∧ o < 0x1100000 then coreDom ((o - 0x1000000) / 0x10000)
  else if 0x1401000 ≤ o ∧ o < 0x1500000 then 215
  else if 0x1500000 ≤ o ∧ o < 0x1600000 then linkDom ((o - 0x1500000) / 0x80000)
  else if 0x1700000 ≤ o then 210
  else 209

/-- The register at `o`, whatever its domain; `none` where no chapter assigns the offset. -/
def rdReg (s : State) (i : Initiator) (o : Nat) : Option Word :=
  if o < 0x100000 then rdGlobal s o
  else if o < 0x200000 then rdMailbox s (o - 0x100000)
  else if o < 0x400000 then rdCp s (o - 0x200000)
  else if o < 0x600000 then rdAtu s (o - 0x400000)
  else if o < 0x800000 then rdFu s (o - 0x600000)
  else if o < 0xA00000 then rdGeq s i (o - 0x800000)
  else if o < 0xC00000 then rdPower s (o - 0xA00000)
  else if o < 0xE00000 then rdTemper s (o - 0xC00000)
  else if o < 0x1000000 then rdTel s (o - 0xE00000)
  else if o < 0x1100000 then rdCore s ((o - 0x1000000) / 0x10000) (o % 0x10000)
  else if o < 0x1400000 then none
  else if o < 0x1401000 then rdFp s (o - 0x1400000)
  else if o < 0x1500000 then rdRu s (o - 0x1401000)
  else if o < 0x1600000 then rdLink s ((o - 0x1500000) / 0x80000) (o % 0x80000)
  else if o < 0x1700000 then none
  else rdStore s (o - 0x1700000)

/-- The twin-write registers (R531). -/
inductive TwReg where
  | spare (c : Nat) | mapCtl (c : Nat) | atuCtl | bskReset (b : Nat) | lnkReset (l : Nat) | eraseArm
  | forceOff | commit
deriving DecidableEq, Repr

def twOff : TwReg → Nat
  | .spare c => coreOff c + 0x1030
  | .mapCtl c => coreOff c + 0x5040
  | .atuCtl => 0x400000
  | .bskReset b => bskOff b + 0xC
  | .lnkReset l => linkBase l + 0x10
  | .eraseArm => storeOff + 0x10
  | .forceOff => offForceOff
  | .commit => offTmpCommit

def allTw : List TwReg :=
  [.atuCtl, .eraseArm, .forceOff, .commit, .lnkReset 0, .lnkReset 1] ++
    (List.range 16).flatMap (fun n => [.spare n, .mapCtl n, .bskReset n])

/-- The twin-write register whose value address, or whose complement address, is `o`. -/
def twAt (o : Nat) : Option TwReg := allTw.find? (fun r => decide (twOff r = o))
def twComplAt (o : Nat) : Option TwReg := allTw.find? (fun r => decide (twOff r + 8 = o))

/-- What a read at `o` returns (R11, R525, R526). -/
def regRead (s : State) (i : Initiator) (o : Nat) : Word :=
  if !domOn s (regDom o) then 0
  else match twComplAt o with
    | some r => ~~~((rdReg s i (twOff r)).getD 0)
    | none => (rdReg s i o).getD 0

end Sys2Proof.Machine
end

