-- ==== Sys2Proof/Machine/RegWrite.lean ====
section
/-! DEFINITION. What a write of each register does: who may make it, which values are reserved, which fields
it sets (R8 to R11, R525 to R531, R560, and the field maps of the unit chapters). -/

namespace Sys2Proof.Machine

/-- A field's legal value takes effect by `f`; a reserved one leaves it and makes REG_RESERVED (R8, R560). -/
def legal (s : State) (o : Nat) (v : Word) (i : Initiator) (ok : Bool) (f : State → State) : State :=
  if ok then f s else regReserved s o v i

/-- A 64-bit value with one of its words replaced: 0 the low word, 1 the high word (R533). -/
def putWord (x : DWord) (hi : Nat) (v : Word) : DWord := putBits x (32 * hi) v

/-- Half `hi` of an address whose low word must be a multiple of `n` (R560). -/
def addrHalf (n hi : Nat) (v : Word) : Bool := decide (hi ≠ 0 ∨ v.toNat % n = 0)

-- ---------------------------------------------------------------- who may write (R527)

def mailboxWriter (i : Initiator) (o : Nat) : Bool := if o < 0x100 then notSecp i else byForge i

def ctxFieldWriter (i : Initiator) (c o : Nat) : Bool :=
  if c ≥ 3968 ∨ o = 0 then byForge i
  else if o = 4 ∨ (8 ≤ o ∧ o < 0x14) ∨ o = 0x1C ∨ o = 0x20 ∨ o = 0x2C then ctxWriter c i
  else true

def schedWriter (i : Initiator) (c o : Nat) : Bool :=
  if c ≥ 3968 ∨ o = 0 ∨ o = 8 then byForge i
  else if o = 4 then ctxWriter c i
  else true

def cpWriter (i : Initiator) (o : Nat) : Bool :=
  if o = 0x10 then notSecp i
  else if 0x100 ≤ o ∧ o < 0x280 then byHostForge i
  else if 0x800 ≤ o ∧ o < 0xC00 then byForge i
  else if 0x10000 ≤ o ∧ o < 0x50000 then ctxFieldWriter i ((o - 0x10000) / 64) (o % 64)
  else if 0x60000 ≤ o ∧ o < 0x70000 then schedWriter i ((o - 0x60000) / 16) (o % 16)
  else true

def atuWriter (i : Initiator) (o : Nat) : Bool :=
  if o = 4 ∨ o = 0x24 ∨ o = 0x28 ∨ 0x100 ≤ o then true
  else if (0x10 ≤ o ∧ o ≤ 0x20) ∨ o = 0x30 then byHostForge i
  else byForge i

def powerWriter (i : Initiator) (o : Nat) : Bool :=
  if o = 0 ∨ o = 0x60 then i == .pmgr
  else if o = 0xC ∨ o = 0x10 ∨ (0x20 ≤ o ∧ o < 0x3C) ∨ o = 0x68 ∨ o = 0x74 then byForge i
  else true

def coreWriter (i : Initiator) (o : Nat) : Bool :=
  if o = 0x100C ∨ o = 0x1010 ∨ o = 0x1030 ∨ o = 0x1050 ∨ o = 0x5008 ∨ o = 0x500C ∨ o = 0x5010 ∨
      o = 0x5018 ∨ o = 0x5040 ∨ 0x8000 ≤ o then byForge i
  else if o = 0x1004 ∨ o = 0x1044 ∨ o = 0x5004 ∨ o = 0x5050 then notSecp i
  else true

def linkWriter (i : Initiator) (o : Nat) : Bool :=
  if o = 0x10 ∨ o = 0x30 then byForge i
  else if o = 8 then notSecp i
  else if o = 0 ∨ (0x60 ≤ o ∧ o ≤ 0x70) ∨ 0x1000 ≤ o then byHostForge i
  else true

def storeWriter (i : Initiator) (o : Nat) : Bool :=
  if o = 0 ∨ o = 0xC then byForge i
  else if o = 0x10 then byHostForge i
  else if o = 8 then notSecp i
  else true

/-- The initiator may write the register at `o`; a write of a read-only register that no chapter restricts
passes and does nothing (R10). -/
def mayWrite (i : Initiator) (o : Nat) : Bool :=
  if o < 0x100000 then true
  else if o < 0x200000 then mailboxWriter i (o - 0x100000)
  else if o < 0x400000 then cpWriter i (o - 0x200000)
  else if o < 0x600000 then atuWriter i (o - 0x400000)
  else if o < 0x800000 then true
  else if o < 0xA00000 then byHostForge i
  else if o < 0xC00000 then powerWriter i (o - 0xA00000)
  else if o < 0xE00000 then
    (if o = 0xC00004 ∨ o = 0xC00008 ∨ o = 0xC00018 then byForge i else true)
  else if o < 0x1000000 then byHostForge i
  else if o < 0x1400000 then coreWriter i (o % 0x10000)
  else if o < 0x1500000 then byForge i
  else if o < 0x1700000 then linkWriter i (o % 0x80000)
  else storeWriter i (o - 0x1700000)

-- ---------------------------------------------------------------- mailbox, standing, service

def putMailbox (s : State) (i : Initiator) (at_ o : Nat) (v : Word) : State :=
  if o < 0x40 then { s with mbx := { s.mbx with req := mset 0 s.mbx.req (o / 4) v } }
  else if o = 0x40 then mbxDoorbell s
  else if o = 0x48 then mbxAck s
  else if o = 0x104 then updSb s (fun q => { q with parked := bits v 0 16 })
  else if o = 0x108 then legal s at_ v i (decide (v ≠ 0)) (fun s => updSb s (fun q => { q with quietLimit := v }))
  else if o = 0x20C then svcWdog s i v
  else s

-- ---------------------------------------------------------------- command processor

/-- A write of CTX_CTL by the Forge (R335, R337). -/
def ctxCtlPut (s : State) (i : Initiator) (c : Nat) (v : Word) : State :=
  let b : BasketId := bits v 1 4
  let p : BitVec 2 := bits v 5 2
  if v.getLsbD 0 then bindCtx s c b p (v.getLsbD 7)
  else
    let s := clearValid s i c
    if (ctxOf s c).state == .free then
      updCtx s c (fun k => { k with basket := b, prio := p, grant := v.getLsbD 7 })
    else s

/-- The driver writes these fields only in FREE, STOPPED and ERROR (R335). -/
def ctxQuiet (s : State) (i : Initiator) (c : Nat) : Bool :=
  let st := (ctxOf s c).state
  !(i == .host) || st == .free || st == .stopped || st == .error

/-- CTX_HOST: SPACE, and VEC but for its reserved values. -/
def ctxHostPut (s : State) (i : Initiator) (c at_ : Nat) (v : Word) : State :=
  let s := updCtx s c (fun k => { k with space := bits v 0 20 })
  legal s at_ v i (decide ((bits v 20 5).toNat < 24)) (fun s => updCtx s c (fun k => { k with vec := bits v 20 5 }))

/-- A write of CTX_CMD. -/
def ctxCmdPut (s : State) (i : Initiator) (c at_ : Nat) (v : Word) : State :=
  match (bits v 0 3).toNat with
  | 1 => stopCtx s c
  | 2 => startCtx s i c
  | 3 => cmdFault s c tfTeardown 1
  | 4 => resetCtx s i c
  | _ => regReserved s at_ v i

/-- The ring, host and save registers of a context. -/
def ctxAddrPut (s : State) (i : Initiator) (c at_ o : Nat) (v : Word) : State :=
  if o = 4 then ctxHostPut s i c at_ v
  else if o = 8 ∨ o = 0xC then
    legal s at_ v i (addrHalf 4096 (o / 4 - 2) v)
      (fun s => updCtx s c (fun k => { k with ringBase := putWord k.ringBase (o / 4 - 2) v }))
  else if o = 0x10 then
    let n := (bits v 0 5).toNat
    legal s at_ v i (decide (4 ≤ n ∧ n ≤ 16)) (fun s => updCtx s c (fun k => { k with ringLog2 := bits v 0 5 }))
  else
    legal s at_ v i (addrHalf 4096 (o / 4 - 7) v)
      (fun s => updCtx s c (fun k => { k with saveBase := putWord k.saveBase (o / 4 - 7) v }))

def putCtx (s : State) (i : Initiator) (c at_ o : Nat) (v : Word) : State :=
  if o = 0 then ctxCtlPut s i c v
  else if o = 4 ∨ (8 ≤ o ∧ o ≤ 0x10) ∨ o = 0x1C ∨ o = 0x20 then
    (if ctxQuiet s i c then ctxAddrPut s i c at_ o v else regRefused s at_ v i)
  else if o = 0x2C then ctxCmdPut s i c at_ v
  else s

def putSched (s : State) (i : Initiator) (c at_ o : Nat) (v : Word) : State :=
  if o = 0 then placeWrite s i c v
  else if o = 4 then
    (if ctxQuiet s i c then updCtx s c (fun k => { k with sizeKib := bits v 0 20 }) else regRefused s at_ v i)
  else if o = 8 then updCtx s c (fun k => { k with thresh := bits v 16 16 })
  else s

def putVec (s : State) (i : Initiator) (n at_ o : Nat) (v : Word) : State :=
  let upd (s : State) (f : Vec → Vec) : State :=
    { s with cp := { s.cp with vecs := mset {} s.cp.vecs n (f (mget {} s.cp.vecs n)) } }
  if o = 0 ∨ o = 4 then
    legal s at_ v i (addrHalf 4 (o / 4) v) (fun s => upd s (fun k => { k with addr := putWord k.addr (o / 4) v }))
  else if o = 8 then upd s (fun k => { k with data := v })
  else if v.getLsbD 0 then upd s (fun k => { k with mask := true })
  else unmaskVec s n

def putBsk (s : State) (i : Initiator) (b o : Nat) (v : Word) : State :=
  if o = 0 then bskCtlWrite s i b v
  else if o = 4 then bskCoresWrite s i b v
  else if o = 8 then bskSegsWrite s i b v
  else if 0x20 ≤ o then bskRegionWrite s i b ((o - 0x20) / 4) v
  else s

def putCp (s : State) (i : Initiator) (at_ o : Nat) (v : Word) : State :=
  if o = 0x10 then { s with cp := { s.cp with intPend := scClear s.cp.intPend v } }
  else if 0x100 ≤ o ∧ o < 0x280 then putVec s i ((o - 0x100) / 16) at_ (o % 16) v
  else if 0x800 ≤ o ∧ o < 0xC00 then putBsk s i ((o - 0x800) / 64) (o % 64) v
  else if 0x10000 ≤ o ∧ o < 0x50000 then putCtx s i ((o - 0x10000) / 64) at_ (o % 64) v
  else if 0x60000 ≤ o ∧ o < 0x70000 then putSched s i ((o - 0x60000) / 16) at_ (o % 16) v
  else s

-- ---------------------------------------------------------------- ATU, GEQ

def updAtu (s : State) (f : Atu → Atu) : State := { s with atu := f s.atu }
def updGeq (s : State) (f : Geq → Geq) : State := { s with geq := f s.geq }

def putAtu (s : State) (i : Initiator) (at_ o : Nat) (v : Word) : State :=
  if o = 0x10 then updAtu s (fun a => { a with sel := bits v 0 12 })
  else if o = 0x14 then updAtu s (fun a => { a with stId := v &&& 0x7FFFFF })
  else if o = 0x18 then updAtu s (fun a => { a with stLo := v })
  else if o = 0x1C then updAtu s (fun a => { a with stHi := v })
  else if o = 0x20 then (if v.getLsbD 0 then spaceCommit s i else s)
  else if o = 0x30 then
    let act := (bits v 8 2).toNat
    legal s at_ v i (decide (act = 1 ∨ act = 2)) (fun s => faultRespond s (bits v 0 6) act)
  else if o = 0x34 then legal s at_ v i (decide (v ≠ 0)) (fun s => updAtu s (fun a => { a with timeout := v }))
  else if o = 0x38 then
    legal s at_ v i (decide (bits v 0 5 ≠ 0)) (fun s => updAtu s (fun a => { a with retries := bits v 0 5 }))
  else if 0x40 ≤ o ∧ o < 0x60 then updAtu s (fun a => { a with pa := mset 0 a.pa ((o - 0x40) / 4) v })
  else if 0x80 ≤ o ∧ o < 0xC0 then bwWrite s i ((o - 0x80) / 4) v
  else s

/-- GEQ registers: BASE and SIZE stand while ENABLE is 1 (R357); GEQ_LOST, cleared by reads, takes no write
(R529). -/
def putGeq (s : State) (i : Initiator) (at_ o : Nat) (v : Word) : State :=
  if o = 0 then (if v.getLsbD 0 then geqEnableTo s else updGeq s (fun g => { g with enable := false }))
  else if o = 4 ∨ o = 8 ∨ o = 0xC then
    if s.geq.enable then regRefused s at_ v i
    else if o = 0xC then
      legal s at_ v i (decide (8 ≤ (bits v 0 5).toNat ∧ (bits v 0 5).toNat ≤ 16))
        (fun s => updGeq s (fun g => { g with log2 := bits v 0 5 }))
    else legal s at_ v i (addrHalf 4096 (o / 4 - 1) v)
        (fun s => updGeq s (fun g => { g with base := putWord g.base (o / 4 - 1) v }))
  else if o = 0x14 then
    legal s at_ v i (decide ((s.geq.wr - v).toNat ≤ geqSize s)) (fun s => updGeq s (fun g => { g with rd := v }))
  else if o = 0x18 then regRefused s at_ v i
  else s

-- ---------------------------------------------------------------- power, Temper, telemetry

/-- The domains whose EN bits a write of PWR_DOM_ENi sets, in ascending order. -/
def enableDomains (s : State) (n : Nat) (v : Word) : State :=
  (List.range 32).foldl (fun s j =>
    if v.getLsbD j && decide (32 * n + j < 217) then enableDomain s (32 * n + j) else s) s

/-- RST_CTL (R516, R521). -/
def rstCtlPut (s : State) (v : Word) : State :=
  let s := updPwr s (fun p => { p with rstCore := bits v 0 4 })
  let s := if v.getLsbD 4 then coreResetReq s (bits v 0 4).toNat else s
  if v.getLsbD 5 then storeResetReq s else s

def putPower (s : State) (i : Initiator) (at_ o : Nat) (v : Word) : State :=
  if o = 0 then budgetWrite s i v
  else if o = 0xC then updPwr s (fun p => { p with event := scClear p.event v })
  else if 0x20 ≤ o ∧ o < 0x3C then enableDomains s ((o - 0x20) / 4) v
  else if o = 0x60 then
    let n := (bits v 0 8).toNat
    legal s at_ v i (decide (70 ≤ n ∧ n ≤ 125)) (fun s => updPwr s (fun p => { p with limit := bits v 0 8 }))
  else if o = 0x68 then
    legal s at_ v i (decide ((bits v 0 5).toNat < 20)) (fun s => updPwr s (fun p => { p with sel := bits v 0 5 }))
  else if o = 0x74 then rstCtlPut s v
  else s

def putTemper (s : State) (o : Nat) (v : Word) : State :=
  if o = 4 then { s with temper := { s.temper with data := v } }
  else if o = 0x18 then { s with temper := { s.temper with sel := bits v 0 12 } }
  else s

/-- Telemetry registers: BASE and SIZE of the ring stand while TRACE_EN is 1 (R558). -/
def putTel (s : State) (i : Initiator) (at_ o : Nat) (v : Word) : State :=
  if o = 0 then (if v.getLsbD 0 then traceEnableTo s else traceStop s)
  else if o = 8 ∨ o = 0xC then updTel s (fun t => { t with tick := putWord t.tick (o / 4 - 2) v })
  else if o = 0x10 then (if v.getLsbD 0 then armAt s s.tel.tick else s)
  else if o = 0x14 then
    legal s at_ v i (decide (v = 0 ∨ 1000 ≤ v.toNat)) (fun s => updTel s (fun t => { t with period := v }))
  else if o = 0x20 then updTel s (fun t => { t with mask := v &&& 0x7FE })
  else if o = 0x24 ∨ o = 0x28 ∨ o = 0x2C then
    if s.tel.traceEn then regRefused s at_ v i
    else if o = 0x2C then
      legal s at_ v i (decide (8 ≤ (bits v 0 5).toNat ∧ (bits v 0 5).toNat ≤ 16))
        (fun s => updTel s (fun t => { t with log2 := bits v 0 5 }))
    else legal s at_ v i (addrHalf 4096 (o / 4 - 9) v)
        (fun s => updTel s (fun t => { t with base := putWord t.base (o / 4 - 9) v }))
  else if o = 0x34 then
    legal s at_ v i (decide ((s.tel.wr - v).toNat ≤ traceSize s)) (fun s => updTel s (fun t => { t with rd := v }))
  else s

-- ---------------------------------------------------------------- cores

/-- TA_DIAG_CTL (R95, R96): START asks for a run; KIND alone sets the field, and a run in progress stays what it
is (log 67). -/
def diagCtlPut (s : State) (i : Initiator) (c : Nat) (v : Word) : State :=
  if v.getLsbD 0 then diagGo s i c (v.getLsbD 1) else updTa s c (fun t => { t with diagKind := v.getLsbD 1 })

def putTa (s : State) (i : Initiator) (c at_ o : Nat) (v : Word) : State :=
  if o = 4 then updTa s c (fun t => { t with event := scClear t.event v })
  else if o = 0xC then
    legal s at_ v i (decide (bits v 0 3 ≠ 0)) (fun s => updTa s c (fun t => { t with replayLimit := bits v 0 3 }))
  else if o = 0x10 then
    (if v.getLsbD 0 then s
     else updTa s c (fun t => { t with syn := { t.syn with info := t.syn.info &&& ~~~(1#32) } }))
  else if o = 0x44 then updTa s c (fun t => { t with skewSel := bits v 0 7 })
  else if o = 0x50 then diagCtlPut s i c v
  else s

/-- PAN_MAP_SEL: SEG, and ENTRY but for its reserved values. -/
def mapSelPut (s : State) (i : Initiator) (c at_ : Nat) (v : Word) : State :=
  let s := updPan s c (fun p => { p with mapSel := putBits p.mapSel 0 (bits v 0 3) })
  legal s at_ v i (decide ((bits v 3 6).toNat < 48))
    (fun s => updPan s c (fun p => { p with mapSel := putBits p.mapSel 3 (bits v 3 6) }))

def putPan (s : State) (i : Initiator) (c at_ o : Nat) (v : Word) : State :=
  if o = 4 then updPan s c (fun p => { p with event := scClear p.event v })
  else if o = 8 then panGroupSet s i c v
  else if o = 0xC then
    let s := updPan s c (fun p => { p with scrubEn := v.getLsbD 0 })
    legal s at_ v i (decide ((bits v 1 5).toNat ≥ 10)) (fun s => updPan s c (fun p => { p with scrubShift := bits v 1 5 }))
  else if o = 0x10 then updPan s c (fun p => { p with winEn := v.getLsbD 0, winWrite := v.getLsbD 1 })
  else if o = 0x18 then
    (if v.getLsbD 31 then s
     else updPan s c (fun p => { p with errAddr := p.errAddr &&& 0x7FFFFFFF }))
  else if o = 0x50 then mapSelPut s i c at_ v
  else s

def putCore (s : State) (i : Initiator) (c at_ o : Nat) (v : Word) : State :=
  match o / 0x1000 with
  | 1 => putTa s i c at_ (o % 0x1000) v
  | 5 => putPan s i c at_ (o % 0x1000) v
  | 8 => if o = 0x8000 ∧ v.getLsbD 0 then vdiagGo s i c else s
  | _ => s

-- ---------------------------------------------------------------- Frame Port, Region Unit

def updFp (s : State) (f : Fp → Fp) : State := { s with fp := f s.fp }

/-- FP_ROUTE_DATA: a BASKET that is not standing is reserved. -/
def routePut (s : State) (i : Initiator) (at_ : Nat) (v : Word) : State :=
  let n := s.fp.routeSel.toNat
  let ok := (bskOf s (bits v 1 4).toNat).standing
  let w : BitVec 23 := bits v 0 23
  let w := if ok then w else putBits w 1 (bits (routeSelected s) 1 4)
  legal (setRoute s n w) at_ v i ok id

def putFp (s : State) (i : Initiator) (at_ o : Nat) (v : Word) : State :=
  let hi := o / 4 % 2
  if o = 0 then updFp s (fun p => { p with enable := v.getLsbD 0, owner := bits v 1 8 })
  else if o = 8 ∨ o = 0xC then updFp s (fun p => { p with descBase := putWord p.descBase hi v })
  else if o = 0x10 ∨ o = 0x14 then updFp s (fun p => { p with poolBase := putWord p.poolBase hi v })
  else if o = 0x18 ∨ o = 0x1C then updFp s (fun p => { p with poolLimit := putWord p.poolLimit hi v })
  else if o = 0x20 ∨ o = 0x24 then updFp s (fun p => { p with releaseAddr := putWord p.releaseAddr hi v })
  else if o = 0x28 then updFp s (fun p => { p with holdLimit := v })
  else if o = 0x40 then updFp s (fun p => { p with routeSel := bits v 0 9 })
  else if o = 0x44 then routePut s i at_ v
  else s

def putRu (s : State) (o : Nat) (v : Word) : State :=
  if 0x10 ≤ o ∧ o < 0x50 then { s with ru := { s.ru with pixcap := mins s.ru.pixcap ((o - 0x10) / 4) v } }
  else if 0x100 ≤ o ∧ o < 0x500 ∧ (o - 0x100) / 4 % 32 < 18 then
    { s with ru := { s.ru with csc := mset 0 s.ru.csc ((o - 0x100) / 4) v } }
  else s

-- ---------------------------------------------------------------- Plait links

/-- A granule that R433 allows a window of kind `kind`. -/
def granuleOk (kind : Bool) (g : Nat) : Bool :=
  if kind then decide (12 ≤ g ∧ g ≤ 30) else decide (9 ≤ g ∧ g ≤ 23)

/-- PLT_WIN_CTL: an open window takes the write that closes it (R434); only the Forge sets ENGINE. -/
def winCtlPut (s : State) (i : Initiator) (l w at_ : Nat) (v : Word) : State :=
  let x := winOf s l w
  let g := (bits v 5 5).toNat
  let kind := v.getLsbD 1
  if (x.opened && v.getLsbD 0) || (v.getLsbD 10 && !byForge i) then regRefused s at_ v i
  else
    let ok := granuleOk kind g
    let s := setWin s l w { x with
      opened := v.getLsbD 0, kind := kind, perm := bits v 2 3, engine := v.getLsbD 10
      g := if ok then bits v 5 5 else x.g
      late := if v.getLsbD 0 then 0 else x.late }
    legal s at_ v i ok id

def winMapPut (s : State) (i : Initiator) (l w at_ : Nat) (v : Word) : State :=
  let x := winOf s l w
  let n := (bits v 10 11).toNat
  let ok := decide (1 ≤ n ∧ n ≤ 1024 ∧ (bits v 0 10).toNat + n ≤ 1024)
  legal (setWin s l w { x with first := bits v 0 10, count := if ok then bits v 10 11 else x.count }) at_ v i
    ok id

def winOwnerPut (s : State) (i : Initiator) (l w at_ : Nat) (v : Word) : State :=
  let x := winOf s l w
  let ok := x.kind || v.getLsbD 12
  legal (setWin s l w { x with
    owner := bits v 0 12, owned := if ok then v.getLsbD 12 else x.owned, ac := bits v 13 6
    acen := v.getLsbD 19, acCore := bits v 20 4 }) at_ v i ok id

def putWin (s : State) (i : Initiator) (l w at_ o : Nat) (v : Word) : State :=
  if o = 0 then winCtlPut s i l w at_ v
  else if o = 0xC then s
  else if (winOf s l w).opened then regRefused s at_ v i
  else if o = 4 then winMapPut s i l w at_ v
  else winOwnerPut s i l w at_ v

/-- LNK_CTL: AUTO, ENABLE, and a request for RETRAIN (R417, R443). -/
def lnkCtlPut (s : State) (l : Nat) (v : Word) : State :=
  let s := updLink s l (fun k => { k with auto := v.getLsbD 1 })
  let s := if v.getLsbD 0 then linkEnableTo s l
    else if (linkOf s l).enable then linkDisableTo s l else s
  if v.getLsbD 2 then linkRetrain s l else s

def putLink (s : State) (i : Initiator) (l at_ o : Nat) (v : Word) : State :=
  if o = 0 then lnkCtlPut s l v
  else if o = 8 then updLink s l (fun k => { k with event := scClear k.event v })
  else if o = 0x30 then
    legal s at_ v i (decide (v.toNat % 4096 = 0)) (fun s => updLink s l (fun k => { k with outBase := v }))
  else if 0x60 ≤ o ∧ o < 0x70 then
    updLink s l (fun k => { k with msgData := mset 0 k.msgData ((o - 0x60) / 4) v })
  else if o = 0x70 then
    (if v.getLsbD 0 then pltMsgGo s i l (v.getLsbD 1)
     else updLink s l (fun k => { k with msgForge := v.getLsbD 1 }))
  else if 0x1000 ≤ o ∧ o < 0x1400 then putWin s i l ((o - 0x1000) / 16) at_ (o % 16) v
  else if o = 0x2000 then updLink s l (fun k => { k with xtSel := bits v 0 10 })
  else if o = 0x2004 then updLink s l (fun k => { k with xtLo := v })
  else if o = 0x2008 then xtCommit s i l v
  else s

-- ---------------------------------------------------------------- Ingot Store

def putStore (s : State) (i : Initiator) (at_ o : Nat) (v : Word) : State :=
  if o = 0 then (if v.getLsbD 0 then storeMount s 0 [] else storeUnmount s)
  else if o = 8 then updStore s (fun t => { t with event := scClear t.event v })
  else if o = 0xC then
    legal s at_ v i (decide (v.toNat ≥ 100000000)) (fun s => updStore s (fun t => { t with commitTicks := v }))
  else s

-- ---------------------------------------------------------------- the whole space

/-- An accepted write of the register at `o`; read-only registers take none (R10). -/
def putReg (s : State) (i : Initiator) (o : Nat) (v : Word) : State :=
  if o < 0x100000 then s
  else if o < 0x200000 then putMailbox s i o (o - 0x100000) v
  else if o < 0x400000 then putCp s i o (o - 0x200000) v
  else if o < 0x600000 then putAtu s i o (o - 0x400000) v
  else if o < 0x800000 then (if o = 0x600000 then fuNotify [] s else s)
  else if o < 0xA00000 then putGeq s i o (o - 0x800000) v
  else if o < 0xC00000 then putPower s i o (o - 0xA00000) v
  else if o < 0xE00000 then putTemper s (o - 0xC00000) v
  else if o < 0x1000000 then putTel s i o (o - 0xE00000) v
  else if o < 0x1100000 then putCore s i ((o - 0x1000000) / 0x10000) o (o % 0x10000) v
  else if o < 0x1400000 then s
  else if o < 0x1401000 then putFp s i o (o - 0x1400000) v
  else if o < 0x1500000 then putRu s (o - 0x1401000) v
  else if o < 0x1600000 then putLink s i ((o - 0x1500000) / 0x80000) o (o % 0x80000) v
  else if o < 0x1700000 then s
  else putStore s i o (o - 0x1700000) v

-- ---------------------------------------------------------------- twin writes (R11, R531)

/-- A completed twin write. -/
def twDone (r : TwReg) (s : State) (i : Initiator) (p : Twin) : State :=
  match r with
  | .spare c => spareCtlDone s i c p.value
  | .mapCtl c => panMapDone s i c p.value
  | .atuCtl => atuCtlDone s p.value
  | .bskReset b => bskResetDone s i b p.value
  | .lnkReset l => linkResetDone s l p.value
  | .eraseArm => eraseArmDone s p.value
  | .forceOff => forceOffDone s i p.value
  | .commit => temperTry s i p.value p.latched

/-- A write that arrives at the complement address of `r`. -/
def twFinish (r : TwReg) (s : State) (i : Initiator) (v : Word) : State :=
  gated s (twOff r) v i (mayWrite i (twOff r)) (regDom (twOff r)) (fun s =>
    match twComplement s (twOff r) i v with
    | (some p, s) => twDone r s i p
    | (none, s) => s)

/-- A write that arrives at the address of `r`: TMP_COMMIT's latches TMP_DATA (R539). -/
def twBegin (r : TwReg) (s : State) (i : Initiator) (v : Word) : State :=
  gated s (twOff r) v i (mayWrite i (twOff r)) (regDom (twOff r)) (fun s =>
    twValue (twExpire s (twOff r)) (twOff r) i v s.temper.data)

-- ---------------------------------------------------------------- an access as it arrives

/-- A 32-bit aligned write (R9, R525 to R527). -/
def regWrite (s : State) (i : Initiator) (o : Nat) (v : Word) : State :=
  if 0x280000 ≤ o ∧ o < 0x284000 then doorbell i (BitVec.ofNat 12 ((o - 0x280000) / 4)) v [] s
  else match twComplAt o with
    | some r => twFinish r s i v
    | none => match twAt o with
      | some r => twBegin r s i v
      | none =>
        if (rdReg s i o).isNone then regReserved s o v i
        else gated s o v i (mayWrite i o) (regDom o) (fun s => putReg s i o v)

/-- The word that holds an access's address. -/
def wordOff (o : RegOff) : Nat := o.toNat / 4 * 4

/-- An access of another size or alignment is not performed (R9). -/
def plainWrite (a : Access) (s : State) (f : State → State) : State :=
  if plainAccess a.off a.size then f s else regRefused s a.off.toNat a.value a.init

/-- The sequence-cleared registers (R528). -/
def isSc (o : Nat) : Bool :=
  decide (o = 0x200010 ∨ o = 0xA0000C ∨ o = 0x1700008 ∨ o = linkBase 0 + 8 ∨ o = linkBase 1 + 8 ∨
    (0x1000000 ≤ o ∧ o < 0x1100000 ∧ (o % 0x10000 = 0x1004 ∨ o % 0x10000 = 0x5004)))

-- ---------------------------------------------------------------- reads (R529, R533)

/-- The LO words of the pairs whose HI word follows. -/
def isLo (o : Nat) : Bool :=
  decide (o = 0x10 ∨ o = 0x400018 ∨ o = 0x400024 ∨ o = 0x800004 ∨ o = 0xE00008 ∨ o = 0xE00018 ∨
    o = 0xE00024 ∨ (0xE01000 ≤ o ∧ o < 0xE02000 ∧ o % 8 = 0) ∨
    (0x200100 ≤ o ∧ o < 0x200280 ∧ o % 16 = 0) ∨
    (0x210000 ≤ o ∧ o < 0x250000 ∧ (o % 64 = 8 ∨ o % 64 = 0x1C)) ∨
    o = 0x1400008 ∨ o = 0x1400010 ∨ o = 0x1400018 ∨ o = 0x1400020 ∨ o = 0x1700028 ∨
    o = linkBase 0 + 0x2004 ∨ o = linkBase 1 + 0x2004)

def latchKey (o : Nat) (i : Initiator) : Nat := 4 * o + initNo i

def setLatch (s : State) (k : Nat) (v : Option Word) : State :=
  { s with port := { s.port with latch := mset none s.port.latch k v } }
def answer (s : State) (v : Word) : State := { s with port := { s.port with rdata := v } }

/-- A 32-bit aligned read: a LO word latches its HI word for the initiator, and the next read of the HI word
returns the latch and releases it. -/
def pairRead (s : State) (i : Initiator) (o : Nat) : State :=
  if isLo o then
    answer (setLatch s (latchKey (o + 4) i) (some (regRead s i (o + 4)))) (regRead s i o)
  else match mget none s.port.latch (latchKey o i) with
    | some v => answer (setLatch s (latchKey o i) none) v
    | none => answer s (regRead s i o)

/-- GEQ_LOST, the one clear-on-read register of the block space (R10, R359). -/
def offGeqLost : Nat := 0x800018

def clearRead (s : State) (i : Initiator) (o : Nat) : State :=
  let s := pairRead s i o
  if o = offGeqLost ∧ byHostForge i then updGeq s (fun g => { g with lost := 0 }) else s

/-- A read as it arrives; one of another size or alignment returns 0 (R9). -/
def plainRead (a : ReadAccess) (s : State) : State :=
  if plainAccess a.off a.size then clearRead s a.init a.off.toNat
  else regRefused (answer s 0) a.off.toNat 0 a.init

-- ---------------------------------------------------------------- voted registers (R10, R532)

/-- The TV bits of the register at `o`. -/
def tvMask (o : Nat) : Word :=
  if o = 0xC then 0xFFFF
  else if 0x200800 ≤ o ∧ o < 0x200C00 then
    (if o % 64 = 0 then 3 else if o % 64 = 4 ∨ o % 64 = 8 then 0xFFFF
     else if 0x20 ≤ o % 64 then 0xFFFFFFFF else 0)
  else if 0x210000 ≤ o ∧ o < 0x250000 then (if o % 64 = 0 then 0x1F else 0)
  else if o = 0x400014 then 0x7FFFFF
  else if o = 0x400018 ∨ o = 0x40001C then 0xFFFFFFFF
  else if 0xA00020 ≤ o ∧ o < 0xA0003C then (if o = 0xA00038 then 0x01FFFFFF else 0xFFFFFFFF)
  else if 0xC04000 ≤ o ∧ o < 0xC08000 then 0xFFFFFFFF
  else if 0x1000000 ≤ o ∧ o < 0x1100000 then
    (if o % 0x10000 = 0x1040 then 0x3F3F3F3F else if o % 0x10000 = 0x5008 then 0xFFFF
     else if o % 0x10000 = 0x5010 then 3 else if o % 0x10000 = 0x5054 then 0x1FFF else 0)
  else if o = 0x1400044 then 0x7FFFFF
  else 0

/-- The Temper word whose shadow the register at `o` shows. -/
def shadowAt (o : Nat) : Option Nat :=
  if o = 0xC then some 7
  else if 0xC04000 ≤ o ∧ o < 0xC08000 then some ((o - 0xC04000) / 4)
  else none

def setShadow (s : State) (w : Nat) (v : Word) : State :=
  { s with temper := { s.temper with shadow := mset 0 s.temper.shadow w v } }

/-- The voted fields of a context entry: VALID and BASKET; FREE is VALID = 0 (R336). -/
def tvCtx (k : Ctx) (v : Word) : Ctx :=
  { k with
    valid := v.getLsbD 0, basket := bits v 1 4
    state := if v.getLsbD 0 then (if k.state == .free then .stopped else k.state) else .free }

def tvBsk (s : State) (b o : Nat) (v : Word) : State :=
  updBsk s b (fun k =>
    if o = 0 then { k with valid := v.getLsbD 0, standing := v.getLsbD 1 }
    else if o = 4 then { k with cores := bits v 0 16 }
    else if o = 8 then { k with segs := bits v 0 8, rsvd := bits v 8 8 }
    else { k with regions := mset 0 k.regions ((o - 0x20) / 4) v })

def tvSpace (s : State) (o : Nat) (v : Word) : State :=
  let n := s.atu.sel.toNat
  let k := spaceOf s n
  let k := if o = 0x400014 then
      { k with id := bits v 0 20, valid := v.getLsbD 20, engine := v.getLsbD 21, forge := v.getLsbD 22 }
    else { k with root := putWord k.root ((o - 0x400018) / 4) v }
  updAtu s (fun a => { a with slots := mset {} a.slots n k })

def tvCore (s : State) (c o : Nat) (v : Word) : State :=
  if o = 0x1040 then updTa s c (fun t => { t with repairMap := v })
  else updPan s c (fun p =>
    if o = 0x5008 then { p with group := bits v 0 16 }
    else if o = 0x5010 then { p with winEn := v.getLsbD 0, winWrite := v.getLsbD 1 }
    else { p with map := mset 0 p.map (48 * (bits p.mapSel 0 3).toNat + (bits p.mapSel 3 6).toNat) (bits v 0 13) })

/-- The voted bits of the register at `o` hold `v`, with none of the effects of a write. -/
def tvPut (s : State) (o : Nat) (v : Word) : State :=
  match shadowAt o with
  | some w => setShadow s w ((temperWord s w &&& ~~~tvMask o) ||| (v &&& tvMask o))
  | none =>
    if 0x200800 ≤ o ∧ o < 0x200C00 then tvBsk s ((o - 0x200800) / 64) (o % 64) v
    else if 0x210000 ≤ o ∧ o < 0x250000 then updCtx s ((o - 0x210000) / 64) (fun k => tvCtx k v)
    else if 0x400014 ≤ o ∧ o < 0x400020 then tvSpace s o v
    else if 0xA00020 ≤ o ∧ o < 0xA0003C then
      let n := (o - 0xA00020) / 4
      updPwr s (fun p => { p with en := putBits p.en (32 * n) (v &&& tvMask o) ||| domBit 209 })
    else if 0x1000000 ≤ o ∧ o < 0x1100000 then tvCore s ((o - 0x1000000) / 0x10000) (o % 0x10000) v
    else setRoute s s.fp.routeSel.toNat (bits v 0 23)

/-- The reset value of a voted register; maps come from Temper. -/
def tvReset (s : State) (o : Nat) : Word :=
  if 0x1000000 ≤ o ∧ o < 0x1100000 then
    let c := (o - 0x1000000) / 0x10000
    let p := (coreOf s c).pan
    let n := 48 * (bits p.mapSel 0 3).toNat + (bits p.mapSel 3 6).toNat
    if o % 0x10000 = 0x1040 then repairBits (temperWord s (0x10 + c))
    else if o % 0x10000 = 0x5008 then 0xFFFF
    else if o % 0x10000 = 0x5054 then (mget 0 (mapOf (mapList s c)) n).setWidth 32
    else 0
  else 0

/-- No two copies agree (R532): a shadow is formed again from the array; any other register takes its reset
value, with TABLE_ECC. -/
def tvLost (s : State) (o : Nat) : State :=
  match shadowAt o with
  | some w => setShadow s w (shadowOf (tword s w))
  | none => post (tvPut s o (tvReset s o)) 0x1D7 (unitOf o) none (BitVec.ofNat 64 o) 0

/-- TV_SCRUB: `f0` to `f2` are the bits in which the three copies differ from what was last written. -/
def tvScrub (s : State) (o : Nat) (f0 f1 f2 : Word) : State :=
  let m := tvMask o
  let v := (rdReg s .forge o).getD 0
  let c (f : Word) : Word := v ^^^ (f &&& m)
  if decide (m = 0) || !domOn s (regDom o) then s
  else if c f0 = c f1 ∧ c f1 = c f2 then (if c f0 = v then s else tvPut s o (c f0))
  else if c f0 = c f1 ∨ c f0 = c f2 then tvPut (count s 263 1) o (c f0)
  else if c f1 = c f2 then tvPut (count s 263 1) o (c f1)
  else tvLost s o

end Sys2Proof.Machine
end

