-- ==== Sys2Proof/Machine/Registers.lean ====
section
/-! DEFINITION. The register commands (00, R8 to R11; 19, R523 to R541), the complement writes that have
rows of their own, and the Temper commit. -/

namespace Sys2Proof.Machine

-- ---------------------------------------------------------------- plain registers

/-- REGISTER_WRITE. -/
def registerWrite (a : Access) (s : State) : State :=
  plainWrite a s (fun s => regWrite s a.init a.off.toNat a.value)

/-- SC_WRITE: a write of a sequence-cleared register. -/
def scWrite (a : Access) (s : State) : State :=
  if isSc (wordOff a.off) then registerWrite a s else s

/-- MW_WRITE: a masked-write register takes bits [15:0] where bits [31:16] select them (R10, R530). No
chapter assigns a masked-write register an offset; each is kept under the offset written (log 40). -/
def mwWrite (a : Access) (s : State) : State :=
  plainWrite a s (fun s =>
    gated s a.off.toNat a.value a.init (notSecp a.init) (regDom a.off.toNat) (fun s =>
      let m : BitVec 16 := bits a.value 16 16
      let old := mget 0 s.port.masked a.off.toNat
      { s with port := { s.port with
          masked := mset 0 s.port.masked a.off.toNat ((old &&& ~~~m) ||| (bits a.value 0 16 &&& m)) } }))

/-- CR_READ. -/
def crRead (a : ReadAccess) (s : State) : State := plainRead a s

/-- LO_READ_LATCH: the read of a pair's LO word, or of its HI word. -/
def loReadLatch (a : ReadAccess) (s : State) : State := plainRead a s

-- ---------------------------------------------------------------- twin writes

/-- TW_VALUE_WRITE. -/
def twValueWrite (a : Access) (s : State) : State :=
  match twAt (wordOff a.off) with
  | some r => plainWrite a s (fun s => twBegin r s a.init a.value)
  | none => s

/-- TW_LAPSE: the limit of a pending twin write has passed. -/
def twLapse (off : RegOff) (s : State) : State := twExpire s off.toNat

/-- A complement write at a register that `p` picks. -/
def twRow (p : TwReg → Bool) (a : Access) (s : State) : State :=
  match twComplAt (wordOff a.off) with
  | some r => if p r then plainWrite a s (fun s => twFinish r s a.init a.value) else s
  | none => s

def isSpare : TwReg → Bool | .spare _ => true | _ => false
def isMapCtl : TwReg → Bool | .mapCtl _ => true | _ => false
def isBskReset : TwReg → Bool | .bskReset _ => true | _ => false
def isLnkReset : TwReg → Bool | .lnkReset _ => true | _ => false

/-- ATU_BW_WRITE. -/
def atuBwWrite (a : Access) (s : State) : State :=
  if 0x400080 ≤ wordOff a.off ∧ wordOff a.off < 0x4000C0 then registerWrite a s else s

-- ---------------------------------------------------------------- the commands

def execRegisterWrite (a : Access) (s : State) : Out := .next (registerWrite a s)
def execScWrite (a : Access) (s : State) : Out := .next (scWrite a s)
def execCrRead (a : ReadAccess) (s : State) : Out := .next (crRead a s)
def execMwWrite (a : Access) (s : State) : Out := .next (mwWrite a s)
def execLoReadLatch (a : ReadAccess) (s : State) : Out := .next (loReadLatch a s)
def execTwValueWrite (a : Access) (s : State) : Out := .next (twValueWrite a s)
def execTwLapse (off : RegOff) (s : State) : Out := .next (twLapse off s)
def execTvScrub (off : RegOff) (f0 f1 f2 : Word) (s : State) : Out := .next (tvScrub s off.toNat f0 f1 f2)
def execSpareSwitch (a : Access) (s : State) : Out := .next (twRow isSpare a s)
def execMapOut (a : Access) (s : State) : Out := .next (twRow isMapCtl a s)
def execAtuBwWrite (a : Access) (s : State) : Out := .next (atuBwWrite a s)
def execAtuDisable (a : Access) (s : State) : Out := .next (twRow (· == .atuCtl) a s)
def execBasketReset (a : Access) (s : State) : Out := .next (twRow isBskReset a s)
def execLinkReset (a : Access) (s : State) : Out := .next (twRow isLnkReset a s)
def execEraseArm (a : Access) (s : State) : Out := .next (twRow (· == .eraseArm) a s)
def execForceOff (a : Access) (s : State) : Out := .next (twRow (· == .forceOff) a s)
def execTemperCommit (a : Access) (s : State) : Out := .next (twRow (· == .commit) a s)
def execTemperCommitDone (failA failB : BitVec 3) (s : State) : Out :=
  .next (if temperDue s then temperCommitDone failA failB s else s)

end Sys2Proof.Machine
end

