-- ==== Sys2Proof/Machine/Dispatch.lean ====
section
/-! DEFINITION. The dispatch of commands: one arm for each row of spec/opcode_table.json. -/

namespace Sys2Proof.Machine

/-- What a command does to everything but the queue. -/
def exec (i : Instr) (s : State) : Host.Outcome State Fault Refusal :=
  match i with
  | .registerWrite a => Sys2Proof.Machine.execRegisterWrite a s
  | .scWrite a => Sys2Proof.Machine.execScWrite a s
  | .crRead a => Sys2Proof.Machine.execCrRead a s
  | .mwWrite a => Sys2Proof.Machine.execMwWrite a s
  | .loReadLatch a => Sys2Proof.Machine.execLoReadLatch a s
  | .twValueWrite a => Sys2Proof.Machine.execTwValueWrite a s
  | .twLapse off => Sys2Proof.Machine.execTwLapse off s
  | .tvScrub off f0 f1 f2 => Sys2Proof.Machine.execTvScrub off f0 f1 f2 s
  | .frameHandle h outside => Sys2Proof.Machine.execFrameHandle h outside s
  | .frameRelease h ecc => Sys2Proof.Machine.execFrameRelease h ecc s
  | .releaseFailed h => Sys2Proof.Machine.execReleaseFailed h s
  | .frameStale h => Sys2Proof.Machine.execFrameStale h s
  | .regionAccept ecc => Sys2Proof.Machine.execRegionAccept ecc s
  | .crop => Sys2Proof.Machine.execCrop s
  | .decode => Sys2Proof.Machine.execDecode s
  | .suppress => Sys2Proof.Machine.execSuppress s
  | .iou => Sys2Proof.Machine.execIou s
  | .regionComplete pipe resp => Sys2Proof.Machine.execRegionComplete pipe resp s
  | .scrubVisit core seg ecc => Sys2Proof.Machine.execScrubVisit core seg ecc s
  | .mapOut a => Sys2Proof.Machine.execMapOut a s
  | .mapOutCopy core seg => Sys2Proof.Machine.execMapOutCopy core seg s
  | .panGroupWrite a => Sys2Proof.Machine.execPanGroupWrite a s
  | .segmentSweep core seg => Sys2Proof.Machine.execSegmentSweep core seg s
  | .panWindowRead init off size ecc => Sys2Proof.Machine.execPanWindowRead init off size ecc s
  | .panWindowWrite init off size data => Sys2Proof.Machine.execPanWindowWrite init off size data s
  | .panWindowWritePerform core => Sys2Proof.Machine.execPanWindowWritePerform core s
  | .remoteRowArrival core tag => Sys2Proof.Machine.execRemoteRowArrival core tag s
  | .remoteReadServe core tag ecc => Sys2Proof.Machine.execRemoteReadServe core tag ecc s
  | .remoteReadRowReturn core tag => Sys2Proof.Machine.execRemoteReadRowReturn core tag s
  | .forgeRowRepair core seg index listed => Sys2Proof.Machine.execForgeRowRepair core seg index listed s
  | .dispatch b ecc => Sys2Proof.Machine.execDispatch b ecc s
  | .listBuild ctx lost => Sys2Proof.Machine.execListBuild ctx lost s
  | .add at_ rd ra rb => Sys2Proof.Machine.execAdd at_ rd ra rb s
  | .sub at_ rd ra rb => Sys2Proof.Machine.execSub at_ rd ra rb s
  | .and at_ rd ra rb => Sys2Proof.Machine.execAnd at_ rd ra rb s
  | .or at_ rd ra rb => Sys2Proof.Machine.execOr at_ rd ra rb s
  | .xor at_ rd ra rb => Sys2Proof.Machine.execXor at_ rd ra rb s
  | .shl at_ rd ra rb => Sys2Proof.Machine.execShl at_ rd ra rb s
  | .shr at_ rd ra rb => Sys2Proof.Machine.execShr at_ rd ra rb s
  | .sra at_ rd ra rb => Sys2Proof.Machine.execSra at_ rd ra rb s
  | .mul at_ rd ra rb => Sys2Proof.Machine.execMul at_ rd ra rb s
  | .divu at_ rd ra rb => Sys2Proof.Machine.execDivu at_ rd ra rb s
  | .remu at_ rd ra rb => Sys2Proof.Machine.execRemu at_ rd ra rb s
  | .min at_ rd ra rb => Sys2Proof.Machine.execMin at_ rd ra rb s
  | .max at_ rd ra rb => Sys2Proof.Machine.execMax at_ rd ra rb s
  | .slt at_ rd ra rb => Sys2Proof.Machine.execSlt at_ rd ra rb s
  | .sltu at_ rd ra rb => Sys2Proof.Machine.execSltu at_ rd ra rb s
  | .addi at_ rd ra imm => Sys2Proof.Machine.execAddi at_ rd ra imm s
  | .subi at_ rd ra imm => Sys2Proof.Machine.execSubi at_ rd ra imm s
  | .andi at_ rd ra imm => Sys2Proof.Machine.execAndi at_ rd ra imm s
  | .ori at_ rd ra imm => Sys2Proof.Machine.execOri at_ rd ra imm s
  | .xori at_ rd ra imm => Sys2Proof.Machine.execXori at_ rd ra imm s
  | .shli at_ rd ra imm => Sys2Proof.Machine.execShli at_ rd ra imm s
  | .shri at_ rd ra imm => Sys2Proof.Machine.execShri at_ rd ra imm s
  | .srai at_ rd ra imm => Sys2Proof.Machine.execSrai at_ rd ra imm s
  | .muli at_ rd ra imm => Sys2Proof.Machine.execMuli at_ rd ra imm s
  | .divui at_ rd ra imm => Sys2Proof.Machine.execDivui at_ rd ra imm s
  | .remui at_ rd ra imm => Sys2Proof.Machine.execRemui at_ rd ra imm s
  | .mini at_ rd ra imm => Sys2Proof.Machine.execMini at_ rd ra imm s
  | .maxi at_ rd ra imm => Sys2Proof.Machine.execMaxi at_ rd ra imm s
  | .slti at_ rd ra imm => Sys2Proof.Machine.execSlti at_ rd ra imm s
  | .sltui at_ rd ra imm => Sys2Proof.Machine.execSltui at_ rd ra imm s
  | .lih at_ rd ra imm => Sys2Proof.Machine.execLih at_ rd ra imm s
  | .srd at_ rd imm => Sys2Proof.Machine.execSrd at_ rd imm s
  | .wset at_ w ra => Sys2Proof.Machine.execWset at_ w ra s
  | .wadd at_ w ra => Sys2Proof.Machine.execWadd at_ w ra s
  | .wrd at_ w rd => Sys2Proof.Machine.execWrd at_ w rd s
  | .beq at_ ra rb target => Sys2Proof.Machine.execBeq at_ ra rb target s
  | .bne at_ ra rb target => Sys2Proof.Machine.execBne at_ ra rb target s
  | .blt at_ ra rb target => Sys2Proof.Machine.execBlt at_ ra rb target s
  | .bge at_ ra rb target => Sys2Proof.Machine.execBge at_ ra rb target s
  | .bltu at_ ra rb target => Sys2Proof.Machine.execBltu at_ ra rb target s
  | .bgeu at_ ra rb target => Sys2Proof.Machine.execBgeu at_ ra rb target s
  | .jmp at_ target => Sys2Proof.Machine.execJmp at_ target s
  | .call at_ target => Sys2Proof.Machine.execCall at_ target s
  | .ret at_ => Sys2Proof.Machine.execRet at_ s
  | .loop at_ lc ra fin => Sys2Proof.Machine.execLoop at_ lc ra fin s
  | .loopi at_ lc fin count => Sys2Proof.Machine.execLoopi at_ lc fin count s
  | .weftEnd at_ => Sys2Proof.Machine.execWeftEnd at_ s
  | .taskEnd ctx => Sys2Proof.Machine.execTaskEnd ctx s
  | .mld at_ o => Sys2Proof.Machine.execMld at_ o s
  | .mst at_ o => Sys2Proof.Machine.execMst at_ o s
  | .mlda at_ o => Sys2Proof.Machine.execMlda at_ o s
  | .msta at_ o => Sys2Proof.Machine.execMsta at_ o s
  | .flush at_ tag all => Sys2Proof.Machine.execFlush at_ tag all s
  | .rwr at_ o => Sys2Proof.Machine.execRwr at_ o s
  | .rrd at_ o => Sys2Proof.Machine.execRrd at_ o s
  | .lineRequestIssue core tag ecc tecc => Sys2Proof.Machine.execLineRequestIssue core tag ecc tecc s
  | .loadLineReturn core tag line => Sys2Proof.Machine.execLoadLineReturn core tag line s
  | .flushReadbackDone core tag resp => Sys2Proof.Machine.execFlushReadbackDone core tag resp s
  | .waitAc at_ ac count reg => Sys2Proof.Machine.execWaitAc at_ ac count reg s
  | .waitT at_ tag f => Sys2Proof.Machine.execWaitT at_ tag f s
  | .waitTm at_ rs f => Sys2Proof.Machine.execWaitTm at_ rs f s
  | .acsig at_ ac core count => Sys2Proof.Machine.execAcsig at_ ac core count s
  | .acsigDelivery core => Sys2Proof.Machine.execAcsigDelivery core s
  | .yield at_ => Sys2Proof.Machine.execYield at_ s
  | .yieldBarrier ctx ecc => Sys2Proof.Machine.execYieldBarrier ctx ecc s
  | .live at_ ra rb => Sys2Proof.Machine.execLive at_ ra rb s
  | .liveClr at_ => Sys2Proof.Machine.execLiveClr at_ s
  | .fence at_ mask => Sys2Proof.Machine.execFence at_ mask s
  | .noYield core => Sys2Proof.Machine.execNoYield core s
  | .tmmI8 at_ o => Sys2Proof.Machine.execTmmI8 at_ o s
  | .tmmI4 at_ o => Sys2Proof.Machine.execTmmI4 at_ o s
  | .tmmL4 at_ o => Sys2Proof.Machine.execTmmL4 at_ o s
  | .tmmF8 at_ o => Sys2Proof.Machine.execTmmF8 at_ o s
  | .tmmBf16 at_ o => Sys2Proof.Machine.execTmmBf16 at_ o s
  | .tmmF16 at_ o => Sys2Proof.Machine.execTmmF16 at_ o s
  | .tmmCI8 at_ o => Sys2Proof.Machine.execTmmCI8 at_ o s
  | .tmmCI4 at_ o => Sys2Proof.Machine.execTmmCI4 at_ o s
  | .tmmCL4 at_ o => Sys2Proof.Machine.execTmmCL4 at_ o s
  | .tmmCF8 at_ o => Sys2Proof.Machine.execTmmCF8 at_ o s
  | .tmmCBf16 at_ o => Sys2Proof.Machine.execTmmCBf16 at_ o s
  | .tmmCF16 at_ o => Sys2Proof.Machine.execTmmCF16 at_ o s
  | .tlw at_ tfmt wt wpi => Sys2Proof.Machine.execTlw at_ tfmt wt wpi s
  | .tlwLoadDone core => Sys2Proof.Machine.execTlwLoadDone core s
  | .tmodeN at_ => Sys2Proof.Machine.execTmodeN at_ s
  | .tmodeW at_ => Sys2Proof.Machine.execTmodeW at_ s
  | .taclr at_ bank a0 nm1 => Sys2Proof.Machine.execTaclr at_ bank a0 nm1 s
  | .lineSlotFill core => Sys2Proof.Machine.execLineSlotFill core s
  | .passVerdict core faults ecc => Sys2Proof.Machine.execPassVerdict core faults ecc s
  | .epilogueRowWrite core slot ecc => Sys2Proof.Machine.execEpilogueRowWrite core slot ecc s
  | .bpld at_ wp soff nm1 => Sys2Proof.Machine.execBpld at_ wp soff nm1 s
  | .bset at_ slot doff => Sys2Proof.Machine.execBset at_ slot doff s
  | .barm at_ slot => Sys2Proof.Machine.execBarm at_ slot s
  | .brun at_ o ecc => Sys2Proof.Machine.execBrun at_ o ecc s
  | .bnorm at_ slot => Sys2Proof.Machine.execBnorm at_ slot s
  | .rcall at_ rs ac => Sys2Proof.Machine.execRcall at_ rs ac s
  | .sapp at_ reg ws nm1 ac => Sys2Proof.Machine.execSapp at_ reg ws nm1 ac s
  | .sappAccept core => Sys2Proof.Machine.execSappAccept core s
  | .vld at_ v w wpi ecc => Sys2Proof.Machine.execVld at_ v w wpi ecc s
  | .vst at_ v w wpi => Sys2Proof.Machine.execVst at_ v w wpi s
  | .vlda at_ v bank row ecc => Sys2Proof.Machine.execVlda at_ v bank row ecc s
  | .vsta at_ v bank row => Sys2Proof.Machine.execVsta at_ v bank row s
  | .vmov at_ o => Sys2Proof.Machine.execVmov at_ o s
  | .vbc at_ fmt vd rs pr => Sys2Proof.Machine.execVbc at_ fmt vd rs pr s
  | .vext at_ fmt rd va lane => Sys2Proof.Machine.execVext at_ fmt rd va lane s
  | .vadd at_ o => Sys2Proof.Machine.execVadd at_ o s
  | .vsub at_ o => Sys2Proof.Machine.execVsub at_ o s
  | .vmul at_ o => Sys2Proof.Machine.execVmul at_ o s
  | .vmulh at_ o => Sys2Proof.Machine.execVmulh at_ o s
  | .vadds at_ o => Sys2Proof.Machine.execVadds at_ o s
  | .vsubs at_ o => Sys2Proof.Machine.execVsubs at_ o s
  | .vmin at_ o => Sys2Proof.Machine.execVmin at_ o s
  | .vmax at_ o => Sys2Proof.Machine.execVmax at_ o s
  | .vabs at_ o => Sys2Proof.Machine.execVabs at_ o s
  | .vneg at_ o => Sys2Proof.Machine.execVneg at_ o s
  | .vshl at_ o => Sys2Proof.Machine.execVshl at_ o s
  | .vshr at_ o => Sys2Proof.Machine.execVshr at_ o s
  | .vand at_ o => Sys2Proof.Machine.execVand at_ o s
  | .vor at_ o => Sys2Proof.Machine.execVor at_ o s
  | .vxor at_ o => Sys2Proof.Machine.execVxor at_ o s
  | .vnot at_ o => Sys2Proof.Machine.execVnot at_ o s
  | .vdot4 at_ o => Sys2Proof.Machine.execVdot4 at_ o s
  | .vfma at_ o vc => Sys2Proof.Machine.execVfma at_ o vc s
  | .vdiv at_ o => Sys2Proof.Machine.execVdiv at_ o s
  | .vsqrt at_ o => Sys2Proof.Machine.execVsqrt at_ o s
  | .vrcp at_ o => Sys2Proof.Machine.execVrcp at_ o s
  | .vrsqrt at_ o => Sys2Proof.Machine.execVrsqrt at_ o s
  | .vexp at_ o => Sys2Proof.Machine.execVexp at_ o s
  | .vcmp at_ fmt fd va vb pr cond => Sys2Proof.Machine.execVcmp at_ fmt fd va vb pr cond s
  | .vsel at_ o => Sys2Proof.Machine.execVsel at_ o s
  | .vcvt at_ o src p => Sys2Proof.Machine.execVcvt at_ o src p s
  | .vrsum at_ o lg => Sys2Proof.Machine.execVrsum at_ o lg s
  | .vrmax at_ o lg => Sys2Proof.Machine.execVrmax at_ o lg s
  | .vrmin at_ o lg => Sys2Proof.Machine.execVrmin at_ o lg s
  | .vrargmax at_ o lg => Sys2Proof.Machine.execVrargmax at_ o lg s
  | .vrargmin at_ o lg => Sys2Proof.Machine.execVrargmin at_ o lg s
  | .vlutB at_ vd va pr off => Sys2Proof.Machine.execVlutB at_ vd va pr off s
  | .vlutF32 at_ vd va pr off => Sys2Proof.Machine.execVlutF32 at_ vd va pr off s
  | .vperm at_ o => Sys2Proof.Machine.execVperm at_ o s
  | .vqld at_ w half q ecc => Sys2Proof.Machine.execVqld at_ w half q ecc s
  | .vtkcfg at_ nq k => Sys2Proof.Machine.execVtkcfg at_ nq k s
  | .vsimI8 at_ va half rt => Sys2Proof.Machine.execVsimI8 at_ va half rt s
  | .vtkrd at_ vd q r => Sys2Proof.Machine.execVtkrd at_ vd q r s
  | .vdw at_ o => Sys2Proof.Machine.execVdw at_ o s
  | .dwWindowFill core => Sys2Proof.Machine.execDwWindowFill core s
  | .vdwCommit core fails ecc => Sys2Proof.Machine.execVdwCommit core fails ecc s
  | .repairHoldRelease core => Sys2Proof.Machine.execRepairHoldRelease core s
  | .diagStart init core => Sys2Proof.Machine.execDiagStart init core s
  | .calibrationStart init core => Sys2Proof.Machine.execCalibrationStart init core s
  | .diagDone core fails => Sys2Proof.Machine.execDiagDone core fails s
  | .calibrationDone core fails => Sys2Proof.Machine.execCalibrationDone core fails s
  | .spareSwitch a => Sys2Proof.Machine.execSpareSwitch a s
  | .forgeRepair core hard fails calFails => Sys2Proof.Machine.execForgeRepair core hard fails calFails s
  | .atuSpaceCommit init => Sys2Proof.Machine.execAtuSpaceCommit init s
  | .pteReadResponse walker resp => Sys2Proof.Machine.execPteReadResponse walker resp s
  | .faultRetry init id => Sys2Proof.Machine.execFaultRetry init id s
  | .faultAbort init id => Sys2Proof.Machine.execFaultAbort init id s
  | .faultTimeout id ecc => Sys2Proof.Machine.execFaultTimeout id ecc s
  | .memResponseTimeout r => Sys2Proof.Machine.execMemResponseTimeout r s
  | .memErrorResponse r => Sys2Proof.Machine.execMemErrorResponse r s
  | .invalidation k outside => Sys2Proof.Machine.execInvalidation k outside s
  | .invalidationAck => Sys2Proof.Machine.execInvalidationAck s
  | .creditAdd => Sys2Proof.Machine.execCreditAdd s
  | .atuBwWrite a => Sys2Proof.Machine.execAtuBwWrite a s
  | .atuDisable a => Sys2Proof.Machine.execAtuDisable a s
  | .contextValidSet init ctx b prio grant => Sys2Proof.Machine.execContextValidSet init ctx b prio grant s
  | .contextValidClear init ctx => Sys2Proof.Machine.execContextValidClear init ctx s
  | .stop init ctx => Sys2Proof.Machine.execStop init ctx s
  | .start init ctx => Sys2Proof.Machine.execStart init ctx s
  | .teardown init ctx => Sys2Proof.Machine.execTeardown init ctx s
  | .reset init ctx => Sys2Proof.Machine.execReset init ctx s
  | .contextTeardown ctx code reason => Sys2Proof.Machine.execContextTeardown ctx code reason s
  | .doorbell init ctx wr outside => Sys2Proof.Machine.execDoorbell init ctx wr outside s
  | .commandFetch ctx ecc => Sys2Proof.Machine.execCommandFetch ctx ecc s
  | .cmdExec ctx => Sys2Proof.Machine.execCmdExec ctx s
  | .copy ctx => Sys2Proof.Machine.execCopy ctx s
  | .fenceWait ctx => Sys2Proof.Machine.execFenceWait ctx s
  | .fenceSignal ctx => Sys2Proof.Machine.execFenceSignal ctx s
  | .region ctx => Sys2Proof.Machine.execRegion ctx s
  | .store ctx => Sys2Proof.Machine.execStore ctx s
  | .barrier ctx => Sys2Proof.Machine.execBarrier ctx s
  | .commandComplete ctx => Sys2Proof.Machine.execCommandComplete ctx s
  | .barrierRelease ctx => Sys2Proof.Machine.execBarrierRelease ctx s
  | .barrierTimeout ctx => Sys2Proof.Machine.execBarrierTimeout ctx s
  | .fenceAtomicResponse resp => Sys2Proof.Machine.execFenceAtomicResponse resp s
  | .fenceReadResponse addr resp ecc outside => Sys2Proof.Machine.execFenceReadResponse addr resp ecc outside s
  | .fenceTimeout ctx => Sys2Proof.Machine.execFenceTimeout ctx s
  | .watchPoll outside => Sys2Proof.Machine.execWatchPoll outside s
  | .fuNotify init outside => Sys2Proof.Machine.execFuNotify init outside s
  | .vectorUnmask init vec => Sys2Proof.Machine.execVectorUnmask init vec s
  | .msiWriteError vec => Sys2Proof.Machine.execMsiWriteError vec s
  | .geqRingWrite ecc => Sys2Proof.Machine.execGeqRingWrite ecc s
  | .geqWriteError => Sys2Proof.Machine.execGeqWriteError s
  | .geqEnable init => Sys2Proof.Machine.execGeqEnable init s
  | .basketCreate => Sys2Proof.Machine.execBasketCreate s
  | .basketDestroy => Sys2Proof.Machine.execBasketDestroy s
  | .contextBind => Sys2Proof.Machine.execContextBind s
  | .contextUnbind => Sys2Proof.Machine.execContextUnbind s
  | .storeGrant ctx grant => Sys2Proof.Machine.execStoreGrant ctx grant s
  | .spaceFlags slot engine forge => Sys2Proof.Machine.execSpaceFlags slot engine forge s
  | .adoptFresh => Sys2Proof.Machine.execAdoptFresh s
  | .adoptResume => Sys2Proof.Machine.execAdoptResume s
  | .adoptPlan f => Sys2Proof.Machine.execAdoptPlan f s
  | .fwUpdate authentic version => Sys2Proof.Machine.execFwUpdate authentic version s
  | .coreReadmit fails vfails calFails => Sys2Proof.Machine.execCoreReadmit fails vfails calFails s
  | .coreRetire => Sys2Proof.Machine.execCoreRetire s
  | .query => Sys2Proof.Machine.execQuery s
  | .mbxUnsupportedOp => Sys2Proof.Machine.execMbxUnsupportedOp s
  | .mbxRspAck init => Sys2Proof.Machine.execMbxRspAck init s
  | .basketValidate init b => Sys2Proof.Machine.execBasketValidate init b s
  | .basketFree init b => Sys2Proof.Machine.execBasketFree init b s
  | .basketDrain init b => Sys2Proof.Machine.execBasketDrain init b s
  | .basketUndrain init b => Sys2Proof.Machine.execBasketUndrain init b s
  | .drainDone b => Sys2Proof.Machine.execDrainDone b s
  | .basketReset a => Sys2Proof.Machine.execBasketReset a s
  | .sliceExpiry ctx => Sys2Proof.Machine.execSliceExpiry ctx s
  | .hostReset => Sys2Proof.Machine.execHostReset s
  | .quietLimitExpiry => Sys2Proof.Machine.execQuietLimitExpiry s
  | .hostQuiet => Sys2Proof.Machine.execHostQuiet s
  | .forgeStart f => Sys2Proof.Machine.execForgeStart f s
  | .standingRestart ctx => Sys2Proof.Machine.execStandingRestart ctx s
  | .sceneSample => Sys2Proof.Machine.execSceneSample s
  | .timeTrigger b entry => Sys2Proof.Machine.execTimeTrigger b entry s
  | .ingotSwitch b badIngots => Sys2Proof.Machine.execIngotSwitch b badIngots s
  | .linkEnable init l => Sys2Proof.Machine.execLinkEnable init l s
  | .linkDisable init l => Sys2Proof.Machine.execLinkDisable init l s
  | .linkRetrainRequest init l => Sys2Proof.Machine.execLinkRetrainRequest init l s
  | .linkReset a => Sys2Proof.Machine.execLinkReset a s
  | .linkDetect l => Sys2Proof.Machine.execLinkDetect l s
  | .linkAlign l skew => Sys2Proof.Machine.execLinkAlign l skew s
  | .alignTimeout l => Sys2Proof.Machine.execAlignTimeout l s
  | .trainFrame l f => Sys2Proof.Machine.execTrainFrame l f s
  | .trainTimeout l => Sys2Proof.Machine.execTrainTimeout l s
  | .retrainTimeout l => Sys2Proof.Machine.execRetrainTimeout l s
  | .linkAutoRestart l => Sys2Proof.Machine.execLinkAutoRestart l s
  | .laneLockLoss l => Sys2Proof.Machine.execLaneLockLoss l s
  | .flitReceive l blocks => Sys2Proof.Machine.execFlitReceive l blocks s
  | .retryRequestTimeout l => Sys2Proof.Machine.execRetryRequestTimeout l s
  | .ackStallTimeout l => Sys2Proof.Machine.execAckStallTimeout l s
  | .apertureLine l => Sys2Proof.Machine.execApertureLine l s
  | .runTimeout l core => Sys2Proof.Machine.execRunTimeout l core s
  | .winWrite l resp ecc => Sys2Proof.Machine.execWinWrite l resp ecc s
  | .winRead l resp => Sys2Proof.Machine.execWinRead l resp s
  | .fenceSig l resp => Sys2Proof.Machine.execFenceSig l resp s
  | .msg l => Sys2Proof.Machine.execMsg l s
  | .completion l => Sys2Proof.Machine.execCompletion l s
  | .transactionTimeout l tag => Sys2Proof.Machine.execTransactionTimeout l tag s
  | .pltMsgGo init l forge => Sys2Proof.Machine.execPltMsgGo init l forge s
  | .windowOpen init l w => Sys2Proof.Machine.execWindowOpen init l w s
  | .windowClose init l w => Sys2Proof.Machine.execWindowClose init l w s
  | .xtCommit init l hi => Sys2Proof.Machine.execXtCommit init l hi s
  | .storeMount badTargets errs => Sys2Proof.Machine.execStoreMount badTargets errs s
  | .storeUnmount => Sys2Proof.Machine.execStoreUnmount s
  | .statusPoll ch ce lun status => Sys2Proof.Machine.execStatusPoll ch ce lun status s
  | .nandOpTimeout ch ce lun => Sys2Proof.Machine.execNandOpTimeout ch ce lun s
  | .nandOpComplete ch ce lun fail => Sys2Proof.Machine.execNandOpComplete ch ce lun fail s
  | .zqCalibrationTimer => Sys2Proof.Machine.execZqCalibrationTimer s
  | .journalCommit => Sys2Proof.Machine.execJournalCommit s
  | .journalAppend ctx => Sys2Proof.Machine.execJournalAppend ctx s
  | .galleryAppend ctx => Sys2Proof.Machine.execGalleryAppend ctx s
  | .journalRead ctx errs => Sys2Proof.Machine.execJournalRead ctx errs s
  | .galleryRead ctx errs => Sys2Proof.Machine.execGalleryRead ctx errs s
  | .search ctx errs => Sys2Proof.Machine.execSearch ctx errs s
  | .commit ctx => Sys2Proof.Machine.execCommit ctx s
  | .ingotWrite ctx => Sys2Proof.Machine.execIngotWrite ctx s
  | .ingotRead ctx errs => Sys2Proof.Machine.execIngotRead ctx errs s
  | .ingotDelete ctx => Sys2Proof.Machine.execIngotDelete ctx s
  | .planWrite ctx p => Sys2Proof.Machine.execPlanWrite ctx p s
  | .format ctx badBlocks => Sys2Proof.Machine.execFormat ctx badBlocks s
  | .moduleOut ctx => Sys2Proof.Machine.execModuleOut ctx s
  | .moduleIn ctx badTargets badBlocks => Sys2Proof.Machine.execModuleIn ctx badTargets badBlocks s
  | .mirrorRebuilt => Sys2Proof.Machine.execMirrorRebuilt s
  | .eraseArm a => Sys2Proof.Machine.execEraseArm a s
  | .eraseArmExpiry => Sys2Proof.Machine.execEraseArmExpiry s
  | .storeRefresh block corrected => Sys2Proof.Machine.execStoreRefresh block corrected s
  | .storeHoursTick => Sys2Proof.Machine.execStoreHoursTick s
  | .vdiagStart init core => Sys2Proof.Machine.execVdiagStart init core s
  | .vdiagDone core fail => Sys2Proof.Machine.execVdiagDone core fail s
  | .packetResend link again => Sys2Proof.Machine.execPacketResend link again s
  | .svcWdog init value => Sys2Proof.Machine.execSvcWdog init value s
  | .forgeWatchdogExpiry => Sys2Proof.Machine.execForgeWatchdogExpiry s
  | .forgeRecovered => Sys2Proof.Machine.execForgeRecovered s
  | .handoverReady => Sys2Proof.Machine.execHandoverReady s
  | .handoverTimeout => Sys2Proof.Machine.execHandoverTimeout s
  | .replaceReminder => Sys2Proof.Machine.execReplaceReminder s
  | .domainOn init d => Sys2Proof.Machine.execDomainOn init d s
  | .powerAck d => Sys2Proof.Machine.execPowerAck d s
  | .pwrSeqTimeout d => Sys2Proof.Machine.execPwrSeqTimeout d s
  | .forceOff a => Sys2Proof.Machine.execForceOff a s
  | .powerPeriod stat dyn => Sys2Proof.Machine.execPowerPeriod stat dyn s
  | .pwrBudgetWrite init v => Sys2Proof.Machine.execPwrBudgetWrite init v s
  | .thermalSample readings selfTestFail => Sys2Proof.Machine.execThermalSample readings selfTestFail s
  | .pllUnlock => Sys2Proof.Machine.execPllUnlock s
  | .pllRelock => Sys2Proof.Machine.execPllRelock s
  | .pllUnlockTimeout => Sys2Proof.Machine.execPllUnlockTimeout s
  | .blockColdReset inputs => Sys2Proof.Machine.execBlockColdReset inputs s
  | .blockWarmReset inputs => Sys2Proof.Machine.execBlockWarmReset inputs s
  | .coreReset init core => Sys2Proof.Machine.execCoreReset init core s
  | .storeReset init => Sys2Proof.Machine.execStoreReset init s
  | .temperCommit a => Sys2Proof.Machine.execTemperCommit a s
  | .temperCommitDone failA failB => Sys2Proof.Machine.execTemperCommitDone failA failB s
  | .snapshotArm init => Sys2Proof.Machine.execSnapshotArm init s
  | .snapshot => Sys2Proof.Machine.execSnapshot s
  | .traceEnable init => Sys2Proof.Machine.execTraceEnable init s
  | .traceLineTimeout => Sys2Proof.Machine.execTraceLineTimeout s
  | .traceLineWrite resp => Sys2Proof.Machine.execTraceLineWrite resp s
  | .powerLoss step torn => Sys2Proof.Machine.execPowerLoss step torn s
  | .quiescenceTimeout => Sys2Proof.Machine.execQuiescenceTimeout s

end Sys2Proof.Machine
end

