-- ==== Sys2Proof/Safety.lean ====
section
/-! DEFINITION. What counts as a safe state of the engine: host memory in its canonical form; and what counts
as a safe run: every step answers a next state. -/

namespace Sys2Proof

/-- Host memory is in its canonical form. -/
abbrev MemCanonical (s : Machine.State) : Prop := Machine.memWf s.mem = true

/-- The step out of `s` neither faults nor is refused. -/
def Runs (s : Machine.State) : Prop := ∃ t, Machine.step s = .next t

/-- A state that `k` steps reach from `s`. -/
def Reaches : Nat → Machine.State → Machine.State → Prop
  | 0, s, t => s = t
  | k + 1, s, t => ∃ u, Machine.step s = .next u ∧ Reaches k u t

end Sys2Proof
end

