-- ==== Sys2Proof/Certificates/Slice0/Obligations.lean ====
section
/-! DEFINITION. The statements about the model. Each says, for every state and operands that meet its
conditions, which next state a command answers; frames and whole-machine rules stand at the end. -/

namespace Sys2Proof.Says

open Sys2Proof.Machine

/-- The command answers the next state `t`. -/
abbrev Goes (i : Instr) (s t : State) : Prop := exec i s = .next t

-- ---------------------------------------------------------------- a bundle of one slot

/-- A slot presented alone to a core that may issue it: the core runs a task within its image, no other slot
of the bundle waits, and the words of the instruction store are readable (R245, R246, R248). -/
structure Solo (s : State) (a : At) : Prop where
  issues : canIssue s a.core.toNat = true
  last : a.more = false
  readable : a.ecc.double = 0
  alone : mget [] s.bundles a.core.toNat = []
  inside : pastImage s a.core.toNat = false
  clocked : s.pwr.lostSince = none

/-- The state in which a bundle of one slot has its effect: no slot is kept back, and the corrected words of
the fetch are counted (R246). -/
abbrev shut (s : State) (a : At) : State :=
  updSeq (setOpen s a.core.toNat []) a.core.toNat (fun q => { q with eccCnt := satAdd q.eccCnt (eccCount a.ecc) })

/-- The core that the slot belongs to, as the bundle finds it. -/
abbrev co (s : State) (a : At) : Core := coreOf (shut s a) a.core.toNat

/-- The parameter store gives a corrected word where the slot reads it (R101). -/
def corrected (s : State) (a : At) (reads : Bool) : State :=
  if reads = true ∧ a.pecc = .single then pstoreSingle s a.core.toNat else s

/-- What the issue of a bundle of one slot does beside the slot's effect: the program counter takes the
branch, the loop-back or the next bundle (R254, R256), and the bundle is counted (R549); `vec` says whether
the slot is the VEC slot. -/
def after (a : At) (vec : Bool) (t : State) (target : Option Nat) : State :=
  let t := updSeq t a.core.toNat (fun q => advance q target)
  let t := countCore t a.core.toNat 1 1
  if vec then countCore t a.core.toNat 12 1 else t

/-- The slot has effect `t` on the state and names bundle `target`, or none. -/
abbrev Issues (i : Instr) (s : State) (a : At) (t : State) (target : Option Nat) : Prop :=
  Goes i s (after a false t target)

/-- A VEC slot that is presented alone, whose words are readable and whose failed attempts stay below the
replay limit (R162, R174). -/
structure VSolo (s : State) (a : VAt) : Prop where
  solo : Solo s a.slot
  words : a.vdouble = none
  attempts : a.fails.toNat < replayLimit (co s a.slot)

/-- The state from which a VEC slot has its effect: corrected words and failed attempts are counted
(R162, R174). -/
def tried (s : State) (a : VAt) : State :=
  let c := a.slot.core.toNat
  vuFailures c (co s a.slot).seq.pc.toNat a.fails.toNat
    (updVu (shut s a.slot) c (fun v => { v with eccCnt := satAdd v.eccCnt a.vsingle.toNat }))

abbrev VIssues (i : Instr) (s : State) (a : VAt) (t : State) : Prop := Goes i s (after a.slot true t none)

end Sys2Proof.Says

open Sys2Proof Sys2Proof.Machine Sys2Proof.Says

-- ================================================================ the control slot (R252 to R258)

/-- Every register-form control instruction writes its result of RA and RB into RD, by the table of R253. -/
def Sys2Proof.Says.ScalarRegisterForms : Prop :=
  ∀ p ∈ ([(Instr.add, fun x y => x + y), (Instr.sub, fun x y => x - y), (Instr.and, fun x y => x &&& y),
      (Instr.or, fun x y => x ||| y), (Instr.xor, fun x y => x ^^^ y),
      (Instr.shl, fun x y => x <<< (y.toNat % 64)), (Instr.shr, fun x y => x >>> (y.toNat % 64)),
      (Instr.sra, fun x y => x.sshiftRight (y.toNat % 64)), (Instr.mul, fun x y => x * y),
      (Instr.divu, fun x y => if y = 0 then BitVec.allOnes 64 else x / y),
      (Instr.remu, fun x y => if y = 0 then x else x % y),
      (Instr.min, fun x y => if x.slt y then x else y), (Instr.max, fun x y => if x.slt y then y else x),
      (Instr.slt, fun x y => if x.slt y then 1 else 0), (Instr.sltu, fun x y => if x.ult y then 1 else 0)] :
      List ((At → SReg → SReg → SReg → Instr) × (DWord → DWord → DWord))),
    ∀ (s : State) (a : At) (rd ra rb : SReg), Solo s a →
      Issues (p.1 a rd ra rb) s a
        (setS (shut s a) a.core.toNat rd (p.2 (sReg (co s a) ra) (sReg (co s a) rb))) none

/-- Every immediate-form control instruction does the same with IMM, sign-extended, in place of RB. -/
def Sys2Proof.Says.ScalarImmediateForms : Prop :=
  ∀ p ∈ ([(Instr.addi, fun x y => x + y), (Instr.subi, fun x y => x - y),
      (Instr.andi, fun x y => x &&& y), (Instr.ori, fun x y => x ||| y), (Instr.xori, fun x y => x ^^^ y),
      (Instr.shli, fun x y => x <<< (y.toNat % 64)), (Instr.shri, fun x y => x >>> (y.toNat % 64)),
      (Instr.srai, fun x y => x.sshiftRight (y.toNat % 64)), (Instr.muli, fun x y => x * y),
      (Instr.divui, fun x y => if y = 0 then BitVec.allOnes 64 else x / y),
      (Instr.remui, fun x y => if y = 0 then x else x % y),
      (Instr.mini, fun x y => if x.slt y then x else y), (Instr.maxi, fun x y => if x.slt y then y else x),
      (Instr.slti, fun x y => if x.slt y then 1 else 0), (Instr.sltui, fun x y => if x.ult y then 1 else 0),
      (Instr.lih, fun x y => x + y <<< 30)] :
      List ((At → SReg → SReg → BitVec 30 → Instr) × (DWord → DWord → DWord))),
    ∀ (s : State) (a : At) (rd ra : SReg) (imm : BitVec 30), Solo s a →
      Issues (p.1 a rd ra imm) s a
        (setS (shut s a) a.core.toNat rd (p.2 (sReg (co s a) ra) (imm.signExtend 64))) none

/-- The arithmetic of the control slot, in both operand forms. -/
def Obligations.ScalarArithmetic : Prop :=
  Says.ScalarRegisterForms ∧ Says.ScalarImmediateForms

/-- SRD reads the special value of its number; WSET, WADD and WRD set, advance and read a w register. -/
def Obligations.SpecialAndRowRegisters : Prop :=
  ∀ (s : State) (a : At), Solo s a →
    (∀ rd imm v, specialValue (shut s a) a.core.toNat imm = some v →
      Issues (.srd a rd imm) s a (setS (shut s a) a.core.toNat rd v) none) ∧
    (∀ w ra, Issues (.wset a w ra) s a (setW (shut s a) a.core.toNat w
      { row := ((sReg (co s a) ra).extractLsb' 0 15).setWidth 16, stride := (sReg (co s a) ra).extractLsb' 16 16 })
      none) ∧
    (∀ w ra, Issues (.wadd a w ra) s a (setW (shut s a) a.core.toNat w
      (wAdvance (wReg (co s a) w) (sReg (co s a) ra).toNat)) none) ∧
    (∀ w rd, Issues (.wrd a w rd) s a (setS (shut s a) a.core.toNat rd
      (((wReg (co s a) w).stride ++ (wReg (co s a) w).row).setWidth 64)) none)

/-- A branch goes to its target when its condition holds and to the next bundle otherwise. -/
def Sys2Proof.Says.Branches : Prop :=
  ∀ p ∈ ([(Instr.beq, fun x y => decide (x = y)), (Instr.bne, fun x y => decide (x ≠ y)),
      (Instr.blt, fun x y => decide (x.toInt < y.toInt)), (Instr.bge, fun x y => decide (y.toInt ≤ x.toInt)),
      (Instr.bltu, fun x y => decide (x.toNat < y.toNat)),
      (Instr.bgeu, fun x y => decide (y.toNat ≤ x.toNat))] :
      List ((At → SReg → SReg → BitVec 13 → Instr) × (DWord → DWord → Bool))),
    ∀ (s : State) (a : At) (ra rb : SReg) (target : BitVec 13), Solo s a →
      Issues (p.1 a ra rb target) s a (shut s a)
        (if p.2 (sReg (co s a) ra) (sReg (co s a) rb) then some target.toNat else none)

/-- JMP branches; CALL pushes the next bundle and branches, and faults STACK with 16 entries; RET pops and
branches, and faults STACK with none. -/
def Sys2Proof.Says.CallsAndReturns : Prop :=
  ∀ (s : State) (a : At), Solo s a →
    (∀ target, Issues (.jmp a target) s a (shut s a) (some target.toNat)) ∧
    (∀ target, (co s a).seq.ret.length < 16 →
      Issues (.call a target) s a (updSeq (shut s a) a.core.toNat (fun q =>
        { q with ret := q.ret ++ [q.pc.setWidth 14 + 1] })) (some target.toNat)) ∧
    (∀ target, 16 ≤ (co s a).seq.ret.length →
      Goes (.call a target) s (seqFault (shut s a) a.core.toNat tfStack 1 slotCtl)) ∧
    (∀ t, (co s a).seq.ret.getLast? = some t →
      Issues (.ret a) s a (updSeq (shut s a) a.core.toNat (fun q => { q with ret := q.ret.dropLast }))
        (some t.toNat)) ∧
    ((co s a).seq.ret = [] → Goes (.ret a) s (seqFault (shut s a) a.core.toNat tfStack 2 slotCtl))

/-- LOOP and LOOPI replace the loop of their register by one with their count, or with a count of 0 go to the
bundle after the body; bounds that R255 refuses are ILLEGAL reason 4; END stops the core's issue, and with it
its protection, its pending LIVE ranges and its watchdog. -/
def Sys2Proof.Says.LoopsAndEnd : Prop :=
  ∀ (s : State) (a : At), Solo s a →
    (∀ p ∈ ([(fun lc fin (r : SReg) _ => Instr.loop a lc r fin, fun r _ => (sReg (co s a) r).setWidth 32),
        (fun lc fin _ n => Instr.loopi a lc fin n, fun _ n => n.setWidth 32)] :
        List ((BitVec 2 → BitVec 13 → SReg → BitVec 20 → Instr) × (SReg → BitVec 20 → Word))),
      ∀ lc fin r n,
        (loopBad (co s a).seq fin = false →
          Issues (p.1 lc fin r n) s a (updSeq (shut s a) a.core.toNat (fun q =>
            let l := q.loops.filter (fun x => decide (x.lc ≠ lc))
            { q with loops := if p.2 r n = 0 then l
              else l ++ [{ lc := lc, first := q.pc + 1, fin := fin, count := p.2 r n }] }))
            (if p.2 r n = 0 then some (fin.toNat + 1) else none)) ∧
        (loopBad (co s a).seq fin = true →
          Goes (p.1 lc fin r n) s (seqFault (shut s a) a.core.toNat tfIllegal 4 slotCtl))) ∧
    Issues (.weftEnd a) s a (updSeq (shut s a) a.core.toNat (fun q =>
      { q with ended := true, wdRun := false, prot := [], livePend := [] })) none

/-- Branches, calls, returns, loops and END. -/
def Obligations.ControlFlow : Prop :=
  Says.Branches ∧ Says.CallsAndReturns ∧ Says.LoopsAndEnd

-- ================================================================ streams and synchronisation (R259 to R278)

/-- A descriptor stream issues when every check of R262 and R274 passes and its tag is free: the tag becomes
ACTIVE with the rows, addresses and counter that its operands name, and the w register advances with WPI. -/
def Sys2Proof.Says.DescriptorStreams : Prop :=
  ∀ p ∈ ([(Instr.mld, false), (Instr.mst, true)] : List ((At → StreamOp → Instr) × Bool)),
    ∀ (s : State) (a : At) (o : StreamOp), Solo s a →
      let k := co s a
      let d := mget {} k.mem.descs o.desc.toNat
      let t := streamTag k o p.2 false
      o.desc.toNat < k.mem.ndesc → descBaseOk d = true → (if p.2 then d.write else d.read) = true →
      0 ≤ ((sReg k o.ro).toNat : Int) + o.nr.toNat * (streamStep k o.rs).toInt →
      (sReg k o.ro).toNat + 512 ≤ d.length.toNat →
      ((sReg k o.ro).toNat : Int) + o.nr.toNat * (streamStep k o.rs).toInt + 512 ≤ d.length.toNat →
      t.a0.toNat % 128 = 0 → (o.nr.toNat = 0 ∨ t.astep.toNat % 128 = 0) →
      spanIn (boundOf (shut s a) a.core.toNat) t.p0 t.pstep (o.nr.toNat + 1) = true →
      (p.2 = false → ∀ i ≤ o.nr.toNat, protectedRow k (tagRow t i) = false) →
      (tagOf (shut s a) a.core.toNat o.tag.toNat).st ≠ .active →
      Issues (p.1 a o) s a
        (postInc (startStream (shut s a) a.core.toNat o.tag.toNat t) a.core.toNat o.w (wReg k o.w) o.wpi
          ((o.nr.toNat + 1 : Nat) * (wReg k o.w).stride.toInt)) none

/-- A stream by absolute virtual address issues the same way; its DESC field is 0 and no descriptor bounds
it. -/
def Sys2Proof.Says.AbsoluteStreams : Prop :=
  ∀ p ∈ ([(Instr.mlda, false), (Instr.msta, true)] : List ((At → StreamOp → Instr) × Bool)),
    ∀ (s : State) (a : At) (o : StreamOp), Solo s a →
      let k := co s a
      let t := streamTag k o p.2 true
      o.desc = 0 → t.a0.toNat % 128 = 0 → (o.nr.toNat = 0 ∨ t.astep.toNat % 128 = 0) →
      spanIn (boundOf (shut s a) a.core.toNat) t.p0 t.pstep (o.nr.toNat + 1) = true →
      (p.2 = false → ∀ i ≤ o.nr.toNat, protectedRow k (tagRow t i) = false) →
      (tagOf (shut s a) a.core.toNat o.tag.toNat).st ≠ .active →
      Issues (p.1 a o) s a
        (postInc (startStream (shut s a) a.core.toNat o.tag.toNat t) a.core.toNat o.w (wReg k o.w) o.wpi
          ((o.nr.toNat + 1 : Nat) * (wReg k o.w).stride.toInt)) none

/-- A remote stream issues when its target core and both row ranges are inside the task and its tag is free;
FLUSH asks for the flush of a tag's store, or of every store of the core. -/
def Sys2Proof.Says.RemoteStreamsAndFlush : Prop :=
  (∀ p ∈ ([(Instr.rwr, true), (Instr.rrd, false)] : List ((At → RemoteOp → Instr) × Bool)),
    ∀ (s : State) (a : At) (o : RemoteOp), Solo s a →
      let k := co s a
      let t := remoteTag k o p.2
      o.core.toNat < (taskCores (shut s a) a.core.toNat).length →
      spanIn (boundOf (shut s a) a.core.toNat) t.p0 t.pstep t.rows = true →
      t.rrow + t.rows ≤ boundOf (shut s a) a.core.toNat →
      (p.2 = false → ∀ i < t.rows, protectedRow k (tagRow t i) = false) →
      (tagOf (shut s a) a.core.toNat o.tag.toNat).st ≠ .active →
      Issues (p.1 a o) s a
        (postInc (startStream (shut s a) a.core.toNat o.tag.toNat t) a.core.toNat o.w (wReg k o.w) o.wpi
          ((o.nr.toNat + 1 : Nat) * (wReg k o.w).stride.toInt)) none) ∧
  (∀ (s : State) (a : At) (tag : TagId) (all : Bool), Solo s a →
    Issues (.flush a tag all) s a
      (updMem (shut s a) a.core.toNat (fun m => if all then flushAll m else flushTag m tag.toNat)) none)

/-- The stream instructions, by descriptor, by absolute address and remote, and FLUSH. -/
def Obligations.StreamSlots : Prop :=
  Says.DescriptorStreams ∧ Says.AbsoluteStreams ∧ Says.RemoteStreamsAndFlush

/-- The synchronisation instructions that wait: each proceeds when its condition holds. WAIT.AC takes its
count from the counter, WAIT.T and WAIT.TM pass when every named tag has the state asked for, FENCE passes
when the classes of its mask are complete, YIELD then stands at the barrier. -/
def Sys2Proof.Says.WaitsProceed : Prop :=
  ∀ (s : State) (a : At), Solo s a →
    let c := a.core.toNat
    let k := co s a
    (∀ (ac : AcId) (count : BitVec 16) (reg : Bool) (n : Nat), (reg = true → count.toNat < 32) →
      n = (if reg then ((sReg k (BitVec.ofNat 5 count.toNat)).setWidth 32).toNat else count.toNat) →
      k.pan.ovf.getLsbD ac.toNat = false → n ≤ (mget 0 k.pan.ac ac.toNat).toNat →
      Issues (.waitAc a ac count reg) s a (updPan (shut s a) c (fun p => { p with
        ac := mset 0 p.ac ac.toNat (mget 0 p.ac ac.toNat - BitVec.ofNat 32 n) })) none) ∧
    (∀ tag f, tagPasses k.mem f tag.toNat = true → Issues (.waitT a tag f) s a (shut s a) none) ∧
    (∀ rs f, (∀ i < 32, (sReg k rs).getLsbD i = true → tagPasses k.mem f i = true) →
      Issues (.waitTm a rs f) s a (shut s a) none) ∧
    (∀ mask, quiet k mask.toNat = true → Issues (.fence a mask) s a (shut s a) none) ∧
    (quiet k 0b011111 = true → Issues (.yield a) s a
      (updSeq (shut s a) c (fun q => { q with run := .atYield, wdRun := false })) none)

/-- ACSIG queues its signal behind the remote writes issued so far; LIVE adds its range to the pending list,
and an empty range adds nothing; LIVE.CLR empties that list. -/
def Sys2Proof.Says.SignalsAndLive : Prop :=
  ∀ (s : State) (a : At), Solo s a →
    let c := a.core.toNat
    let k := co s a
    (∀ (ac : AcId) (core : BitVec 4) (count : BitVec 12), count ≠ 0 →
      core.toNat < (taskCores (shut s a) c).length →
      Issues (.acsig a ac core count) s a (updMem (shut s a) c (fun m => { m with
        signals := m.signals ++ [{ core := core.toNat, ac := ac, count := count.toNat
                                   order := k.mem.nextOrder }] })) none) ∧
    (∀ ra rb, (sReg k rb).toNat ≠ 0 → k.seq.livePend.length < 16 →
      (sReg k ra).toNat + (sReg k rb).toNat ≤ boundOf (shut s a) c →
      Issues (.live a ra rb) s a (updSeq (shut s a) c (fun q =>
        { q with livePend := q.livePend ++ [((sReg k ra).toNat, (sReg k rb).toNat)] })) none) ∧
    (∀ ra rb, (sReg k rb).toNat = 0 → Issues (.live a ra rb) s a (shut s a) none) ∧
    Issues (.liveClr a) s a (updSeq (shut s a) c (fun q => { q with livePend := [] })) none

/-- The instructions of the synchronisation slot. -/
def Obligations.SyncSlots : Prop :=
  Says.WaitsProceed ∧ Says.SignalsAndLive

-- ================================================================ the tensor slot (R283 to R299)

/-- A plain TMM issues its pass when its formats, flags, chain and rows pass the checks of R287 to R289, no
tile load is under way and fewer than 16 passes are uncommitted: the pass takes the shadow's tile and holds
its rows. -/
def Sys2Proof.Says.PlainPasses : Prop :=
  ∀ p ∈ ([(Instr.tmmI8, .i8), (Instr.tmmI4, .i4), (Instr.tmmL4, .l4), (Instr.tmmF8, .f8),
      (Instr.tmmBf16, .bf16), (Instr.tmmF16, .f16)] : List ((At → TmmOp → Instr) × PassFmt)),
    ∀ (s : State) (a : At) (o : TmmOp), Solo s a →
      let c := a.core.toNat
      let k := co s a
      let m := o.mm1.toNat + 1
      let width := nCols k.ta.wale
      let ch : Option Chain := if o.chen then slotChain k.brd o.ch.toNat else none
      let kk := kRows p.2 k.ta.wale
      let src := placement (wReg k o.wa) (itemSize ch o.afmt kk m)
      let bound := boundOf (shut s a) c
      let rows := operandRows k.brd ch src kk m
      fmtReserved o.afmt = false → tmmFlagsBad k.ta.wale p.2 o (nextTile k.ta) = false →
      (o.chen = true → a.pecc ≠ .double ∧ ∃ h, ch = some h ∧
        chainFault k.brd h m width k.ta.wale false o.last (some o.afmt) = none ∧
        (o.last = true →
          epiBound bound h (resultSpan h (wReg k o.wo) m width o.defer) (wReg k o.wx) m width = none ∧
          spanProtected k (resultSpan h (wReg k o.wo) m width o.defer) = false)) →
      (o.linked = true → p.2.integer = false ∧
        ∃ h, slotChain k.brd o.ch.toNat = some h ∧ h.link = true) →
      spanBad bound rows = false → tmmWaits k.ta = false →
      Issues (p.1 a o) s a (issuePass (corrected (shut s a) a o.chen) c {
        no := 0, slot := none
        fmt := p.2, afmt := o.afmt, tile := {}, takesTile := false, wale := k.ta.wale, m := m
        src := .plain src, bank := o.bank, a0 := o.a0.toNat, clr := o.clr, linked := o.linked
        chain := if o.chen || o.linked then some o.ch else none, last := o.last, defer := o.defer
        out := placement (wReg k o.wo) 512, aux := placement (wReg k o.wx) 512, attempts := 0
        held := rows.map Int.toNat ++ tileHeld (nextTile k.ta) }) none

/-- A convolution TMM issues its pass when its format, its reserved bits, its flags, its chain and its descriptor
pass their checks, no result row is protected, the feeder holds its line and fewer than 16 passes are
uncommitted: the descriptor is read unless the feeder keeps it, the line slot is used and the pass takes the
shadow's tile. -/
def Sys2Proof.Says.ConvolutionPasses : Prop :=
  ∀ p ∈ ([(Instr.tmmCI8, .i8), (Instr.tmmCI4, .i4), (Instr.tmmCL4, .l4), (Instr.tmmCF8, .f8),
      (Instr.tmmCBf16, .bf16), (Instr.tmmCF16, .f16)] : List ((At → TmmCOp → Instr) × PassFmt)),
    ∀ (s : State) (a : At) (o : TmmCOp) (x : LineSlot), Solo s a →
      let c := a.core.toNat
      let u := shut s a
      let k := co s a
      let v := sReg k o.rp
      let m := o.mm1.toNat + 1
      let a0 := (bits v 48 9).toNat
      let row := wRow (wReg k o.wd)
      let r := relRow u c row
      let q := convPassOf r row v
      let kk := kRows p.2 false
      let outW := wRow (wReg k o.wo)
      let auxW := wRow (wReg k o.wx)
      let need := needOf (baseOf u c) q m kk
      let ch : Option Chain := if o.chen then slotChain k.brd o.ch.toNat else none
      let outE := ch.bind (fun h => mapBytes h.sfmt)
      fmtReserved o.afmt = false → bits v 57 7 = 0 → k.ta.wale = false → a0 + m ≤ 512 →
      actFits p.2 o.afmt = true → tileFits p.2 (nextTile k.ta).fmt = true → row < boundOf u c →
      (o.last = true → o.chen = true) →
      (o.chen = true → a.pecc ≠ .double ∧ ∃ h, ch = some h ∧
        chainFault k.brd h m 128 false true o.last (some o.afmt) = none ∧ convChainBad h = false) →
      descLost u c row = false →
      convFault q r (convDescOf r) (boundOf u c) m kk o.afmt false false o.last outE
        (match ch with | some h => residBytes h | none => []) outW auxW = none →
      (∀ e, o.last = true → outE = some e →
        (runRows q.desc outW q.y q.x0 m e q.desc.nOut 0).any (protectedRow k) = false) →
      slotFor k.cnv.slots need = some x → tmmWaits k.ta = false →
      Issues (p.1 a o) s a (issuePass (updCore (readDesc (corrected u a o.chen) c row) c (fun k => { k with
          cnv := { k.cnv with
            slots := useSlot k.cnv.slots need
            reuseCnt := if k.cnv.filled = some x then k.cnv.reuseCnt else satAdd k.cnv.reuseCnt 1
            filled := none, wanted := none } })) c {
        no := 0, slot := some x
        fmt := p.2, afmt := o.afmt, tile := {}, takesTile := false, wale := false, m := m
        src := .conv q, bank := o.bank, a0 := a0, clr := o.clr, linked := false
        chain := if o.chen then some o.ch else none, last := o.last, defer := false
        out := { row := outW, stride := 1, size := 512 }
        aux := { row := auxW, stride := 1, size := 512 }, attempts := 0
        held := row :: convRows q m kk ++ tileHeld (nextTile k.ta) }) none

/-- TLW names a tile for the shadow registers; TMODE keeps the mode it finds, or switches it and clears both
tiles once no pass is uncommitted; TACLR clears its bank rows once no earlier pass or epilogue uses them. -/
def Sys2Proof.Says.TilesModesAndClears : Prop :=
  ∀ (s : State) (a : At), Solo s a →
    let c := a.core.toNat
    let k := co s a
    (∀ (tfmt : Fmt) (wt : WReg) (wpi : Bool), fmtReserved tfmt = false → tlwFmtOk tfmt = true →
      wRow (wReg k wt) + tileRows tfmt ≤ boundOf (shut s a) c → (∀ h, k.ta.shadow = some h → h.ready = true) →
      Issues (.tlw a tfmt wt wpi) s a
        (postInc (updTa (shut s a) c (fun t => { t with shadow := some {
          tile := { fmt := tfmt, row := wRow (wReg k wt), wale := t.wale, zero := false }
          ready := false } })) c wt (wReg k wt) wpi (tileRows tfmt)) none) ∧
    (∀ p ∈ [(Instr.tmodeN a, false), (Instr.tmodeW a, true)],
      (k.ta.wale = p.2 → Issues p.1 s a (shut s a) none) ∧
      (k.ta.wale ≠ p.2 → k.ta.passes = [] → Issues p.1 s a
        (updTa (shut s a) c (fun t => { t with wale := p.2, active := {}, shadow := none })) none)) ∧
    (∀ (bank : Bool) (a0 nm1 : BitVec 9), a0.toNat + nm1.toNat + 1 ≤ 512 →
      bankInUse k bank a0.toNat (a0.toNat + nm1.toNat + 1) = false →
      Issues (.taclr a bank a0 nm1) s a
        ((List.range (nm1.toNat + 1)).foldl (fun s i => setBankRow s c bank (a0.toNat + i) 0) (shut s a))
        none)

/-- The tensor slot: plain and convolution passes, tile loads, modes and clears. -/
def Obligations.ArrayPasses : Prop :=
  Says.PlainPasses ∧ Says.ConvolutionPasses ∧ Says.TilesModesAndClears

/-- BPLD copies its rows into the parameter store, BSET takes a valid descriptor into its slot, BARM clears
the records of a slot without pending entries, BRUN starts an invocation over bank rows, and BNORM of a slot
without a chain changes nothing, of one with a chain rewrites the pending rows. -/
def Sys2Proof.Says.BraidEffects : Prop :=
  ∀ (s : State) (a : At), Solo s a →
    let c := a.core.toNat
    let u := shut s a
    let k := co s a
    (∀ (wp : WReg) (soff nm1 : BitVec 7), soff.toNat + nm1.toNat + 1 ≤ 128 →
      let rows := itemRows (placement (wReg k wp) 512) (nm1.toNat + 1)
      let addrs := rows.map (fun r => baseOf u c + r.toNat)
      spanBad (boundOf u c) rows = false → anyBusy k = false → (senseRows u c addrs).1 = false →
      Issues (.bpld a wp soff nm1) s a (updCore (senseRows u c addrs).2 c (fun q => { q with brd := { q.brd with
        pstore := (rows.zipIdx).foldl (fun m x => mset 0 m (soff.toNat + x.2) (relRow u c x.1.toNat))
          k.brd.pstore } })) none) ∧
    (∀ (slot : BitVec 2) (doff : BitVec 12), 16 * doff.toNat + 48 ≤ 65536 → a.pecc ≠ .double →
      chainBadAt k.brd (descAt k.brd doff.toNat) = none → slotBusy k slot = false →
      Issues (.bset a slot doff) s a (updCore (corrected u a true) c (fun q => { q with brd := { q.brd with
        slots := mset {} q.brd.slots slot.toNat
          { valid := true, desc := descAt k.brd doff.toNat } } })) none) ∧
    (∀ slot : BitVec 2, slotBusy k slot = false → mget [] k.brd.pend slot.toNat = [] →
      Issues (.barm a slot) s a (updCore u c (fun q => { q with brd := { q.brd with
        stat := mdel q.brd.stat slot.toNat, rowstat := armEntries q.brd slot.toNat } })) none) ∧
    (∀ (o : BrunOp) (ecc : BankEcc) (ch : Chain), (o.wl = true → o.mm1.toNat < 128) →
      let hi := o.a0.toNat + (if o.wl then 4 * (o.mm1.toNat + 1) else o.mm1.toNat + 1)
      let width := if o.wl then 512 else 128
      let out := resultSpan ch (wReg k o.wo) (o.mm1.toNat + 1) width false
      hi ≤ 512 → a.pecc ≠ .double → slotChain k.brd o.slot.toNat = some ch →
      chainFault k.brd ch (o.mm1.toNat + 1) width o.wl false true none = none →
      epiBound (boundOf u c) ch out (wReg k o.wx) (o.mm1.toNat + 1) width = none →
      spanProtected k out = false → bankPending k o.bank o.a0.toNat hi = false → slotBusy k o.slot = false →
      Issues (.brun a o ecc) s a (updCore (corrected u a true) c (fun x => { x with
        ta := noteBank ecc x.ta
        issueNo := x.issueNo + 1
        invs := x.invs ++ [{
          no := x.issueNo, slot := o.slot, wide := o.wl, float := o.accf, firstAct := 0
          bank := o.bank, lo := o.a0.toNat, hi := hi, rows := brunRows k o
          out := placement (wReg k o.wo) 512, aux := placement (wReg k o.wx) 512
          target := .placed, defer := false }] })) none) ∧
    (∀ slot : BitVec 2, slotChain k.brd slot.toNat = none →
      Issues (.bnorm a slot) s a u none) ∧
    (∀ (slot : BitVec 2) (ch : Chain) (t : State), slotChain k.brd slot.toNat = some ch → a.pecc ≠ .double →
      let l := mget [] k.brd.pend slot.toNat
      let addrs := (l.flatMap pendSpan).map (fun r => baseOf u c + r.toNat)
      spanProtected k (l.flatMap pendSpan) = false → slotBusy k slot = false →
      (∀ r ∈ l.flatMap pendSpan, heldRow k r.toNat = false) → (senseRows u c addrs).1 = false →
      renormAll c slot.toNat ch l (senseRows (corrected u a true) c addrs).2 = (true, t) →
      Issues (.bnorm a slot) s a t none)

/-- A slot that reads the parameter store stops with BRAID_ECC where a word of it cannot be corrected (R101):
BSET, and BNORM of a slot whose chain is set. -/
def Sys2Proof.Says.StoreWordsThatAreLost : Prop :=
  ∀ (s : State) (a : At), Solo s a → a.pecc = .double →
    let c := a.core.toNat
    let k := co s a
    (∀ (slot : BitVec 2) (doff : BitVec 12), 16 * doff.toNat + 48 ≤ 65536 →
      Goes (.bset a slot doff) s (brdFaultAt (shut s a) c tfBraidEcc 1 slot.toNat 0)) ∧
    (∀ (slot : BitVec 2) (ch : Chain), slotChain k.brd slot.toNat = some ch →
      let rows := (mget [] k.brd.pend slot.toNat).flatMap pendSpan
      spanProtected k rows = false → slotBusy k slot = false → (∀ r ∈ rows, heldRow k r.toNat = false) →
      (senseRows (shut s a) c (rows.map (fun r => baseOf (shut s a) c + r.toNat))).1 = false →
      Goes (.bnorm a slot) s (brdFaultAt (shut s a) c tfBraidEcc 1 slot.toNat (stageNo ch 9)))

/-- The tensor slot's instructions of the Braid. -/
def Obligations.BraidSlots : Prop :=
  Says.BraidEffects ∧ Says.StoreWordsThatAreLost

/-- RCALL hands a Region command with the context, Basket and ordinal of its task to the Region Unit, and
SAPP a list of records as they stand to the store; both are refused without their grounds and kept among the
core's outstanding calls. -/
def Obligations.CallsThatLeaveTheCore : Prop :=
  ∀ (s : State) (a : At), Solo s a →
    let c := a.core.toNat
    let u := shut s a
    let k := co s a
    (∀ (rs : SReg) (ac : AcId) (x t : Nat), (sReg k rs).toNat % 64 = 0 → k.seq.calls.length < 16 →
      k.task = some (x, t) →
      Issues (.rcall a rs ac) s a
        (updSeq { u with ru := { u.ru with
          next := u.ru.next + 1
          calls := u.ru.calls ++ [{
            id := u.ru.next, counts := true, ctx := x, basket := (ctxOf u x).basket.toNat
            src := .core c t ac k.seq.ord, req := sReg k rs, block := 0, block2 := 0 }] } } c
          (fun q => { q with calls := q.calls ++ [.region u.ru.next q.ord] })) none) ∧
    (∀ (rs : SReg) (ac : AcId), (sReg k rs).toNat % 64 ≠ 0 →
      Goes (.rcall a rs ac) s (seqFault u c tfIllegal 8 slotTen)) ∧
    (∀ (reg : Bool) (ws : WReg) (nm1 : Byte) (ac : AcId) (x t : Nat), k.task = some (x, t) →
      let p := sappPlace (wReg k ws) reg
      let rows := itemRows p (nm1.toNat + 1)
      let addrs := rows.map (fun r => baseOf u c + r.toNat)
      ((ctxOf u x).grant = true → spanBad (boundOf u c) rows = false → k.seq.calls.length < 16 →
        (senseRows u c addrs).1 = false →
        Issues (.sapp a reg ws nm1 ac) s a
          (updSeq (nextSapp (senseRows u c addrs).2 c) c (fun q => { q with
            calls := q.calls ++ [.append reg p (nm1.toNat + 1)
              (sappRecs u c p (nm1.toNat + 1) (if reg then 320 else 64)) ac q.ord (sappNo u c)] })) none) ∧
      ((ctxOf u x).grant = false →
        Goes (.sapp a reg ws nm1 ac) s (seqFault u c tfIllegal 9 slotTen)))

-- ================================================================ the vector slot (06, R301 to R304)

/-- Every two-source lane instruction whose format is legal writes each enabled lane of VD with its function
of the lanes of VA and VB, leaves the other lanes as they were, and counts its numeric events (R163 to
R166). -/
def Sys2Proof.Says.VectorTwoSources : Prop :=
  ∀ p ∈ ([(Instr.vadd, vecArith, fun f => arith2 f (· + ·) fvAdd),
      (Instr.vsub, vecArith, fun f => arith2 f (· - ·) fvSub),
      (Instr.vmul, vecArith, fun f => arith2 f (· * ·) fvMul),
      (Instr.vmulh, vecInt, fun f x y =>
        intWrap f ((decInt f x * decInt f y).fdiv (2 ^ fmtBits f : Nat))),
      (Instr.vadds, vecInt, fun f x y => intSat f (decInt f x + decInt f y)),
      (Instr.vsubs, vecInt, fun f x y => intSat f (decInt f x - decInt f y)),
      (Instr.vmin, vecArith, fun f => arith2 f min fvMin), (Instr.vmax, vecArith, fun f => arith2 f max fvMax),
      (Instr.vshl, vecInt, fun f x y => pure0 (x * 2 ^ (y % fmtBits f) % 2 ^ fmtBits f)),
      (Instr.vshr, vecInt, fun f x y => intWrap f ((decInt f x).fdiv (2 ^ (y % fmtBits f) : Nat))),
      (Instr.vand, vecInt, fun f => bitsOp f (· &&& ·)), (Instr.vor, vecInt, fun f => bitsOp f (· ||| ·)),
      (Instr.vxor, vecInt, fun f => bitsOp f (· ^^^ ·)),
      (Instr.vdiv, vecFloat, fun f x y => fltRes f (fvDiv (decFloat f x) (decFloat f y)))] :
      List ((VAt → VBin → Instr) × (Fmt → Bool) × (Fmt → Nat → Nat → Nat × NumEv))),
    ∀ (s : State) (a : VAt) (o : VBin), VSolo s a → fmtReserved o.fmt = false → p.2.1 o.fmt = true →
      VIssues (p.1 a o) s a (writeLanes (tried s a) a.slot.core.toNat (co s a.slot) (fmtBits o.fmt) o.pr o.vd
        (fun i => p.2.2 o.fmt (elem (vReg (co s a.slot) o.va) (fmtBits o.fmt) i)
          (elem (vReg (co s a.slot) o.vb) (fmtBits o.fmt) i)))

/-- Every one-source lane instruction does the same with its function of the lane of VA. -/
def Sys2Proof.Says.VectorOneSource : Prop :=
  ∀ p ∈ ([(Instr.vmov, vecAny, fun _ x => pure0 x),
      (Instr.vabs, vecArith, fun f => arith1 f (fun x => (x.natAbs : Int)) Fv.abs),
      (Instr.vneg, vecArith, fun f => arith1 f (fun x => -x) Fv.neg),
      (Instr.vnot, vecInt, fun f x => bitsOp f (fun v _ => ~~~v) x 0),
      (Instr.vsqrt, vecFloat, fun f x => fltRes f (fvSqrt (decFloat f x))),
      (Instr.vrcp, vecFloat, fun f x => fltRes f (fvDiv (fvInt 1) (decFloat f x))),
      (Instr.vrsqrt, vecFloat, fun f x => fltRes f (fvRsqrt (decFloat f x))),
      (Instr.vexp, vecF32, fun _ x => vexpElem x)] :
      List ((VAt → VUn → Instr) × (Fmt → Bool) × (Fmt → Nat → Nat × NumEv))),
    ∀ (s : State) (a : VAt) (o : VUn), VSolo s a → fmtReserved o.fmt = false → p.2.1 o.fmt = true →
      VIssues (p.1 a o) s a (writeLanes (tried s a) a.slot.core.toNat (co s a.slot) (fmtBits o.fmt) o.pr o.vd
        (fun i => p.2.2 o.fmt (elem (vReg (co s a.slot) o.va) (fmtBits o.fmt) i)))

/-- The lane instructions of other shapes: VBC, VEXT, VDOT4, VFMA, VCMP, VSEL, VPERM and VCVT. -/
def Sys2Proof.Says.VectorOtherShapes : Prop :=
  ∀ (s : State) (a : VAt), VSolo s a →
    let c := a.slot.core.toNat
    let k := co s a.slot
    (∀ fmt vd rs pr, vecAny fmt = true → VIssues (.vbc a fmt vd rs pr) s a
      (writeLanes (tried s a) c k (fmtBits fmt) pr vd (fun _ => pure0 ((sReg k rs).toNat % 2 ^ fmtBits fmt)))) ∧
    (∀ fmt rd va lane, vecAny fmt = true → lane.toNat < 4096 / fmtBits fmt →
      VIssues (.vext a fmt rd va lane) s a
        (setS (tried s a) c rd (BitVec.ofNat 64 (elem (vReg k va) (fmtBits fmt) lane.toNat)))) ∧
    (∀ o : VBin, vecDot o.fmt = true → VIssues (.vdot4 a o) s a
      (writeLanes (tried s a) c k 32 o.pr o.vd (dot4 o.fmt k o))) ∧
    (∀ (o : VBin) (vc : VReg), vecFloat o.fmt = true →
      let x (r : VReg) (i : Nat) := decFloat o.fmt (elem (vReg k r) (fmtBits o.fmt) i)
      VIssues (.vfma a o vc) s a (writeLanes (tried s a) c k (fmtBits o.fmt) o.pr o.vd
        (fun i => fltRes o.fmt (fvAdd (fvMul (x o.va i) (x o.vb i)) (x vc i))))) ∧
    (∀ fmt fd va vb pr (cond : BitVec 3), vecArith fmt = true → cond.toNat < 6 →
      VIssues (.vcmp a fmt fd va vb pr cond) s a
        (setF (tried s a) c fd (cmpPred (fmtBits fmt) (fReg k pr) (fReg k fd) (fun i =>
          cmpElem fmt cond.toNat (elem (vReg k va) (fmtBits fmt) i) (elem (vReg k vb) (fmtBits fmt) i))))) ∧
    (∀ o : VBin, vecArith o.fmt = true → VIssues (.vsel a o) s a
      (setV (tried s a) c o.vd (packRow (fmtBits o.fmt) ((List.range (4096 / fmtBits o.fmt)).map (fun i =>
        elem (vReg k (if laneOn (fReg k o.pr) (fmtBits o.fmt) i then o.va else o.vb)) (fmtBits o.fmt) i))))) ∧
    (∀ o : VBin, vecAny o.fmt = true → VIssues (.vperm a o) s a
      (writeLanes (tried s a) c k (fmtBits o.fmt) o.pr o.vd (fun i => pure0 (elem (vReg k o.va) (fmtBits o.fmt)
        (permIdx (fmtBits o.fmt) i (elem (vReg k o.vb) (fmtBits o.fmt) i)))))) ∧
    (∀ (o : VUn) (src : Fmt) (p : BitVec 3), fmtReserved o.fmt = false → fmtReserved src = false →
      cvtPair src o.fmt = true → p.toNat < cvtParts src o.fmt →
      let w := fmtBits o.fmt
      let ws := fmtBits src
      let n := 4096 / max w ws
      VIssues (.vcvt a o src p) s a (writeLanes (tried s a) c k w o.pr o.vd (fun i =>
        if ws < w then cvtElem src o.fmt (elem (vReg k o.va) ws (p.toNat * n + i))
        else if p.toNat * n ≤ i ∧ i < p.toNat * n + n then
          cvtElem src o.fmt (elem (vReg k o.va) ws (i - p.toNat * n))
        else pure0 (elem (vReg k o.vd) w i))))

/-- The vector instructions that compute lane by lane. -/
def Obligations.VectorArithmetic : Prop :=
  Says.VectorTwoSources ∧ Says.VectorOneSource ∧ Says.VectorOtherShapes

/-- A reduction writes the result of each group, and +0 beyond its groups, into VD (R170), and a sum counts
the overflows of its additions (R164); what a VRMAX or VRMIN leaves for an empty group is free (log 18). The
table lookups write the entry that each lane of VA names (R169). -/
def Sys2Proof.Says.VectorReductionsAndLookups : Prop :=
  (∀ p ∈ ([(Instr.vrsum, false, fun f _ l => [sumGroup f (l.map (·.2))]),
      (Instr.vrmax, false, fun f n l => [pure0 (pickGroup f true (Config.emptyGroup n) (l.map (·.2)))]),
      (Instr.vrmin, false, fun f n l => [pure0 (pickGroup f false (Config.emptyGroup n) (l.map (·.2)))]),
      (Instr.vrargmax, true, fun f _ l => [pure0 (argGroup f true l).1, pure0 (argGroup f true l).2]),
      (Instr.vrargmin, true, fun f _ l => [pure0 (argGroup f false l).1, pure0 (argGroup f false l).2])] :
      List ((VAt → VUn → BitVec 4 → Instr) × Bool ×
        (Fmt → Nat → List (Nat × Nat) → List (Nat × NumEv)))),
    ∀ (s : State) (a : VAt) (o : VUn) (lg : BitVec 4), VSolo s a → fmtReserved o.fmt = false →
      redOk o.fmt p.2.1 lg = true →
      let c := a.slot.core.toNat
      let k := co s a.slot
      let w := fmtBits o.fmt
      let g := 2 ^ lg.toNat
      let n := (tried s a).freeCount
      let r := addEv ((List.range (4096 / w / g)).flatMap (fun j =>
        p.2.2 o.fmt (128 * n + j) (groupElems (fReg k o.pr) w g (vReg k o.va) j)))
      VIssues (p.1 a o lg) s a
        (countEv (setV { tried s a with freeCount := n + 1 } c o.vd (packRow 32 r.1)) c r.2)) ∧
  (∀ (s : State) (a : VAt) (vd va : VReg) (pr : FReg) (off : BitVec 12), VSolo s a → a.slot.pecc ≠ .double →
    let k := co s a.slot
    let u := corrected (tried s a) a.slot true
    (16 * off.toNat + 256 ≤ 65536 → VIssues (.vlutB a vd va pr off) s a
      (writeLanes u a.slot.core.toNat k 8 pr vd
        (fun i => pure0 (storeByte k.brd (16 * off.toNat + elem (vReg k va) 8 i))))) ∧
    (16 * off.toNat + 2064 ≤ 65536 → VIssues (.vlutF32 a vd va pr off) s a
      (writeLanes u a.slot.core.toNat k 32 pr vd
        (fun i => pure0 (encFloat 8 (actTable k.brd (16 * off.toNat) (decFloat 8 (elem (vReg k va) 32 i))))))))

/-- Loads and stores of whole registers (R172): VLD and VST against a Pannier row of the task's range, VLDA
and VSTA against a bank row that no earlier pass still writes, or still uses. -/
def Sys2Proof.Says.VectorLoadsAndStores : Prop :=
  ∀ (s : State) (a : VAt), VSolo s a →
    let c := a.slot.core.toNat
    let u := shut s a.slot
    let k := co s a.slot
    (∀ v w wpi ecc, wRow (wReg k w) < boundOf u c →
      let row := baseOf u c + wRow (wReg k w)
      (readRow u c row ecc).2.1 ≠ .double →
      VIssues (.vld a v w wpi ecc) s a
        (postInc (setV (readRow (tried s a) c row ecc).2.2 c v (readRow u c row ecc).1) c w
          (wReg k w) wpi 1)) ∧
    (∀ v w wpi, wRow (wReg k w) < boundOf u c → protectedRow k (wRow (wReg k w)) = false →
      heldRow k (wRow (wReg k w)) = false →
      VIssues (.vst a v w wpi) s a
        (postInc (setRelRow (tried s a) c (wRow (wReg k w)) (vReg k v)) c w (wReg k w) wpi 1)) ∧
    (∀ v bank row ecc, bankPending k bank row.toNat (row.toNat + 1) = false →
      let r : BitVec 10 := BitVec.ofNat 10 (bankKey bank row.toNat)
      (readBank (updTa u c (noteBank [(r, ecc)])) c [r.toNat]).1 = false →
      VIssues (.vlda a v bank row ecc) s a
        (setV (readBank (updTa (tried s a) c (noteBank [(r, ecc)])) c [r.toNat]).2 c v
          (bankRow k bank row.toNat))) ∧
    (∀ v bank row, bankInUse k bank row.toNat (row.toNat + 1) = false →
      VIssues (.vsta a v bank row) s a (setBankRow (tried s a) c bank row.toNat (vReg k v)))

/-- The similarity instructions (R182 to R185) and the depthwise pass (R175, R304): VQLD takes half a row as a
query, VTKCFG empties and arms the lists, VSIM offers the scores of an embedding to every list, VTKRD reads
64 entries of a list, and VDW reads its descriptor and queues its pass once its lines stand in the window. -/
def Sys2Proof.Says.VectorSimilarityAndDepthwise : Prop :=
  ∀ (s : State) (a : VAt), VSolo s a →
    let c := a.slot.core.toNat
    let u := shut s a.slot
    let k := co s a.slot
    (∀ w half q ecc, wRow (wReg k w) < boundOf u c →
      let row := baseOf u c + wRow (wReg k w)
      let x := readRow u c row ecc
      x.2.1 ≠ .double → VIssues (.vqld a w half q ecc) s a
        (updVr (readRow (tried s a) c row ecc).2.2 c (fun u => { u with
          q := mset 0 u.q q.toNat (x.1.extractLsb' (if half then 2048 else 0) 2048) }))) ∧
    (∀ (nq : BitVec 7) (n : BitVec 9), nq ≠ 0 → nq.toNat ≤ 64 → n ≠ 0 → n.toNat ≤ 256 →
      VIssues (.vtkcfg a nq n) s a
        (updVr (tried s a) c (fun u => { u with nq := nq, k := n, armed := true, lists := [] }))) ∧
    (∀ va half rt, k.vu.regs.armed = true → VIssues (.vsimI8 a va half rt) s a
      (updVr (tried s a) c (fun u => simOffers u ((vReg k va).extractLsb' (if half then 2048 else 0) 2048)
        ((sReg k rt).setWidth 32)))) ∧
    (∀ vd q r, VIssues (.vtkrd a vd q r) s a
      (setV (tried s a) c vd (topkRow (mget [] k.vu.regs.lists q.toNat) r.toNat))) ∧
    (∀ o : VdwOp,
      let v := sReg k o.rp
      let m := o.mm1.toNat + 1
      let t := (v.extractLsb' 32 4).toNat
      let j := (v.extractLsb' 45 4).toNat
      let g := 2 ^ o.lg.toNat
      let a0 := (v.extractLsb' 49 9).toNat
      let row := wRow (wReg k o.wd)
      let w0 := wRow (wReg k o.ww)
      let outW := wRow (wReg k o.wo)
      let auxW := wRow (wReg k o.wx)
      let p := dwPassOf (relRow u c row) row v
      let needs := dwNeeds (baseOf u c) p m t o.afmt
      let ch : Option Chain := if o.chen then slotChain k.brd o.ch.toNat else none
      fmtReserved o.afmt = false → v.extractLsb' 58 6 = 0 → row < boundOf u c →
      (senseRows u c [baseOf u c + row]).1 = false →
      dwFault p (relRow u c row) (boundOf u c) m t g j o a0 w0 k.brd ch outW auxW = none →
      (∀ e, o.last = true → ch.bind (fun h => mapBytes h.sfmt) = some e →
        (runRows p.desc outW p.y p.x0 m e (dwChannels p.desc p.b o.afmt) 0).any (protectedRow k) = false) →
      (∀ n ∈ needs, (slotFor k.vu.win n).isSome = true) → k.vu.dw.length < 4 →
      VIssues (.vdw a o) s a
        (updCore (readRows (tried s a) c [baseOf (tried s a) c + row] id) c (fun x => { x with
          issueNo := x.issueNo + 1
          vu := { x.vu with
            win := needs.foldl useSlot x.vu.win
            wanted := none
            dw := x.vu.dw ++ [{
              no := x.issueNo, slots := needs.filterMap (slotFor x.vu.win)
              pc := k.seq.pc.toNat, afmt := o.afmt, conv := p, m := m, t := t, g := g, j := j
              w0 := w0, bank := o.bank, a0 := a0, clr := o.clr
              chain := if o.chen then some o.ch else none, last := o.last
              out := { row := outW, stride := 1, size := 512 }
              aux := { row := auxW, stride := 1, size := 512 }, attempts := 0
              held := row :: dwWeightRows w0 ++ dwRows p m t o.afmt }] } })))

/-- Reductions, lookups, loads and stores, similarity and the depthwise pass. -/
def Obligations.VectorUnit : Prop :=
  Says.VectorReductionsAndLookups ∧ Says.VectorLoadsAndStores ∧ Says.VectorSimilarityAndDepthwise

-- ================================================================ what completes on a core

/-- Lines of streams (R263, R264): with credit and a translation a load line leaves and a store line is
performed, without a translation the line waits or its context takes the fault; a returned load line enters
its row unless its row is held; a flush whose read-back is answered without an error makes its store DONE. -/
def Sys2Proof.Says.StreamLines : Prop :=
  ∀ (s : State) (core : CoreId) (tag : TagId),
    let c := core.toNat
    let tg := tag.toNat
    let t := tagOf s c tg
    let m := (coreOf s c).mem
    (∀ (ecc : RowEcc) (tecc : Ecc) (x : Nat) (k : Task) (u : State), taskOf s c = some (x, k) →
      t.st = .active → (t.kind = .load ∨ t.kind = .store) →
      t.issued < 4 * t.rows → inFlight m < 256 → lineBlocked m t (tagVa t t.issued) = false →
      m.granted = true →
      let q := lineTables s c x t (tagVa t t.issued) tecc
      let y := (ctxOf q x).task.getD k
      (∀ a, lineXlat q c tg t.issued t x y = (.pa a, u) →
        (t.kind = .load → Goes (.lineRequestIssue core tag ecc tecc) s (sendLoad u c tg t.issued t x a)) ∧
        (∀ v, t.kind = .store → storeRow u c tg (t.issued / 4) ecc = (true, v) →
          Goes (.lineRequestIssue core tag ecc tecc) s (sendStore v c tg t.issued (tagOf v c tg) x a))) ∧
      (lineXlat q c tg t.issued t x y = (.wait, u) → Goes (.lineRequestIssue core tag ecc tecc) s u) ∧
      (∀ z, lineXlat q c tg t.issued t x y = (.fault z, u) → Goes (.lineRequestIssue core tag ecc tecc) s
        (xlatFault u x (some c) (tagVa t t.issued) (isStore t) false z))) ∧
    (∀ (line : BitVec 12) (l : InLine), m.lines.find? (fun l => decide (l.tag = tag ∧ l.line = line.toNat)) = some l →
      apertureOf s l.pa.toNat = none →
      let u := updMem s c (fun m => { m with lines := m.lines.erase l })
      (l.dead = false → lineHeld s c tg line.toNat = false →
        Goes (.loadLineReturn core tag line) s (lineBack u c tg line.toNat l.data true)) ∧
      (l.dead = true → Goes (.loadLineReturn core tag line) s u)) ∧
    ((∀ o ∈ m.orphans, o.tag ≠ tg ∨ o.flushPend = false) → t.kind = .store → t.st = .sent →
      t.flushPend = true → t.aperture = [] →
      Goes (.flushReadbackDone core tag .ok) s
        (setTag s c tg { t with st := .done, flushPend := false, ports := [] }))

/-- Rows of remote streams (R230): the next row of a remote write is read at its source unless it has been
already, written at the target core and counted there; while its way is barred the source's next row is read
on ahead (R263). A row of a remote read is read at the target and written at the issuing core, behind what the
core sent to the other, or asked of it, earlier (R16). -/
def Sys2Proof.Says.RemoteRows : Prop :=
  ∀ (s : State) (core : CoreId) (tag : TagId) (d : Nat),
    let c := core.toNat
    let tg := tag.toNat
    let t := tagOf s c tg
    let m := (coreOf s c).mem
    let i := t.issued
    taskCoreAt s c t.rcore = some d → t.st = .active →
    (t.kind = .rwrite → i < t.rows → remoteBehind m t .rwrite = false →
      protectedRow (coreOf s d) (t.rrow + i) = false →
      (heldRow (coreOf s d) (t.rrow + i) = false → i ∈ t.landed →
        Goes (.remoteRowArrival core tag) s (rwrLand s c tg d i)) ∧
      (heldRow (coreOf s d) (t.rrow + i) = false → i ∉ t.landed →
        let r := readRow s c (baseOf s c + tagRow t i) .clean
        r.2.1 ≠ .double →
        Goes (.remoteRowArrival core tag) s (rwrLand
          (setTag r.2.2 c tg { t with landed := i :: t.landed, buf := mset 0 t.buf i r.1 }) c tg d i)) ∧
      (∀ u, heldRow (coreOf s d) (t.rrow + i) = true → t.landed.length < t.rows →
        rwrRead s c tg t.landed.length = (true, u) → Goes (.remoteRowArrival core tag) s u)) ∧
    (∀ ecc : RowEcc, t.kind = .rread → i < t.rows →
      (∀ e ∈ m.tags, e.2.st = .active → e.2.kind = .rread → e.2.rcore = t.rcore → e.2.order < t.order →
        e.2.rows ≤ e.2.issued) → remoteBehind m t .rwrite = false →
      let r := readRow s d (baseOf s d + (t.rrow + i)) ecc
      r.2.1 ≠ .double →
      Goes (.remoteReadServe core tag ecc) s
        (setTag r.2.2 c tg { t with issued := i + 1, buf := mset 0 t.buf i r.1 })) ∧
    (t.kind = .rread → t.landed.length < i → remoteBehind m t .rread = false →
      heldRow (coreOf s c) (tagRow t t.landed.length) = false →
      Goes (.remoteReadRowReturn core tag) s (landRow s c tg t.landed.length true))

/-- A signal whose remote writes are done reaches its counter (R268); a tile watchdog at 20,000 ticks is the
task fault NO_YIELD (R278); a weight load that finishes makes its tile ready (R63). -/
def Sys2Proof.Says.SignalsWatchdogsAndTiles : Prop :=
  ∀ (s : State) (core : CoreId),
    let c := core.toNat
    let k := coreOf s c
    (∀ g, k.mem.signals.find? (sigReady k.mem) = some g →
      Goes (.acsigDelivery core) s
        (deliver (updMem s c (fun m => { m with signals := m.signals.erase g })) c g)) ∧
    (k.seq.wdRun = true → 20000 ≤ k.seq.watchdog → k.ta.repairHold = none →
      Goes (.noYield core) s (seqFault s c tfNoYield 1 slotCtl)) ∧
    (∀ h, k.ta.shadow = some h → h.ready = false →
      let u := senseRows s c ((tileHeld h.tile).map (fun r => baseOf s c + r))
      u.1 = false → Goes (.tlwLoadDone core) s
        (updTa u.2 c (fun t => { t with shadow := some { tile := readTile u.2 c h.tile, ready := true } })))

/-- What completes on a core beside its compute units: lines, remote rows, signals, the watchdog, tiles. -/
def Obligations.StreamEvents : Prop :=
  Says.StreamLines ∧ Says.RemoteRows ∧ Says.SignalsWatchdogsAndTiles

/-- The oldest uncommitted pass (R81), once every earlier-issued access to its bank rows is over (R73): a
verdict that finds its sums right, as the array delivers them, commits it with what its words of the bank
turn out to hold (R72); one that fails makes it run again, or puts the core into repair hold. -/
def Sys2Proof.Says.PassVerdicts : Prop :=
  ∀ (s q : State) (core : CoreId) (faults : List PassFault) (ecc : BankEcc) (p : Pass) (l : List Pass),
    let c := core.toNat
    let k := coreOf s c
    k.ta.repairHold = none → k.ta.passes = p :: l →
    writesBefore k p.no p.bank p.a0 (p.a0 + passSpan p) = false →
    readsBefore k p.no p.bank p.a0 (p.a0 + passSpan p) = false →
    (∀ v, p.src = .conv v → ∃ x, p.slot = some x ∧ k.cnv.slots.contains x = true) →
    senseRows s c (passReads s c p) = (false, q) →
    let live := liveFaults k.ta.repairMap faults
    let acts := actRows q c p
    let sums := passSums p acts.1 live
    let v := verdictOf p acts.1 sums live
    let u := countCore (updTa q c (noteBank ecc)) c 9 v.unchecked
    (v.ok = true → p.clr = true →
      Goes (.passVerdict core faults ecc) s (commitPass (countEv u c acts.2) c p sums)) ∧
    (∀ w, v.ok = true → p.clr = false → readBank u c (passKeys p) = (false, w) →
      Goes (.passVerdict core faults ecc) s (commitPass (countEv w c acts.2) c p sums)) ∧
    (∀ w, v.ok = true → p.clr = false → readBank u c (passKeys p) = (true, w) →
      Goes (.passVerdict core faults ecc) s (coreFault w c tfAccEcc 1 0)) ∧
    (v.ok = false → Goes (.passVerdict core faults ecc) s (failPass u c p v))

/-- The oldest invocation of a slot writes its next Pannier row once every pass with LAST before it has
committed (R99, R118): it starts, at once or deferred (R100, R123), takes the committed and residual rows that
the result row needs, writes it unless it is held, and ends with its last row. A slot without a chain drops
it, and a word of the parameter store that is lost is BRAID_ECC (R101). -/
def Sys2Proof.Says.EpilogueRows : Prop :=
  ∀ (s : State) (core : CoreId) (slot : BitVec 2) (ecc : Ecc) (i : Invocation),
    let c := core.toNat
    let k := coreOf s c
    firstInv k slot = some i → lastBefore k slot i.no = false →
    (slotChain k.brd slot.toNat = none → Goes (.epilogueRowWrite core slot ecc) s (dropInv s c i)) ∧
    (∀ ch, slotChain k.brd slot.toNat = some ch →
      (ecc = .double → Goes (.epilogueRowWrite core slot ecc) s
        (brdFaultAt s c tfBraidEcc 1 slot.toNat (eccStage ch.pro.length (invStages ch i)))) ∧
      (ecc ≠ .double →
        let u := if ecc = .single then pstoreSingle s c else s
        let p := invPlan ch i
        let a := p.addr i.written
        (∀ j v, i.ran = true → heldRow (coreOf u c) a = false →
          takeRows c ch (p.need i.written) i.rows.length i u = (some j, v) →
          let w := setRelRow v c a (p.data i.written j.results)
          Goes (.epilogueRowWrite core slot ecc) s
            (if p.count ≤ i.written + 1 then dropInv w c i
              else setInv w c i { j with written := i.written + 1 })) ∧
        (∀ d, i.ran = false → epiPlan (coreOf u c).brd ch i = (if d then .defer else .whole) →
          let r := startInv u c ch i d
          Goes (.epilogueRowWrite core slot ecc) s (writeInvRow r.2 c ch i r.1))))

/-- A wanted line enters the feeder (R148) or the window of the depthwise path (R179) once a slot is free;
the oldest depthwise pass commits after its failed attempts are counted (R180), once every earlier-issued
access to its bank rows is over (R73). -/
def Sys2Proof.Says.LinesAndDepthwiseCommit : Prop :=
  ∀ (s : State) (core : CoreId),
    let c := core.toNat
    let k := coreOf s c
    (∀ n l u, k.cnv.wanted = some n → fillSlot (feederHeld k) k.cnv.slots n = some l →
      senseRows s c n.rows = (false, u) →
      Goes (.lineSlotFill core) s (updCore u c (fun k => { k with cnv := { k.cnv with
        slots := l, wanted := none, filled := some n, fillCnt := satAdd k.cnv.fillCnt 1 } }))) ∧
    (∀ n l u, k.vu.wanted = some n → fillSlot (windowHeld k) k.vu.win n = some l →
      senseRows s c n.rows = (false, u) →
      Goes (.dwWindowFill core) s (updVu u c (fun v => { v with win := l, wanted := none }))) ∧
    (∀ (fails : BitVec 4) (ecc : BankEcc) p l u, k.ta.repairHold = none → k.vu.dw = p :: l →
      writesBefore k p.no p.bank p.a0 (p.a0 + dwSpan p) = false →
      readsBefore k p.no p.bank p.a0 (p.a0 + dwSpan p) = false →
      senseRows s c ((dwWeightRows p.w0).map (fun r => baseOf s c + r)) = (false, u) →
      fails.toNat < replayLimit k →
      let w := updTa (vuFailures c p.pc fails.toNat u) c (noteBank ecc)
      (p.clr = true → Goes (.vdwCommit core fails ecc) s (dwCommit w c p)) ∧
      (∀ x, p.clr = false → readBank w c (dwKeys p) = (false, x) →
        Goes (.vdwCommit core fails ecc) s (dwCommit x c p)))

/-- What completes on the compute units: verdicts, rows of epilogues, lines, depthwise passes. -/
def Obligations.ComputeEvents : Prop :=
  Says.PassVerdicts ∧ Says.EpilogueRows ∧ Says.LinesAndDepthwiseCommit

-- ================================================================ Frame Port and Region Unit (07)

/-- FRAME_HANDLE (R188, R189): a handle whose descriptor passes every check, whose stream has a valid route
and for which table and rings have room enters the table and its template's commands enter their rings; one
that the port is disabled or has no room for is dropped; one that fails a check or has no valid route is
rejected; one that the table holds is reported and nothing else (R192). -/
def Sys2Proof.Says.FrameHandles : Prop :=
  ∀ (s : State) (h : Word) (outside : List Host.Cell),
    let u := { s with mem := wrCells s.mem outside }
    let d := frameDesc u h
    let r := routeOf u (descStream d)
    let t := mget [] u.fp.templates (bits r 5 6).toNat
    (frameOf u h = none →
      (s.fp.enable = true → descOk u h d = true → r.getLsbD 0 = true →
        s.fp.table.length < 4096 → templateFits u t = true →
        Goes (.frameHandle h outside) s (t.foldl (templatePut h (frameDescAddr u.fp h))
          (trace (count { u with fp := { u.fp with table := u.fp.table ++ [{
              handle := h, stream := bits d 32 16
              st := if ownedByUs u d then .owned else .borrowed
              basket := bits r 1 4, relCtx := bits r 11 12, refs := 0, armed := false, tick := now u
              fence := doneFence d }] } } 264 1)
            9 srcFp none 0 (BitVec.ofNat 128 (h.toNat + descStream d * 2 ^ 32))))) ∧
      (s.fp.enable = true → descOk u h d = true → r.getLsbD 0 = true →
        (4096 ≤ s.fp.table.length ∨ templateFits u t = false) →
        Goes (.frameHandle h outside) s (frameDrop u h d)) ∧
      (s.fp.enable = false → Goes (.frameHandle h outside) s (frameDrop u h d)) ∧
      (s.fp.enable = true → descOk u h d = false →
        Goes (.frameHandle h outside) s (frameReject u 0x130 h d)) ∧
      (s.fp.enable = true → descOk u h d = true → r.getLsbD 0 = false →
        Goes (.frameHandle h outside) s (frameReject u 0x131 h d))) ∧
    (frameOf u h ≠ none → Goes (.frameHandle h outside) s (fpPost u 0x132 h))

/-- FRAME_RELEASE (R193): an armed entry without references raises its done fence, writes its release or
reports FRAME_NOT_OWNER, and leaves the table; a handle that the table does not hold is reported, and an entry
whose word is lost is freed (R488); RELEASE_FAILED (R196) is reported; FRAME_STALE (R194): an entry past
FP_HOLD_LIMIT becomes stale and armed, with its entry. -/
def Sys2Proof.Says.FrameReleases : Prop :=
  ∀ (s : State) (h : Word),
    (∀ e ecc, frameOf s h = some e → e.armed = true → e.refs = 0 → ecc ≠ .double →
      let u := frameSignal (tableEcc s srcFp none ecc) e.fence
      let v := if entryOwned e then { u with mem := wr32 u.mem u.fp.releaseAddr.toNat h }
        else if e.fence.isNone then fpPost u 0x134 h else u
      Goes (.frameRelease h ecc) s
        { v with fp := { v.fp with table := v.fp.table.filter (fun x => decide (x.handle ≠ h)) } }) ∧
    (∀ e, frameOf s h = some e → Goes (.frameRelease h .double) s
      (frameFree (tableEcc s srcFp none .double) h)) ∧
    (∀ ecc, frameOf s h = none → Goes (.frameRelease h ecc) s (fpPost s 0x134 h)) ∧
    Goes (.releaseFailed h) s (post s 0x136 srcFp none (h.setWidth 64) 0) ∧
    (∀ e, frameOf s h = some e → s.fp.holdLimit ≠ 0 → s.fp.holdLimit.toNat < (now s - e.tick).toNat →
      (e.st = .owned ∨ e.st = .borrowed) →
      Goes (.frameStale h) s (fpPost (updFrames s (fun x => if x.handle = h then
        { x with st := if e.st = .owned then .staleOwned else .staleBorrowed, armed := true } else x))
          0x135 h))

/-- The Frame Port: handles, releases and stale frames. -/
def Obligations.Frames : Prop :=
  Says.FrameHandles ∧ Says.FrameReleases

/-- REGION and REGION_ACCEPT (R343, R209): a ring's command is handed over, and the oldest command handed
over whose block can be read takes a reference of the frame it names and enters its pipeline's queue, or is
REGION_BAD with the reason that R210 gives, or 8 where its word of the queue is lost (R488). -/
def Obligations.RegionSubmission : Prop :=
  (∀ (s : State) (ctx : CtxId) (req : DWord), (ctxOf s ctx.toNat).cur = some (.region req) →
    canStart s ctx.toNat = true →
    let u := beginCmd s ctx.toNat .running
    ringRegion u ctx.toNat = false →
    Goes (.region ctx) s { u with ru := { u.ru with
      next := u.ru.next + 1
      calls := u.ru.calls ++ [{
        id := u.ru.next, counts := true, ctx := ctx.toNat, basket := (ctxOf u ctx.toNat).basket.toNat
        src := .ring, req := req, block := 0, block2 := 0 }] } }) ∧
  (∀ (s : State) (r : RegionCmd) (ecc : Ecc), s.ru.calls.find? (fun r => !regionHeld s r) = some r →
    mayRead s r = true →
    let p := tableEcc s srcRu (some r.ctx) ecc
    (ecc = .double → Goes (.regionAccept ecc) s (cmdFault (dropCallOf p r.id) r.ctx tfRegionBad 8)) ∧
    (∀ u, ecc ≠ .double →
      xlatPages r.basket (slotOfCtx p r.ctx) false (pagesOf (span r.req.toNat 64)) p = (none, u) →
      let slot := slotOfCtx p r.ctx
      let b := BitVec.ofNat 512 (virtWord u r.basket slot r.req.toNat 64)
      let v := dropCallOf (takeCredit u r.basket 1) r.id
      let q : RegionCmd := { r with block := b }
      (rqChain b = false ∨ rqOp b ≠ 2) →
      (cmdBadReason v r.basket b r.block2 = none →
        let w := addRef (addRef v b) r.block2
        Goes (.regionAccept ecc) s { w with ru := { w.ru with queue := w.ru.queue ++ [(rqOp b - 1, q)] } }) ∧
      (∀ k, cmdBadReason v r.basket b r.block2 = some k →
        Goes (.regionAccept ecc) s (regionBad v q slot k))))

/-- The four pipelines (R199 to R208): a free pipeline takes the next command of its queue, writes its output
and holds it for completion; a command that is found bad ends, and an access that fails tears its context
down. -/
def Sys2Proof.Says.RegionPipelines : Prop :=
  ∀ p ∈ ([(.crop, 0, cropRun), (.decode, 1, decodeRun), (.suppress, 2, suppressRun), (.iou, 3, iouRun)] :
      List (Instr × Nat × (State → RegionCmd → RunRes × State))),
    ∀ (s : State) (r : RegionCmd), mget none s.ru.running p.2.1 = none → nextCmd s p.2.1 = some r →
      mayRead s r = true →
      let x := p.2.2 { tookCmd s p.2.1 r with freeCount := s.freeCount + 1 } r
      (∀ reads out items dropped, x.1 = .done reads out items dropped →
        Goes p.1 s (runDone x.2 p.2.1 r reads out items dropped)) ∧
      (∀ k, x.1 = .bad k → Goes p.1 s (runBad x.2 r k)) ∧
      (∀ va y, x.1 = .fault va y → Goes p.1 s (regionFault x.2 r va false y))

/-- REGION_COMPLETE (R198): with the output read back and no line left at a link, the completion record is
written and the command is over; a record that has no translation puts the command back; an error of the
read-back, or 1,000,000 ticks without a response (R323), tears its context down. -/
def Sys2Proof.Says.RegionCompletion : Prop :=
  ∀ (s : State) (pipe : BitVec 2) (x : RegionRun), mget none s.ru.running pipe.toNat = some x →
    linkBusy s x.cmd.ctx = false → mayRead s x.cmd = true →
    let r := x.cmd
    let slot := slotOfCtx s r.ctx
    let free : State := { s with ru := { s.ru with running := mset none s.ru.running pipe.toNat none } }
    let pages := pagesOf (span (rqStatus r.block) 16)
    (∀ u, xlatPages r.basket slot true pages free = (none, u) →
      Goes (.regionComplete pipe .ok) s (regionEnd (putOut (takeCredit u r.basket 1) r.ctx r.basket slot
        (rqStatus r.block, recordBytes s 0 x.items x.dropped)) x)) ∧
    (∀ u va y, xlatPages r.basket slot true pages free = (some (va, y), u) →
      Goes (.regionComplete pipe .ok) s (recordFault u pipe.toNat r va y)) ∧
    (∀ pa, x.last = some pa →
      Goes (.regionComplete pipe .error) s (readbackFails free x pa false) ∧
      (1000000 ≤ (now s - x.sent).toNat →
        Goes (.regionComplete pipe .none) s (readbackFails free x pa true)))

/-- The Region pipelines and their completion. -/
def Obligations.RegionRuns : Prop :=
  Says.RegionPipelines ∧ Says.RegionCompletion

-- ================================================================ the Pannier (08)

/-- Scrubbing and sweeping (R220, R236): the scrubber, when it is due, reads the segment's next row, writes
back a corrected one that is not held and reports an uncorrectable one; a swept segment is all zeros and
ready. -/
def Sys2Proof.Says.ScrubsAndSweeps : Prop :=
  ∀ (s : State) (core : CoreId) (seg : SegId),
    let c := core.toNat
    let g := seg.toNat
    let p := (coreOf s c).pan
    (∀ ecc : RowEcc, p.scrubEn = true → segOn s c g = true → p.ready.getLsbD g = true →
      2 ^ p.scrubShift.toNat ≤ (now s - mget 0 p.scrubAt g).toNat →
      let i := nextScrub p g 3120 (mget 0 p.scrubPos g)
      let k := 4096 * g + i
      let r := readPhys (updPan s c (fun p => { p with
        scrubPos := mset 0 p.scrubPos g ((i + 1) % 3120), scrubAt := mset 0 p.scrubAt g (now s) })) c k ecc
      (r.2.1 = .clean → Goes (.scrubVisit core seg ecc) s r.2.2) ∧
      (r.2.1 = .single → Goes (.scrubVisit core seg ecc) s
        (updPan r.2.2 c (fun q => { q with
          errs := if physHeld r.2.2 c g i then q.errs else mdel q.errs k
          corrected := q.corrected ++ [(now r.2.2, k)] }))) ∧
      (r.2.1 = .double → Goes (.scrubVisit core seg ecc) s
        (post r.2.2 0x121 c none (physObj c g i) 0))) ∧
    (segOn s c g = true → p.ready.getLsbD g = false →
      Goes (.segmentSweep core seg) s
        (updPan s c (fun p => { zeroSegment p g with ready := p.ready ||| (1#8 <<< g) })))

/-- Spares and groups (R221, R217): the segment copies the row that is being mapped out to its spare; the
Forge's write of PAN_GROUP with a legal value changes the groups of a core on which nothing moves. -/
def Sys2Proof.Says.MapCopiesAndGroups : Prop :=
  (∀ (s : State) (core : CoreId) (seg : SegId) (i k : Nat),
    (coreOf s core.toNat).pan.copying = some (seg.toNat, i) →
    spareFree (coreOf s core.toNat).pan seg.toNat = some k →
    let r := readPhys s core.toNat (4096 * seg.toNat + i) .clean
    Goes (.mapOutCopy core seg) s (updPan r.2.2 core.toNat (fun p => copyPut p seg.toNat i k r.1))) ∧
  (∀ (s : State) (c : CoreId) (v : Word), domOn s (coreDom c.toNat) = true →
    groupsAligned (bits v 0 16) = true → groupFree s c.toNat = true →
    Goes (.panGroupWrite { init := .forge, off := BitVec.ofNat 25 (0x1005008 + 0x10000 * c.toNat), size := 4, value := v })
      s (updPan s c.toNat (fun p => { p with group := bits v 0 16 })))

/-- The host window (R238, R239): a read that the window takes returns the bytes of its row once no write to
the row is buffered, and until then waits with every later access behind it; a write is posted into the
buffer; a buffered write is performed when its row is free; an access that the window does not take is
refused, reads as zero and has no effect. -/
def Obligations.PannierWindow : Prop :=
  ∀ (s : State) (init : Initiator) (off : BitVec 28) (size : BitVec 8),
    let o := off.toNat
    let n := size.toNat
    let c := winCore o
    (∀ ecc : RowEcc, winHolds s (o, n) = false →
      (winTakes s o n false = true → winBuffered s c (panWinRow o) = false →
        let r := winReadRow s c (panWinRow o) ecc
        Goes (.panWindowRead init off size ecc) s
          { r.2 with port := { r.2.port with wdata := rowBytes r.1 o n, winWait := none } }) ∧
      (winTakes s o n false = true → winBuffered s c (panWinRow o) = true →
        Goes (.panWindowRead init off size ecc) s
          { s with port := { s.port with winWait := some (o, n) } }) ∧
      (winTakes s o n false = false → Goes (.panWindowRead init off size ecc) s
        (panWinRefused { s with port := { s.port with wdata := 0, winWait := none } } o))) ∧
    (∀ ecc : RowEcc, winHolds s (o, n) = true → Goes (.panWindowRead init off size ecc) s s) ∧
    (∀ data : BitVec 512, s.port.winWait = none → winTakes s o n true = true → winPending s < 16 →
      Goes (.panWindowWrite init off size data) s (updPan s c (fun p => { p with wbuf := p.wbuf ++ [{
        row := panWinRow o, off := o % 512, size := n, data := data }] }))) ∧
    (∀ data : BitVec 512, s.port.winWait = none → winTakes s o n true = false →
      Goes (.panWindowWrite init off size data) s (panWinRefused s o)) ∧
    (∀ (core : CoreId) (w : WinWrite),
      (coreOf s core.toNat).pan.wbuf.find? (fun w => !heldAddr s core.toNat w.row) = some w →
      let u := updPan s core.toNat (fun p => { p with wbuf := p.wbuf.erase w })
      let r := winReadRow u core.toNat w.row .clean
      Goes (.panWindowWritePerform core) s
        (writeRow r.2 core.toNat w.row (putRowBytes r.1 w.off w.size w.data)))

/-- FORGE_ROW_REPAIR (R223): a faulty row, one that a factory test list names among them, is copied to a
spare and listed in Temper; with no spare or no free list entry the segment is retired. -/
def Sys2Proof.Says.RowRepair : Prop :=
  ∀ (s : State) (core : CoreId) (seg : SegId) (index : BitVec 12) (listed : Bool),
    let c := core.toNat
    let g := seg.toNat
    let i := index.toNat
    let p := (coreOf s c).pan
    forgeRuns s = true → p.retired.getLsbD g = false → i < 3072 → rowFaulty s c g i listed = true →
    (∀ n, freeListEntry s c = some n → spareFree p g ≠ none → mapAllowed (flushCopy s c) c g i = true →
      let u := copyRow (flushCopy s c) c g i
      let w := 0x100 + 32 * c + n / 2
      Goes (.forgeRowRepair core seg index listed) s
        (forgeTemper u w (putBits (forgeWord u w) (16 * (n % 2))
          (BitVec.ofNat 16 (i + g * 4096 + 2 ^ 15))) false)) ∧
    ((freeListEntry s c = none ∨ spareFree p g = none) →
      Goes (.forgeRowRepair core seg index listed) s (retireSegment s c g i))

/-- Scrubbing, sweeps, spares, groups and row repair. -/
def Obligations.PannierUpkeep : Prop :=
  Says.ScrubsAndSweeps ∧ Says.MapCopiesAndGroups ∧ Says.RowRepair

-- ================================================================ contexts, commands and fences (12)

/-- The states of a context (R335 to R338): binding, unbinding, STOP, START, RESET, TEARDOWN and the
doorbell, by the party that writes the context's registers. -/
def Sys2Proof.Says.ContextStates : Prop :=
  ∀ (s : State) (ctx : CtxId) (i : Initiator),
    let c := ctx.toNat
    let k := ctxOf s c
    domOn s 209 = true →
    (∀ b prio grant, Goes (.contextValidSet .forge ctx b prio grant) s (setCtx s c { k with
      valid := true, basket := b, prio := prio, grant := grant
      state := if k.state = .free then .stopped else k.state
      ovr := if k.state = .free then 0 else k.ovr })) ∧
    ((k.state = .stopped ∨ k.state = .error) → Goes (.contextValidClear .forge ctx) s (freeCtx s c)) ∧
    (ctxWriter c i = true →
      ((k.state = .ready ∨ k.state = .idle ∨ k.state = .saved) →
        Goes (.stop i ctx) s (setCtx s c { k with state := .stopped })) ∧
      (k.state = .fenceWait → Goes (.stop i ctx) s (setState (withdrawWait s c) c .stopped)) ∧
      ((k.state = .running ∨ k.state = .faultWait ∨ k.state = .faultPending) →
        Goes (.stop i ctx) s (setCtx s c { k with stopPend := true })) ∧
      (k.state = .stopped → k.task = none → Goes (.start i ctx) s (setCtx s c { k with
        withdrawn := false, state := if k.rd = k.wr then .idle else .ready })) ∧
      (∀ t, k.state = .stopped → k.task = some t → t.phase = .saved →
        Goes (.start i ctx) s (setCtx s c { k with withdrawn := false, state := .saved })) ∧
      (k.state ≠ .stopped → Goes (.start i ctx) s (regRefused s (ctxCmdOff c) 2 i)) ∧
      (k.state = .error → Goes (.reset i ctx) s (setCtx s c { k with
        state := .stopped, rd := k.wr, faultLost := false, code := 0, reason := 0 })) ∧
      (k.state ≠ .error → Goes (.reset i ctx) s (regRefused s (ctxCmdOff c) 4 i)) ∧
      Goes (.teardown i ctx) s (tearDown s c tfTeardown 1 none 0)) ∧
    (∀ code reason, Goes (.contextTeardown ctx code reason) s
      (tearDown s c code.toNat reason.toNat none 0)) ∧
    (∀ wr outside,
      let u := { s with mem := wrCells s.mem outside }
      (ctxWriter c i = true → k.state ≠ .free → k.state ≠ .teardown → k.state ≠ .error →
        doorbellOk k wr = true → Goes (.doorbell i ctx wr outside) s (setCtx u c { k with
          wr := wr, state := if k.state = .idle ∧ wr ≠ k.rd then .ready else k.state })) ∧
      (doorbellOk k wr = false ∨ ctxWriter c i = false →
        Goes (.doorbell i ctx wr outside) s (doorbellRefused u c wr)))

/-- What a teardown leaves of its context (R351): no command, no task, the read index as it was, and ERROR
with the code and the reason once its failed signals have been made, TEARDOWN until then. -/
def Sys2Proof.Says.TeardownLeaves : Prop :=
  ∀ (s : State) (c code reason : Nat) (core : Option Nat) (detail : DWord), canTear (ctxOf s c) = true →
    let t := tearDown s c code reason core detail
    let k := ctxOf t c
    (tearSignals t c = true → k.state = .teardown ∧ k.ending = some (code, reason, core, detail)) ∧
    (tearSignals t c = false → k.state = .error ∧ k.code = BitVec.ofNat 8 code ∧
      k.reason = BitVec.ofNat 8 reason ∧ k.ending = none) ∧
    k.cur = none ∧ k.task = none ∧ k.rd = (ctxOf s c).rd ∧ k.wr = (ctxOf s c).wr ∧ k.valid = true ∧
      (∀ d r, occOf t d r ≠ some c)

/-- The states of a context, and what a teardown leaves. -/
def Obligations.ContextLife : Prop :=
  Says.ContextStates ∧ Says.TeardownLeaves

/-- Commands (R340 to R344): the fetch of a slot, the start of EXEC, COPY and BARRIER, the release and the
time limit of a BARRIER, and completion. -/
def Obligations.CommandsRun : Prop :=
  ∀ (s : State) (ctx : CtxId),
    let c := ctx.toNat
    let k := ctxOf s c
    let a := ringAddr k k.rd
    (∀ ecc, (k.state = .ready ∨ k.state = .running) → k.cur = none → k.rd ≠ k.wr → mayRun s c = true →
      let u := tableEcc s srcCp (some c) ecc
      (ecc = .double → Goes (.commandFetch ctx ecc) s (cmdFault u c tfCmdBad 10)) ∧
      (ecc ≠ .double → ctxPhysOk u c a (a + 63) = false →
        Goes (.commandFetch ctx ecc) s (cmdFault u c tfCmdBad 2)) ∧
      (ecc ≠ .double → ctxPhysOk u c a (a + 63) = true →
        (cmdOf (ofBytes 512 (rdBytes u.mem a 64)) = none →
          Goes (.commandFetch ctx ecc) s (cmdFault u c tfCmdBad 1)) ∧
        (∀ x, cmdOf (ofBytes 512 (rdBytes u.mem a 64)) = some x →
          Goes (.commandFetch ctx ecc) s (setCtx u c { ctxOf u c with
            cur := some x, started := false, finished := false })))) ∧
    (canStart s c = true →
      (∀ e, k.cur = some (.exec e) →
        (∀ r, execBad s c e = some r → Goes (.cmdExec ctx) s (cmdFault s c tfCmdBad r)) ∧
        (execBad s c e = none → Goes (.cmdExec ctx) s (count (setCtx s c { k with
          state := .ready, started := true, finished := false, cmdTick := now s
          task := some {
            cmd := e, phase := .waiting, start := now s, cores := [], base := 0, bound := e.rows
            dispatched := 0, slice := 0, expired := none, preempt := false, overrun := 0, full := false
            rowsSaved := 0, lists := [], kept := [], ordinal := 0 } }) 256 1))) ∧
      (∀ src dst len, k.cur = some (.copy src dst len) →
        mayLookup s k.basket.toNat (slotOfCtx s c)
          (linePages src.toNat (len / 128) ++ linePages dst.toNat (len / 128)) = true →
        let u := { beginCmd s c .running with freeCount := s.freeCount + 1 }
        Goes (.copy ctx) s (copyLines c (ctxOf u c).basket.toNat (slotOfCtx u c) (len / 128) src.toNat
          dst.toNat u)) ∧
      (∀ target count limit, k.cur = some (.barrier target count limit) →
        Goes (.barrier ctx) s (setCtx s c { k with
          state := .fenceWait, started := true, finished := false, cmdTick := now s }))) ∧
    (∀ target count limit, k.cur = some (.barrier target count limit) → k.state = .fenceWait →
      k.started = true → k.finished = false →
      let met := ((ctxOf s target).done - count).toNat < 2 ^ 31
      (met → Goes (.barrierRelease ctx) s (setCtx s c { k with finished := true })) ∧
      (¬ met → (ctxOf s target).state = .error ∨ (ctxOf s target).state = .free →
        Goes (.barrierRelease ctx) s (cmdFault s c tfFenceFailed 2)) ∧
      (¬ met → limit ≠ 0 → limit ≤ (now s - k.cmdTick).toNat →
        Goes (.barrierTimeout ctx) s (cmdFault s c tfFenceTimeout 2))) ∧
    (k.started = true → k.finished = true → copyWaits s c = false → hostGone s c = false →
      let q := { k with rd := k.rd + 1, done := k.done + 1, cur := none, started := false
                        finished := false, task := none }
      (k.state = .fenceWait → Goes (.commandComplete ctx) s
        (setCtx (setCtx s c q) c { q with state := if k.rd + 1 = k.wr then .idle else .running })) ∧
      (k.state ≠ .fenceWait → k.stopPend = false → Goes (.commandComplete ctx) s
        (setCtx (setCtx s c q) c { q with state := if k.rd + 1 = k.wr then .idle else .ready })) ∧
      (k.state ≠ .fenceWait → k.stopPend = true → Goes (.commandComplete ctx) s
        (setCtx (setCtx s c q) c { q with state := .stopped, stopPend := false, trail := false })))

/-- Fence commands (R343, R347, R349): FENCE_WAIT checks and reads its fence, FENCE_SIGNAL checks and hands
its signal over, and a wait has a time limit. -/
def Sys2Proof.Says.FenceCommands : Prop :=
  ∀ (s : State) (ctx : CtxId),
    let c := ctx.toNat
    let k := ctxOf s c
    (∀ addr value limit, k.cur = some (.fenceWait addr value limit) → canStart s c = true →
      (value.getLsbD 63 = true → Goes (.fenceWait ctx) s (cmdFault s c tfCmdBad 3)) ∧
      (value.getLsbD 63 = false → apertureOf s addr.toNat = none →
        ctxPhysOk s c addr.toNat (addr.toNat + 7) = true →
        let u := beginCmd s c .fenceWait
        Goes (.fenceWait ctx) s { u with fu := { u.fu with reading := u.fu.reading ++ [(addr, {
          ctx := c, value := value
          deadline := if limit = 0 then none else some (now s + BitVec.ofNat 64 limit) })] } }) ∧
      (value.getLsbD 63 = false → apertureOf s addr.toNat = none →
        ctxPhysOk s c addr.toNat (addr.toNat + 7) = false →
        Goes (.fenceWait ctx) s (addrFault (fenceError s (some c) addr) c tfAccess 2 none addr.toNat))) ∧
    (∀ addr value limit, k.cur = some (.fenceWait addr value limit) → k.state = .fenceWait →
      k.started = true → k.finished = false → limit ≠ 0 → limit ≤ (now s - k.cmdTick).toNat →
      Goes (.fenceTimeout ctx) s (cmdFault s c tfFenceTimeout 1)) ∧
    (∀ intr fail addr value, k.cur = some (.fenceSignal intr fail addr value) → canStart s c = true →
      linkStores s c = false →
      (fail = false → value.getLsbD 63 = true →
        Goes (.fenceSignal ctx) s (cmdFault (post s 0x151 srcFu (some c) addr 0) c tfCmdBad 3)) ∧
      ((fail = true ∨ value.getLsbD 63 = false) → ctxPhysOk s c addr.toNat (addr.toNat + 7) = true →
        let u := updCtx (beginCmd s c .running) c (fun k => { k with unread := [] })
        Goes (.fenceSignal ctx) s { u with fu := { u.fu with signals := u.fu.signals ++ [{
          src := .command c, addr := addr
          word := if fail then value ||| (1#64 <<< 63) else value
          intr := if intr then some k.vec.toNat else none }] } }))

/-- The Fence Unit (R347 to R350): the atomic maximum and the test of every wait on its fence, the responses,
the poll and the notification; and interrupt vectors (R353). -/
def Sys2Proof.Says.FenceUnit : Prop :=
  ∀ (s : State) (outside : List Host.Cell),
    let u := { s with mem := wrCells s.mem outside }
    (∀ g l, s.fu.signals = g :: l → sigAllowed s g = true → apertureOf s g.addr.toNat = none →
      let v := { s with fu := { s.fu with signals := l } }
      let old := rd64 s.mem g.addr.toNat
      let new := if old.toNat ≤ g.word.toNat then g.word else old
      let w := { v with mem := wr64 v.mem g.addr.toNat new }
      (old.toNat ≤ g.word.toNat → Goes (.fenceAtomicResponse .ok) s
        (sigOver (sigDone (testFence w g.addr new) g) g)) ∧
      (g.word.toNat < old.toNat → Goes (.fenceAtomicResponse .ok) s
        (sigOver (sigDone (testFence (post { w with fu := { w.fu with staleCnt := satAdd w.fu.staleCnt 1 } } 0x150
          srcFu (sigCtx g.src) g.addr 0) g.addr new) g) g)) ∧
      Goes (.fenceAtomicResponse .error) s (sigOver (sigFails (scramble v g.addr.toNat 8) g 4) g) ∧
      Goes (.fenceAtomicResponse .none) s (sigOver (sigFails (scramble v g.addr.toNat 8) g 3) g)) ∧
    (∀ addr w ecc, s.fu.reading = [(addr, w)] → ecc ≠ .double →
      let x := tableEcc u srcFu none ecc
      let word := rd64 x.mem addr.toNat
      let v := testFence { x with fu := { x.fu with reading := [] } } addr word
      (word.getLsbD 63 = true → Goes (.fenceReadResponse addr .ok ecc outside) s
        (cmdFault v w.ctx tfFenceFailed 1)) ∧
      (word.getLsbD 63 = false → w.value.toNat ≤ word.toNat →
        Goes (.fenceReadResponse addr .ok ecc outside) s (finishCmd v w.ctx)) ∧
      (word.getLsbD 63 = false → word.toNat < w.value.toNat →
        Goes (.fenceReadResponse addr .ok ecc outside) s (joinWatch v addr w))) ∧
    (∀ addr resp, Goes (.fenceReadResponse addr resp .double outside) s
      (reRegister (tableEcc u srcFu none .double) addr)) ∧
    (let v := (s.fu.watch.map (·.1)).foldl (fun t a => testFence t a (rd64 t.mem a.toNat)) u
     (∀ i, Goes (.fuNotify i outside) s v) ∧
     (v.fu.overflow.length ≤ 512 → v.fu.overflowPos = 0 → Goes (.watchPoll outside) s
        ((v.fu.overflow.map (·.1)).eraseDups.foldl (fun t a => testFence t a (rd64 t.mem a.toNat)) v))) ∧
    (∀ (i : Initiator) (vec : BitVec 5), vec.toNat < 24 → (i = .host ∨ i = .forge) → domOn s 209 = true →
      let e := mget {} s.cp.vecs vec.toNat
      let t := { s with cp := { s.cp with vecs := mset {} s.cp.vecs vec.toNat { e with mask := false } } }
      Goes (.vectorUnmask i vec) s (if e.mask ∧ s.cp.intPend.bits.getLsbD vec.toNat then
        { t with mem := wr32 t.mem e.addr.toNat e.data } else t)) ∧
    (∀ vec, Goes (.msiWriteError vec) s { s with cp := { s.cp with intErr := satAdd s.cp.intErr 1 } })

/-- Fence commands and the Fence Unit. -/
def Obligations.Fences : Prop :=
  Says.FenceCommands ∧ Says.FenceUnit

-- ================================================================ the ATU (11)

/-- Space commits (R305, R306, R561): a commit with free contents takes the slot and a new epoch; one that only
the Forge may make, or whose ID another slot holds, is refused with its entry; SPACE_FLAGS sets the two flags
of a valid slot. -/
def Sys2Proof.Says.SpaceCommits : Prop :=
  ∀ (s : State) (i : Initiator), (i = .host ∨ i = .forge) → domOn s 209 = true →
    let slot := s.atu.sel.toNat
    let x := stagedSpace s
    let no := post s 0x143 srcAtu none (BitVec.ofNat 64 offSpaceCommit) (s.atu.stId.setWidth 64)
    ((i = .forge ∨ guardedCommit x (spaceOf s slot) = false) → idTaken s slot x = false →
      (x.valid = false ∨ bits x.root 60 4 = 9) →
      Goes (.atuSpaceCommit i) s (newEpoch { s with atu := { s.atu with
        slots := mset {} s.atu.slots slot { x with epoch := (spaceOf s slot).epoch } } } slot)) ∧
    (i = .host → guardedCommit x (spaceOf s slot) = true → Goes (.atuSpaceCommit i) s no) ∧
    (idTaken s slot x = true → Goes (.atuSpaceCommit i) s no) ∧
    (∀ (n : BitVec 12) engine forge, mbxTakes s = true → mbxOp s = 6 →
      ((spaceOf s n.toNat).valid = true → Goes (.spaceFlags n engine forge) s
        (mbxReply (putSpace s n.toNat { spaceOf s n.toNat with engine := engine, forge := forge }) 0 [])) ∧
      ((spaceOf s n.toNat).valid = false → Goes (.spaceFlags n engine forge) s (mbxReply s 2 [])))

/-- A table walk (R309, R320): the entry read leads to the next level, to a leaf, or to a page fault of the
lines that wait for it; an address that fails R308, a failed read and a disabled ATU (R325) end it, and its
walker goes on with the next walk that waits (R311). -/
def Sys2Proof.Says.TableWalks : Prop :=
  ∀ (s : State) (walker : BitVec 4) (w : Walk), mget none s.atu.walks walker.toNat = some w →
    let i := walker.toNat
    let l := walkLines s w
    let a := pteAddr w.table w.va.toNat w.level
    let inside := physOkOf s w.pa (spaceOf s w.slot).engine a (a + 7)
    let u := match walkBsk s w with | some b => takeCredit s b 1 | none => s
    (s.atu.disable = true → ∀ resp, Goes (.pteReadResponse walker resp) s
      (lineErrors (endWalk s i) l tfAccess 4 (·.va))) ∧
    (s.atu.disable = false → inside = false → ∀ resp, Goes (.pteReadResponse walker resp) s
      (lineErrors (endWalk s i) l tfAccess 2 (·.va))) ∧
    (s.atu.disable = false → inside = true → walkWaits s w = false →
      Goes (.pteReadResponse walker .error) s (lineErrors (endWalk u i) l tfMemError 2 (fun _ => a)) ∧
      Goes (.pteReadResponse walker .none) s (lineErrors (endWalk u i) l tfMemError 3 (fun _ => a)) ∧
      (∀ t, pteStep (rd64 u.mem a) w.level = .next t → Goes (.pteReadResponse walker .ok) s
        (setWalk u i (some { w with level := w.level - 1, table := t }))) ∧
      (pteStep (rd64 u.mem a) w.level = .leaf → Goes (.pteReadResponse walker .ok) s
        (walkLeaf u i w (rd64 u.mem a))) ∧
      (∀ r, pteStep (rd64 u.mem a) w.level = .fault r → Goes (.pteReadResponse walker .ok) s
        (lineFaults (endWalk u i) w.slot (l.map (fun e => (e, r))))))

/-- The space table and the walk of the translation tables. -/
def Obligations.SpacesAndWalks : Prop :=
  Says.SpaceCommits ∧ Says.TableWalks

/-- Fault records (R322, R323): RETRY lets every context of the record run again, ABORT and the time limit tear
them down, and either closes the record; a response to no record has no effect but FAULT_RESP_BAD; a record whose
word is lost is answered with ABORT (R488). -/
def Sys2Proof.Says.FaultRecords : Prop :=
  ∀ (s : State) (id : BitVec 6) (i : Initiator),
    let u (act : Nat) : State := { s with atu := { s.atu with respId := id, respAct := BitVec.ofNat 2 act } }
    (∀ p ∈ ([(Instr.faultRetry, 1), (Instr.faultAbort, 2)] : List ((Initiator → BitVec 6 → Instr) × Nat)),
      (i = .host ∨ i = .forge) → domOn s 209 = true →
      (∀ r, recOf s id.toNat = some r → Goes (p.1 i id) s
        (closeRec (if p.2 = 1 then r.ctxs.foldl retryCtx (u 1) else abortCtxs (u 2) r) id.toNat)) ∧
      (recOf s id.toNat = none → Goes (p.1 i id) s
        (post s 0x142 srcAtu none (BitVec.ofNat 64 offFaultResp) ((respWord id p.2).setWidth 64)))) ∧
    (∀ r ecc, recOf s id.toNat = some r →
      let v := tableEcc s srcAtu r.ctxs.head? ecc
      (ecc = .double → Goes (.faultTimeout id ecc) s (closeRec (abortCtxs v r) id.toNat)) ∧
      (ecc ≠ .double → v.atu.timeout.toNat ≤ (now v - r.opened).toNat →
        Goes (.faultTimeout id ecc) s (closeRec (abortCtxs
          (post v 0x141 srcAtu r.ctxs.head? (recObj id.toNat r) (recDetail v r)) r) id.toNat)))

/-- A failed engine request (R320, R323, R324, R327), with an error response or after 1,000,000 ticks without
one: the context that made it is torn down with MEM_ERROR, reason 3 where no response came, a store of its
ended task included; what a failed write should have stored is open, what was read is as it was. -/
def Sys2Proof.Says.MemoryErrors : Prop :=
  ∀ p ∈ ([(Instr.memErrorResponse, false), (Instr.memResponseTimeout, true)] : List ((MemReq → Instr) × Bool)),
    ∀ (s : State),
    let why (n : Nat) : Nat := if p.2 then 3 else n
    let aged (t : DWord) : Prop := p.2 = true → 1000000 ≤ (now s - t).toNat
    (∀ (core : CoreId) tag (line : BitVec 12) l,
      (coreOf s core.toNat).mem.lines.find? (fun l => decide (l.tag = tag ∧ l.line = line.toNat)) = some l →
      apertureOf s l.pa.toNat = none → aged l.sent →
      let u := updMem s core.toNat (fun m => { m with lines := m.lines.erase l })
      (∀ x i, (coreOf s core.toNat).task = some (x, i) → l.dead = false →
        Goes (p.1 (.load core tag line)) s
          (addrFault u x tfMemError (why 1) (some core.toNat) l.pa.toNat)) ∧
      (l.dead = true → Goes (p.1 (.load core tag line)) s u)) ∧
    (∀ (core : CoreId) (tag : BitVec 5) pa x i l, (coreOf s core.toNat).task = some (x, i) →
      storeSent s core.toNat tag.toNat pa = some l → aged l.sent →
      Goes (p.1 (.store core tag pa)) s
        (addrFault (scramble s pa.toNat 128) x tfMemError (why 1) (some core.toNat) pa.toNat)) ∧
    (∀ ctx : CtxId,
      let c := ctx.toNat
      let k := ctxOf s c
      ((k.state = .ready ∨ k.state = .running) → k.cur = none → k.rd ≠ k.wr →
        Goes (p.1 (.ring ctx)) s (addrFault s c tfMemError (why 1) none (ringAddr k k.rd))) ∧
      (aged k.cmdTick →
        (∀ t, k.task = some t → t.phase ≠ .running →
          ∀ pa : DWord, t.cmd.descTable.toNat ≤ pa.toNat → pa.toNat < t.cmd.descTable.toNat + 16 * t.cmd.ndesc →
            Goes (p.1 (.descTable ctx pa)) s (addrFault s c tfMemError (why 1) none pa.toNat)) ∧
        (∀ t pa, k.task = some t → inSaveArea k t pa = true →
          (t.phase = .saved → Goes (p.1 (.save ctx pa true)) s
            (addrFault (scramble s pa.toNat 128) c tfMemError (why 5) none pa.toNat)) ∧
          (t.phase = .running → t.kept ≠ [] → Goes (p.1 (.save ctx pa false)) s
            (addrFault s c tfMemError (why 5) none pa.toNat))) ∧
        (∀ pa, commandBusy s c = true →
          Goes (p.1 (.command ctx pa true)) s
            (addrFault (scramble s pa.toNat 128) c tfMemError (why 1) none pa.toNat) ∧
          Goes (p.1 (.command ctx pa false)) s (addrFault s c tfMemError (why 1) none pa.toNat) ∧
          Goes (p.1 (.pte ctx pa)) s (addrFault s c tfMemError (why 2) none pa.toNat)) ∧
        (∀ pa write, commandBusy s c = false → (∃ l ∈ k.unread, l.pa = pa) →
          Goes (p.1 (.command ctx pa write)) s (addrFault s c tfMemError (why 1) none pa.toNat))))

/-- Fault records and failed requests of the engine. -/
def Obligations.FaultsAndErrors : Prop :=
  Says.FaultRecords ∧ Says.MemoryErrors

/-- Invalidation and credit (R317, R331, R332): a message that finds the handler idle starts a new epoch at
once, one that names no space of a slot is only counted, the acknowledgement lets the next be handled; the credit addition, 1,024 fabric
cycles after the last, visits every Basket; ATU_BW takes a rate and a depth whose sum the port can carry. -/
def Obligations.InvalidationAndCredit : Prop :=
  (∀ (s : State) (kind : InvKind) outside,
    let u := { s with mem := wrCells s.mem outside }
    let v := count { u with atu := { u.atu with invCnt := satAdd u.atu.invCnt 1 } } 261 1
    s.atu.inv.length < 32 →
    (invTarget v kind = none → Goes (.invalidation kind outside) s v) ∧
    (∀ t, invTarget v kind = some t → s.atu.inv = [] → Goes (.invalidation kind outside) s
      (invApply { v with atu := { v.atu with inv := [(t, 0)] } })) ∧
    (∀ t, invTarget v kind = some t → s.atu.inv ≠ [] → Goes (.invalidation kind outside) s
      { v with atu := { v.atu with inv := v.atu.inv ++ [(t, 0)] } })) ∧
  (∀ (s : State) m rest, s.atu.inv = m :: rest →
    s.cores.any (fun c => (linesOut c.2.mem).any (fun l => lineStale s m.1 m.2 l.slot l.epoch)) = false →
    (linkLines s).any (fun l => lineStale s m.1 m.2 l.slot l.epoch) = false →
    Goes .invalidationAck s (invApply { s with atu := { s.atu with inv := rest } })) ∧
  (∀ s : State, s.atu.creditAt + 1024 ≤ s.clk.fabCyc → Goes .creditAdd s ((List.range 16).foldl addCredit
    { s with atu := { s.atu with creditAt := s.atu.creditAt + 1024 } })) ∧
  (∀ (s : State) (b : BasketId) (v : Word), domOn s 209 = true →
    let off := 0x400080 + 4 * b.toNat
    let a : Access := { init := .forge, off := BitVec.ofNat 25 off, size := 4, value := v }
    let rate := (bits v 0 13).toNat
    let depth := (bits v 16 13).toNat
    rate ≤ 5563 → 1 ≤ depth → depth ≤ 4096 →
    (rateSum s - (bwOf s b.toNat).rate.toNat + rate ≤ 5563 →
      Goes (.atuBwWrite a) s (setRate s b.toNat rate depth)) ∧
    (5563 < rateSum s - (bwOf s b.toNat).rate.toNat + rate →
      Goes (.atuBwWrite a) s (regRefused s off v .forge)))

-- ================================================================ the GEQ and the mailbox (12)

/-- The GEQ's ring (R356, R357): the oldest entry is written at the ring's next place with its phase and the
rest of memory stays, or is dropped and counted where its word is lost (R488); a failed write stops the ring;
enabling it starts it afresh. -/
def Sys2Proof.Says.EventRing : Prop :=
  ∀ (s : State),
    (∀ e l ecc, s.geq.staging = e :: l → s.geq.enable = true →
      (s.geq.wr - s.geq.rd).toNat < 2 ^ s.geq.log2.toNat →
      let t := tableEcc s srcGeq none ecc
      let size := 2 ^ s.geq.log2.toNat
      let a := s.geq.base.toNat + 32 * (s.geq.wr.toNat % size)
      let phase := decide (s.geq.wr.toNat / size % 2 = 0)
      let u := { t with mem := wrNat t.mem a 32 (entryNat e phase), geq := { t.geq with staging := l, wr := t.geq.wr + 1 } }
      (ecc ≠ .double → Goes (.geqRingWrite ecc) s (intEvent (count u 270 1) 0)) ∧
      (ecc = .double → Goes (.geqRingWrite ecc) s (geqDrop s l)) ∧
      (ecc ≠ .double → s.cp.intPend.bits.getLsbD 0 = true → ∃ t, Goes (.geqRingWrite ecc) s t ∧
        rdNat t.mem a 32 = entryNat e phase % 2 ^ 256 ∧
        ∀ b, b < a ∨ a + 32 ≤ b → rdByte t.mem b = rdByte s.mem b) ∧
      (let f := scramble s a 32
       Goes .geqWriteError s
        (intEvent { f with geq := { f.geq with enable := false, writeErr := true } } 0))) ∧
    (∀ i, (i = .host ∨ i = .forge) → domOn s 209 = true → s.geq.enable = false →
      Goes (.geqEnable i) s
        { s with geq := { s.geq with enable := true, wr := 0, rd := 0, writeErr := false } })

/-- The mailbox (R358): STORE_GRANT sets the context's GRANT bit and answers status 0, QUERY answers fifteen
words, an operation that does not exist is answered with status 4, and an acknowledgement frees the response. -/
def Sys2Proof.Says.Mailbox : Prop :=
  ∀ (s : State),
    (mbxTakes s = true →
      (mbxOp s = 5 → ∀ (ctx : CtxId) g, Goes (.storeGrant ctx g) s
        (mbxReply (updCtx s ctx.toNat (fun k => { k with grant := g })) 0 [])) ∧
      (mbxOp s = 10 → Goes .query s (mbxReply { s with freeCount := s.freeCount + 1 } 0
        ((List.range 15).map (fun i => Config.queryWord (16 * s.freeCount + i))))) ∧
      ((mbxOp s = 0 ∨ 10 < mbxOp s) → Goes .mbxUnsupportedOp s (mbxReply s 4 []))) ∧
    (∀ i, i ≠ .secp → domOn s 209 = true →
      Goes (.mbxRspAck i) s { s with mbx := { s.mbx with rspValid := false } })

/-- The GEQ ring and the mailbox. -/
def Obligations.EventsAndMailbox : Prop :=
  Says.EventRing ∧ Says.Mailbox

-- ================================================================ registers (19)

/-- A write is performed only as a 32-bit access on a 4-byte aligned address (R9), at an offset that a chapter
assigns (R525), of a unit whose domain is on (R526), by a party that may make it (R527); then it has its
register's effect, and until then it has none but its entry. -/
def Obligations.RegisterWrites : Prop :=
  ∀ (s : State) (a : Access),
    let o := a.off.toNat
    ((a.size ≠ 4 ∨ o % 4 ≠ 0) → Goes (.registerWrite a) s (regRefused s o a.value a.init)) ∧
    (a.size = 4 → o % 4 = 0 → twComplAt o = none → twAt o = none → ¬ (0x280000 ≤ o ∧ o < 0x284000) →
      (rdReg s a.init o = none → Goes (.registerWrite a) s (regReserved s o a.value a.init)) ∧
      (rdReg s a.init o ≠ none → (mayWrite a.init o = false ∨ domOn s (regDom o) = false) →
        Goes (.registerWrite a) s (regRefused s o a.value a.init)) ∧
      (rdReg s a.init o ≠ none → mayWrite a.init o = true → domOn s (regDom o) = true →
        Goes (.registerWrite a) s (putReg s a.init o a.value)))

/-- A sequence-cleared register (R10, R528) clears the bits written with 1 when the written sequence number is
the register's, and stands otherwise: INT_PEND, and TA_EVENT and PAN_EVENT of every core. -/
def Obligations.SequenceClearedWrites : Prop :=
  ∀ (s : State) (i : Initiator) (v : Word), i ≠ .secp →
    let clear (r : Sc) : Sc :=
      if v.extractLsb' 24 8 = r.seq then { r with bits := r.bits &&& ~~~v.extractLsb' 0 24 } else r
    (domOn s 209 = true → Goes (.scWrite { init := i, off := 0x200010, size := 4, value := v }) s
      { s with cp := { s.cp with intPend := clear s.cp.intPend } }) ∧
    (∀ c : CoreId, domOn s (13 * c.toNat) = true →
      Goes (.scWrite { init := i, off := BitVec.ofNat 25 (0x1001004 + 0x10000 * c.toNat), size := 4, value := v }) s
        (updTa s c.toNat (fun t => { t with event := clear t.event })) ∧
      Goes (.scWrite { init := i, off := BitVec.ofNat 25 (0x1005004 + 0x10000 * c.toNat), size := 4, value := v }) s
        (updPan s c.toNat (fun p => { p with event := clear p.event })))

/-- The other kinds of access (R10, R529, R530, R532, R533): a read of GEQ_LOST returns and clears it, a read
of a LO word latches the HI word for its initiator, a masked write changes the bits it selects, and the
scrub of a voted register on whose copies two agree leaves it at their value. -/
def Obligations.OtherRegisterKinds : Prop :=
  ∀ (s : State) (i : Initiator),
    ((i = .host ∨ i = .forge) → domOn s 209 = true → mget none s.port.latch (4 * 0x800018 + initNo i) = none →
      Goes (.crRead { init := i, off := 0x800018, size := 4 }) s
        { s with port := { s.port with rdata := s.geq.lost }, geq := { s.geq with lost := 0 } }) ∧
    (domOn s 209 = true →
      Goes (.loReadLatch { init := i, off := 0x10, size := 4 }) s { s with port := { s.port with
        latch := mset none s.port.latch (4 * 0x14 + initNo i) (some ((now s).extractLsb' 32 32))
        rdata := (now s).extractLsb' 0 32 } } ∧
      (∀ v, mget none s.port.latch (4 * 0x14 + initNo i) = some v →
        Goes (.loReadLatch { init := i, off := 0x14, size := 4 }) s { s with port := { s.port with
          latch := mset none s.port.latch (4 * 0x14 + initNo i) none, rdata := v } })) ∧
    (∀ off : RegOff, off.toNat % 4 = 0 → i ≠ .secp → domOn s (regDom off.toNat) = true → ∀ m v : BitVec 16,
      let old := mget 0 s.port.masked off.toNat
      Goes (.mwWrite { init := i, off := off, size := 4, value := m ++ v }) s
        { s with port := { s.port with
            masked := mset 0 s.port.masked off.toNat ((old &&& ~~~m) ||| (v &&& m)) } }) ∧
    (∀ (c : CoreId) (f0 f1 f2 : Word), domOn s (13 * c.toNat) = true →
      let off : RegOff := BitVec.ofNat 25 (0x1001040 + 0x10000 * c.toNat)
      let old := (coreOf s c.toNat).ta.repairMap
      let copy (f : Word) : Word := old ^^^ (f &&& 0x3F3F3F3F)
      (copy f0 = copy f1 → copy f0 ≠ copy f2 → Goes (.tvScrub off f0 f1 f2) s
        (updTa (count s 263 1) c.toNat (fun t => { t with repairMap := copy f0 }))) ∧
      (copy f0 ≠ copy f1 → copy f1 = copy f2 → Goes (.tvScrub off f0 f1 f2) s
        (updTa (count s 263 1) c.toNat (fun t => { t with repairMap := copy f1 }))))

/-- A masked write whose bits [31:16] are all zero changes nothing and makes no entry (R530). -/
def Obligations.MaskedWriteOfNothing : Prop :=
  ∀ (s : State) (i : Initiator) (off : RegOff) (v : Word), off.toNat % 4 = 0 → i ≠ .secp →
    domOn s (regDom off.toNat) = true → v.extractLsb' 16 16 = 0 →
    ∃ t, Goes (.mwWrite { init := i, off := off, size := 4, value := v }) s t ∧
      (∀ o, mget 0 t.port.masked o = mget 0 s.port.masked o) ∧
      { t with port := { t.port with masked := s.port.masked } } = s

/-- Twin writes (R11, R531): a value write waits for its complement; the same initiator's next value write
replaces it with an entry, another initiator's is refused; a pending write past its limit lapses with an
entry. -/
def Sys2Proof.Says.TwinWrites : Prop :=
  ∀ (s : State) (i : Initiator) (r : TwReg) (v : Word), r ∈ allTw → mayWrite i (twOff r) = true →
    domOn s (regDom (twOff r)) = true →
    let o := twOff r
    let a : Access := { init := i, off := BitVec.ofNat 25 o, size := 4, value := v }
    let fresh : Twin := { init := i, value := v, cycle := s.clk.coreCyc, latched := s.temper.data }
    (twinOf s o = none → Goes (.twValueWrite a) s (setTwin s o (some fresh))) ∧
    (∀ p, twinOf s o = some p → twLapsed s p = false →
      (p.init = i → Goes (.twValueWrite a) s (setTwin (twAbort s o p.value i) o (some fresh))) ∧
      (p.init ≠ i → Goes (.twValueWrite a) s (regRefused s o v i))) ∧
    (∀ p, twinOf s o = some p → twLapsed s p = true →
      Goes (.twLapse (BitVec.ofNat 25 o)) s (setTwin (twAbort s o p.value p.init) o none))

/-- The complement write of each twin-write register (R11, R531): the pending write that it matches takes its
effect, one that it does not match ends with TW_ABORT. -/
def Sys2Proof.Says.TwinEffects : Prop :=
  ∀ e ∈ ((List.range 16).map (fun c => (Instr.spareSwitch, TwReg.spare c)) ++
      (List.range 16).map (fun c => (Instr.mapOut, TwReg.mapCtl c)) ++
      (List.range 16).map (fun b => (Instr.basketReset, TwReg.bskReset b)) ++
      [(Instr.linkReset, .lnkReset 0), (Instr.linkReset, .lnkReset 1), (Instr.atuDisable, .atuCtl),
        (Instr.eraseArm, .eraseArm), (Instr.forceOff, .forceOff), (Instr.temperCommit, .commit)] :
      List ((Access → Instr) × TwReg)),
    ∀ (s : State) (i : Initiator) (p : Twin) (v : Word), mayWrite i (twOff e.2) = true →
      domOn s (regDom (twOff e.2)) = true → twinOf s (twOff e.2) = some p → twLapsed s p = false → p.init = i →
      let a : Access := { init := i, off := BitVec.ofNat 25 (twOff e.2 + 8), size := 4, value := v }
      let u := setTwin s (twOff e.2) none
      (v = ~~~p.value → Goes (e.1 a) s
        (match e.2 with
          | .spare c => spareCtlDone u i c p.value
          | .mapCtl c => panMapDone u i c p.value
          | .atuCtl => { u with atu := { u.atu with disable := p.value.getLsbD 0 } }
          | .bskReset b => bskResetDone u i b p.value
          | .lnkReset l => if p.value.getLsbD 0 then linkDown u l 5 else u
          | .eraseArm => if p.value.getLsbD 0 then
              { u with store := { u.store with armedUntil := some (now u + 100000000) } } else u
          | .forceOff => forceOffDone u i p.value
          | .commit => temperTry u i p.value p.latched)) ∧
      (v ≠ ~~~p.value → Goes (e.1 a) s (setTwin (twAbort s (twOff e.2) p.value i) (twOff e.2) none))

/-- Twin writes: the value write, the complement write and its effects. -/
def Obligations.TwinWriteRules : Prop :=
  Says.TwinWrites ∧ Says.TwinEffects

/-- A Temper commit (R539, R541): it starts with its word's counter advanced, and completes after 200 ticks
with the verified copies at the new value, the shadow at it, and the array free. -/
def Obligations.TemperCommits : Prop :=
  (∀ (s : State) (i : Initiator) (value data : Word),
    let w := value.toNat % 4096
    s.temper.busy = none → tooSoon s w = false → temperAssigned w = true →
      (temperFactory w = false ∨ factoryLock s = false) →
      let t := temperTry s i value data
      t.temper.busy = some (w, data) ∧ (tword t w).count = satAdd (tword s w).count 1 ∧
        t.temper.shadow = s.temper.shadow ∧ t.mem = s.mem) ∧
  (∀ (s : State) (w : Nat) (v : Word), s.temper.busy = some (w, v) → s.temper.wait = [] →
    200 ≤ (now s - s.temper.since).toNat →
    (tword s w).failed = 0 → (tword s w).count ≠ 90000000 →
    ∃ t, Goes (.temperCommitDone 0 0) s t ∧ t.temper.busy = none ∧ temperWord t w = v ∧
      (tword t w).c0 = some v ∧ (tword t w).c1 = some v ∧ (tword t w).c2 = some v ∧
      (tword t w).lastTick = some (now s) ∧ t.mem = s.mem ∧
      ∀ w', w' ≠ w → tword t w' = tword s w' ∧ temperWord t w' = temperWord s w')

-- ================================================================ Baskets and scheduling (13)

/-- Baskets by the mailbox (R366): BASKET_CREATE takes the lowest free slot for resources that are free and
legal and whose rate the port can carry, BASKET_DESTROY frees one without contexts, CONTEXT_BIND and
CONTEXT_UNBIND bind and free a context, and a refused request is answered with its status alone. -/
def Sys2Proof.Says.BasketOperations : Prop :=
  ∀ (s : State), mbxTakes s = true →
    (∀ b rate depth,
      let w1 := reqW s 1
      let w2 := reqW s 2
      let cores : BitVec 16 := bits w1 0 16
      let k : Basket := { freshBasket (bskOf s b) with
        valid := true, cores := cores, segs := bits w1 16 8, rsvd := bits w1 24 8
        slice := bits (reqW s 3) 0 6
        regions := ((List.range 8).map (fun r => (r, reqW s (4 + r)))).filter
          (fun e => !decide (e.2 = 0)) }
      mbxOp s = 1 → reqClean s createFields = true → (reqW s 3).getLsbD 8 = false →
      (coresOf cores).any (fun c => coreRetiredTa s c || (bskOfCore s c).isSome) = false →
      (List.range 16).find? (fun b => !(bskOf s b).valid) = some b →
      rate = (if bits w2 0 13 = 0 then 347 * popcount cores else (bits w2 0 13).toNat) →
      depth = (if bits w2 16 13 = 0 then 256 else (bits w2 16 13).toNat) →
      rateSum s - (bwOf s b).rate.toNat + rate ≤ (if rtBound s then 5200 else 5563) → depth ≤ 4096 →
      basketOk s b k = true →
      Goes .basketCreate s (mbxReply (setRate (setBsk s b k) b rate depth) 0 [natAt b 0])) ∧
    (mbxOp s = 1 → reqClean s createFields = true → (reqW s 3).getLsbD 8 = true →
      Goes .basketCreate s (mbxReply s 3 [])) ∧
    (mbxOp s = 2 → reqClean s [(1, 0xF)] = true →
      let b := (bits (reqW s 1) 0 4).toNat
      ((bskOf s b).valid = false → Goes .basketDestroy s (mbxReply s 2 [])) ∧
      ((bskOf s b).valid = true → bskCtxs s b = [] → Goes .basketDestroy s
        (mbxReply (setRate (dropOccCores (setBsk s b (freshBasket (bskOf s b)))
          (coresOf (bskOf s b).cores)) b 0 256) 0 [])) ∧
      ((bskOf s b).valid = true → bskCtxs s b ≠ [] → Goes .basketDestroy s (mbxReply s 1 []))) ∧
    (mbxOp s = 3 → reqClean s [(1, 0x1FFFFF), (2, 0xFFFF), (3, 0xFFFF)] = true →
      let w := reqW s 1
      let c := (bits w 0 12).toNat
      let b := (bits w 12 4).toNat
      let prio : BitVec 2 := bits w 16 2
      let rg := regionOf (bskOf s b) (bits w 18 3).toNat
      let th : BitVec 16 := bits (reqW s 3) 0 16
      c < 3968 → (ctxOf s c).state = .free → (bskOf s b).valid = true → rgValid rg = true →
      (rgRt rg = false ∨ regionTaken s b (bits w 18 3).toNat c = false) →
      (prio ≠ 0 ∨ rateSum s ≤ 5200) →
      Goes .contextBind s (mbxReply (updCtx (bindCtx s c (bits w 12 4) prio (ctxOf s c).grant) c (fun k => { k with
        affinity := bits (reqW s 2) 0 16, region := bits w 18 3
        thresh := if th = 0 then (if prio = 0 then 256 else 512) else th })) 0 [])) ∧
    (mbxOp s = 4 → reqClean s [(1, 0xFFF)] = true →
      let c := (bits (reqW s 1) 0 12).toNat
      (3968 ≤ c → Goes .contextUnbind s (mbxReply s 3 [])) ∧
      (c < 3968 → (ctxOf s c).state = .stopped ∨ (ctxOf s c).state = .error →
        Goes .contextUnbind s (mbxReply (freeCtx s c) 0 [])))

/-- BSK_CTL (R361 to R364): the Forge's write of VALID and DRAIN moves a Basket between FREE, ACTIVE and
DRAINING where its resources and its contexts allow it, and is refused where not; a drained Basket is
reported once. -/
def Sys2Proof.Says.BasketStates : Prop :=
  ∀ (s : State) (b : BasketId), domOn s 209 = true →
    let n := b.toNat
    let k := bskOf s n
    1 ≤ k.slice.toNat → k.slice.toNat ≤ 40 →
    (k.valid = false → k.drain = false →
      (basketOk s n k = true → ∃ t, Goes (.basketValidate .forge b) s t ∧ (bskOf t n).valid = true ∧
        (bskOf t n).drain = false ∧ (bskOf t n).cores = k.cores ∧ (bskOf t n).segs = k.segs ∧ t.mem = s.mem ∧
        ∀ m, m ≠ n → bskOf t m = bskOf s m)) ∧
    (k.valid = true → (k.drain = false ∨ bskCtxs s n ≠ []) → ∃ v, Goes (.basketFree .forge b) s
      (regRefused s (bskOff n) v .forge)) ∧
    (k.valid = true → k.drain = true → bskCtxs s n = [] → ∃ t, Goes (.basketFree .forge b) s t ∧
      (bskOf t n).valid = false ∧ (bskOf t n).drain = false ∧ ∀ m, m ≠ n → bskOf t m = bskOf s m) ∧
    (k.valid = true → k.drain = false → ∃ v, Goes (.basketDrain .forge b) s
      (drainBegin (bskCtlFields s .forge n v) n)) ∧
    (k.valid = true → k.drain = true → basketOk s n k = true → ∃ t, Goes (.basketUndrain .forge b) s t ∧
      (bskOf t n).valid = true ∧ (bskOf t n).drain = false ∧ ∀ m, m ≠ n → bskOf t m = bskOf s m) ∧
    (k.valid = true → k.drain = true → k.drained = false →
      (drainOver (drainEvict s n) n = true → Goes (.drainDone b) s
        (let v := updBsk (drainEvict s n) n (fun k => { k with drained := true })
         inboxPut v (geqEntry v 0x1C2 srcCp none (BitVec.ofNat 64 n) 0 false k.standing))) ∧
      (drainOver (drainEvict s n) n = false → Goes (.drainDone b) s (drainEvict s n)))

/-- Baskets, by the mailbox and by their registers. -/
def Obligations.Baskets : Prop :=
  Says.BasketOperations ∧ Says.BasketStates

/-- Scheduling (R371 to R374, R386, R271, R313): the first candidate takes its cores when they are free and
stops lower classes when they are not, and one whose entry is lost is torn down (R488); the lists are built
once a walker and credit are free; a barrier passes when every core of the task has reached it; a task ends when every core has; a slice stops a task that another waits for. -/
def Obligations.Scheduling : Prop :=
  (∀ (s : State) (b : BasketId) (x : Nat) (ecc : Ecc),
    let n := b.toNat
    let u := tableEcc s srcCp (some x) ecc
    let free := freeCores u n
    (bskOf s n).valid = true → (bskOf s n).drain = false → firstCandidate s n = some x →
    (ecc = .double → Goes (.dispatch b ecc) s (cmdFault u x tfCmdBad 10)) ∧
    (∀ t, ecc ≠ .double → (ctxOf u x).task = some t →
      (popcount (bskOf s n).cores < t.cmd.cores → Goes (.dispatch b ecc) s (cmdFault u x tfCmdBad 4)) ∧
      (t.cmd.cores ≤ popcount (bskOf s n).cores →
        (free.length < t.cmd.cores →
          Goes (.dispatch b ecc) s (preemptFor u n x (t.cmd.cores - free.length))) ∧
        (t.cmd.cores ≤ free.length → hostGone u x = true →
          Goes (.dispatch b ecc) s (setState u x .detached)) ∧
        (t.cmd.cores ≤ free.length → hostGone u x = false →
          let cores := placeTask u x t free
          (∀ v, placeFault u x t cores = some v → Goes (.dispatch b ecc) s v) ∧
          (placeFault u x t cores = none → walkerFree u = true → hasCredit u (ctxBsk u x) = true →
            let r := translateAll u (ctxBsk u x) (slotOfCtx u x) false (imagePages t.cmd) t.cmd.image.toNat
            (r.1 = none → Goes (.dispatch b ecc) s (runTask r.2 x t cores)) ∧
            (∀ va y, r.1 = some (va, y) →
              Goes (.dispatch b ecc) s (xlatFault r.2 x none va false false y))))))) ∧
  (∀ (s : State) (ctx : CtxId) (t : Task),
    let x := ctx.toNat
    (ctxOf s x).task = some t → t.phase = .running →
    (∀ c l lost, t.cores = c :: l → walkerFree s = true → hasCredit s (ctxBsk s x) = true →
      let r := buildLists (ctxBsk s x) (slotOfCtx s x) lost (coreOf s c).mem.descs 512 [] s
      Goes (.listBuild ctx lost) s
        (updCtx r.2 x (fun k => { k with task := k.task.map (fun t => { t with lists := r.1 }) }))) ∧
    (∀ ecc : List VuEcc, t.cores ≠ [] → t.cores.all (fun c => (coreOf s c).seq.run == .atYield) = true →
      let l := ecc.filter (fun e => t.cores.contains e.core.toNat)
      let q := yieldCorrected s l
      ((∀ e ∈ l, e.double = none) →
        let u := t.cores.foldl deliverAll q
        let v := t.cores.foldl (fun s c => countCore (updCore s c passYield) c 14 1) u
        let w := updCtx v x (fun k => { k with
          lastFault := none, faultReps := 0, acLate := []
          task := k.task.map (fun t => { t with full := false, sappSeq := 0, sappFull := 0 }) })
        Goes (.yieldBarrier ctx ecc) s (if t.preempt then stopTask w x else w)) ∧
      (∀ e, l.find? (fun e => e.double.isSome) = some e → Goes (.yieldBarrier ctx ecc) s
        (vuFault q e.core.toNat tfVuEcc (if e.double = some true then 2 else 1)))) ∧
    (t.cores.all (fun c => coreEnded (coreOf s c)) = true →
      t.cores.all (fun c => (endsOpen (coreOf s c)).isNone) = true →
      let lines := t.cores.flatMap (fun c => unreadLines (coreOf s c).mem)
      let u := measure (releaseCores (dropBundles s t.cores) t.cores) x t
      Goes (.taskEnd ctx) s (finishCmd (updCtx u x (fun k => { k with
        task := none, unread := k.unread ++ lines, acLate := [], lateCalls := [], sappPair := none
        lastFault := none, faultReps := 0 })) x)) ∧
    (t.preempt = false → 50000 * (bskOf s (ctxBsk s x)).slice.toNat ≤ t.slice →
      let k := ctxOf s x
      let waits := (candidates s (ctxBsk s x)).any (fun y => decide ((ctxOf s y).prio.toNat ≤ k.prio.toNat))
      (waits = true → Goes (.sliceExpiry ctx) s
        (setCtx s x { k with task := some { t with preempt := true, expired := some (now s) } })) ∧
      (waits = false → Goes (.sliceExpiry ctx) s
        (setCtx s x { k with task := some { t with slice := 0 } }))))

-- ================================================================ service of cores (03, 17, 18)

/-- Runs of a core's generators and of its Vector Unit (R85, R87, R95, R96, R484, R485): a run starts in HOLD
or UNCALIBRATED, and its end sets the status and the events that R85 and R87 give. -/
def Obligations.DiagnosticRuns : Prop :=
  ∀ (s : State) (core : CoreId),
    let c := core.toNat
    let k := coreOf s c
    (domOn s (13 * c) = true →
      (∀ p ∈ ([(Instr.diagStart .forge core, false), (Instr.calibrationStart .forge core, true)] : List (Instr × Bool)),
        (runAllowed k = true → Goes p.1 s (updTa s c (fun t => { t with
          diagBusy := true, diagKind := p.2, calRun := p.2, diagStatus := t.diagStatus ||| 1 }))) ∧
        (runAllowed k = false → Goes p.1 s
          (regRefused s (0x1001050 + 0x10000 * c) (if p.2 then 3 else 1) .forge))) ∧
      ((k.ta.st = .hold ∨ k.ta.st = .uncal) → k.vu.diagBusy = false →
        Goes (.vdiagStart .forge core) s (updCore s c (fun k => { k with vu := { k.vu with
          diagBusy := true, diagStatus := k.vu.diagStatus ||| 1 } })))) ∧
    (∀ fails, k.ta.diagBusy = true → k.ta.calRun = false → Goes (.diagDone core fails) s
      (updTa s c (fun t => { t with
        diagBusy := false, diagStatus := diagWord fails, event := scEvent t.event 4 }))) ∧
    (k.ta.diagBusy = true → k.ta.calRun = true →
      ∃ t, Goes (.calibrationDone core []) s t ∧ (coreOf t c).ta.diagBusy = false ∧
        (coreOf t c).ta.diagStatus = 2 ∧ (coreOf t c).ta.event = scEvent k.ta.event 8 ∧
        (coreOf t c).ta.st = (if k.ta.st = .uncal then .hold else k.ta.st) ∧
        (coreOf t c).ta.calOk = true ∧ t.mem = s.mem) ∧
    (∀ fails, k.ta.diagBusy = true → k.ta.calRun = true → fails ≠ [] →
      let u := updTa (runEnd s c fails 16) c (fun t => { t with st := .retired, calOk := false })
      (forgeRuns s = true → k.ta.st ≠ .retired →
        Goes (.calibrationDone core fails) s (retireCore u c)) ∧
      (forgeRuns s = false ∨ k.ta.st = .retired → Goes (.calibrationDone core fails) s u)) ∧
    (∀ fail, k.vu.diagBusy = true →
      let u := updCore s c (fun k => { k with vu := { k.vu with diagBusy := false, diagStatus := vdiagWord fail } })
      (byVector k.ta.repairHold = false → Goes (.vdiagDone core fail) s u) ∧
      (forgeRuns s = true → byVector k.ta.repairHold = true →
        (fail = none → recentHolds s c < 3 → Goes (.vdiagDone core fail) s (releaseHold u c)) ∧
        (fail ≠ none → Goes (.vdiagDone core fail) s (retireCore u c))))

/-- Repair, release, reset, retirement and re-admission of a core (R84, R88, R90, R493, R494, R516). -/
def Obligations.CoreService : Prop :=
  ∀ (s : State) (core : CoreId),
    let c := core.toNat
    let k := coreOf s c
    (forgeRuns s = true → k.ta.st = .hold → k.ta.diagBusy = false →
      (k.ta.repairHold ≠ none ∨
        (k.task = none ∧ k.ta.calOk = true ∧ k.ta.repairDue = false ∧ retirePending s c = false)) →
      Goes (.repairHoldRelease core) s (releaseHold s c)) ∧
    (∀ hard fails calFails, forgeRuns s = true →
      (hard = true → k.ta.repairHold = some .array → k.ta.diagBusy = false →
        Goes (.forgeRepair core hard fails calFails) s (repairRun s c fails calFails)) ∧
      (hard = false → k.ta.repairDue = true → k.task = none → k.ta.diagBusy = false →
        Goes (.forgeRepair core hard fails calFails) s (repairRun s c fails calFails)) ∧
      (hard = false → k.ta.repairDue = false → k.ta.st = .service → thresholdMet s k.ta = true →
        Goes (.forgeRepair core hard fails calFails) s
          (drainCore (updTa s c (fun t => { t with repairDue := true })) c))) ∧
    (domOn s 209 = true →
      let u := { s with pwr := { s.pwr with rstCore := BitVec.ofNat 4 c } }
      (k.task = none → (k.ta.st = .retired ∨ k.ta.st = .hold ∨ bskOfCore s c = none) →
        Goes (.coreReset .forge core) s (resetCore u c (coreEnabled s c))) ∧
      (k.task ≠ none → Goes (.coreReset .forge core) s
        (post u 0x1E1 srcPwr none (BitVec.ofNat 64 0xA00074) 0))) ∧
    (mbxTakes s = true → mbxOp s = 9 → reqClean s [(1, 0x10F)] = true → bits (reqW s 1) 0 4 = core →
      ((reqW s 1).getLsbD 8 = true →
        (k.ta.st = .retired ∨ lastCore s c = true → Goes .coreRetire s (mbxReply s 1 [])) ∧
        (k.ta.st ≠ .retired → lastCore s c = false → k.task = none →
          Goes .coreRetire s (mbxReply (retireCore s c) 0 [])) ∧
        (k.ta.st ≠ .retired → lastCore s c = false → k.task ≠ none → k.ta.repairHold = none →
          Goes .coreRetire s (mbxKeep (drainCore s c)))) ∧
      ((reqW s 1).getLsbD 8 = false → ∀ fails vfails calFails,
        (k.ta.st ≠ .retired → Goes (.coreReadmit fails vfails calFails) s (mbxReply s 1 [])) ∧
        (k.ta.st = .retired → 3 ≤ readmitCount s c →
          Goes (.coreReadmit fails vfails calFails) s (mbxReply s 3 [])) ∧
        (k.ta.st = .retired → readmitCount s c < 3 →
          Goes (.coreReadmit fails vfails calFails) s (readmitCore s c fails vfails calFails))))

-- ================================================================ Plait links (15)

/-- The states of a link (R416 to R420, R439, R440): ENABLE, DISABLE and RETRAIN by the host or the Forge,
detection, alignment with the skews measured and the presets that Temper holds (R418), the time limits, and
the automatic restart. -/
def Sys2Proof.Says.LinkStates : Prop :=
  ∀ (s : State) (l : LinkId) (i : Initiator),
    let n := l.toNat
    let k := linkOf s n
    ((i = .host ∨ i = .forge) → domOn s (213 + n) = true →
      (k.st = .down → Goes (.linkEnable i l) s (setLink (setLink s n { k with
          enable := true, trainFails := 0, spent := false }) n { k with
        enable := true, trainFails := 0, spent := false, st := .detect, since := now s })) ∧
      (k.st = .down → Goes (.linkDisable i l) s (setLink s n { k with
        enable := false, trainFails := 0, spent := false })) ∧
      (k.st ≠ .down → Goes (.linkDisable i l) s
        (updLink (linkDown s n 7) n (fun k => { k with enable := false, trainFails := 0, spent := false }))) ∧
      Goes (.linkRetrainRequest i l) s (linkRetrain s n)) ∧
    (k.st = .active →
      let u := setLink s n { laneClear k with
        st := .retrain, since := now s, got := [], echoed := 0, doneIn := false, doneOut := false
        aligned := false, retrainCnt := satAdd k.retrainCnt 1 }
      Goes (.laneLockLoss l) s u ∧
      (k.retryBuf ≠ [] → k.ackAt + 4096 ≤ s.clk.fabCyc → Goes (.ackStallTimeout l) s u)) ∧
    (k.st = .detect → Goes (.linkDetect l) s (setLink s n { k with st := .align, since := now s })) ∧
    (∀ skew : List (BitVec 6), skew.length = 8 → (∀ x ∈ skew, x.toNat ≤ 32) → k.st = .align →
      Goes (.linkAlign l skew) s (storeDeskew (setLink s n { k with
        st := .train, since := now s
        skew := ((List.range 8).map (fun j => (j, skew.getD j 0))).filter (fun e => !decide (e.2 = 0))
        got := [], echoed := 0, doneIn := false, doneOut := false
        preset := presetsOf (temperWord s (presetWord n)) }) n skew)) ∧
    (k.st = .align → 200000 ≤ (now s - k.since).toNat →
      Goes (.alignTimeout l) s (setLink s n { k with st := .detect, since := now s })) ∧
    (k.st = .train → 40000000 ≤ (now s - k.since).toNat →
      Goes (.trainTimeout l) s (post (updLink (linkDown s n 2) n (fun q => { q with
        trainFails := k.trainFails + 1, spent := q.spent || decide (k.trainFails + 1 ≥ 3) }))
        0x176 (srcLink n) none (BitVec.ofNat 64 (n * 2 ^ 36)) 0)) ∧
    (k.st = .retrain → 1000000 ≤ (now s - k.since).toNat →
      Goes (.retrainTimeout l) s (linkDown s n 3)) ∧
    (k.auto = true → 100000000 ≤ (now s - k.since).toNat → k.st = .down → k.enable = true →
      k.spent = false → domOn s (213 + n) = true →
      Goes (.linkAutoRestart l) s (setLink s n { k with st := .detect, since := now s }))

/-- Training frames and flits (R414, R415, R418, R421 to R424): a field of the peer and an echo of ours are
taken while the link trains; blocks are taken one after the other, a data block giving a word of the stream,
a misplaced marker ending the lock of its lane, and a block of another type being counted; a flit whose CRC
fails asks for a retry, one that breaks a rule is a protocol error, the one expected is accepted and counted;
a missing flit is asked for again. -/
def Sys2Proof.Says.LinkFrames : Prop :=
  ∀ (s : State) (l : LinkId),
    let n := l.toNat
    let k := linkOf s n
    (∀ f : TrainFrame, k.st = .train → f.field.toNat < 6 → f.lane.toNat < 8 →
      Goes (.trainFrame l f) s (doneCheck (if f.echo then trainEcho s n f.field.toNat f.lane.toNat f.value
        else trainField s n f.field.toNat f.lane.toNat f.value) n)) ∧
    (∀ (b : LaneBlock) rest, ∃ u, Goes (.flitReceive l [b]) s u ∧
      ∀ v, Goes (.flitReceive l rest) u v → Goes (.flitReceive l (b :: rest)) s v) ∧
    (∀ b : LaneBlock,
      let lane := b.lane.toNat
      let r := descrambleWord b.payload (mget 0 k.descr lane)
      let u := updLink s n (fun k => { k with descr := mset 0 k.descr lane r.2 })
      let type := (r.1.extractLsb' 0 8).toNat
      (b.sync = 2 → type = 0x4B → (r.1.extractLsb' 8 8).toNat = lane → Goes (.flitReceive l [b]) s u) ∧
      (b.sync = 2 → type = 0x4B → (r.1.extractLsb' 8 8).toNat ≠ lane →
        Goes (.flitReceive l [b]) s (linkRetrain u n)) ∧
      (b.sync = 2 → (type = 0x55 ∨ type = 0x78 ∨ type = 0x1E) → Goes (.flitReceive l [b]) s u) ∧
      (b.sync = 2 → type ≠ 0x4B → type ≠ 0x55 → type ≠ 0x78 → type ≠ 0x1E →
        Goes (.flitReceive l [b]) s (updLink u n (fun k => { k with
          blockErrs := mset 0 k.blockErrs lane (satAdd (mget 0 k.blockErrs lane) 1) }))) ∧
      (b.sync = 1 → k.st = .active → lane ≠ k.rxLane.toNat → mget [] k.laneWords k.rxLane.toNat = [] →
        Goes (.flitReceive l [b]) s (updLink u n (fun k => { k with
          laneWords := mset [] k.laneWords lane (mget [] k.laneWords lane ++ [r.1]) }))) ∧
      (b.sync = 1 → k.st ≠ .active → Goes (.flitReceive l [b]) s u)) ∧
    (∀ flit : BitVec 1088, k.st = .active →
      let h : Word := flit.extractLsb' 0 32
      let kind := (h.extractLsb' 18 2).toNat
      let vc := (h.extractLsb' 16 2).toNat
      (crc32c (bytesOf flit 132) ≠ flit.extractLsb' 1056 32 → takeFlit s n flit =
        linkPump (setLink s n { askRetry k s.clk.fabCyc with crcCnt := satAdd k.crcCnt 1 }) n) ∧
      (crc32c (bytesOf flit 132) = flit.extractLsb' 1056 32 →
        ((kind = 3 ∨ h.getLsbD 31 = true ∨ kind ≠ 0 ∧ vc = 3) → takeFlit s n flit = linkProtocol s n) ∧
        (kind = 0 → h.getLsbD 31 = false → takeFlit s n flit = applyHeader s n h) ∧
        ((kind = 1 ∨ kind = 2) → h.getLsbD 31 = false → vc < 3 →
          (h.extractLsb' 0 8 = k.expect → (vcFlits k vc).length < vcCapacity vc →
            takeFlit s n flit = applyHeader (setLink s n { k with
              expect := k.expect + 1, retryOut := false, rxCnt := satAdd k.rxCnt 1
              rxBuf := k.rxBuf ++ [{ seq := h.extractLsb' 0 8, vc := h.extractLsb' 16 2
                                     kind := h.extractLsb' 18 2, body := flit.extractLsb' 32 1024 }] }) n h) ∧
          (h.extractLsb' 0 8 = k.expect → vcCapacity vc ≤ (vcFlits k vc).length →
            takeFlit s n flit = linkProtocol s n) ∧
          (h.extractLsb' 0 8 ≠ k.expect → takeFlit s n flit =
            applyHeader (setLink s n (askRetry k s.clk.fabCyc)) n h)))) ∧
    (k.st = .active → k.retryOut = true → k.retryAt + 1024 ≤ s.clk.fabCyc →
      Goes (.retryRequestTimeout l) s
        (linkPump (setLink s n { k with retryAt := s.clk.fabCyc, retryDue := true }) n))

/-- The registers of windows and messages (R429, R433, R434, R442): a closed window opens, but the host does not
open an engine's, an open one closes, the selected table entry is written unless an open window uses it, and a
message leaves while none is under way. -/
def Sys2Proof.Says.LinkRegisters : Prop :=
  ∀ (s : State) (l : LinkId) (i : Initiator), (i = .host ∨ i = .forge) → domOn s (213 + l.toNat) = true →
    let n := l.toNat
    let k := linkOf s n
    (∀ w : BitVec 6,
      let x := winOf s n w.toNat
      ((i = .forge ∨ x.engine = false) → x.opened = false → Goes (.windowOpen i l w) s
        (setWin s n w.toNat { x with opened := true, late := 0 })) ∧
      (i = .host → x.engine = true → ∃ v, Goes (.windowOpen i l w) s
        (regRefused s (winCtlOff n w.toNat) v .host)) ∧
      Goes (.windowClose i l w) s (setWin s n w.toNat { x with opened := false })) ∧
    (∀ hi : Word,
      (entryInUse k k.xtSel.toNat = false → Goes (.xtCommit i l hi) s
        (setLink s n { k with table := mset 0 k.table k.xtSel.toNat (hi ++ k.xtLo) })) ∧
      (entryInUse k k.xtSel.toNat = true → Goes (.xtCommit i l hi) s
        (regRefused s (linkBase n + 0x2008) hi i))) ∧
    (∀ forge, k.msgBusy = false → Goes (.pltMsgGo i l forge) s
      (sendMsg (updLink s n (fun k => { k with msgForge := forge })) n forge))

/-- The states of a link, training frames, flits and the link registers. -/
def Obligations.LinkStatesAndFrames : Prop :=
  Says.LinkStates ∧ Says.LinkFrames ∧ Says.LinkRegisters

/-- Requests of the peer (R429, R431, R435 to R437, R488): the command at the head of its VC is tested, and answered
with the status of the first test it fails, or performed and answered with its data or old value. -/
def Obligations.PeerRequests : Prop :=
  ∀ (s : State) (l : LinkId) (resp : Resp) (ecc : Ecc) (b : BitVec 1024) (u : State),
    let n := l.toNat
    let t := updLink u n (takeFlits 1 vcRequest)
    let x := tableEcc t (srcLink n) none ecc
    let st := tableStatus (winTest x n b 0) ecc
    (linkOf s n).inb = none → headRequest s n = (some b, u) →
    (bType b = txWinWrite →
      (st = 0 → Goes (.winWrite l resp ecc) s (inbGo (setInb x n (some {
        body := b, total := bLines b, applied := 0, status := 0 })) n resp)) ∧
      (st ≠ 0 → Goes (.winWrite l resp ecc) s (inbGo (setInb (winRefused x n b st) n
        (some { body := b, total := bLines b, applied := 0, status := st })) n resp))) ∧
    (bType b = txWinRead →
      (winTest t n b 1 ≠ 0 → Goes (.winRead l resp) s
        (sendCompletion (winRefused t n b (winTest t n b 1)) n (bTag b) (winTest t n b 1) 0 0 [])) ∧
      (winTest t n b 1 = 0 →
        (∀ d v, readLines t n b resp = (.ok d, v) → Goes (.winRead l resp) s
          (sendCompletion v n (bTag b) 0 0 0 d)) ∧
        (∀ e v, readLines t n b resp = (.error e, v) → Goes (.winRead l resp) s
          (sendCompletion (winRefused v n b e) n (bTag b) e 0 0 [])))) ∧
    (bType b ∉ [txWinWrite, txWinRead, txFenceSig] → Goes (.winWrite l resp ecc) s
      (inbGo (setInb (winRefused x n b 7) n (some { body := b, total := 0, applied := 0, status := 7 })) n resp)) ∧
    (bType b = txFenceSig → winTest t n b 2 ≠ 0 → Goes (.fenceSig l resp) s
      (sendCompletion (winRefused t n b (winTest t n b 2)) n (bTag b) (winTest t n b 2) 0 0 [])) ∧
    (bType b = txFenceSig → winTest t n b 2 = 0 →
      let x := winOf t n (bWindow b)
      let pa := winPa t n x (bOffset b)
      (physOk t x.engine pa (pa + 7) = false → Goes (.fenceSig l resp) s
        (sendCompletion t n (bTag b) 6 0 0 [])) ∧
      (physOk t x.engine pa (pa + 7) = true → resp = .ok → Goes (.fenceSig l resp) s
        (sendCompletion (fenceRaise t none (BitVec.ofNat 64 pa) (bValue b)).2 n (bTag b) 0
          (rd64 t.mem (BitVec.ofNat 64 pa).toNat) 0 [])))

/-- The other flits of a link (R426, R429, R430, R439): a line handed over joins its run while the link is
active and is lost while it is down, a run that nothing continues is sent, a message becomes an entry, a
completion ends its transaction, and a transaction without one is lost in time. -/
def Obligations.LinkTransactions : Prop :=
  ∀ (s : State) (l : LinkId),
    let n := l.toNat
    let k := linkOf s n
    (∀ a rest, k.apLines = a :: rest →
      let u := setLink s n { k with apLines := rest }
      (k.st = .active → a.store = false → Goes (.apertureLine l) s (gatherLine u n a)) ∧
      (k.st = .active → a.store = true → a.core < 16 → Goes (.apertureLine l) s
        (sentCheck (gatherLine u n a) a.core a.ref.tag.toNat)) ∧
      (k.st = .down → Goes (.apertureLine l) s (apLineLost n u a)) ∧
      (k.st = .retrain → Goes (.apertureLine l) s s)) ∧
    (∀ core : CoreId, k.st = .active → Goes (.runTimeout l core) s
      ((k.runs.filter (fun r => decide (r.core = core.toNat ∧ r.last + 4096 ≤ s.clk.fabCyc))).foldl
        (fun s r => sendRun s n r) s)) ∧
    (∀ f,
      let u := updLink s n (fun k => dropStray k vcControl)
      let v := updLink u n (takeFlits 1 vcControl)
      let b := f.body
      let e := geqEntry v 0x173 (srcLink n) none (b.extractLsb' 128 64) (b.extractLsb' 192 64) false false
      vcHead (linkOf u n).rxBuf (BitVec.ofNat 2 vcControl) = some f →
      ((bType b ≠ txMsg ∨ bodyOk b = false) → Goes (.msg l) s
        (sendCompletion (winRefused v n b 7) n (bTag b) 7 0 0 [])) ∧
      (bType b = txMsg → bodyOk b = true →
        (bForge b = true → inboxRoom v = true → Goes (.msg l) s
          (sendCompletion (inboxPut v e) n (bTag b) 0 0 0 [])) ∧
        (bForge b = true → inboxRoom v = false → Goes (.msg l) s (sendCompletion v n (bTag b) 8 0 0 [])) ∧
        (bForge b = false → Goes (.msg l) s
          (sendCompletion (geqPut v e) n (bTag b) (if geqFull v then 8 else 0) 0 0 [])))) ∧
    (let u := updLink s n (fun k => dropStray k vcResponse)
     ∀ f rest, vcFlits (linkOf u n) vcResponse = f :: rest →
      ((bType f.body ≠ txCompletion ∨ txnFor (linkOf u n) f.body = none) →
        Goes (.completion l) s (updLink u n (takeFlits 1 vcResponse))) ∧
      (∀ tag t, bType f.body = txCompletion → txnFor (linkOf u n) f.body = some (tag, t) →
        (t.type.toNat ≠ txWinRead ∨ bStatus f.body ≠ 0) → Goes (.completion l) s
          (txnEnds (updLink u n (takeFlits 1 vcResponse)) n tag t (bStatus f.body) []))) ∧
    (∀ (tag : BitVec 10) t, mget none k.txns tag.toNat = some t → 1000000 ≤ (now s - t.sent).toNat →
      Goes (.transactionTimeout l tag) s (txnLost s n tag.toNat))

/-- Where the events of a link and of the ATU complete, and what each then holds: the state that a link enters
(R417 to R420, R439, R440), what its registers and windows hold (R429, R434, R442), which block, line or
transaction is taken (R415, R426, R430, R435, R437), and the slot or the walk that changes (R306, R309, R561). -/
def Obligations.WalksAndLinksComplete : Prop :=
  ∀ (s : State) (l : LinkId) (i : Initiator), (i = .host ∨ i = .forge) → domOn s (213 + l.toNat) = true →
    let n := l.toNat
    let k := linkOf s n
    (k.st = .down → ∃ t, Goes (.linkEnable i l) s t ∧ (linkOf t n).enable = true ∧ (linkOf t n).st = .detect) ∧
    (∃ t, Goes (.linkDisable i l) s t ∧ (linkOf t n).enable = false ∧ (linkOf t n).st = .down) ∧
    (k.st = .active →
      (∃ t, Goes (.linkRetrainRequest i l) s t ∧ (linkOf t n).st = .retrain) ∧
      (∃ t, Goes (.laneLockLoss l) s t ∧ (linkOf t n).st = .retrain ∧
        (linkOf t n).retrainCnt = satAdd k.retrainCnt 1) ∧
      (k.retryBuf ≠ [] → k.ackAt + 4096 ≤ s.clk.fabCyc →
        ∃ t, Goes (.ackStallTimeout l) s t ∧ (linkOf t n).st = .retrain) ∧
      (k.retryOut = true → k.retryAt + 1024 ≤ s.clk.fabCyc →
        ∃ t, Goes (.retryRequestTimeout l) s t ∧ (linkOf t n).retryAt = s.clk.fabCyc ∧ t.mem = s.mem) ∧
      (∀ core r, k.runs = [r] → r.core = core.toNat → r.last + 4096 ≤ s.clk.fabCyc → r.lines ≠ [] →
        freeTag k ≠ none → ∃ t, Goes (.runTimeout l core) s t ∧ (linkOf t n).runs = []) ∧
      (∀ a rest, k.apLines = a :: rest → ∃ t, Goes (.apertureLine l) s t ∧ (linkOf t n).apLines = rest)) ∧
    (k.st = .detect → ∃ t, Goes (.linkDetect l) s t ∧ (linkOf t n).st = .align) ∧
    (k.st = .align →
      (∀ skew : List (BitVec 6), skew.length = 8 → (∀ x ∈ skew, x.toNat ≤ 32) →
        ∃ t, Goes (.linkAlign l skew) s t ∧ (linkOf t n).st = .train ∧
          ∀ j, j < 8 → mget 0 (linkOf t n).skew j = skew.getD j 0) ∧
      (200000 ≤ (now s - k.since).toNat → ∃ t, Goes (.alignTimeout l) s t ∧ (linkOf t n).st = .detect)) ∧
    (k.st = .train →
      (∀ f : TrainFrame, f.echo = false → f.field = 1 → f.lane.toNat < 8 →
        ∃ t, Goes (.trainFrame l f) s t ∧ (linkOf t n).peerId = f.value.extractLsb' 0 32) ∧
      (40000000 ≤ (now s - k.since).toNat → ∃ t, Goes (.trainTimeout l) s t ∧ (linkOf t n).st = .down ∧
        (linkOf t n).trainFails = k.trainFails + 1)) ∧
    (k.st = .retrain → 1000000 ≤ (now s - k.since).toNat →
      ∃ t, Goes (.retrainTimeout l) s t ∧ (linkOf t n).st = .down ∧ (linkOf t n).lastDown = 3) ∧
    (k.auto = true → 100000000 ≤ (now s - k.since).toNat → k.st = .down → k.enable = true → k.spent = false →
      ∃ t, Goes (.linkAutoRestart l) s t ∧ (linkOf t n).st = .detect) ∧
    (∀ b : LaneBlock,
      let type := ((descrambleWord b.payload (mget 0 k.descr b.lane.toNat)).1.extractLsb' 0 8).toNat
      b.sync = 2 → type ≠ 0x4B → type ≠ 0x55 → type ≠ 0x78 → type ≠ 0x1E → ∃ t, Goes (.flitReceive l [b]) s t ∧
        mget 0 (linkOf t n).blockErrs b.lane.toNat = satAdd (mget 0 k.blockErrs b.lane.toNat) 1) ∧
    (∀ forge, k.msgBusy = false → linkHolds k = true → freeTag k ≠ none →
      ∃ t, Goes (.pltMsgGo i l forge) s t ∧ (linkOf t n).msgBusy = true) ∧
    (∀ w : BitVec 6,
      ((i = .forge ∨ (winOf s n w.toNat).engine = false) → (winOf s n w.toNat).opened = false →
        ∃ t, Goes (.windowOpen i l w) s t ∧ (winOf t n w.toNat).opened = true) ∧
      (∃ t, Goes (.windowClose i l w) s t ∧ (winOf t n w.toNat).opened = false)) ∧
    (∀ hi : Word, entryInUse k k.xtSel.toNat = false →
      ∃ t, Goes (.xtCommit i l hi) s t ∧ mget 0 (linkOf t n).table k.xtSel.toNat = hi ++ k.xtLo) ∧
    (∀ b u, k.inb = none → headRequest s n = (some b, u) →
      let t := updLink u n (takeFlits 1 vcRequest)
      let x := winOf t n (bWindow b)
      let pa := winPa t n x (bOffset b)
      (bType b = txWinWrite → winTest t n b 0 = 0 → bLines b = 1 → x.kind = true → x.acen = false →
        physOk t x.engine pa (pa + 127) = true → ∀ f, vcHead (linkOf t n).rxBuf 0 = some f → f.kind = 2 →
        ∃ v, Goes (.winWrite l .ok .clean) s v ∧ v.mem = wrLine s.mem pa f.body) ∧
      (bType b = txWinRead → winTest t n b 1 = 0 → bLines b = 1 → x.kind = true →
        physOk t x.engine pa (pa + 127) = true → ∃ v, Goes (.winRead l .ok) s v ∧ v.mem = s.mem) ∧
      (bType b = txFenceSig → winTest t n b 2 = 0 → physOk t x.engine pa (pa + 7) = true →
        ∃ v, Goes (.fenceSig l .ok) s v ∧ v.mem = (fenceRaise t none (BitVec.ofNat 64 pa) (bValue b)).2.mem)) ∧
    (let u := updLink s n (fun k => dropStray k vcControl)
     let v := updLink u n (takeFlits 1 vcControl)
     ∀ f, vcHead (linkOf u n).rxBuf 2 = some f → bType f.body = txMsg → bodyOk f.body = true →
       bForge f.body = false → ∃ t, Goes (.msg l) s t ∧ t.geq = (geqPut v (geqEntry v 0x173 (srcLink n) none
         (f.body.extractLsb' 128 64) (f.body.extractLsb' 192 64) false false)).geq) ∧
    (let u := updLink s n (fun k => dropStray k vcResponse)
     ∀ f rest tag x, vcFlits (linkOf u n) vcResponse = f :: rest → bType f.body = txCompletion →
       txnFor (linkOf u n) f.body = some (tag, x) → x.type.toNat = txWinWrite → bStatus f.body = 0 →
       ∃ t, Goes (.completion l) s t ∧ mget none (linkOf t n).txns tag = none) ∧
    (∀ (tag : BitVec 10) x, mget none k.txns tag.toNat = some x → x.type.toNat = txMsg →
      1000000 ≤ (now s - x.sent).toNat →
      ∃ t, Goes (.transactionTimeout l tag) s t ∧ mget none (linkOf t n).txns tag.toNat = none ∧
        (linkOf t n).msgBusy = false) ∧
    (domOn s 209 = true → i = .forge → idTaken s s.atu.sel.toNat (stagedSpace s) = false →
      ((stagedSpace s).valid = false ∨ (stagedSpace s).root.extractLsb' 60 4 = 9) →
      ∃ t, Goes (.atuSpaceCommit i) s t ∧ spaceOf t s.atu.sel.toNat =
        { stagedSpace s with epoch := (spaceOf s s.atu.sel.toNat).epoch + 1 }) ∧
    (∀ (slot : BitVec 12) engine forge, mbxTakes s = true → mbxOp s = 6 → (spaceOf s slot.toNat).valid = true →
      ∃ t, Goes (.spaceFlags slot engine forge) s t ∧ (spaceOf t slot.toNat).engine = engine ∧
        (spaceOf t slot.toNat).forge = forge ∧ (spaceOf t slot.toNat).root = (spaceOf s slot.toNat).root) ∧
    (∀ (walker : BitVec 4) (w : Walk) table, mget none s.atu.walks walker.toNat = some w →
      let a := pteAddr w.table w.va.toNat w.level
      s.atu.disable = false → physOkOf s w.pa (spaceOf s w.slot).engine a (a + 7) = true → walkWaits s w = false →
      pteStep (rd64 s.mem a) w.level = .next table → ∃ t, Goes (.pteReadResponse walker .ok) s t ∧
        mget none t.atu.walks walker.toNat = some { w with level := w.level - 1, table := table } ∧ t.mem = s.mem)

-- ================================================================ standing operation (14)

/-- The host goes and comes back (R401, R402, R405, R406, R413): a host reset marks the host gone, masks its
vectors and stops the GEQ's ring; past the quiet limit running contexts are torn down; quiet is reached once;
ADOPT before it is refused with status 1, FRESH and RESUME after it end the absence, PLAN is refused during a
switch, and kept while a Basket that it changes still drains. -/
def Obligations.HostAbsence : Prop :=
  ∀ (s : State),
    (s.cp.detached = false → ∃ u, Goes .hostReset s u ∧ u.cp.detached = true ∧ u.geq.enable = false ∧
      u.mbx.rspValid = false ∧ u.mbx.reqBusy = false ∧ u.sb.hostQuiet = false ∧
      u.sb.hostResetTick = some (now s) ∧ (∀ v, v < 24 → (mget {} u.cp.vecs v).mask = true) ∧
      u.sb.plan = s.sb.plan) ∧
    (s.cp.detached = true → Goes .hostReset s s) ∧
    (∀ t, s.sb.hostResetTick = some t → s.cp.detached = true → s.sb.quietLimit.toNat ≤ (now s - t).toNat →
      Goes .quietLimitExpiry s ((hostCtxs s).foldl (fun s c =>
        if (ctxOf s c).state = .running then cmdFault s c tfTeardown 3 else s) s)) ∧
    (s.cp.detached = true → s.sb.hostQuiet = false → quietNow s = true →
      Goes .hostQuiet s (closeOutside ((hostCtxs s).foldl quietWait
        { s with sb := { s.sb with hostQuiet := true } }))) ∧
    (mbxTakes s = true → mbxOp s = 7 → reqClean s [(1, 3), (2, 0xFFFFFFFF), (3, 0xFFFFFFFF)] = true →
      let m := (bits (reqW s 1) 0 2).toNat
      let back (t : State) : State :=
        { t with cp := { t.cp with detached := false }, sb := { t.sb with hostResetTick := none } }
      (m = 0 → s.sb.hostQuiet = false → Goes .adoptFresh s (mbxReply s 1 [])) ∧
      (m = 1 → s.sb.hostQuiet = false → Goes .adoptResume s (mbxReply s 1 [])) ∧
      (m = 0 → s.sb.hostQuiet = true →
        let t := (hostCtxs s).foldl forgetCtx s
        let t := ((List.range 16).filter (fun b => (bskOf t b).valid && !(bskOf t b).standing)).foldl
          forgetBasket t
        let t := ((t.atu.slots.filter (fun e => e.2.valid && !e.2.engine)).map (·.1)).foldl
          (fun t k => putSpace t k { spaceOf t k with valid := false }) t
        Goes .adoptFresh s (adoptReply (back t))) ∧
      (m = 1 → s.sb.hostQuiet = true →
        Goes .adoptResume s (adoptReply (back ((hostCtxs s).foldl (fun t c => updCtx t c (fun k =>
          if k.state = .detached then { k with state := .stopped } else k)) s)))) ∧
      (∀ f p, m = 2 → s.sb.switching.any (fun e => e.2.isSome) = false → carveOk s = true →
        planRead s f = some p → changedBaskets s p = [] → s.sb.alloc ≠ 0 →
        ∃ t, Goes (.adoptPlan f) s t ∧ t.sb.plan = some p ∧ t.mbx.rspValid = true ∧ t.mbx.taken = none ∧
          t.mbx.reqBusy = (s.mbx.reqBusy && s.mbx.taken.isSome)) ∧
      (∀ f p x, m = 2 → s.sb.switching.any (fun e => e.2.isSome) = false → carveOk s = true →
        planRead s f = some p → changedBaskets s p = [x] → (bskOf s x).valid = true → (bskOf s x).standing = true →
        (bskOf s x).drain = true → drainOver s x = false → Goes (.adoptPlan f) s (mbxKeep s)) ∧
      (∀ f, m = 2 → s.sb.switching.any (fun e => e.2.isSome) = true →
        Goes (.adoptPlan f) s (mbxReply s 1 [])))

/-- Standing operation (R407 to R410): the Forge's start ends with FORGE_READY and its entry, a failed standing
context is reset and supervised, scene memory is sampled once a second, a time of day that passes fires its
entry, and a switch is placed and then ends. -/
def Obligations.StandingOperation : Prop :=
  ∀ (s : State), forgeRuns s = true →
    (∀ f, s.mbx.forgeReady = false → ∃ t, Goes (.forgeStart f) s t ∧ t.mbx.forgeReady = true ∧
      t.fp.enable = true) ∧
    (∀ f, s.mbx.forgeReady = true → Goes (.forgeStart f) s s) ∧
    (∀ ctx : CtxId,
      let c := ctx.toNat
      let k := ctxOf s c
      let b := k.basket.toNat
      let e := geqEntry s k.code.toNat srcCp (some c) (faultObj k k.reason.toNat none) 0 false true
      let u := resetCtx (if s.cp.detached then s else eventLog s e) .forge c
      ctxStanding s c = true → k.state = .error → Goes (.standingRestart ctx) s (superviseBasket
        (if s.sb.parked.getLsbD b then u else
          { startCtx u .forge c with sb := { (startCtx u .forge c).sb with
              restartCnt := satAdd (startCtx u .forge c).sb.restartCnt 1 } }) b)) ∧
    (∀ p, s.sb.plan = some p → (s.sb.sampled = none ∨ ∃ t, s.sb.sampled = some t ∧ 100000000 ≤ (now s - t).toNat) →
      Goes .sceneSample s (p.baskets.foldl (fun s b =>
        if s.sb.standing.getLsbD b.slot.toNat && !s.sb.parked.getLsbD b.slot.toNat then
          b.entries.zipIdx.foldl (fun s e => sampleEntry s b.slot.toNat e) s
        else s) { s with sb := { s.sb with sampled := some (now s) } })) ∧
    (∀ (b : BasketId) (entry : BitVec 4) p m o holds,
      let n := b.toNat
      let e := entry.toNat
      planOf s n = some p → p.entries[e]? = some { trigger := .time m o, change := holds } →
      s.sb.timeCertain = true → s.sb.standing.getLsbD n = true → s.sb.parked.getLsbD n = false →
      let day := dayMark (wallSecond s) m o
      let old := mget 0 s.sb.samples (16 * n + e)
      let u := { s with sb := { s.sb with samples := mset 0 s.sb.samples (16 * n + e) day } }
      (old ≠ 0 → old < day → Goes (.timeTrigger b entry) s (fireEntry u n e)) ∧
      (old = 0 ∨ day ≤ old → Goes (.timeTrigger b entry) s u)) ∧
    (∀ (b : BasketId) bad r p,
      let n := b.toNat
      mget none s.sb.switching n = some r → planOf s n = some p → s.sb.parked.getLsbD n = false →
      (r.placed = true → Goes (.ingotSwitch b bad) s (switchEnd s n r)) ∧
      (r.placed = false → Goes (.ingotSwitch b bad) s (switchPlace s n p r bad)))

-- ================================================================ service (17)

/-- Service of the fabric and of the Forge (R483, R486, R489 to R492): a packet's resends are counted, and the
sixteenth that fails retires the link; the Forge's watchdog, a recovery, an update and its handover. -/
def Obligations.ForgeService : Prop :=
  ∀ (s : State),
    let t := now s
    (∀ link, link < 40 → s.svc.meshRetired.getLsbD link = false →
      let n := mget 0 s.svc.resends link + 1
      let sent (n : Nat) : State :=
        let u := count s 262 1
        { u with svc := { u.svc with resends := mset 0 u.svc.resends link n } }
      Goes (.packetResend link false) s (sent 0) ∧
      (n < 16 → Goes (.packetResend link true) s (sent n)) ∧
      (16 ≤ n → Goes (.packetResend link true) s (retireLink s link))) ∧
    (∀ v, domOn s 209 = true → v.getLsbD 0 = true →
      Goes (.svcWdog .forge v) s { s with svc := { s.svc with wdog := t } }) ∧
    (forgeRuns s = true → s.mbx.forgeReady = true → 10000000 ≤ (t - s.svc.wdog).toNat →
      ∃ u, Goes .forgeWatchdogExpiry s u ∧ u.mbx.forgeReady = false ∧ u.store.commitBusy = false ∧
        (s.svc.lastRecovery = none → u.svc.recovering = true ∧ u.svc.halted = s.svc.halted) ∧
        (∀ r, s.svc.lastRecovery = some r → (t - r).toNat < 60000000000 →
          u.svc.halted = true ∧ u.svc.recovering = s.svc.recovering)) ∧
    (s.svc.recovering = true → Goes .forgeRecovered s
      (post { s with
        mbx := { s.mbx with forgeReady := true }
        svc := { s.svc with recovering := false, half := !s.svc.half, wdog := t, lastRecovery := some t } }
        0x1D2 srcForge none 0 0)) ∧
    (∀ authentic version, s.svc.update = none → mbxTakes s = true → mbxOp s = 8 →
      reqClean s [(1, 0xFFFFFFFF), (2, 0xFFFFFFFF), (3, 0xFFFFFFFF), (4, 1)] = true →
      reqW s 1 &&& 0xFFF = 0 → 1 ≤ (reqW s 3).toNat → (reqW s 3).toNat ≤ 524288 →
      let k := mbxKeep s
      let q : Update := { tag := mbxTag s, version := version, authentic := true, loaded := true, since := t }
      (authentic = false → Goes (.fwUpdate authentic version) s (mbxReply s 3 [])) ∧
      (authentic = true → quiescent k = false → Goes (.fwUpdate authentic version) s
        { k with svc := { k.svc with update := some q } }) ∧
      (authentic = true → quiescent k = true → Goes (.fwUpdate authentic version) s { k with
        mbx := { k.mbx with handover := true, forgeReady := false }
        svc := { k.svc with update := some q } })) ∧
    (∀ q authentic version, s.svc.update = some q → s.mbx.handover = false → forgeRuns s = true →
      quiescent s = true → Goes (.fwUpdate authentic version) s { s with
        mbx := { s.mbx with handover := true, forgeReady := false }
        svc := { s.svc with update := some { q with since := t } } }) ∧
    (∀ q, s.svc.update = some q →
      (s.mbx.handover = true →
        Goes .handoverReady s (post (mbxReply { s with
          mbx := { s.mbx with handover := false, forgeReady := true }
          svc := { s.svc with half := !s.svc.half, version := q.version, wdog := t, update := none } } 0
            [q.version, s.svc.version]) 0x1D0 srcForge none 0 0) ∧
        (200000 ≤ (t - q.since).toNat →
          let u := { s with mbx := { s.mbx with handover := false, forgeReady := true }
                            svc := { s.svc with wdog := t } }
          Goes .handoverTimeout s (updateReply (post u 0x1D1 srcForge none 0 0) 5 []))) ∧
      (s.mbx.handover = false → 100000000 ≤ (t - q.since).toNat → Goes .quiescenceTimeout s
        (mbxReply { s with svc := { s.svc with update := none } } 1 []))) ∧
    (forgeRuns s = true → s.svc.replace ≠ 0 → 8640000000000 ≤ (t - s.svc.reminder).toNat →
      let u := geqPut s (geqEntry s 0x1D6 srcForge none (s.svc.replace.setWidth 64) 0 true false)
      Goes .replaceReminder s { u with svc := { u.svc with reminder := t } })

-- ================================================================ power and clocks (18)

/-- Power domains (R8, R501 to R505, R516, R521): a domain whose parent is on is asked for, a reserved bit is
ignored, an acknowledged one comes on, one that is not acknowledged in time is reported, and the Forge resets the store. -/
def Sys2Proof.Says.PowerDomains : Prop :=
  ∀ (s : State), domOn s 209 = true →
    (∀ d : Byte, d.toNat < 217 →
      let n := d.toNat
      (s.pwr.en.getLsbD n = true → Goes (.domainOn .forge d) s s) ∧
      (s.pwr.en.getLsbD n = false → (domParent n = none ∨ ∃ p, domParent n = some p ∧ domOn s p = true) →
        domRetired s n = false → Goes (.domainOn .forge d) s (askSeq (setEn s n true) n true)) ∧
      (s.pwr.en.getLsbD n = false → ((∃ p, domParent n = some p ∧ domOn s p = false) ∨ domRetired s n = true) →
        Goes (.domainOn .forge d) s (pwrRefused s (0xA00020 + 4 * (n / 32))))) ∧
    (∀ d : Byte, 217 ≤ d.toNat → d.toNat < 224 → Goes (.domainOn .forge d) s s) ∧
    (∀ d : Byte, 224 ≤ d.toNat → ∃ v, Goes (.domainOn .forge d) s
      (regReserved s (0xA00020 + 4 * (d.toNat / 32)) v .forge)) ∧
    (∀ (d : Byte) r, s.pwr.reqs.find? (fun r => decide (r.domain = d.toNat)) = some r →
      let u := { s with pwr := { s.pwr with reqs := s.pwr.reqs.erase r } }
      (r.on = true → Goes (.powerAck d) s (pumpSeq 4 (offAfterOn (domainUp u d.toNat) d.toNat))) ∧
      (r.on = false → Goes (.powerAck d) s (pumpSeq 4 u)) ∧
      (r.on = false → 5000 ≤ (now s - r.since).toNat → Goes (.pwrSeqTimeout d) s
        (pumpSeq 4 (post (pwrEvent u 0) 0x1E0 srcPwr none (BitVec.ofNat 64 d.toNat) 0)))) ∧
    (domOn s 210 = true → Goes (.storeReset .forge) s (storeResetDone s)) ∧
    (domOn s 210 = false → Goes (.storeReset .forge) s (pwrRefused s 0xA00074))

/-- Budget, temperature and the root clock (R510 to R514): a budget is taken up to 600, and one below the last
estimate moves the operating point at once; a sample of the sensors sets the hottest; a lost lock is counted, and
its return reported. -/
def Sys2Proof.Says.OperatingPoints : Prop :=
  ∀ (s : State),
    (∀ v : Word, domOn s 209 = true →
      let n := v.toNat % 1024
      let u := { s with pwr := { s.pwr with budget := BitVec.ofNat 10 n } }
      (600 < n → Goes (.pwrBudgetWrite .pmgr v) s (regReserved s 0xA00000 v .pmgr)) ∧
      (n ≤ 600 → s.pwr.est.toNat ≤ n → Goes (.pwrBudgetWrite .pmgr v) s u) ∧
      (n ≤ 600 → n < s.pwr.est.toNat → Goes (.pwrBudgetWrite .pmgr v) s (unmetCheck (toPoint u
        ((bestBy pointRank (allPoints.filter (fun q =>
          fits u q n && decide (pointRank q ≤ pointRank (pointNow s))))).getD slowest))))) ∧
    (∀ i (v : Word), i ≠ .pmgr → Goes (.pwrBudgetWrite i v) s (regRefused s 0xA00000 v i)) ∧
    (∀ (l : List (BitVec 11)) (bad : BitVec 20), 1000 ≤ (now s - s.pwr.thermAt).toNat →
      let good := (List.range 20).filter (sensorOk s bad l)
      let top := (good.map (fun k => (sensorValue s k (l.getD k 0)).toNat)).foldl max 0
      good = List.range 20 → top < 4 * (s.pwr.limit.toNat + 40) → top < 2048 →
      ∃ t, Goes (.thermalSample l bad) s t ∧ t.pwr.t = BitVec.ofNat 11 top ∧ t.pwr.thermAt = now s ∧
        t.pwr.invalid = 0 ∧ t.pwr.high = false ∧ t.pwr.trip = s.pwr.trip ∧ t.pwr.div = s.pwr.div ∧
        t.pwr.gate = s.pwr.gate ∧ t.mem = s.mem) ∧
    (s.pwr.lostSince = none → Goes .pllUnlock s { s with pwr := { s.pwr with
      lock := false, lostSince := some (now s)
      unlocks := if s.pwr.unlocks = 0xFFFF then s.pwr.unlocks else s.pwr.unlocks + 1 } }) ∧
    (∀ t, s.pwr.lostSince = some t →
      Goes .pllRelock s
        (let u := { s with pwr := { s.pwr with lock := true, lostSince := none } }
         post { u with pwr := { u.pwr with event := scEvent u.pwr.event 16 } } 0x1E6 srcPwr none (now s - t) 0) ∧
      (1000000 ≤ (now s - t).toNat → Goes .pllUnlockTimeout s
        { s with pwr := { s.pwr with coldAsk := true } }))

/-- Power domains, budgets, temperature and the root clock. -/
def Obligations.PowerRules : Prop :=
  Says.PowerDomains ∧ Says.OperatingPoints

/-- Block resets (R515, R517 to R519, R542): what every one of them leaves as it was, and what it starts. A
cold reset without lock stands at the state after reset; a warm reset keeps the timebase; a loss of power keeps
the flash and Temper's array alone. -/
def Obligations.BlockResets : Prop :=
  ∀ (s : State) (i : StartInputs),
    let base := { State.reset with
      pending := s.pending, mem := s.mem, freeCount := s.freeCount
      temper := { words := (temperCommitDone 0 0 s).temper.words, shadow := [] }
      store := storeFlash s.store }
    (i.lock = false → Goes (.blockColdReset i) s base) ∧
    (i.lock = true → Goes (.blockColdReset i) s (startUp base i)) ∧
    Goes (.blockWarmReset i) s (startUp { base with
      clk := s.clk, pwr := { base.pwr with unlocks := s.pwr.unlocks, warm := true } } i) ∧
    (i.lock = true → i.authentic = false → ∃ t, Goes (.blockColdReset i) s t ∧ t.mem = s.mem ∧
      t.svc.held = true ∧ t.pwr.lock = true ∧ domOn t 208 = true ∧ t.temper.loaded = true ∧
      t.atu = State.reset.atu ∧ t.cp.ctxs = [] ∧ t.baskets = []) ∧
    (∀ step torn, Goes (.powerLoss step torn) s { State.reset with
      pending := s.pending, freeCount := s.freeCount
      temper := { words := temperTorn s step torn, shadow := [] }
      store := storeFlash s.store })

-- ================================================================ telemetry (20)

/-- Snapshots and the trace ring (R551 to R553, R555, R558): a snapshot copies every counter at once, a line
of four records is written at the ring's place and nothing else of memory changes. -/
def Obligations.Telemetry : Prop :=
  ∀ (s : State), domOn s 216 = true →
    (∀ i, (i = .host ∨ i = .forge) →
      ((now s).toNat < s.tel.tick.toNat → Goes (.snapshotArm i) s
        { s with tel := { s.tel with pending := some s.tel.tick, lateNext := false } }) ∧
      (s.tel.tick.toNat ≤ (now s).toNat → Goes (.snapshotArm i) s
        { s with tel := { s.tel with pending := some (now s + 1), lateNext := true } }) ∧
      (s.tel.traceEn = false → Goes (.traceEnable i) s
        { s with tel := { s.tel with traceEn := true, wr := 0, rd := 0 } })) ∧
    (∀ t, s.tel.pending = some t → t.toNat ≤ (now s).toNat → s.pwr.lostSince = none →
      ∃ u, Goes .snapshot s u ∧ u.tel.shadows = s.tel.counters ∧ u.tel.counters = s.tel.counters ∧
        u.tel.taken = now s ∧ u.tel.seq = s.tel.seq + 1 ∧
        u.tel.late = (s.tel.lateNext || decide (now s ≠ t)) ∧
        u.tel.pending = (if s.tel.period = 0 then none else some (now s + s.tel.period.setWidth 64)) ∧
        u.mem = s.mem) ∧
    (∀ r, s.tel.queue[s.tel.queue.length / 4 * 4]? = some r → s.tel.traceEn = true →
      1000 ≤ (now s - r.tick).toNat → Goes .traceLineTimeout s { s with tel := { s.tel with
        queue := s.tel.queue ++ List.replicate (4 - s.tel.queue.length % 4) (padRec (now s)) } }) ∧
    (4 ≤ s.tel.queue.length → s.tel.traceEn = true → s.pwr.lostSince = none → linePaced s = false →
      (s.tel.wr - s.tel.rd).toNat + 4 ≤ 2 ^ s.tel.log2.toNat →
      let a := s.tel.base.toNat + 32 * (s.tel.wr.toNat % 2 ^ s.tel.log2.toNat)
      (physOk s false a (a + 127) = true →
        Goes (.traceLineWrite .ok) s { s with
          mem := putRecords s.mem (tracePhase s) a (s.tel.queue.take 4)
          tel := { s.tel with queue := s.tel.queue.drop 4, wr := s.tel.wr + 4, lineAt := some s.clk.fabCyc } } ∧
        (∃ u, Goes (.traceLineWrite .ok) s u ∧
          ∀ b, b < a ∨ a + 128 ≤ b → rdByte u.mem b = rdByte s.mem b)) ∧
      (physOk s false a (a + 127) = false → ∀ resp, Goes (.traceLineWrite resp) s
        (traceFails { s with tel := { s.tel with lineAt := some s.clk.fabCyc } } a)))

-- ================================================================ the Ingot Store (16)

namespace Sys2Proof.Says

/-- The STORE command of subop `sub` that context `c` runs stands before its effect: its request block has been
read, it waits for no commit, and it has no result yet; the store is mounted, and a walk for its completion
record would find a walker and credit (R311, R331, R464, R473, R475). -/
structure Serves (s : State) (c sub : Nat) (r : StoreReq) : Prop where
  command : ∃ req, (ctxOf s c).cur = some (.store sub req)
  request : reqOf s c = some r
  started : (ctxOf s c).started = true
  unfinished : (ctxOf s c).finished = false
  running : (ctxOf s c).state = .running
  same : r.rd = (ctxOf s c).rd
  free : r.waits = false
  open_ : r.result = none
  mounted : s.store.st = 2
  served : mayLookup s (ctxOf s c).basket.toNat (slotOfCtx s c) (pagesOf (span (sqStatus r.block) 16)) = true

end Sys2Proof.Says

open Sys2Proof Sys2Proof.Machine Sys2Proof.Says

/-- Mount, unmount and the store's timers (R447, R453, R464, R469, R472, R480): the Forge's request brings the
targets up and takes the newest root, a poll or a completion ends the operation of its LUN, one past twice its
time is repeated once and then fails its target, a refresh moves a block that is due, and the copy to a new
module ends after a commit. -/
def Sys2Proof.Says.StoreUpkeep : Prop :=
  ∀ (s : State),
    (∀ bad errs, domOn s 210 = true →
      (s.store.enable = true → Goes (.storeMount bad errs) s s ∧
        Goes .storeUnmount s (updStore (finishOps s (fun _ => true)) (fun t =>
          { storeForget t with enable := false, st := 0 }))) ∧
      (s.store.enable = false → Goes .storeUnmount s s ∧
        (let u := { s with store := { storeForget s.store with enable := true, st := 1 } }
         (profOk u = false → Goes (.storeMount bad errs) s { u with store := { u.store with st := 3 } }) ∧
         (profOk u = true → (bringUp u bad).store.outA = false → (bringUp u bad).store.outB = false →
            Goes (.storeMount bad errs) s (mountRoot (bringUp u bad) errs))))) ∧
    (∀ ch ce lun : Nat, ch < 4 → ce < 4 → lun < 2 →
      let n := ch * 8 + ce * 2 + lun
      (∀ fail, Goes (.nandOpComplete ch ce lun fail) s (nandDone s n fail)) ∧
      (∀ status : Byte, status.getLsbD 6 = true →
        Goes (.statusPoll ch ce lun status) s (nandDone s n (status.getLsbD 0))) ∧
      (∀ status : Byte, status.getLsbD 6 = false → Goes (.statusPoll ch ce lun status) s s) ∧
      (∀ o t, nextOp s.store n = some o → o.started = some t → 2 * profTime s o.erase < (now s - t).toNat →
        (o.retried = true → Goes (.nandOpTimeout ch ce lun) s (targetFails s (4 * ch + ce))) ∧
        (o.retried = false → Goes (.nandOpTimeout ch ce lun) s { s with store := { s.store with
          ops := s.store.ops.map (fun y =>
            if y = o then { y with started := some (now s), retried := true } else y) } }))) ∧
    (s.store.st = 2 → 1000000000 ≤ (now s - s.store.zqTick).toNat →
      Goes .zqCalibrationTimer s { s with store := { s.store with zqTick := now s } }) ∧
    (∀ t, s.store.armedUntil = some t → (now s - t).toNat < 2 ^ 63 →
      Goes .eraseArmExpiry s { s with store := { s.store with armedUntil := none } }) ∧
    (forgeRuns s = true → 360000000000 ≤ (now s - s.store.hoursTick).toNat →
      Goes .storeHoursTick s (forgeTemper { s with store := { s.store with hoursTick := now s } } 4
        (forgeWord s 4 + 1) true)) ∧
    (s.store.rebuilding = true → s.store.st = 2 → s.store.outA = false → s.store.outB = false →
      (s.store.copiedGen = none → Goes .mirrorRebuilt s (rebuildCopy s)) ∧
      (∀ g, s.store.copiedGen = some g → s.store.gen ≠ g →
        Goes .mirrorRebuilt s (clearNandBit (stPost (stEvent
          { s with store := { s.store with rebuilding := false, copiedGen := none } } 5) 0x18B)))) ∧
    (∀ k corrected, s.store.st = 2 →
      let u := updStore s (fun t => updBlk { t with ceCnt := satAdd t.ceCnt corrected } k
        (fun b => { b with corrected := b.corrected + corrected }))
      refreshDue u k corrected = false → Goes (.storeRefresh k corrected) s u)

/-- The commit (R460, R461): one that is due seals the open pages with pad records and starts their programs;
when every page has succeeded its checkpoint and its root follow, and the generation advances by one. -/
def Sys2Proof.Says.StoreCommits : Prop :=
  ∀ (s : State), s.store.st = 2 → s.store.blank = false → forgeRuns s = true → s.temper.busy = none →
    (s.store.commitBusy = false → commitDue s = true → pagesDone (commitStart s).store = false →
      Goes .journalCommit s (commitStart s)) ∧
    (s.store.commitBusy = false → commitDue s = false → Goes .journalCommit s s) ∧
    (s.store.commitBusy = true → pagesDone s.store = true → Goes .journalCommit s (finishCovered (commitEnd s))) ∧
    (s.store.commitBusy = true → pagesDone s.store = true → s.store.reqs = [] →
      ∃ t, Goes .journalCommit s t ∧ t.store.gen = s.store.gen + 1 ∧ t.store.commitBusy = false ∧
        t.store.journal.committed = nextPage t.store.journal ∧ t.mem = s.mem)

/-- STORE and SAPP (R296 to R298, R342, R473, R474, R477): a reserved subop is CMD_BAD reason 5; a context without
GRANT is denied; the request block is read and checked, and a SEARCH becomes a task; records that a core appends enter the log once, in the order
of issue of their context. -/
def Obligations.StoreRequests : Prop :=
  (∀ (s : State) (ctx : CtxId) sub req,
    let c := ctx.toNat
    let k := ctxOf s c
    k.cur = some (.store sub req) → canStart s c = true →
    let listed := (1 ≤ sub ∧ sub ≤ 6) ∨ (0x10 ≤ sub ∧ sub ≤ 0x16)
    (¬ listed → Goes (.store ctx) s (cmdFault s c tfCmdBad 5)) ∧
    (listed → k.grant = false → Goes (.store ctx) s (cmdFault s c tfStoreDenied 0)) ∧
    (listed → k.grant = true → (∀ r, reqOf s c = some r → r.rd ≠ k.rd) →
      mayLookup s k.basket.toNat (slotOfCtx s c) (pagesOf (span req.toNat 64)) = true →
      let u := if sub = subSearch then s else beginCmd s c .running
      (∀ va x v, xlatPages k.basket.toNat (slotOfCtx u c) false (pagesOf (span req.toNat 64)) u = (some (va, x), v) →
        Goes (.store ctx) s (xlatFault v c none va false false x)) ∧
      (∀ v, xlatPages k.basket.toNat (slotOfCtx u c) false (pagesOf (span req.toNat 64)) u = (none, v) →
        let b := BitVec.ofNat 512 (virtWord v k.basket.toNat (slotOfCtx u c) req.toNat 64)
        (sqOk sub b = false → Goes (.store ctx) s (cmdFault v c tfCmdBad 9)) ∧
        (sqOk sub b = true → Goes (.store ctx) s
          (if sub = subSearch then beginExec (setReq v c (some { rd := k.rd, block := b })) c searchExec
           else setReq v c (some { rd := k.rd, block := b })))))) ∧
  (∀ (s : State) (core : CoreId) x t g va n recs ac ord seq,
    sappCall s core.toNat = some (x, t, .append g va n recs ac ord seq) →
    let old := callOld s x t ord (isAppendCall ord seq)
    let take (s : State) : State := acIncCtx (callDone s x t (isAppendCall ord seq)) x t ac.toNat 1 old
    let mark (s : State) : State := updCtx s x (fun k => { k with sappPair := some (ord, seq) })
    (appendBehind s x ord seq = true → Goes (.sappAccept core) s s) ∧ (appendBehind s x ord seq = false →
    (pairAbove (ctxOf s x).sappPair ord seq = false → Goes (.sappAccept core) s (take s)) ∧
    (pairAbove (ctxOf s x).sappPair ord seq = true → s.store.st = 3 → Goes (.sappAccept core) s
      (take (mark { s with store := { s.store with ueCnt := satAdd s.store.ueCnt n } }))) ∧
    (pairAbove (ctxOf s x).sappPair ord seq = true → s.store.st = 2 → n ≤ logRoom s.store g →
      Goes (.sappAccept core) s (take (mark (appendRecs s g (appendClass s x) recs))))))

/-- The STORE subops (R451, R459, R470, R472 to R477): each has its effect on the store and ends with its
completion record, whose status says why it was refused; a page in which a read finds wrong bits is corrected or
lost. -/
def Sys2Proof.Says.StoreSubops : Prop :=
  ∀ (s : State) (ctx : CtxId) (r : StoreReq) (errs : List PageErr),
    let c := ctx.toNat
    let b := r.block
    (∀ p ∈ ([(.journalAppend ctx, subJournalAppend, false), (.galleryAppend ctx, subGalleryAppend, true)] :
        List (Instr × Nat × Bool)), Serves s c p.2.1 r →
      (r.taken = true → Goes p.1 s (appendMore s c p.2.2 r)) ∧
      (r.taken = false → s.store.blank = true → Goes p.1 s (storeFinish s c r (2, 0, 0))) ∧
      (r.taken = false → s.store.blank = false → sqLen b < sqCount b * recBytes p.2.2 →
        Goes p.1 s (storeFinish s c r (6, 0, 0))) ∧
      (r.taken = false → s.store.blank = false → sqCount b * recBytes p.2.2 ≤ sqLen b →
        Goes p.1 s (readBuf s c [(sqBuf b, sqCount b * recBytes p.2.2)] (fun s => appendMore s c p.2.2 { r with
          taken := true
          left := (List.range (sqCount b)).map (fun i =>
            bufBytes s c (sqBuf b + i * recBytes p.2.2) (recBytes p.2.2)) })))) ∧
    (∀ p ∈ ([(.journalRead ctx errs, subJournalRead, false), (.galleryRead ctx errs, subGalleryRead, true)] :
        List (Instr × Nat × Bool)), Serves s c p.2.1 r →
      (sqLen b < 64 → Goes p.1 s (storeFinish s c r (6, 0, 0))) ∧
      (64 ≤ sqLen b → spanRecs s.store p.2.2 (sqA0 b) ≤ 2 ^ 32 → Goes p.1 s (readBuf s c (maskRange b) (fun s =>
        let z := scanLog s errs p.2.2 (sqA0 b) (min (sqCount b) ((sqLen b - 64) / recBytes p.2.2)) (sqA1 b)
          (sqA2 b) (maskOf s c b)
        writeBuf (count (noteScan s p.2.2 z) 267 z.read) c r (leBytes 8 z.next ++ leBytes 8 z.scanned ++
          leBytes 8 z.holes ++ List.replicate 40 0 ++ z.found.reverse.flatMap (·.2))
          (if z.holes = 0 then 0 else 3, z.found.length, z.holes))))) ∧
    (Serves s c subCommit r →
      Goes (.commit ctx) s (storeFinish { s with store := { s.store with early := true } } c r (0, 0, 0))) ∧
    (∀ t, (ctxOf s c).task = some t → reqOf s c = some r → t.cmd.search = true → t.phase = .running →
      s.store.st = 2 →
      (sqLen b < 64 + 8 * sqNq b * sqK b → Goes (.search ctx errs) s (endSearch (storeFinish s c r (6, 0, 0)) c)) ∧
      (64 + 8 * sqNq b * sqK b ≤ sqLen b → spanRecs s.store true 0 ≤ 2 ^ 32 → Goes (.search ctx errs) s
        (readBuf s c ((sqA0 b, 256 * sqNq b) :: maskRange b) (fun s =>
          let o := searchOut s errs c b
          endSearch (writeBuf (count (noteScan s true o.2.2) 267 o.2.2.read) c r o.1
            (holeStatus o.2.2.holes o.2.1)) c)))) ∧
    (Serves s c subIngotWrite r →
      (ingotRoom s (sqA0 b) (sqLen b) = false → Goes (.ingotWrite ctx) s (storeFinish s c r (2, 0, 0))) ∧
      (ingotRoom s (sqA0 b) (sqLen b) = true → Goes (.ingotWrite ctx) s
        (imageWrite (sqA0 b) (fun t => { t with early := true }) c r s))) ∧
    (∀ p, Serves s c subPlanWrite r → Goes (.planWrite ctx p) s
      (imageWrite planId (fun t => { t with plan := some p }) c r s)) ∧
    (Serves s c subIngotRead r →
      (ingotOf s.store (sqA0 b) = none → Goes (.ingotRead ctx errs) s (storeFinish s c r (1, 0, 0))) ∧
      (∀ i, ingotOf s.store (sqA0 b) = some i →
        (sqLen b < i.bytes.length → Goes (.ingotRead ctx errs) s (storeFinish s c r (6, 0, 0))) ∧
        (i.bytes.length ≤ sqLen b → onPresent s.store i.onA i.onB = true → (∀ x ∈ errs, x.region = 1) → errs ≠ [] →
          Goes (.ingotRead ctx errs) s (readImage s errs c r i)) ∧
        (i.bytes.length ≤ sqLen b → onPresent s.store i.onA i.onB = true → (∀ x ∈ errs, x.region ≠ 1) →
          Goes (.ingotRead ctx errs) s (writeBuf (count s 267 (imagePages16 i.bytes.length)) c r i.bytes (0, i.bytes.length, 0))) ∧
        (i.bytes.length ≤ sqLen b → onPresent s.store i.onA i.onB = false → Goes (.ingotRead ctx errs) s
          (storeFinish s c r (3, 0, imagePages16 i.bytes.length))))) ∧
    (Serves s c subIngotDelete r →
      (ingotOf s.store (sqA0 b) = none → Goes (.ingotDelete ctx) s (storeFinish s c r (1, 0, 0))) ∧
      (ingotOf s.store (sqA0 b) ≠ none → ingotInForce s (sqA0 b) = true →
        Goes (.ingotDelete ctx) s (storeFinish s c r (4, 0, 0))) ∧
      (ingotOf s.store (sqA0 b) ≠ none → ingotInForce s (sqA0 b) = false → Goes (.ingotDelete ctx) s
        (storeFinish { s with store := { s.store with ingots := mset none s.store.ingots (sqA0 b) none } } c r
          (0, 0, 0)))) ∧
    (∀ bad, Serves s c subFormat r →
      let u := { s with store := { s.store with armedUntil := none } }
      let good := ((allBlocks u).filter (fun k => isGood u.store k && !bad.contains k)).length
      (s.store.armedUntil = none → Goes (.format ctx bad) s (storeFinish s c r (5, 0, 0))) ∧
      (s.store.armedUntil ≠ none → standingUnparked s = true →
        Goes (.format ctx bad) s (storeFinish u c r (4, 0, 0))) ∧
      (s.store.armedUntil ≠ none → standingUnparked s = false → ∀ q, formatShares good (sqA0 b) = some q →
        Goes (.format ctx bad) s (storeFinish (formatStore u bad q) c r (0, 0, 0))) ∧
      (s.store.armedUntil ≠ none → standingUnparked s = false → formatShares good (sqA0 b) = none →
        Goes (.format ctx bad) s (storeFinish u c r (2, 0, 0)))) ∧
    (Serves s c subModuleOut r →
      let m := decide (sqA0 b = 1)
      (modOut s.store (!m) = true ∨ s.store.rebuilding = true →
        Goes (.moduleOut ctx) s (storeFinish s c r (7, 0, 0))) ∧
      (modOut s.store (!m) = false → s.store.rebuilding = false → modOut s.store m = true →
        Goes (.moduleOut ctx) s (storeFinish s c r (0, 0, 0))) ∧
      (modOut s.store (!m) = false → s.store.rebuilding = false → modOut s.store m = false →
        Goes (.moduleOut ctx) s (storeFinish (setDom (nandBit (dropModule
          (finishOps s (fun o => blkModB o.block == m)) m)) (nandDom m) false) c r (0, 0, 0)))) ∧
    (∀ badT bad, Serves s c subModuleIn r →
      let m := decide (sqA0 b = 1)
      let w : BitVec 16 := profTargets s &&& (if m then 0xFF00 else 0x00FF)
      (modOut s.store m = false → Goes (.moduleIn ctx badT bad) s (storeFinish s c r (7, 0, 0))) ∧
      (modOut s.store m = true → w ≠ 0 → w &&& badT = 0 →
        let u := setDom s (nandDom m) true
        let v := { u with store := { u.store with
          targets := u.store.targets ||| w, outA := u.store.outA && m, outB := u.store.outB && !m } }
        let x := moduleFresh v m bad
        Goes (.moduleIn ctx badT bad) s (storeFinish (stPost
          { x with store := { x.store with rebuilding := true, copiedGen := none } } 0x18A) c r (0, 0, 0))))

/-- The upkeep of the Ingot Store, its commit and its subops. -/
def Obligations.StoreLogAndSubops : Prop :=
  Says.StoreUpkeep ∧ Says.StoreCommits ∧ Says.StoreSubops

/-- Where the store's upkeep and subops, the power commands, the resets and telemetry complete, and what each
then holds (R447, R448, R453, R461, R464, R469, R470, R472, R474, R476, R480, R501 to R503, R510, R512, R514 to
R518, R542, R551, R552, R555, R558). -/
def Obligations.StoreAndPowerComplete : Prop :=
  ∀ s : State,
    (domOn s 210 = true →
      (∀ bad errs,
        let u := { s with store := { storeForget s.store with enable := true, st := 1 } }
        s.store.enable = false → profOk u = true → (bringUp u bad).store.outA = false →
        (bringUp u bad).store.outB = false → ∃ t, Goes (.storeMount bad errs) s t ∧ t.store.st = 2) ∧
      (s.store.enable = true → ∃ t, Goes .storeUnmount s t ∧ t.store.enable = false ∧ t.store.st = 0)) ∧
    (∀ (ch ce lun : Nat) o x, ch < 4 → ce < 4 → lun < 2 → nextOp s.store (ch * 8 + ce * 2 + lun) = some o →
      o.started = some x →
      let u := pumpOps { s with store := { s.store with ops := s.store.ops.erase o } }
      (o.erase = true → Goes (.nandOpComplete ch ce lun false) s u ∧
        ∀ status : Byte, status.getLsbD 6 = true → status.getLsbD 0 = false →
          Goes (.statusPoll ch ce lun status) s u) ∧
      (2 * profTime s o.erase < (now s - x).toNat → o.retried = false →
        ∃ t, Goes (.nandOpTimeout ch ce lun) s t ∧
          { o with started := some (now s), retried := true } ∈ t.store.ops)) ∧
    (s.store.st = 2 →
      (1000000000 ≤ (now s - s.store.zqTick).toNat →
        ∃ t, Goes .zqCalibrationTimer s t ∧ t.store.zqTick = now s ∧ t.mem = s.mem) ∧
      (s.store.blank = false → forgeRuns s = true → s.temper.busy = none → s.store.commitBusy = true →
        pagesDone s.store = true → s.store.reqs = [] →
        ∃ t, Goes .journalCommit s t ∧ t.store.gen = s.store.gen + 1 ∧ t.store.commitBusy = false) ∧
      (s.store.rebuilding = true → s.store.outA = false → s.store.outB = false → s.store.copiedGen = none →
        ∃ t, Goes .mirrorRebuilt s t ∧ t.store.copiedGen = some s.store.gen) ∧
      (∀ k corrected,
        refreshDue (updStore s (fun t => updBlk { t with ceCnt := satAdd t.ceCnt corrected } k
          (fun b => { b with corrected := b.corrected + corrected }))) k corrected = false →
        ∃ t, Goes (.storeRefresh k corrected) s t ∧ t.store.ceCnt = satAdd s.store.ceCnt corrected)) ∧
    (∀ x, s.store.armedUntil = some x → (now s - x).toNat < 2 ^ 63 →
      ∃ t, Goes .eraseArmExpiry s t ∧ t.store.armedUntil = none) ∧
    (forgeRuns s = true → 360000000000 ≤ (now s - s.store.hoursTick).toNat →
      ∃ t, Goes .storeHoursTick s t ∧ t.store.hoursTick = now s) ∧
    (∀ (ctx : CtxId) (r : StoreReq),
      let c := ctx.toNat
      let b := r.block
      let reads (a n : Nat) (u : State) : Prop :=
        xlatPages (ctxBsk s c) (slotOfCtx s c) false (pagesOf (span a n)) s = (none, u)
      (∀ p ∈ ([(.journalAppend ctx, subJournalAppend, false), (.galleryAppend ctx, subGalleryAppend, true)] :
          List (Instr × Nat × Bool)), Serves s c p.2.1 r → r.taken = true → r.left.length ≤ logRoom s.store p.2.2 →
        ∃ t, Goes p.1 s t ∧
          logOf t.store p.2.2 = logOf (appendRecs s p.2.2 (appendClass s c) r.left).store p.2.2) ∧
      (∀ p ∈ ([(.journalRead ctx [], subJournalRead, false), (.galleryRead ctx [], subGalleryRead, true)] :
          List (Instr × Nat × Bool)), Serves s c p.2.1 r → 64 ≤ sqLen b →
        spanRecs s.store p.2.2 (sqA0 b) ≤ 2 ^ 32 → sqA3 b = 0 →
        ∃ t, Goes p.1 s t ∧ t.store.journal = s.store.journal ∧ t.store.gallery = s.store.gallery) ∧
      (∀ x u, (ctxOf s c).task = some x → reqOf s c = some r → x.cmd.search = true → x.phase = .running →
        s.store.st = 2 → 64 + 8 * sqNq b * sqK b ≤ sqLen b → spanRecs s.store true 0 ≤ 2 ^ 32 → sqA3 b = 0 →
        reads (sqA0 b) (256 * sqNq b) u →
        ∃ t, Goes (.search ctx []) s t ∧ t.store.gallery = s.store.gallery) ∧
      (Serves s c subCommit r → ∃ t, Goes (.commit ctx) s t ∧ t.store.early = true) ∧
      (∀ u, reads (sqBuf b) (sqLen b) u →
        (Serves s c subIngotWrite r → ingotRoom s (sqA0 b) (sqLen b) = true → ∃ t i, Goes (.ingotWrite ctx) s t ∧
          ingotOf t.store (sqA0 b) = some i ∧ i.bytes = bufBytes u c (sqBuf b) (sqLen b)) ∧
        (∀ p, Serves s c subPlanWrite r → ingotRoom s planId (sqLen b) = true →
          ∃ t, Goes (.planWrite ctx p) s t ∧ t.store.plan = some p)) ∧
      (∀ i, Serves s c subIngotRead r → ingotOf s.store (sqA0 b) = some i → i.bytes.length ≤ sqLen b →
        onPresent s.store i.onA i.onB = true →
        ∃ t, Goes (.ingotRead ctx []) s t ∧ t.store.ingots = s.store.ingots) ∧
      (Serves s c subIngotDelete r → ingotOf s.store (sqA0 b) ≠ none → ingotInForce s (sqA0 b) = false →
        ∃ t, Goes (.ingotDelete ctx) s t ∧ ingotOf t.store (sqA0 b) = none) ∧
      (∀ bad q, Serves s c subFormat r → s.store.armedUntil ≠ none → standingUnparked s = false →
        formatShares ((allBlocks s).filter (fun k => isGood s.store k && !bad.contains k)).length (sqA0 b) = some q →
        ∃ t, Goes (.format ctx bad) s t ∧ t.store.armedUntil = none ∧ t.store.blank = false) ∧
      (let m := decide (sqA0 b = 1)
       (Serves s c subModuleOut r → modOut s.store (!m) = false → s.store.rebuilding = false →
         ∃ t, Goes (.moduleOut ctx) s t ∧ modOut t.store m = true) ∧
       (∀ badT bad, Serves s c subModuleIn r → modOut s.store m = true →
         profTargets s &&& (if m then 0xFF00 else 0x00FF) ≠ 0 →
         profTargets s &&& (if m then 0xFF00 else 0x00FF) &&& badT = 0 →
         ∃ t, Goes (.moduleIn ctx badT bad) s t ∧ t.store.rebuilding = true ∧ modOut t.store m = false))) ∧
    (domOn s 209 = true →
      (∀ d : Byte, d.toNat < 217 → (domParent d.toNat = none ∨ ∃ p, domParent d.toNat = some p ∧ domOn s p = true) →
        domRetired s d.toNat = false → ∃ t, Goes (.domainOn .forge d) s t ∧ t.pwr.en.getLsbD d.toNat = true) ∧
      (domOn s 210 = true → s.store.enable = false →
        ∃ t, Goes (.storeReset .forge) s t ∧ t.store.enable = false ∧ t.store.st = 0) ∧
      (∀ v : Word, v.toNat % 1024 ≤ 600 →
        ∃ t, Goes (.pwrBudgetWrite .pmgr v) s t ∧ t.pwr.budget = BitVec.ofNat 10 (v.toNat % 1024))) ∧
    (∀ (d : Byte) r, s.pwr.reqs.find? (fun r => decide (r.domain = d.toNat)) = some r →
      (r.on = true → (d.toNat, false) ∉ s.pwr.queue → d.toNat < 217 →
        ∃ t, Goes (.powerAck d) s t ∧ domOn t d.toNat = true) ∧
      (5000 ≤ (now s - r.since).toNat →
        ∃ t, Goes (.pwrSeqTimeout d) s t ∧ t.pwr.event = scEvent s.pwr.event 1)) ∧
    (∀ readings bad, 1000 ≤ (now s - s.pwr.thermAt).toNat →
      ∃ t, Goes (.thermalSample readings bad) s t ∧ t.pwr.thermAt = now s) ∧
    (s.pwr.lostSince = none → ∃ t, Goes .pllUnlock s t ∧ t.pwr.lock = false ∧ t.pwr.lostSince = some (now s)) ∧
    (∀ x, s.pwr.lostSince = some x →
      (∃ t, Goes .pllRelock s t ∧ t.pwr.lock = true ∧ t.pwr.lostSince = none) ∧
      (1000000 ≤ (now s - x).toNat → ∃ t, Goes .pllUnlockTimeout s t ∧ t.pwr.coldAsk = true)) ∧
    (∀ i : StartInputs, i.lock = false →
      ∃ t, Goes (.blockColdReset i) s t ∧ t.mem = s.mem ∧ t.pending = s.pending ∧ t.cp = State.reset.cp) ∧
    (∀ i : StartInputs, ∃ t, Goes (.blockWarmReset i) s t ∧ t.clk = s.clk ∧ t.pwr.warm = true) ∧
    (∀ step torn, ∃ t, Goes (.powerLoss step torn) s t ∧ t.mem = [] ∧ t.pending = s.pending) ∧
    (domOn s 216 = true →
      (∀ i, (i = .host ∨ i = .forge) →
        ((now s).toNat < s.tel.tick.toNat → ∃ t, Goes (.snapshotArm i) s t ∧ t.tel.pending = some s.tel.tick) ∧
        ∃ t, Goes (.traceEnable i) s t ∧ t.tel.traceEn = true) ∧
      (∀ x, s.tel.pending = some x → x.toNat ≤ (now s).toNat → s.pwr.lostSince = none →
        ∃ t, Goes .snapshot s t ∧ t.tel.shadows = s.tel.counters ∧ t.tel.taken = now s) ∧
      (∀ r, s.tel.queue[s.tel.queue.length / 4 * 4]? = some r → s.tel.traceEn = true →
        1000 ≤ (now s - r.tick).toNat →
        ∃ t, Goes .traceLineTimeout s t ∧ t.tel.queue.length % 4 = 0) ∧
      (4 ≤ s.tel.queue.length → s.tel.traceEn = true → s.pwr.lostSince = none → linePaced s = false →
        traceRoom s = true → physOk s false (traceAddr s) (traceAddr s + 127) = true →
        ∃ t, Goes (.traceLineWrite .ok) s t ∧ t.tel.wr = s.tel.wr + 4 ∧ t.tel.queue = s.tel.queue.drop 4))

-- ================================================================ the whole block

/-- A step with a command waiting runs the first of the queue on the state with the queue's rest. -/
def Obligations.StepRunsFront : Prop :=
  ∀ (s : State) (c : Instr) (rest : List Instr), s.pending = c :: rest →
    step s = exec c { s with pending := rest }

/-- A step with nothing waiting is one timebase tick (R5, R6; the model's choice, log 3), and the queue stays
empty. Where no core fetches a bundle that no slot command can present (log 73), the timebase counts one and
memory is unchanged; while the root clock runs, a core clock of divisor 8, 10, 12 or 16 and the fabric clock of
divisor 6 count the cycles that fit into 88 root cycles and what the last tick left over. While the root clock is
lost the timebase counts one and nothing else changes. -/
def Obligations.IdleTick : Prop :=
  ∀ s : State, s.pending = [] → ∃ t, step s = .next t ∧ t.pending = [] ∧
    ((∀ c < 16, ownFetch s c = false) → t.clk.tb = s.clk.tb + 1 ∧ t.mem = s.mem ∧
      (s.pwr.lostSince = none →
        (∀ d, [8, 10, 12, 16][s.pwr.div.toNat]? = some d →
          t.clk.coreCyc = s.clk.coreCyc + (s.clk.coreRem + 88) / d ∧
            t.clk.coreRem = (s.clk.coreRem + 88) % d) ∧
        t.clk.fabCyc = s.clk.fabCyc + (s.clk.fabRem + 88) / 6 ∧ t.clk.fabRem = (s.clk.fabRem + 88) % 6)) ∧
    (s.pwr.lostSince ≠ none → t = { s with clk := { s.clk with tb := s.clk.tb + 1 } })

/-- Every command answers a next state, and none of them touches the queue of those that wait behind it. -/
def Obligations.ExecKeepsQueue : Prop :=
  ∀ (c : Instr) (s : State), ∃ t, exec c s = .next t ∧ t.pending = s.pending

/-- Host memory stays in its canonical form under every step: addresses strictly rising and no byte listed
that reads as an unlisted one. -/
def Obligations.StepKeepsMemory : Prop :=
  ∀ s t : State, MemCanonical s → step s = .next t → MemCanonical t

/-- The state after reset has its memory in canonical form and no command waiting. -/
def Obligations.ResetCanonical : Prop :=
  MemCanonical State.reset ∧ State.reset.pending = [] ∧ State.reset.mem = []

/-- What reset leaves, by the reset columns of the chapters' register tables: each register that does not reset
to 0, one of its kind, and that of all domains only the fabric's, 209, is on (R501). -/
def Obligations.ResetHolds : Prop :=
  let s := State.reset
  (∀ p ∈ ([(0x4, 0x00010016), (0x8, 0x4003FE50), (0x100100, 0x10000), (0x100108, 2000000), (0x200800, 0x20), (0x210000, 0x40),
      (0x260008, 0x2000000), (0x400034, 100000000), (0x400038, 16), (0x400080, 0x1000000), (0x80000C, 12),
      (0xA00000, 600), (0xA00060, 105), (0xA00058, 0x20000), (0xE0002C, 12), (0x100100C, 3),
      (0x1005008, 0xFFFF), (0x100500C, 33), (0x1500000, 2), (0x1501000, 0x120), (0x1501004, 0x400),
      (0x150100C, 1), (0x170000C, 200000000), (0x0, 0), (0x400014, 0), (0x800000, 0), (0x1001000, 2)] :
      List (Nat × Word)), rdReg s .host p.1 = some p.2) ∧
  (∀ d, domOn s d = decide (d = 209)) ∧
  (∀ c, (ctxOf s c).state = .free ∧ (ctxOf s c).cur = none ∧ (ctxOf s c).task = none) ∧
  (∀ b, (bskOf s b).valid = false) ∧ (∀ v, (mget {} s.cp.vecs v).mask = true) ∧
  (∀ l, (linkOf s l).st = .down) ∧ s.geq.staging = [] ∧ s.fu.watch = [] ∧ s.fp.table = [] ∧ s.mem = []

/-- An aligned 32-bit read of an offset that no chapter assigns, with no value latched for it, returns 0 and
changes nothing but the port; a write to one has no effect but its entry REG_RESERVED, whose object is the
offset (R525). -/
def Obligations.UnassignedOffsets : Prop :=
  ∀ (s : State) (i : Initiator) (off : RegOff) (v : Word),
    off.toNat % 4 = 0 → rdReg s i off.toNat = none → twComplAt off.toNat = none →
    (mget none s.port.latch (4 * off.toNat + initNo i) = none →
      ∀ read ∈ [Instr.crRead, Instr.loReadLatch], ∃ t, Goes (read { init := i, off := off, size := 4 }) s t ∧
        t.port.rdata = 0 ∧ { t with port := s.port } = s) ∧
    (¬ (0x280000 ≤ off.toNat ∧ off.toNat < 0x284000) → twAt off.toNat = none →
      ∃ source detail, Goes (.registerWrite { init := i, off := off, size := 4, value := v }) s
        (post s 0x100 source none (BitVec.ofNat 64 off.toNat) detail))

/-- GEQ_LOST, the clear-on-read register (R529, R359): a read returns the value and clears it, so that an entry
lost after it counts 1; a read of another size or alignment returns 0, clears nothing and is refused; a write
is refused. -/
def Obligations.ClearOnRead : Prop :=
  ∀ (s : State) (i : Initiator) (v : Word) (size : Byte),
    ((i = .host ∨ i = .forge) → domOn s 209 = true → mget none s.port.latch (4 * 0x800018 + initNo i) = none →
      ∃ t, Goes (.crRead { init := i, off := 0x800018, size := 4 }) s t ∧ t.port.rdata = s.geq.lost ∧
        t.geq.lost = 0 ∧ (∀ e, s.geq.staging.length = 256 → s.cp.detached = false → (geqPut t e).geq.lost = 1)) ∧
    (size ≠ 4 → Goes (.crRead { init := i, off := 0x800018, size := size }) s
      (regRefused { s with port := { s.port with rdata := 0 } } 0x800018 0 i)) ∧
    (∀ off : RegOff, off.toNat % 4 ≠ 0 → Goes (.crRead { init := i, off := off, size := size }) s
      (regRefused { s with port := { s.port with rdata := 0 } } off.toNat 0 i)) ∧
    Goes (.registerWrite { init := i, off := 0x800018, size := 4, value := v }) s (regRefused s 0x800018 v i)

/-- With TEL_PERIOD not 0 each snapshot arms the next at TEL_TAKEN + TEL_PERIOD; GO replaces it; a write of
TEL_PERIOD leaves what is armed as it is (R553). -/
def Obligations.SnapshotPeriod : Prop :=
  ∀ (s : State), domOn s 216 = true →
    (∀ t, s.tel.period ≠ 0 → s.tel.pending = some t → t.toNat ≤ (now s).toNat → s.pwr.lostSince = none →
      ∃ u, Goes .snapshot s u ∧ u.tel.pending = some (u.tel.taken + s.tel.period.setWidth 64)) ∧
    (∀ i, (i = .host ∨ i = .forge) → (now s).toNat < s.tel.tick.toNat →
      ∃ u, Goes (.snapshotArm i) s u ∧ u.tel.pending = some s.tel.tick ∧ u.tel.period = s.tel.period) ∧
    (∀ i, (i = .host ∨ i = .forge) → s.tel.tick.toNat ≤ (now s).toNat →
      ∃ u, Goes (.snapshotArm i) s u ∧ u.tel.pending = some (now s + 1) ∧ u.tel.period = s.tel.period) ∧
    (∀ i (v : Word), (i = .host ∨ i = .forge) → (v = 0 ∨ 1000 ≤ v.toNat) →
      Goes (.registerWrite { init := i, off := 0xE00014, size := 4, value := v }) s
        { s with tel := { s.tel with period := v } })

/-- At the end of a period the first rule of R509 that holds moves the operating point: over budget or over
temperature, one slower; a faster point that fits 2 W below the budget and that the thermal rules allow, one
faster; otherwise none. -/
def Obligations.OperatingPointRule : Prop :=
  ∀ (s : State) (stat dyn : Nat), 1000 ≤ (now s - s.pwr.period).toNat →
    let p := stat + dyn
    let v := count { s with pwr := { s.pwr with
      period := now s, stat := stat, dyn := dyn, est := BitVec.ofNat 10 (min 1023 p), floor := floorOf s stat dyn } }
      271 ((p * 25 + 5000) / 10000)
    let r := pointRate s.pwr.div.toNat s.pwr.gate.toNat
    let slower := s.pwr.budget.toNat < p ∨ thermAbove s 0 = true
    let mayRise (q : Nat × Nat) := fasterPoint (pointNow s) = some q ∧
      stat * r + dyn * pointRate q.1 q.2 + 8 * r ≤ s.pwr.budget.toNat * r ∧ 8 ≤ s.pwr.budget.toNat ∧
      thermAllows s = true
    (slower → Goes (.powerPeriod stat dyn) s (unmetCheck (toPoint v (slowerPoint (pointNow s))))) ∧
    (¬ slower → ∀ q, mayRise q → Goes (.powerPeriod stat dyn) s (unmetCheck (toPoint v q))) ∧
    (¬ slower → (∀ q, ¬ mayRise q) → Goes (.powerPeriod stat dyn) s (unmetCheck v))

namespace Sys2Proof.Says

/-- What a slot of core `c` that only moves scalar and w registers leaves as it is: everything but the
sequencer of its own core, the telemetry that counts its bundle, and the slots kept back. -/
structure OnlySequencer (c : Nat) (s t : State) : Prop where
  rest : { t with cores := s.cores, tel := s.tel, bundles := s.bundles } = s
  others : ∀ d, d ≠ c → coreOf t d = coreOf s d
  own : { coreOf t c with seq := (coreOf s c).seq } = coreOf s c
  predicates : ∀ f, fReg (coreOf t c) f = fReg (coreOf s c) f

end Sys2Proof.Says

open Sys2Proof Sys2Proof.Machine Sys2Proof.Says

/-- What the slots that only move registers leave unchanged: memory, contexts, every unit, every other core,
their own core's Pannier, banks, vector and predicate registers, and each scalar and w register that they do not
name. s0 reads as 0 and discards writes (R247), f0 reads as all ones (R161). -/
def Obligations.RegisterSlotFrames : Prop :=
  (∀ (s : State) (a : At) (rd : SReg) (i : Instr), Solo s a →
    ((∃ ra rb, i ∈ [Instr.add a rd ra rb, .sub a rd ra rb, .and a rd ra rb, .or a rd ra rb, .xor a rd ra rb,
        .shl a rd ra rb, .shr a rd ra rb, .sra a rd ra rb, .mul a rd ra rb, .divu a rd ra rb, .remu a rd ra rb,
        .min a rd ra rb, .max a rd ra rb, .slt a rd ra rb, .sltu a rd ra rb]) ∨
      (∃ ra imm, i ∈ [Instr.addi a rd ra imm, .subi a rd ra imm, .andi a rd ra imm, .ori a rd ra imm,
        .xori a rd ra imm, .shli a rd ra imm, .shri a rd ra imm, .srai a rd ra imm, .muli a rd ra imm,
        .divui a rd ra imm, .remui a rd ra imm, .mini a rd ra imm, .maxi a rd ra imm, .slti a rd ra imm,
        .sltui a rd ra imm, .lih a rd ra imm]) ∨ (∃ w, i = .wrd a w rd)) →
    ∃ t, Goes i s t ∧ OnlySequencer a.core.toNat s t ∧
      (∀ r, r ≠ rd → sReg (coreOf t a.core.toNat) r = sReg (coreOf s a.core.toNat) r) ∧
      (∀ w, wReg (coreOf t a.core.toNat) w = wReg (coreOf s a.core.toNat) w)) ∧
  (∀ (s : State) (a : At) (w : WReg) (ra : SReg) (i : Instr), Solo s a →
    i ∈ [Instr.wset a w ra, .wadd a w ra] → ∃ t, Goes i s t ∧ OnlySequencer a.core.toNat s t ∧
      (∀ r, sReg (coreOf t a.core.toNat) r = sReg (coreOf s a.core.toNat) r) ∧
      (∀ x, x ≠ w → wReg (coreOf t a.core.toNat) x = wReg (coreOf s a.core.toNat) x)) ∧
  (∀ (s : State) (a : At) (ra rb : SReg) (target : BitVec 13) (i : Instr), Solo s a →
    i ∈ [Instr.beq a ra rb target, .bne a ra rb target, .blt a ra rb target, .bge a ra rb target,
      .bltu a ra rb target, .bgeu a ra rb target, .jmp a target] →
    ∃ t, Goes i s t ∧ OnlySequencer a.core.toNat s t ∧
      (∀ r, sReg (coreOf t a.core.toNat) r = sReg (coreOf s a.core.toNat) r) ∧
      (∀ w, wReg (coreOf t a.core.toNat) w = wReg (coreOf s a.core.toNat) w)) ∧
  (∀ (s : State) (c : Nat) (v : DWord) (f : BitVec 512), sReg (coreOf s c) 0 = 0 ∧ setS s c 0 v = s ∧
    fReg (coreOf s c) 0 = BitVec.allOnes 512 ∧ setF s c 0 f = s)

/-- ACSIG (R268): with a COUNT of 1 to 4,095 and a CORE of the task its signal waits in order; the oldest signal
that no earlier remote write of its core to its target holds back adds its COUNT to counter AC of that core; while
every signal is held back none is sent; a COUNT of 0 or a CORE outside the task raises ILLEGAL. -/
def Obligations.SignalRule : Prop :=
  ∀ (s : State) (core : CoreId),
    let c := core.toNat
    let m := (coreOf s c).mem
    let blocked (g : AcSig) : Prop :=
      ∃ e ∈ m.tags, e.2.st = .active ∧ e.2.kind = .rwrite ∧ e.2.rcore = g.core ∧ e.2.order < g.order
    (∀ (a : At) (ac : AcId) (target : BitVec 4) (count : BitVec 12), Solo s a → a.core = core →
      (count ≠ 0 → target.toNat < (taskCores s c).length →
        Issues (.acsig a ac target count) s a (updMem (shut s a) c (fun m => { m with
          signals := m.signals ++ [{ core := target.toNat, ac := ac, count := count.toNat
                                     order := m.nextOrder }] })) none) ∧
      ((count = 0 ∨ (taskCores s c).length ≤ target.toNat) →
        Goes (.acsig a ac target count) s (seqFault (shut s a) c tfIllegal 6 slotSyn))) ∧
    ((∀ g ∈ m.signals, blocked g) → Goes (.acsigDelivery core) s s) ∧
    (∀ g before rest d, m.signals = before ++ g :: rest → (∀ x ∈ before, blocked x) → ¬ blocked g →
      taskCoreAt s c g.core = some d → Goes (.acsigDelivery core) s
        (acInc (updMem s c (fun m => { m with signals := before ++ rest })) d g.ac.toNat g.count))

/-- Where the engine stores, and that it stores nowhere else: a line of a store at the 128 bytes that its
address translates to, a fence's maximum at its 8 bytes, a frame's release word at its 4. The entry of an
uncorrectable table word, of a late maximum or of a released wait reaches memory only where the Forge keeps it in
its event log for a host that is gone (R401). -/
def Obligations.StoresStayPut : Prop :=
  (∀ (s v u : State) (core : CoreId) (tag : TagId) (ecc : RowEcc) (tecc : Ecc) (x : Nat) (k : Task) (a b : Nat),
    let c := core.toNat
    let tg := tag.toNat
    let t := tagOf s c tg
    let m := (coreOf s c).mem
    let q := lineTables s c x t (tagVa t t.issued) tecc
    taskOf s c = some (x, k) → t.st = .active → t.kind = .store → t.issued < 4 * t.rows →
    inFlight m < 256 → lineBlocked m t (tagVa t t.issued) = false → m.granted = true →
    lineXlat q c tg t.issued t x ((ctxOf q x).task.getD k) = (.pa a, u) →
    storeRow u c tg (t.issued / 4) ecc = (true, v) →
    ∃ w, Goes (.lineRequestIssue core tag ecc tecc) s w ∧
      (b < a ∨ a + 128 ≤ b → rdByte w.mem b = rdByte q.mem b) ∧
      (apertureOf s a ≠ none → w.mem = q.mem) ∧
      ((tecc = .double → ctxForge s x = true → s.cp.detached = false) → q.mem = s.mem)) ∧
  (∀ (s : State) (c : Option Nat) (a w : DWord) (b : Nat),
    (s.cp.detached = true → waitsOn s.fu a = [] ∧
      (w < rd64 s.mem a.toNat → ∀ x, c = some x → ctxForge s x = false)) →
    b < a.toNat ∨ a.toNat + 8 ≤ b → rdByte (fenceRaise s c a w).2.mem b = rdByte s.mem b) ∧
  (∀ (s : State) (h : Word) (ecc : Ecc) (e : FrameEntry) (b : Nat), frameOf s h = some e → e.armed = true → e.refs = 0 →
    ∃ t, Goes (.frameRelease h ecc) s t ∧
      (b < s.fp.releaseAddr.toNat ∨ s.fp.releaseAddr.toNat + 4 ≤ b → rdByte t.mem b = rdByte s.mem b) ∧
      (entryOwned e = false → t.mem = s.mem))
end

