-- ==== Sys2Proof/Laws/Memory.lean ====
section
/-! SUPPORT. The laws of sparse tables and of host memory: reading after writing, and the canonical form,
which every operation on memory keeps. -/

namespace Sys2Proof.Machine

variable {α : Type}

@[simp] theorem mget_nil (d : α) (k : Nat) : mget d [] k = d := rfl

theorem mget_mdel (d : α) (m : SMap α) (k j : Nat) :
    mget d (mdel m k) j = if k = j then d else mget d m j := by
  induction m with
  | nil => simp [mdel]
  | cons e m ih =>
    obtain ⟨a, v⟩ := e
    by_cases hak : a = k
    · subst hak; simp only [mdel, if_true, ih, mget]; split <;> rfl
    · by_cases haj : a = j
      · subst haj; simp [mdel, mget, hak, Ne.symm hak]
      · simp [mdel, mget, hak, haj, ih]

theorem mget_mins (d : α) (m : SMap α) (k j : Nat) (v : α) :
    mget d (mins m k v) j = if k = j then v else mget d m j := by
  induction m with
  | nil => simp [mins, mget]
  | cons e m ih =>
    obtain ⟨a, w⟩ := e
    by_cases hlt : k < a
    · simp [mins, mget, hlt]
    · by_cases hak : a = k
      · subst hak; by_cases h : a = j <;> simp [mins, mget, h]
      · by_cases haj : a = j
        · subst haj; simp [mins, mget, hlt, hak, Ne.symm hak]
        · simp [mins, mget, hlt, hak, haj, ih]

/-- What a key of a table reads as after a write. -/
theorem mget_mset [DecidableEq α] (d : α) (m : SMap α) (k j : Nat) (v : α) :
    mget d (mset d m k v) j = if k = j then v else mget d m j := by
  unfold mset
  by_cases hv : v = d
  · subst hv; simp [mget_mdel]
  · simp [hv, mget_mins]

@[simp] theorem mget_mset_same [DecidableEq α] (d : α) (m : SMap α) (k : Nat) (v : α) :
    mget d (mset d m k v) k = v := by simp [mget_mset]

theorem mget_mset_other [DecidableEq α] (d : α) (m : SMap α) {k j : Nat} (v : α) (h : k ≠ j) :
    mget d (mset d m k v) j = mget d m j := by simp [mget_mset, h]

theorem mem_mdel {m : SMap α} {k : Nat} {e : Nat × α} (h : e ∈ mdel m k) : e ∈ m := by
  induction m with
  | nil => simp [mdel] at h
  | cons f m ih =>
    obtain ⟨a, v⟩ := f
    by_cases hak : a = k
    · simp only [mdel, hak, if_true] at h; exact List.mem_cons_of_mem _ (ih h)
    · simp only [mdel, hak, if_false, List.mem_cons] at h
      rcases h with h | h
      · simp [h]
      · exact List.mem_cons_of_mem _ (ih h)

theorem mem_mins {m : SMap α} {k : Nat} {v : α} {e : Nat × α} (h : e ∈ mins m k v) :
    e ∈ m ∨ e = (k, v) := by
  induction m with
  | nil => simpa [mins] using h
  | cons f m ih =>
    obtain ⟨a, w⟩ := f
    by_cases hlt : k < a
    · simp only [mins, hlt, if_true, List.mem_cons] at h ⊢; tauto
    · by_cases hak : a = k
      · simp only [mins, hak, if_true, if_false, List.mem_cons, lt_irrefl] at h ⊢; tauto
      · simp only [mins, hlt, hak, if_false, List.mem_cons] at h ⊢
        rcases h with h | h
        · exact .inl (.inl h)
        · rcases ih h with h | h
          · exact .inl (.inr h)
          · exact .inr h

theorem mwf_mdel [DecidableEq α] {d : α} {m : SMap α} (k : Nat) (h : mwf d m = true) :
    mwf d (mdel m k) = true := by
  induction m with
  | nil => rfl
  | cons f m ih =>
    obtain ⟨a, v⟩ := f
    simp only [mwf, Bool.and_eq_true, decide_eq_true_eq, List.all_eq_true] at h
    obtain ⟨⟨hv, hm⟩, hw⟩ := h
    by_cases hak : a = k
    · simpa [mdel, hak] using ih hw
    · simp only [mdel, hak, if_false, mwf, Bool.and_eq_true, decide_eq_true_eq, List.all_eq_true]
      exact ⟨⟨hv, fun e he => hm e (mem_mdel he)⟩, ih hw⟩

theorem mwf_mins [DecidableEq α] {d : α} {m : SMap α} (k : Nat) {v : α} (hvd : v ≠ d)
    (h : mwf d m = true) : mwf d (mins m k v) = true := by
  induction m with
  | nil => simp [mins, mwf, hvd]
  | cons f m ih =>
    obtain ⟨a, w⟩ := f
    have h0 := h
    simp only [mwf, Bool.and_eq_true, decide_eq_true_eq, List.all_eq_true] at h
    obtain ⟨⟨hv, hm⟩, hw⟩ := h
    by_cases hlt : k < a
    · simp only [mins, hlt, if_true]
      rw [mwf, h0]
      simp only [Bool.and_eq_true, decide_eq_true_eq, List.all_eq_true, List.mem_cons, and_true]
      refine ⟨hvd, fun e he => ?_⟩
      rcases he with rfl | he
      · exact hlt
      · exact lt_trans hlt (hm e he)
    · by_cases hak : a = k
      · subst hak
        simp only [mins, lt_irrefl, if_false, if_true, mwf, Bool.and_eq_true, decide_eq_true_eq,
          List.all_eq_true]
        exact ⟨⟨hvd, hm⟩, hw⟩
      · simp only [mins, hlt, hak, if_false, mwf, Bool.and_eq_true, decide_eq_true_eq,
          List.all_eq_true]
        refine ⟨⟨hv, fun e he => ?_⟩, ih hw⟩
        rcases mem_mins he with he | rfl
        · exact hm e he
        · show a < k; omega

/-- A write keeps the canonical form of a table. -/
theorem mwf_mset [DecidableEq α] {d : α} {m : SMap α} (k : Nat) (v : α) (h : mwf d m = true) :
    mwf d (mset d m k v) = true := by
  unfold mset
  by_cases hv : v = d
  · simp only [hv, if_true]; exact mwf_mdel k h
  · simp only [hv, if_false]; exact mwf_mins k hv h

-- ---------------------------------------------------------------- memory

theorem rdByte_wrByte (m : List Host.Cell) (a b : Nat) (v : Byte) :
    rdByte (wrByte m a v) b = if a = b then v else rdByte m b := mget_mset 0 m a b v

theorem memWf_wrByte {m : List Host.Cell} (a : Nat) (v : Byte) (h : memWf m = true) :
    memWf (wrByte m a v) = true := mwf_mset a v h

theorem memWf_wrNat {m : List Host.Cell} (a n v : Nat) (h : memWf m = true) :
    memWf (wrNat m a n v) = true := by
  induction n generalizing m a v with
  | zero => exact h
  | succ n ih => exact ih _ _ (memWf_wrByte _ _ h)

theorem memWf_wrBytes {m : List Host.Cell} (a : Nat) (l : List Byte) (h : memWf m = true) :
    memWf (wrBytes m a l) = true := by
  induction l generalizing m a with
  | nil => exact h
  | cons b l ih => exact ih _ (memWf_wrByte _ _ h)

theorem memWf_wrCells {m : List Host.Cell} (l : List Host.Cell) (h : memWf m = true) :
    memWf (wrCells m l) = true := by
  induction l generalizing m with
  | nil => exact h
  | cons e l ih => exact ih (memWf_wrByte _ _ h)

theorem memWf_wr32 {m : List Host.Cell} (a : Nat) (v : Word) (h : memWf m = true) :
    memWf (wr32 m a v) = true := memWf_wrNat _ _ _ h

theorem memWf_wr64 {m : List Host.Cell} (a : Nat) (v : DWord) (h : memWf m = true) :
    memWf (wr64 m a v) = true := memWf_wrNat _ _ _ h

/-- Outside the bytes written, memory reads as before. -/
theorem rdByte_wrNat_other (m : List Host.Cell) (a n v b : Nat) (h : b < a ∨ a + n ≤ b) :
    rdByte (wrNat m a n v) b = rdByte m b := by
  induction n generalizing m a v with
  | zero => rfl
  | succ n ih =>
    rw [wrNat, ih _ _ _ (by omega), rdByte_wrByte, if_neg (by omega)]

/-- A number that has just been written reads back. -/
theorem rdNat_wrNat (m : List Host.Cell) (a n v : Nat) :
    rdNat (wrNat m a n v) a n = v % 256 ^ n := by
  induction n generalizing m a v with
  | zero => simp [rdNat, Nat.mod_one]
  | succ n ih =>
    have h0 : rdByte (wrNat (wrByte m a (BitVec.ofNat 8 v)) (a + 1) n (v / 256)) a =
        BitVec.ofNat 8 v := by
      rw [rdByte_wrNat_other _ _ _ _ _ (by omega), rdByte_wrByte, if_pos rfl]
    rw [wrNat, rdNat, h0, ih]
    have : (BitVec.ofNat 8 v).toNat = v % 256 := rfl
    rw [this, pow_succ, Nat.mul_comm (256 ^ n) 256, Nat.mod_mul]

theorem rdByte_wrBytes_other (m : List Host.Cell) (a : Nat) (l : List Byte) (b : Nat)
    (h : b < a ∨ a + l.length ≤ b) : rdByte (wrBytes m a l) b = rdByte m b := by
  induction l generalizing m a with
  | nil => rfl
  | cons x l ih =>
    simp only [List.length_cons] at h
    rw [wrBytes, ih _ _ (by omega), rdByte_wrByte, if_neg (by omega)]

end Sys2Proof.Machine
end

