-- ==== Sys2Proof/Laws/State.lean ====
section
/-! SUPPORT. What each update of the state does to each of its fields, so that no proof unfolds a record
update: one lemma a field and update. -/

namespace Sys2Proof.Machine

@[simp] theorem setCore_pending (s : State) (c : Nat) (k : Core) : (setCore s c k).pending = s.pending := rfl
@[simp] theorem setCore_mem (s : State) (c : Nat) (k : Core) : (setCore s c k).mem = s.mem := rfl
@[simp] theorem setCore_clk (s : State) (c : Nat) (k : Core) : (setCore s c k).clk = s.clk := rfl
@[simp] theorem setCore_port (s : State) (c : Nat) (k : Core) : (setCore s c k).port = s.port := rfl
@[simp] theorem setCore_twins (s : State) (c : Nat) (k : Core) : (setCore s c k).twins = s.twins := rfl
@[simp] theorem setCore_cores (s : State) (c : Nat) (k : Core) : (setCore s c k).cores = mset {} s.cores c k := rfl
@[simp] theorem setCore_bundles (s : State) (c : Nat) (k : Core) : (setCore s c k).bundles = s.bundles := rfl
@[simp] theorem setCore_cp (s : State) (c : Nat) (k : Core) : (setCore s c k).cp = s.cp := rfl
@[simp] theorem setCore_geq (s : State) (c : Nat) (k : Core) : (setCore s c k).geq = s.geq := rfl
@[simp] theorem setCore_mbx (s : State) (c : Nat) (k : Core) : (setCore s c k).mbx = s.mbx := rfl
@[simp] theorem setCore_fu (s : State) (c : Nat) (k : Core) : (setCore s c k).fu = s.fu := rfl
@[simp] theorem setCore_baskets (s : State) (c : Nat) (k : Core) : (setCore s c k).baskets = s.baskets := rfl
@[simp] theorem setCore_atu (s : State) (c : Nat) (k : Core) : (setCore s c k).atu = s.atu := rfl
@[simp] theorem setCore_fp (s : State) (c : Nat) (k : Core) : (setCore s c k).fp = s.fp := rfl
@[simp] theorem setCore_ru (s : State) (c : Nat) (k : Core) : (setCore s c k).ru = s.ru := rfl
@[simp] theorem setCore_links (s : State) (c : Nat) (k : Core) : (setCore s c k).links = s.links := rfl
@[simp] theorem setCore_store (s : State) (c : Nat) (k : Core) : (setCore s c k).store = s.store := rfl
@[simp] theorem setCore_sb (s : State) (c : Nat) (k : Core) : (setCore s c k).sb = s.sb := rfl
@[simp] theorem setCore_svc (s : State) (c : Nat) (k : Core) : (setCore s c k).svc = s.svc := rfl
@[simp] theorem setCore_pwr (s : State) (c : Nat) (k : Core) : (setCore s c k).pwr = s.pwr := rfl
@[simp] theorem setCore_temper (s : State) (c : Nat) (k : Core) : (setCore s c k).temper = s.temper := rfl
@[simp] theorem setCore_tel (s : State) (c : Nat) (k : Core) : (setCore s c k).tel = s.tel := rfl
@[simp] theorem setCore_freeCount (s : State) (c : Nat) (k : Core) : (setCore s c k).freeCount = s.freeCount := rfl

@[simp] theorem setCtx_pending (s : State) (c : Nat) (k : Ctx) : (setCtx s c k).pending = s.pending := rfl
@[simp] theorem setCtx_mem (s : State) (c : Nat) (k : Ctx) : (setCtx s c k).mem = s.mem := rfl
@[simp] theorem setCtx_clk (s : State) (c : Nat) (k : Ctx) : (setCtx s c k).clk = s.clk := rfl
@[simp] theorem setCtx_port (s : State) (c : Nat) (k : Ctx) : (setCtx s c k).port = s.port := rfl
@[simp] theorem setCtx_twins (s : State) (c : Nat) (k : Ctx) : (setCtx s c k).twins = s.twins := rfl
@[simp] theorem setCtx_cores (s : State) (c : Nat) (k : Ctx) : (setCtx s c k).cores = s.cores := rfl
@[simp] theorem setCtx_bundles (s : State) (c : Nat) (k : Ctx) : (setCtx s c k).bundles = s.bundles := rfl
@[simp] theorem setCtx_cp (s : State) (c : Nat) (k : Ctx) : (setCtx s c k).cp = { s.cp with ctxs := mset {} s.cp.ctxs c k } := rfl
@[simp] theorem setCtx_geq (s : State) (c : Nat) (k : Ctx) : (setCtx s c k).geq = s.geq := rfl
@[simp] theorem setCtx_mbx (s : State) (c : Nat) (k : Ctx) : (setCtx s c k).mbx = s.mbx := rfl
@[simp] theorem setCtx_fu (s : State) (c : Nat) (k : Ctx) : (setCtx s c k).fu = s.fu := rfl
@[simp] theorem setCtx_baskets (s : State) (c : Nat) (k : Ctx) : (setCtx s c k).baskets = s.baskets := rfl
@[simp] theorem setCtx_atu (s : State) (c : Nat) (k : Ctx) : (setCtx s c k).atu = s.atu := rfl
@[simp] theorem setCtx_fp (s : State) (c : Nat) (k : Ctx) : (setCtx s c k).fp = s.fp := rfl
@[simp] theorem setCtx_ru (s : State) (c : Nat) (k : Ctx) : (setCtx s c k).ru = s.ru := rfl
@[simp] theorem setCtx_links (s : State) (c : Nat) (k : Ctx) : (setCtx s c k).links = s.links := rfl
@[simp] theorem setCtx_store (s : State) (c : Nat) (k : Ctx) : (setCtx s c k).store = s.store := rfl
@[simp] theorem setCtx_sb (s : State) (c : Nat) (k : Ctx) : (setCtx s c k).sb = s.sb := rfl
@[simp] theorem setCtx_svc (s : State) (c : Nat) (k : Ctx) : (setCtx s c k).svc = s.svc := rfl
@[simp] theorem setCtx_pwr (s : State) (c : Nat) (k : Ctx) : (setCtx s c k).pwr = s.pwr := rfl
@[simp] theorem setCtx_temper (s : State) (c : Nat) (k : Ctx) : (setCtx s c k).temper = s.temper := rfl
@[simp] theorem setCtx_tel (s : State) (c : Nat) (k : Ctx) : (setCtx s c k).tel = s.tel := rfl
@[simp] theorem setCtx_freeCount (s : State) (c : Nat) (k : Ctx) : (setCtx s c k).freeCount = s.freeCount := rfl

@[simp] theorem setBsk_pending (s : State) (b : Nat) (k : Basket) : (setBsk s b k).pending = s.pending := rfl
@[simp] theorem setBsk_mem (s : State) (b : Nat) (k : Basket) : (setBsk s b k).mem = s.mem := rfl
@[simp] theorem setBsk_clk (s : State) (b : Nat) (k : Basket) : (setBsk s b k).clk = s.clk := rfl
@[simp] theorem setBsk_port (s : State) (b : Nat) (k : Basket) : (setBsk s b k).port = s.port := rfl
@[simp] theorem setBsk_twins (s : State) (b : Nat) (k : Basket) : (setBsk s b k).twins = s.twins := rfl
@[simp] theorem setBsk_cores (s : State) (b : Nat) (k : Basket) : (setBsk s b k).cores = s.cores := rfl
@[simp] theorem setBsk_bundles (s : State) (b : Nat) (k : Basket) : (setBsk s b k).bundles = s.bundles := rfl
@[simp] theorem setBsk_cp (s : State) (b : Nat) (k : Basket) : (setBsk s b k).cp = s.cp := rfl
@[simp] theorem setBsk_geq (s : State) (b : Nat) (k : Basket) : (setBsk s b k).geq = s.geq := rfl
@[simp] theorem setBsk_mbx (s : State) (b : Nat) (k : Basket) : (setBsk s b k).mbx = s.mbx := rfl
@[simp] theorem setBsk_fu (s : State) (b : Nat) (k : Basket) : (setBsk s b k).fu = s.fu := rfl
@[simp] theorem setBsk_baskets (s : State) (b : Nat) (k : Basket) : (setBsk s b k).baskets = mset {} s.baskets b k := rfl
@[simp] theorem setBsk_atu (s : State) (b : Nat) (k : Basket) : (setBsk s b k).atu = s.atu := rfl
@[simp] theorem setBsk_fp (s : State) (b : Nat) (k : Basket) : (setBsk s b k).fp = s.fp := rfl
@[simp] theorem setBsk_ru (s : State) (b : Nat) (k : Basket) : (setBsk s b k).ru = s.ru := rfl
@[simp] theorem setBsk_links (s : State) (b : Nat) (k : Basket) : (setBsk s b k).links = s.links := rfl
@[simp] theorem setBsk_store (s : State) (b : Nat) (k : Basket) : (setBsk s b k).store = s.store := rfl
@[simp] theorem setBsk_sb (s : State) (b : Nat) (k : Basket) : (setBsk s b k).sb = s.sb := rfl
@[simp] theorem setBsk_svc (s : State) (b : Nat) (k : Basket) : (setBsk s b k).svc = s.svc := rfl
@[simp] theorem setBsk_pwr (s : State) (b : Nat) (k : Basket) : (setBsk s b k).pwr = s.pwr := rfl
@[simp] theorem setBsk_temper (s : State) (b : Nat) (k : Basket) : (setBsk s b k).temper = s.temper := rfl
@[simp] theorem setBsk_tel (s : State) (b : Nat) (k : Basket) : (setBsk s b k).tel = s.tel := rfl
@[simp] theorem setBsk_freeCount (s : State) (b : Nat) (k : Basket) : (setBsk s b k).freeCount = s.freeCount := rfl

@[simp] theorem setLink_pending (s : State) (l : Nat) (k : Link) : (setLink s l k).pending = s.pending := rfl
@[simp] theorem setLink_mem (s : State) (l : Nat) (k : Link) : (setLink s l k).mem = s.mem := rfl
@[simp] theorem setLink_clk (s : State) (l : Nat) (k : Link) : (setLink s l k).clk = s.clk := rfl
@[simp] theorem setLink_port (s : State) (l : Nat) (k : Link) : (setLink s l k).port = s.port := rfl
@[simp] theorem setLink_twins (s : State) (l : Nat) (k : Link) : (setLink s l k).twins = s.twins := rfl
@[simp] theorem setLink_cores (s : State) (l : Nat) (k : Link) : (setLink s l k).cores = s.cores := rfl
@[simp] theorem setLink_bundles (s : State) (l : Nat) (k : Link) : (setLink s l k).bundles = s.bundles := rfl
@[simp] theorem setLink_cp (s : State) (l : Nat) (k : Link) : (setLink s l k).cp = s.cp := rfl
@[simp] theorem setLink_geq (s : State) (l : Nat) (k : Link) : (setLink s l k).geq = s.geq := rfl
@[simp] theorem setLink_mbx (s : State) (l : Nat) (k : Link) : (setLink s l k).mbx = s.mbx := rfl
@[simp] theorem setLink_fu (s : State) (l : Nat) (k : Link) : (setLink s l k).fu = s.fu := rfl
@[simp] theorem setLink_baskets (s : State) (l : Nat) (k : Link) : (setLink s l k).baskets = s.baskets := rfl
@[simp] theorem setLink_atu (s : State) (l : Nat) (k : Link) : (setLink s l k).atu = s.atu := rfl
@[simp] theorem setLink_fp (s : State) (l : Nat) (k : Link) : (setLink s l k).fp = s.fp := rfl
@[simp] theorem setLink_ru (s : State) (l : Nat) (k : Link) : (setLink s l k).ru = s.ru := rfl
@[simp] theorem setLink_links (s : State) (l : Nat) (k : Link) : (setLink s l k).links = mset {} s.links l k := rfl
@[simp] theorem setLink_store (s : State) (l : Nat) (k : Link) : (setLink s l k).store = s.store := rfl
@[simp] theorem setLink_sb (s : State) (l : Nat) (k : Link) : (setLink s l k).sb = s.sb := rfl
@[simp] theorem setLink_svc (s : State) (l : Nat) (k : Link) : (setLink s l k).svc = s.svc := rfl
@[simp] theorem setLink_pwr (s : State) (l : Nat) (k : Link) : (setLink s l k).pwr = s.pwr := rfl
@[simp] theorem setLink_temper (s : State) (l : Nat) (k : Link) : (setLink s l k).temper = s.temper := rfl
@[simp] theorem setLink_tel (s : State) (l : Nat) (k : Link) : (setLink s l k).tel = s.tel := rfl
@[simp] theorem setLink_freeCount (s : State) (l : Nat) (k : Link) : (setLink s l k).freeCount = s.freeCount := rfl

@[simp] theorem setTwin_pending (s : State) (o : Nat) (t : Option Twin) : (setTwin s o t).pending = s.pending := rfl
@[simp] theorem setTwin_mem (s : State) (o : Nat) (t : Option Twin) : (setTwin s o t).mem = s.mem := rfl
@[simp] theorem setTwin_clk (s : State) (o : Nat) (t : Option Twin) : (setTwin s o t).clk = s.clk := rfl
@[simp] theorem setTwin_port (s : State) (o : Nat) (t : Option Twin) : (setTwin s o t).port = s.port := rfl
@[simp] theorem setTwin_twins (s : State) (o : Nat) (t : Option Twin) : (setTwin s o t).twins = mset none s.twins o t := rfl
@[simp] theorem setTwin_cores (s : State) (o : Nat) (t : Option Twin) : (setTwin s o t).cores = s.cores := rfl
@[simp] theorem setTwin_bundles (s : State) (o : Nat) (t : Option Twin) : (setTwin s o t).bundles = s.bundles := rfl
@[simp] theorem setTwin_cp (s : State) (o : Nat) (t : Option Twin) : (setTwin s o t).cp = s.cp := rfl
@[simp] theorem setTwin_geq (s : State) (o : Nat) (t : Option Twin) : (setTwin s o t).geq = s.geq := rfl
@[simp] theorem setTwin_mbx (s : State) (o : Nat) (t : Option Twin) : (setTwin s o t).mbx = s.mbx := rfl
@[simp] theorem setTwin_fu (s : State) (o : Nat) (t : Option Twin) : (setTwin s o t).fu = s.fu := rfl
@[simp] theorem setTwin_baskets (s : State) (o : Nat) (t : Option Twin) : (setTwin s o t).baskets = s.baskets := rfl
@[simp] theorem setTwin_atu (s : State) (o : Nat) (t : Option Twin) : (setTwin s o t).atu = s.atu := rfl
@[simp] theorem setTwin_fp (s : State) (o : Nat) (t : Option Twin) : (setTwin s o t).fp = s.fp := rfl
@[simp] theorem setTwin_ru (s : State) (o : Nat) (t : Option Twin) : (setTwin s o t).ru = s.ru := rfl
@[simp] theorem setTwin_links (s : State) (o : Nat) (t : Option Twin) : (setTwin s o t).links = s.links := rfl
@[simp] theorem setTwin_store (s : State) (o : Nat) (t : Option Twin) : (setTwin s o t).store = s.store := rfl
@[simp] theorem setTwin_sb (s : State) (o : Nat) (t : Option Twin) : (setTwin s o t).sb = s.sb := rfl
@[simp] theorem setTwin_svc (s : State) (o : Nat) (t : Option Twin) : (setTwin s o t).svc = s.svc := rfl
@[simp] theorem setTwin_pwr (s : State) (o : Nat) (t : Option Twin) : (setTwin s o t).pwr = s.pwr := rfl
@[simp] theorem setTwin_temper (s : State) (o : Nat) (t : Option Twin) : (setTwin s o t).temper = s.temper := rfl
@[simp] theorem setTwin_tel (s : State) (o : Nat) (t : Option Twin) : (setTwin s o t).tel = s.tel := rfl
@[simp] theorem setTwin_freeCount (s : State) (o : Nat) (t : Option Twin) : (setTwin s o t).freeCount = s.freeCount := rfl

@[simp] theorem scramble_pending (s : State) (a n : Nat) : (scramble s a n).pending = s.pending := rfl
@[simp] theorem scramble_clk (s : State) (a n : Nat) : (scramble s a n).clk = s.clk := rfl
@[simp] theorem scramble_port (s : State) (a n : Nat) : (scramble s a n).port = s.port := rfl
@[simp] theorem scramble_twins (s : State) (a n : Nat) : (scramble s a n).twins = s.twins := rfl
@[simp] theorem scramble_cores (s : State) (a n : Nat) : (scramble s a n).cores = s.cores := rfl
@[simp] theorem scramble_bundles (s : State) (a n : Nat) : (scramble s a n).bundles = s.bundles := rfl
@[simp] theorem scramble_cp (s : State) (a n : Nat) : (scramble s a n).cp = s.cp := rfl
@[simp] theorem scramble_geq (s : State) (a n : Nat) : (scramble s a n).geq = s.geq := rfl
@[simp] theorem scramble_mbx (s : State) (a n : Nat) : (scramble s a n).mbx = s.mbx := rfl
@[simp] theorem scramble_fu (s : State) (a n : Nat) : (scramble s a n).fu = s.fu := rfl
@[simp] theorem scramble_baskets (s : State) (a n : Nat) : (scramble s a n).baskets = s.baskets := rfl
@[simp] theorem scramble_atu (s : State) (a n : Nat) : (scramble s a n).atu = s.atu := rfl
@[simp] theorem scramble_fp (s : State) (a n : Nat) : (scramble s a n).fp = s.fp := rfl
@[simp] theorem scramble_ru (s : State) (a n : Nat) : (scramble s a n).ru = s.ru := rfl
@[simp] theorem scramble_links (s : State) (a n : Nat) : (scramble s a n).links = s.links := rfl
@[simp] theorem scramble_store (s : State) (a n : Nat) : (scramble s a n).store = s.store := rfl
@[simp] theorem scramble_sb (s : State) (a n : Nat) : (scramble s a n).sb = s.sb := rfl
@[simp] theorem scramble_svc (s : State) (a n : Nat) : (scramble s a n).svc = s.svc := rfl
@[simp] theorem scramble_pwr (s : State) (a n : Nat) : (scramble s a n).pwr = s.pwr := rfl
@[simp] theorem scramble_temper (s : State) (a n : Nat) : (scramble s a n).temper = s.temper := rfl
@[simp] theorem scramble_tel (s : State) (a n : Nat) : (scramble s a n).tel = s.tel := rfl

@[simp] theorem updCore_pending (s : State) (c : Nat) (f : Core → Core) : (updCore s c f).pending = s.pending := rfl
@[simp] theorem updCore_mem (s : State) (c : Nat) (f : Core → Core) : (updCore s c f).mem = s.mem := rfl
@[simp] theorem updCore_clk (s : State) (c : Nat) (f : Core → Core) : (updCore s c f).clk = s.clk := rfl
@[simp] theorem updCore_port (s : State) (c : Nat) (f : Core → Core) : (updCore s c f).port = s.port := rfl
@[simp] theorem updCore_twins (s : State) (c : Nat) (f : Core → Core) : (updCore s c f).twins = s.twins := rfl
@[simp] theorem updCore_bundles (s : State) (c : Nat) (f : Core → Core) : (updCore s c f).bundles = s.bundles := rfl
@[simp] theorem updCore_cp (s : State) (c : Nat) (f : Core → Core) : (updCore s c f).cp = s.cp := rfl
@[simp] theorem updCore_geq (s : State) (c : Nat) (f : Core → Core) : (updCore s c f).geq = s.geq := rfl
@[simp] theorem updCore_mbx (s : State) (c : Nat) (f : Core → Core) : (updCore s c f).mbx = s.mbx := rfl
@[simp] theorem updCore_fu (s : State) (c : Nat) (f : Core → Core) : (updCore s c f).fu = s.fu := rfl
@[simp] theorem updCore_baskets (s : State) (c : Nat) (f : Core → Core) : (updCore s c f).baskets = s.baskets := rfl
@[simp] theorem updCore_atu (s : State) (c : Nat) (f : Core → Core) : (updCore s c f).atu = s.atu := rfl
@[simp] theorem updCore_fp (s : State) (c : Nat) (f : Core → Core) : (updCore s c f).fp = s.fp := rfl
@[simp] theorem updCore_ru (s : State) (c : Nat) (f : Core → Core) : (updCore s c f).ru = s.ru := rfl
@[simp] theorem updCore_links (s : State) (c : Nat) (f : Core → Core) : (updCore s c f).links = s.links := rfl
@[simp] theorem updCore_store (s : State) (c : Nat) (f : Core → Core) : (updCore s c f).store = s.store := rfl
@[simp] theorem updCore_sb (s : State) (c : Nat) (f : Core → Core) : (updCore s c f).sb = s.sb := rfl
@[simp] theorem updCore_svc (s : State) (c : Nat) (f : Core → Core) : (updCore s c f).svc = s.svc := rfl
@[simp] theorem updCore_pwr (s : State) (c : Nat) (f : Core → Core) : (updCore s c f).pwr = s.pwr := rfl
@[simp] theorem updCore_temper (s : State) (c : Nat) (f : Core → Core) : (updCore s c f).temper = s.temper := rfl
@[simp] theorem updCore_tel (s : State) (c : Nat) (f : Core → Core) : (updCore s c f).tel = s.tel := rfl
@[simp] theorem updCore_freeCount (s : State) (c : Nat) (f : Core → Core) : (updCore s c f).freeCount = s.freeCount := rfl

@[simp] theorem updCtx_pending (s : State) (c : Nat) (f : Ctx → Ctx) : (updCtx s c f).pending = s.pending := rfl
@[simp] theorem updCtx_mem (s : State) (c : Nat) (f : Ctx → Ctx) : (updCtx s c f).mem = s.mem := rfl
@[simp] theorem updCtx_clk (s : State) (c : Nat) (f : Ctx → Ctx) : (updCtx s c f).clk = s.clk := rfl
@[simp] theorem updCtx_port (s : State) (c : Nat) (f : Ctx → Ctx) : (updCtx s c f).port = s.port := rfl
@[simp] theorem updCtx_twins (s : State) (c : Nat) (f : Ctx → Ctx) : (updCtx s c f).twins = s.twins := rfl
@[simp] theorem updCtx_cores (s : State) (c : Nat) (f : Ctx → Ctx) : (updCtx s c f).cores = s.cores := rfl
@[simp] theorem updCtx_bundles (s : State) (c : Nat) (f : Ctx → Ctx) : (updCtx s c f).bundles = s.bundles := rfl
@[simp] theorem updCtx_geq (s : State) (c : Nat) (f : Ctx → Ctx) : (updCtx s c f).geq = s.geq := rfl
@[simp] theorem updCtx_mbx (s : State) (c : Nat) (f : Ctx → Ctx) : (updCtx s c f).mbx = s.mbx := rfl
@[simp] theorem updCtx_fu (s : State) (c : Nat) (f : Ctx → Ctx) : (updCtx s c f).fu = s.fu := rfl
@[simp] theorem updCtx_baskets (s : State) (c : Nat) (f : Ctx → Ctx) : (updCtx s c f).baskets = s.baskets := rfl
@[simp] theorem updCtx_atu (s : State) (c : Nat) (f : Ctx → Ctx) : (updCtx s c f).atu = s.atu := rfl
@[simp] theorem updCtx_fp (s : State) (c : Nat) (f : Ctx → Ctx) : (updCtx s c f).fp = s.fp := rfl
@[simp] theorem updCtx_ru (s : State) (c : Nat) (f : Ctx → Ctx) : (updCtx s c f).ru = s.ru := rfl
@[simp] theorem updCtx_links (s : State) (c : Nat) (f : Ctx → Ctx) : (updCtx s c f).links = s.links := rfl
@[simp] theorem updCtx_store (s : State) (c : Nat) (f : Ctx → Ctx) : (updCtx s c f).store = s.store := rfl
@[simp] theorem updCtx_sb (s : State) (c : Nat) (f : Ctx → Ctx) : (updCtx s c f).sb = s.sb := rfl
@[simp] theorem updCtx_svc (s : State) (c : Nat) (f : Ctx → Ctx) : (updCtx s c f).svc = s.svc := rfl
@[simp] theorem updCtx_pwr (s : State) (c : Nat) (f : Ctx → Ctx) : (updCtx s c f).pwr = s.pwr := rfl
@[simp] theorem updCtx_temper (s : State) (c : Nat) (f : Ctx → Ctx) : (updCtx s c f).temper = s.temper := rfl
@[simp] theorem updCtx_tel (s : State) (c : Nat) (f : Ctx → Ctx) : (updCtx s c f).tel = s.tel := rfl
@[simp] theorem updCtx_freeCount (s : State) (c : Nat) (f : Ctx → Ctx) : (updCtx s c f).freeCount = s.freeCount := rfl

@[simp] theorem updBsk_pending (s : State) (b : Nat) (f : Basket → Basket) : (updBsk s b f).pending = s.pending := rfl
@[simp] theorem updBsk_mem (s : State) (b : Nat) (f : Basket → Basket) : (updBsk s b f).mem = s.mem := rfl
@[simp] theorem updBsk_clk (s : State) (b : Nat) (f : Basket → Basket) : (updBsk s b f).clk = s.clk := rfl
@[simp] theorem updBsk_port (s : State) (b : Nat) (f : Basket → Basket) : (updBsk s b f).port = s.port := rfl
@[simp] theorem updBsk_twins (s : State) (b : Nat) (f : Basket → Basket) : (updBsk s b f).twins = s.twins := rfl
@[simp] theorem updBsk_cores (s : State) (b : Nat) (f : Basket → Basket) : (updBsk s b f).cores = s.cores := rfl
@[simp] theorem updBsk_bundles (s : State) (b : Nat) (f : Basket → Basket) : (updBsk s b f).bundles = s.bundles := rfl
@[simp] theorem updBsk_cp (s : State) (b : Nat) (f : Basket → Basket) : (updBsk s b f).cp = s.cp := rfl
@[simp] theorem updBsk_geq (s : State) (b : Nat) (f : Basket → Basket) : (updBsk s b f).geq = s.geq := rfl
@[simp] theorem updBsk_mbx (s : State) (b : Nat) (f : Basket → Basket) : (updBsk s b f).mbx = s.mbx := rfl
@[simp] theorem updBsk_fu (s : State) (b : Nat) (f : Basket → Basket) : (updBsk s b f).fu = s.fu := rfl
@[simp] theorem updBsk_atu (s : State) (b : Nat) (f : Basket → Basket) : (updBsk s b f).atu = s.atu := rfl
@[simp] theorem updBsk_fp (s : State) (b : Nat) (f : Basket → Basket) : (updBsk s b f).fp = s.fp := rfl
@[simp] theorem updBsk_ru (s : State) (b : Nat) (f : Basket → Basket) : (updBsk s b f).ru = s.ru := rfl
@[simp] theorem updBsk_links (s : State) (b : Nat) (f : Basket → Basket) : (updBsk s b f).links = s.links := rfl
@[simp] theorem updBsk_store (s : State) (b : Nat) (f : Basket → Basket) : (updBsk s b f).store = s.store := rfl
@[simp] theorem updBsk_sb (s : State) (b : Nat) (f : Basket → Basket) : (updBsk s b f).sb = s.sb := rfl
@[simp] theorem updBsk_svc (s : State) (b : Nat) (f : Basket → Basket) : (updBsk s b f).svc = s.svc := rfl
@[simp] theorem updBsk_pwr (s : State) (b : Nat) (f : Basket → Basket) : (updBsk s b f).pwr = s.pwr := rfl
@[simp] theorem updBsk_temper (s : State) (b : Nat) (f : Basket → Basket) : (updBsk s b f).temper = s.temper := rfl
@[simp] theorem updBsk_tel (s : State) (b : Nat) (f : Basket → Basket) : (updBsk s b f).tel = s.tel := rfl
@[simp] theorem updBsk_freeCount (s : State) (b : Nat) (f : Basket → Basket) : (updBsk s b f).freeCount = s.freeCount := rfl

@[simp] theorem updLink_pending (s : State) (l : Nat) (f : Link → Link) : (updLink s l f).pending = s.pending := rfl
@[simp] theorem updLink_mem (s : State) (l : Nat) (f : Link → Link) : (updLink s l f).mem = s.mem := rfl
@[simp] theorem updLink_clk (s : State) (l : Nat) (f : Link → Link) : (updLink s l f).clk = s.clk := rfl
@[simp] theorem updLink_port (s : State) (l : Nat) (f : Link → Link) : (updLink s l f).port = s.port := rfl
@[simp] theorem updLink_twins (s : State) (l : Nat) (f : Link → Link) : (updLink s l f).twins = s.twins := rfl
@[simp] theorem updLink_cores (s : State) (l : Nat) (f : Link → Link) : (updLink s l f).cores = s.cores := rfl
@[simp] theorem updLink_bundles (s : State) (l : Nat) (f : Link → Link) : (updLink s l f).bundles = s.bundles := rfl
@[simp] theorem updLink_cp (s : State) (l : Nat) (f : Link → Link) : (updLink s l f).cp = s.cp := rfl
@[simp] theorem updLink_geq (s : State) (l : Nat) (f : Link → Link) : (updLink s l f).geq = s.geq := rfl
@[simp] theorem updLink_mbx (s : State) (l : Nat) (f : Link → Link) : (updLink s l f).mbx = s.mbx := rfl
@[simp] theorem updLink_fu (s : State) (l : Nat) (f : Link → Link) : (updLink s l f).fu = s.fu := rfl
@[simp] theorem updLink_baskets (s : State) (l : Nat) (f : Link → Link) : (updLink s l f).baskets = s.baskets := rfl
@[simp] theorem updLink_atu (s : State) (l : Nat) (f : Link → Link) : (updLink s l f).atu = s.atu := rfl
@[simp] theorem updLink_fp (s : State) (l : Nat) (f : Link → Link) : (updLink s l f).fp = s.fp := rfl
@[simp] theorem updLink_ru (s : State) (l : Nat) (f : Link → Link) : (updLink s l f).ru = s.ru := rfl
@[simp] theorem updLink_store (s : State) (l : Nat) (f : Link → Link) : (updLink s l f).store = s.store := rfl
@[simp] theorem updLink_sb (s : State) (l : Nat) (f : Link → Link) : (updLink s l f).sb = s.sb := rfl
@[simp] theorem updLink_svc (s : State) (l : Nat) (f : Link → Link) : (updLink s l f).svc = s.svc := rfl
@[simp] theorem updLink_pwr (s : State) (l : Nat) (f : Link → Link) : (updLink s l f).pwr = s.pwr := rfl
@[simp] theorem updLink_temper (s : State) (l : Nat) (f : Link → Link) : (updLink s l f).temper = s.temper := rfl
@[simp] theorem updLink_tel (s : State) (l : Nat) (f : Link → Link) : (updLink s l f).tel = s.tel := rfl
@[simp] theorem updLink_freeCount (s : State) (l : Nat) (f : Link → Link) : (updLink s l f).freeCount = s.freeCount := rfl

@[simp] theorem updTa_pending (s : State) (c : Nat) (f : Ta → Ta) : (updTa s c f).pending = s.pending := rfl
@[simp] theorem updTa_mem (s : State) (c : Nat) (f : Ta → Ta) : (updTa s c f).mem = s.mem := rfl
@[simp] theorem updTa_clk (s : State) (c : Nat) (f : Ta → Ta) : (updTa s c f).clk = s.clk := rfl
@[simp] theorem updTa_port (s : State) (c : Nat) (f : Ta → Ta) : (updTa s c f).port = s.port := rfl
@[simp] theorem updTa_twins (s : State) (c : Nat) (f : Ta → Ta) : (updTa s c f).twins = s.twins := rfl
@[simp] theorem updTa_bundles (s : State) (c : Nat) (f : Ta → Ta) : (updTa s c f).bundles = s.bundles := rfl
@[simp] theorem updTa_cp (s : State) (c : Nat) (f : Ta → Ta) : (updTa s c f).cp = s.cp := rfl
@[simp] theorem updTa_geq (s : State) (c : Nat) (f : Ta → Ta) : (updTa s c f).geq = s.geq := rfl
@[simp] theorem updTa_mbx (s : State) (c : Nat) (f : Ta → Ta) : (updTa s c f).mbx = s.mbx := rfl
@[simp] theorem updTa_fu (s : State) (c : Nat) (f : Ta → Ta) : (updTa s c f).fu = s.fu := rfl
@[simp] theorem updTa_baskets (s : State) (c : Nat) (f : Ta → Ta) : (updTa s c f).baskets = s.baskets := rfl
@[simp] theorem updTa_atu (s : State) (c : Nat) (f : Ta → Ta) : (updTa s c f).atu = s.atu := rfl
@[simp] theorem updTa_fp (s : State) (c : Nat) (f : Ta → Ta) : (updTa s c f).fp = s.fp := rfl
@[simp] theorem updTa_ru (s : State) (c : Nat) (f : Ta → Ta) : (updTa s c f).ru = s.ru := rfl
@[simp] theorem updTa_links (s : State) (c : Nat) (f : Ta → Ta) : (updTa s c f).links = s.links := rfl
@[simp] theorem updTa_store (s : State) (c : Nat) (f : Ta → Ta) : (updTa s c f).store = s.store := rfl
@[simp] theorem updTa_sb (s : State) (c : Nat) (f : Ta → Ta) : (updTa s c f).sb = s.sb := rfl
@[simp] theorem updTa_svc (s : State) (c : Nat) (f : Ta → Ta) : (updTa s c f).svc = s.svc := rfl
@[simp] theorem updTa_pwr (s : State) (c : Nat) (f : Ta → Ta) : (updTa s c f).pwr = s.pwr := rfl
@[simp] theorem updTa_temper (s : State) (c : Nat) (f : Ta → Ta) : (updTa s c f).temper = s.temper := rfl
@[simp] theorem updTa_tel (s : State) (c : Nat) (f : Ta → Ta) : (updTa s c f).tel = s.tel := rfl
@[simp] theorem updTa_freeCount (s : State) (c : Nat) (f : Ta → Ta) : (updTa s c f).freeCount = s.freeCount := rfl

@[simp] theorem updPan_pending (s : State) (c : Nat) (f : Pan → Pan) : (updPan s c f).pending = s.pending := rfl
@[simp] theorem updPan_mem (s : State) (c : Nat) (f : Pan → Pan) : (updPan s c f).mem = s.mem := rfl
@[simp] theorem updPan_clk (s : State) (c : Nat) (f : Pan → Pan) : (updPan s c f).clk = s.clk := rfl
@[simp] theorem updPan_port (s : State) (c : Nat) (f : Pan → Pan) : (updPan s c f).port = s.port := rfl
@[simp] theorem updPan_twins (s : State) (c : Nat) (f : Pan → Pan) : (updPan s c f).twins = s.twins := rfl
@[simp] theorem updPan_bundles (s : State) (c : Nat) (f : Pan → Pan) : (updPan s c f).bundles = s.bundles := rfl
@[simp] theorem updPan_cp (s : State) (c : Nat) (f : Pan → Pan) : (updPan s c f).cp = s.cp := rfl
@[simp] theorem updPan_geq (s : State) (c : Nat) (f : Pan → Pan) : (updPan s c f).geq = s.geq := rfl
@[simp] theorem updPan_mbx (s : State) (c : Nat) (f : Pan → Pan) : (updPan s c f).mbx = s.mbx := rfl
@[simp] theorem updPan_fu (s : State) (c : Nat) (f : Pan → Pan) : (updPan s c f).fu = s.fu := rfl
@[simp] theorem updPan_baskets (s : State) (c : Nat) (f : Pan → Pan) : (updPan s c f).baskets = s.baskets := rfl
@[simp] theorem updPan_atu (s : State) (c : Nat) (f : Pan → Pan) : (updPan s c f).atu = s.atu := rfl
@[simp] theorem updPan_fp (s : State) (c : Nat) (f : Pan → Pan) : (updPan s c f).fp = s.fp := rfl
@[simp] theorem updPan_ru (s : State) (c : Nat) (f : Pan → Pan) : (updPan s c f).ru = s.ru := rfl
@[simp] theorem updPan_links (s : State) (c : Nat) (f : Pan → Pan) : (updPan s c f).links = s.links := rfl
@[simp] theorem updPan_store (s : State) (c : Nat) (f : Pan → Pan) : (updPan s c f).store = s.store := rfl
@[simp] theorem updPan_sb (s : State) (c : Nat) (f : Pan → Pan) : (updPan s c f).sb = s.sb := rfl
@[simp] theorem updPan_svc (s : State) (c : Nat) (f : Pan → Pan) : (updPan s c f).svc = s.svc := rfl
@[simp] theorem updPan_pwr (s : State) (c : Nat) (f : Pan → Pan) : (updPan s c f).pwr = s.pwr := rfl
@[simp] theorem updPan_temper (s : State) (c : Nat) (f : Pan → Pan) : (updPan s c f).temper = s.temper := rfl
@[simp] theorem updPan_tel (s : State) (c : Nat) (f : Pan → Pan) : (updPan s c f).tel = s.tel := rfl
@[simp] theorem updPan_freeCount (s : State) (c : Nat) (f : Pan → Pan) : (updPan s c f).freeCount = s.freeCount := rfl

@[simp] theorem updSeq_pending (s : State) (c : Nat) (f : Seq → Seq) : (updSeq s c f).pending = s.pending := rfl
@[simp] theorem updSeq_mem (s : State) (c : Nat) (f : Seq → Seq) : (updSeq s c f).mem = s.mem := rfl
@[simp] theorem updSeq_clk (s : State) (c : Nat) (f : Seq → Seq) : (updSeq s c f).clk = s.clk := rfl
@[simp] theorem updSeq_port (s : State) (c : Nat) (f : Seq → Seq) : (updSeq s c f).port = s.port := rfl
@[simp] theorem updSeq_twins (s : State) (c : Nat) (f : Seq → Seq) : (updSeq s c f).twins = s.twins := rfl
@[simp] theorem updSeq_bundles (s : State) (c : Nat) (f : Seq → Seq) : (updSeq s c f).bundles = s.bundles := rfl
@[simp] theorem updSeq_cp (s : State) (c : Nat) (f : Seq → Seq) : (updSeq s c f).cp = s.cp := rfl
@[simp] theorem updSeq_geq (s : State) (c : Nat) (f : Seq → Seq) : (updSeq s c f).geq = s.geq := rfl
@[simp] theorem updSeq_mbx (s : State) (c : Nat) (f : Seq → Seq) : (updSeq s c f).mbx = s.mbx := rfl
@[simp] theorem updSeq_fu (s : State) (c : Nat) (f : Seq → Seq) : (updSeq s c f).fu = s.fu := rfl
@[simp] theorem updSeq_baskets (s : State) (c : Nat) (f : Seq → Seq) : (updSeq s c f).baskets = s.baskets := rfl
@[simp] theorem updSeq_atu (s : State) (c : Nat) (f : Seq → Seq) : (updSeq s c f).atu = s.atu := rfl
@[simp] theorem updSeq_fp (s : State) (c : Nat) (f : Seq → Seq) : (updSeq s c f).fp = s.fp := rfl
@[simp] theorem updSeq_ru (s : State) (c : Nat) (f : Seq → Seq) : (updSeq s c f).ru = s.ru := rfl
@[simp] theorem updSeq_links (s : State) (c : Nat) (f : Seq → Seq) : (updSeq s c f).links = s.links := rfl
@[simp] theorem updSeq_store (s : State) (c : Nat) (f : Seq → Seq) : (updSeq s c f).store = s.store := rfl
@[simp] theorem updSeq_sb (s : State) (c : Nat) (f : Seq → Seq) : (updSeq s c f).sb = s.sb := rfl
@[simp] theorem updSeq_svc (s : State) (c : Nat) (f : Seq → Seq) : (updSeq s c f).svc = s.svc := rfl
@[simp] theorem updSeq_pwr (s : State) (c : Nat) (f : Seq → Seq) : (updSeq s c f).pwr = s.pwr := rfl
@[simp] theorem updSeq_temper (s : State) (c : Nat) (f : Seq → Seq) : (updSeq s c f).temper = s.temper := rfl
@[simp] theorem updSeq_tel (s : State) (c : Nat) (f : Seq → Seq) : (updSeq s c f).tel = s.tel := rfl
@[simp] theorem updSeq_freeCount (s : State) (c : Nat) (f : Seq → Seq) : (updSeq s c f).freeCount = s.freeCount := rfl

@[simp] theorem updMem_pending (s : State) (c : Nat) (f : MemUnit → MemUnit) : (updMem s c f).pending = s.pending := rfl
@[simp] theorem updMem_mem (s : State) (c : Nat) (f : MemUnit → MemUnit) : (updMem s c f).mem = s.mem := rfl
@[simp] theorem updMem_clk (s : State) (c : Nat) (f : MemUnit → MemUnit) : (updMem s c f).clk = s.clk := rfl
@[simp] theorem updMem_port (s : State) (c : Nat) (f : MemUnit → MemUnit) : (updMem s c f).port = s.port := rfl
@[simp] theorem updMem_twins (s : State) (c : Nat) (f : MemUnit → MemUnit) : (updMem s c f).twins = s.twins := rfl
@[simp] theorem updMem_bundles (s : State) (c : Nat) (f : MemUnit → MemUnit) : (updMem s c f).bundles = s.bundles := rfl
@[simp] theorem updMem_cp (s : State) (c : Nat) (f : MemUnit → MemUnit) : (updMem s c f).cp = s.cp := rfl
@[simp] theorem updMem_geq (s : State) (c : Nat) (f : MemUnit → MemUnit) : (updMem s c f).geq = s.geq := rfl
@[simp] theorem updMem_mbx (s : State) (c : Nat) (f : MemUnit → MemUnit) : (updMem s c f).mbx = s.mbx := rfl
@[simp] theorem updMem_fu (s : State) (c : Nat) (f : MemUnit → MemUnit) : (updMem s c f).fu = s.fu := rfl
@[simp] theorem updMem_baskets (s : State) (c : Nat) (f : MemUnit → MemUnit) : (updMem s c f).baskets = s.baskets := rfl
@[simp] theorem updMem_atu (s : State) (c : Nat) (f : MemUnit → MemUnit) : (updMem s c f).atu = s.atu := rfl
@[simp] theorem updMem_fp (s : State) (c : Nat) (f : MemUnit → MemUnit) : (updMem s c f).fp = s.fp := rfl
@[simp] theorem updMem_ru (s : State) (c : Nat) (f : MemUnit → MemUnit) : (updMem s c f).ru = s.ru := rfl
@[simp] theorem updMem_links (s : State) (c : Nat) (f : MemUnit → MemUnit) : (updMem s c f).links = s.links := rfl
@[simp] theorem updMem_store (s : State) (c : Nat) (f : MemUnit → MemUnit) : (updMem s c f).store = s.store := rfl
@[simp] theorem updMem_sb (s : State) (c : Nat) (f : MemUnit → MemUnit) : (updMem s c f).sb = s.sb := rfl
@[simp] theorem updMem_svc (s : State) (c : Nat) (f : MemUnit → MemUnit) : (updMem s c f).svc = s.svc := rfl
@[simp] theorem updMem_pwr (s : State) (c : Nat) (f : MemUnit → MemUnit) : (updMem s c f).pwr = s.pwr := rfl
@[simp] theorem updMem_temper (s : State) (c : Nat) (f : MemUnit → MemUnit) : (updMem s c f).temper = s.temper := rfl
@[simp] theorem updMem_tel (s : State) (c : Nat) (f : MemUnit → MemUnit) : (updMem s c f).tel = s.tel := rfl
@[simp] theorem updMem_freeCount (s : State) (c : Nat) (f : MemUnit → MemUnit) : (updMem s c f).freeCount = s.freeCount := rfl

-- ---------------------------------------------------------------- reading a part after writing it

theorem coreOf_setCore (s : State) (c j : Nat) (k : Core) :
    coreOf (setCore s c k) j = if c = j then k else coreOf s j := mget_mset _ s.cores c j k

@[simp] theorem coreOf_setCore_same (s : State) (c : Nat) (k : Core) :
    coreOf (setCore s c k) c = k := by simp [coreOf_setCore]

theorem coreOf_updCore (s : State) (c j : Nat) (f : Core → Core) :
    coreOf (updCore s c f) j = if c = j then f (coreOf s c) else coreOf s j :=
  coreOf_setCore s c j _

@[simp] theorem coreOf_updCore_same (s : State) (c : Nat) (f : Core → Core) :
    coreOf (updCore s c f) c = f (coreOf s c) := by simp [coreOf_updCore]

theorem ctxOf_setCtx (s : State) (c j : Nat) (k : Ctx) :
    ctxOf (setCtx s c k) j = if c = j then k else ctxOf s j := mget_mset _ s.cp.ctxs c j k

@[simp] theorem ctxOf_setCtx_same (s : State) (c : Nat) (k : Ctx) :
    ctxOf (setCtx s c k) c = k := by simp [ctxOf_setCtx]

theorem ctxOf_updCtx (s : State) (c j : Nat) (f : Ctx → Ctx) :
    ctxOf (updCtx s c f) j = if c = j then f (ctxOf s c) else ctxOf s j := ctxOf_setCtx s c j _

@[simp] theorem ctxOf_updCtx_same (s : State) (c : Nat) (f : Ctx → Ctx) :
    ctxOf (updCtx s c f) c = f (ctxOf s c) := by simp [ctxOf_updCtx]

theorem bskOf_updBsk (s : State) (b j : Nat) (f : Basket → Basket) :
    bskOf (updBsk s b f) j = if b = j then f (bskOf s b) else bskOf s j :=
  mget_mset _ s.baskets b j _

@[simp] theorem bskOf_updBsk_same (s : State) (b : Nat) (f : Basket → Basket) :
    bskOf (updBsk s b f) b = f (bskOf s b) := by simp [bskOf_updBsk]

theorem linkOf_updLink (s : State) (l j : Nat) (f : Link → Link) :
    linkOf (updLink s l f) j = if l = j then f (linkOf s l) else linkOf s j :=
  mget_mset _ s.links l j _

@[simp] theorem linkOf_updLink_same (s : State) (l : Nat) (f : Link → Link) :
    linkOf (updLink s l f) l = f (linkOf s l) := by simp [linkOf_updLink]

theorem twinOf_setTwin (s : State) (o j : Nat) (t : Option Twin) :
    twinOf (setTwin s o t) j = if o = j then t else twinOf s j := mget_mset _ s.twins o j t

@[simp] theorem twinOf_setTwin_same (s : State) (o : Nat) (t : Option Twin) :
    twinOf (setTwin s o t) o = t := by simp [twinOf_setTwin]

end Sys2Proof.Machine
end

