-- ==== Sys2Proof/Laws/Keeps.lean ====
section
/-! SUPPORT. What every operation keeps: the queue of waiting commands, and the canonical form of host memory. -/

namespace Sys2Proof.Machine

/-- `t` has the queue of `s`, and a canonical memory if `s` has one. -/
structure Keeps (s t : State) : Prop where
  queue : t.pending = s.pending
  mem : memWf s.mem = true → memWf t.mem = true

theorem Keeps.rfl' (s : State) : Keeps s s := ⟨rfl, id⟩

theorem Keeps.trans {s t u : State} (h : Keeps s t) (k : Keeps t u) : Keeps s u :=
  ⟨k.queue.trans h.queue, fun x => k.mem (h.mem x)⟩

/-- A change that touches neither. -/
theorem Keeps.same {s t u : State} (h : Keeps s t) (hp : u.pending = t.pending) (hm : u.mem = t.mem) :
    Keeps s u := ⟨hp.trans h.queue, fun x => hm ▸ h.mem x⟩

/-- A change of memory. -/
theorem Keeps.store {s t u : State} (h : Keeps s t) (hp : u.pending = t.pending)
    (hm : memWf t.mem = true → memWf u.mem = true) : Keeps s u :=
  ⟨hp.trans h.queue, fun x => hm (h.mem x)⟩

theorem Keeps.ite {s t u : State} {c : Prop} [Decidable c] (h : Keeps s t) (k : Keeps s u) :
    Keeps s (if c then t else u) := by split <;> assumption

theorem Keeps.foldl {β : Type} {s : State} {f : State → β → State} (hf : ∀ t x, Keeps s t → Keeps s (f t x)) :
    ∀ (l : List β) {t : State}, Keeps s t → Keeps s (l.foldl f t)
  | [], _, h => h
  | x :: l, _, h => Keeps.foldl hf l (hf _ x h)

end Sys2Proof.Machine
end

