-- ==== Sys2Proof/Laws/Slots.lean ====
section
/-! SUPPORT. The issue of a bundle of one slot: what a slot presented alone does, once for every slot. -/

namespace Sys2Proof.Laws

open Sys2Proof Sys2Proof.Machine Sys2Proof.Says

@[simp] theorem co_shut (s : State) (a : At) : coreOf (shut s a) a.core.toNat = co s a := rfl

theorem bundleEcc_one (x : SlotInfo) : bundleEcc [x] = x.ecc := by
  simp [bundleEcc]

/-- The words of a bundle within the image can be read: the corrections count and the bundle goes on. -/
theorem fetch_of_readable {s : State} {c : Nat} {e : WordEcc} (hd : e.double = 0) (hp : pastImage s c = false)
    (hl : s.pwr.lostSince = none) (run : State → State) :
    fetchBundle s c e run = run (updSeq s c (fun q => { q with eccCnt := satAdd q.eccCnt (eccCount e) })) := by
  simp [fetchBundle, hd, hp, hl]

/-- A slot presented alone is a bundle of its own: its checks and its effect are made from the state without
kept slots, then the bundle counts as issued. -/
theorem issue_of_solo {s : State} {a : At} (h : Solo s a) {i : Instr} {x : SlotInfo}
    (hi : slotOf i = some x) (hc : x.core = a.core.toNat) (hm : x.more = a.more) (he : x.ecc = a.ecc) :
    issueBy slotOf i s =
      (match runSlots (shut s a) [x] with
      | .wait f => f (shut s a)
      | .fault f => f (shut s a)
      | .next t g => issued t a.core.toNat [x] g) := by
  obtain ⟨h1, h2, h3, h4, h5, h6⟩ := h
  unfold issueBy
  rw [hi]
  simp only [hc, h4, h1, hm, h2, List.nil_append, if_true, List.filterMap_cons, List.filterMap_nil, hi, runBundle,
    bundleEcc_one, he]
  rw [fetch_of_readable h3 (by exact h5) (by exact h6)]
  rfl

/-- The issue counts that follow a slot's effect are those of `after`. -/
theorem issued_eq_after (s : State) (a : At) {x : SlotInfo} (g : Option Nat) :
    issued s a.core.toNat [x] g = after a (decide (x.no = slotVec)) s g := by
  simp [issued, after]

/-- What one slot alone gives: it is not one of several, and no earlier slot has written. -/
theorem runSlots_one (s : State) (x : SlotInfo) : runSlots s [x] =
    (match x.run s s with
    | .fault f => .fault f
    | .stop f => .fault f
    | .wait f => .wait f
    | .next t g => .next t g) := by
  cases hr : x.run s s <;> simp [runSlots, sumSlots, slotStep, SlotSum.failBy, hr]

/-- A slot that has an effect. -/
theorem issue_next {s : State} {a : At} (h : Solo s a) {i : Instr} {x : SlotInfo}
    (hi : slotOf i = some x) (hc : x.core = a.core.toNat) (hm : x.more = a.more) (he : x.ecc = a.ecc)
    {t : State} {g : Option Nat} (hr : x.run (shut s a) (shut s a) = .next t g) :
    issueBy slotOf i s = after a (decide (x.no = slotVec)) t g := by
  rw [issue_of_solo h hi hc hm he, runSlots_one, hr]
  exact issued_eq_after t a g

/-- A slot that waits or faults: what it does then is all that happens. -/
theorem issue_stop {s : State} {a : At} (h : Solo s a) {i : Instr} {x : SlotInfo}
    (hi : slotOf i = some x) (hc : x.core = a.core.toNat) (hm : x.more = a.more) (he : x.ecc = a.ecc)
    {f : State → State}
    (hr : x.run (shut s a) (shut s a) = .fault f ∨ x.run (shut s a) (shut s a) = .stop f ∨
      x.run (shut s a) (shut s a) = .wait f) :
    issueBy slotOf i s = f (shut s a) := by
  rw [issue_of_solo h hi hc hm he, runSlots_one]
  rcases hr with hr | hr | hr <;> rw [hr]

end Sys2Proof.Laws
end

