-- ==== Sys2Proof/WellFormed.lean ====
section
/-! DEFINITION. Which commands are well formed: the operands that the types admit and no party of the spec
can send. The meanings are total and hold for ill-formed commands too. -/

namespace Sys2Proof

/-- Memory that other masters write lies in the 64-bit address space. -/
def wfCells (l : List Host.Cell) : Bool := l.all (fun e => decide (e.1 < 2 ^ 64))

/-- Column 128 is the check column of a quadrant (R76). -/
def wfPassFault (p : PassFault) : Bool :=
  decide (p.col ≤ 128 ∧ p.row ≤ 512) && p.cell.all (fun r => decide (r.toNat < 132))

/-- A failing result of the array's diagnostic: a cell row, and a column up to the check column (R85). -/
def wfArrayFails (l : List (Nat × Nat)) : Bool := l.all (fun e => decide (e.1 < 128 ∧ e.2 ≤ 128))

/-- A failing result of the Vector Unit's diagnostic: its pattern and its lane (R485). -/
def wfVectorFails (l : List (Nat × Nat)) : Bool := l.all (fun e => decide (e.1 < 4 ∧ e.2 < 512))

/-- Blocks of 4 channels of 4 chip enables of 2 LUNs of 65,536 (R445, R449). -/
def wfBlocks (l : List Nat) : Bool := l.all (fun b => decide (b < 2 ^ 21))

/-- Each of the eight lanes has a skew of at most 32 blocks (R414, R416). -/
def wfSkew (l : List (BitVec 6)) : Bool := decide (l.length = 8) && l.all (fun x => decide (x.toNat ≤ 32))

/-- A codeword has 8,768 bits (R451). -/
def wfPageErrs (l : List PageErr) : Bool := l.all (fun e => e.flips.all (fun x => decide (x.2.toNat < 8768)))

/-- A NAND operation's place: four channels of four chip enables of two LUNs (R445). -/
def wfLun (ch ce lun : Nat) : Bool := decide (ch < 4 ∧ ce < 4 ∧ lun < 2)

/-- The twenty sensors (R512). -/
def wfReadings (l : List (BitVec 11)) : Bool := decide (l.length = 20)

/-- A start reads every sensor, and a calibration's failing results lie in the array (R518). -/
def wfStart (i : StartInputs) : Bool :=
  wfReadings i.readings && i.calFails.all (fun e => wfArrayFails e.2)

/-- A plan holds at most 16 standing Baskets, each with up to 8 regions, 8 contexts and 16 schedule entries,
and wants no more cores than the engine has (R393). -/
def wfPlan (p : Plan) : Bool :=
  decide (p.baskets.length ≤ 16) && p.baskets.all (fun b => decide (b.wantCores ≤ 16 ∧ b.regions.length ≤ 8 ∧
    b.ctxs.length ≤ 8 ∧ b.entries.length ≤ 16))

def wfInputs (f : ForgeInputs) : Bool :=
  (match f.plan with | some p => wfPlan p | none => true) &&
    f.templates.all (fun e => decide (e.1 < 64))

/-- The operands of a command that a check constrains; every other command is well formed. -/
def Instr.wf : Instr → Bool
  | .frameHandle _ o => wfCells o
  | .passVerdict _ l _ => l.all wfPassFault
  | .diagDone _ l => wfArrayFails l
  | .calibrationDone _ l => wfArrayFails l
  | .forgeRepair _ _ l m => wfArrayFails l && wfArrayFails m
  | .coreReadmit l v m => wfArrayFails l && wfVectorFails v && wfArrayFails m
  | .invalidation _ o => wfCells o
  | .doorbell _ _ _ o => wfCells o
  | .fenceReadResponse _ _ _ o => wfCells o
  | .watchPoll o => wfCells o
  | .fuNotify _ o => wfCells o
  | .adoptPlan f => wfInputs f
  | .forgeStart f => wfInputs f
  | .planWrite _ p => wfPlan p
  | .linkAlign _ l => wfSkew l
  | .statusPoll ch ce lun _ => wfLun ch ce lun
  | .nandOpTimeout ch ce lun => wfLun ch ce lun
  | .nandOpComplete ch ce lun _ => wfLun ch ce lun
  | .format _ l => wfBlocks l
  | .moduleIn _ _ l => wfBlocks l
  | .storeMount _ l => wfPageErrs l
  | .journalRead _ l => wfPageErrs l
  | .galleryRead _ l => wfPageErrs l
  | .search _ l => wfPageErrs l
  | .ingotRead _ l => wfPageErrs l
  | .storeRefresh b _ => decide (b < 2 ^ 21)
  | .packetResend l _ => decide (l < 40)
  | .powerAck d => decide (d.toNat < 217)
  | .pwrSeqTimeout d => decide (d.toNat < 217)
  | .thermalSample l _ => wfReadings l
  | .blockColdReset i => wfStart i
  | .blockWarmReset i => wfStart i
  | _ => true

end Sys2Proof
end

