-- ==== Sys2Proof/Tests/Slice0.lean ====
section
/-! SUPPORT. The model's own tests: ill-formed commands, states that meet the conditions of the statements
(`wit_`), and single commands with results worked out from the spec (`test_`). -/

namespace Sys2Proof.Tests

open Sys2Proof Sys2Proof.Machine Sys2Proof.Says

-- One theorem after the other: side by side they ask for more threads than a compile has room for.
set_option Elab.async false

-- ---------------------------------------------------------------- well-formedness

/-- The checks refuse an ill-formed command each, and take one at the edge of its range. -/
theorem test_wf_cells : (Instr.fuNotify .host [(2 ^ 64, 1)]).wf = false ∧
    (Instr.fuNotify .host [(2 ^ 64 - 1, 1)]).wf = true := by decide

theorem test_wf_passFault : (Instr.passVerdict 0 [{ group := 0, row := 0, col := 129, delta := 1 }] []).wf = false ∧
    (Instr.passVerdict 0 [{ group := 0, row := 513, col := 0, delta := 1 }] []).wf = false ∧
    (Instr.passVerdict 0 [{ group := 0, row := 512, col := 128, delta := 1 }] []).wf = true := by decide

theorem test_wf_arrayFails : (Instr.diagDone 0 [(128, 0)]).wf = false ∧ (Instr.calibrationDone 0 [(0, 129)]).wf = false ∧
    (Instr.forgeRepair 0 true [] [(128, 0)]).wf = false ∧ (Instr.diagDone 0 [(127, 128)]).wf = true := by decide

theorem test_wf_vectorFails : (Instr.coreReadmit [] [(4, 0)] []).wf = false ∧
    (Instr.coreReadmit [] [(0, 512)] []).wf = false ∧ (Instr.coreReadmit [] [(3, 511)] []).wf = true := by decide

theorem test_wf_blocks : (Instr.format 0 [2 ^ 21]).wf = false ∧ (Instr.moduleIn 0 0 [2 ^ 21]).wf = false ∧
    (Instr.storeRefresh (2 ^ 21) 0).wf = false ∧ (Instr.storeRefresh (2 ^ 21 - 1) 0).wf = true := by decide

theorem test_wf_skew : (Instr.linkAlign 0 [0, 0, 0, 0, 0, 0, 0]).wf = false ∧
    (Instr.linkAlign 0 [0, 0, 0, 0, 0, 0, 0, 33]).wf = false ∧
    (Instr.linkAlign 0 [0, 0, 0, 0, 0, 0, 0, 32]).wf = true := by decide

theorem test_wf_lun : (Instr.statusPoll 4 0 0 0).wf = false ∧ (Instr.nandOpTimeout 0 4 0).wf = false ∧
    (Instr.nandOpComplete 0 0 2 false).wf = false ∧ (Instr.statusPoll 3 3 1 0).wf = true := by decide

theorem test_wf_readings : (Instr.thermalSample [] 0).wf = false ∧
    (Instr.thermalSample (List.replicate 20 0) 0).wf = true := by decide

def planOfOne (cores : Nat) : Plan where
  version := 0
  baskets := [{
    slot := 0, minCores := 0, wantCores := cores, segs := 0, rsvd := 0, rate := 0, depth := 256, slice := 4
    fallback := none, regions := [], ctxs := [], entries := [] }]
  routes := []

theorem test_wf_plan : (Instr.planWrite 0 (planOfOne 17)).wf = false ∧ (Instr.planWrite 0 (planOfOne 16)).wf = true := by
  decide

theorem test_wf_numbers : (Instr.packetResend 40 true).wf = false ∧ (Instr.packetResend 39 true).wf = true ∧
    (Instr.powerAck 217).wf = false ∧ (Instr.powerAck 216).wf = true ∧ (Instr.pwrSeqTimeout 217).wf = false := by
  decide

/-- The table gives its rows no bits, so no word spells a command. -/
theorem test_decode_none : decodeTableWord 0 0 = none ∧ decodeTableWord 32 1 = none := by decide

-- ---------------------------------------------------------------- states

/-- Whether the two components are as a clause asks, from their first. -/
theorem of_fst {α β : Type} {x : α × β} {a : α} (h : x.1 = a) : ∃ b, x = (a, b) := ⟨x.2, by rw [← h]⟩

def tExec : ExecCmd where
  cores := 1
  ndesc := 1
  entry := 0
  length := 8
  image := 0x10000
  descTable := 0x2000
  rows := 64
  declared := 0
  args := []
  search := false

def tTask : Task where
  cmd := tExec
  phase := .running
  start := 0
  cores := [0]
  base := 0
  bound := 64
  dispatched := 0
  slice := 0
  expired := none
  preempt := false
  overrun := 0
  full := false
  rowsSaved := 0
  lists := []
  kept := []
  ordinal := 0

/-- A context that runs its task in Basket 1 and space 16. -/
def tCtx : Ctx where
  valid := true
  basket := 1
  grant := true
  space := 16
  ringBase := 0x1000
  wr := 1
  sizeKib := 0x1000
  state := .running
  cur := some (.exec tExec)
  started := true
  task := some tTask

/-- Core 0 with the task of context 5. -/
def tCore : Core where
  task := some (5, 0)
  seq := { run := .running, length := 8, wdRun := true }
  ta := { st := .service }
  pan := { ready := 0xFF }

def tBasket : Basket where
  valid := true
  cores := 1
  segs := 0xFF
  regions := [(0, 0x00408000)]

/-- Page tables of two levels: a leaf of 1 GiB at 0, every permission. -/
def tMem : List Host.Cell := wr64 (wr64 [] 0x400000 0x100401) 0x401000 0xD7

/-- A state in which every domain is on, context 5 exists as given and core 0 is as given. -/
def st (k : Core) (x : Ctx) : State :=
  { State.reset with
    mem := tMem
    cores := [(0, k)]
    cp := { ctxs := [(5, x)] }
    baskets := [(1, tBasket)]
    mbx := { forgeReady := true }
    atu := { slots := [(0, { id := 16, valid := true, root := 0x9000000000000400 })], pa := [(1, 16)]
             bw := [(1, { credit := 256 })] }
    pwr := { State.reset.pwr with on := BitVec.allOnes 224, en := BitVec.allOnes 224, lock := true } }

abbrev run (k : Core) : State := st k tCtx

def a0 : At where
  core := 0
  more := false
  ecc := .clean

def v0 : VAt where
  slot := a0
  fails := 0

def soloB (s : State) (a : At) : Bool :=
  canIssue s a.core.toNat && !a.more && decide (a.ecc.double = 0) && decide (mget [] s.bundles a.core.toNat = []) &&
    !pastImage s a.core.toNat && s.pwr.lostSince.isNone

theorem solo_of {s : State} {a : At} (h : soloB s a = true) : Solo s a := by
  simp only [soloB, Bool.and_eq_true, Bool.not_eq_true', decide_eq_true_eq, Option.isNone_iff_eq_none] at h
  exact ⟨h.1.1.1.1.1, h.1.1.1.1.2, h.1.1.1.2, h.1.1.2, h.1.2, h.2⟩

/-- A core that runs, and the vector slot of the same bundle. -/
theorem vsolo_of {s : State} {a : VAt} (h : soloB s a.slot = true) (hw : a.vdouble = none)
    (ha : a.fails.toNat < replayLimit (co s a.slot)) : VSolo s a := ⟨solo_of h, hw, ha⟩

theorem wit_Solo : Solo (run tCore) a0 := solo_of (by decide +kernel)
theorem wit_VSolo : VSolo (run tCore) v0 := vsolo_of (by decide +kernel) (by decide) (by decide +kernel)

-- ---------------------------------------------------------------- the control slot

/-- A core that runs with `f` done to its sequencer. -/
abbrev runSeq (f : Seq → Seq) : State := run { tCore with seq := f tCore.seq }
abbrev runMem (f : MemUnit → MemUnit) : State := run { tCore with mem := f tCore.mem }

theorem wit_ScalarArithmetic : Solo (run tCore) a0 := wit_Solo

/-- The special values of numbers 0 and 2, at the least number and within the range. -/
theorem wit_SpecialAndRowRegisters : Solo (run tCore) a0 ∧
    (∃ v, specialValue (run tCore) 0 0 = some v) ∧ ∃ v, specialValue (run tCore) 0 2 = some v :=
  ⟨wit_Solo, Option.isSome_iff_exists.mp (by decide +kernel), Option.isSome_iff_exists.mp (by decide +kernel)⟩

/-- A stack of 15 entries takes a CALL and one of 16 does not; one entry is popped, none is not. -/
theorem wit_CallsAndReturns :
    let r (n : Nat) : State := runSeq (fun q => { q with ret := List.replicate n 7 })
    (Solo (r 15) a0 ∧ (co (r 15) a0).seq.ret.length < 16) ∧
    (Solo (r 16) a0 ∧ 16 ≤ (co (r 16) a0).seq.ret.length) ∧
    (Solo (r 1) a0 ∧ (co (r 1) a0).seq.ret.getLast? = some 7) ∧
    (Solo (r 0) a0 ∧ (co (r 0) a0).seq.ret = []) :=
  ⟨⟨solo_of (by decide +kernel), by decide +kernel⟩, ⟨solo_of (by decide +kernel), by decide +kernel⟩,
   ⟨solo_of (by decide +kernel), by decide +kernel⟩, ⟨solo_of (by decide +kernel), by decide +kernel⟩⟩

/-- A loop that ends one bundle on is taken and one that ends at its own bundle is not; within a loop that ends
at 7 the end may be 7 and not 8. -/
theorem wit_LoopsAndEnd :
    let l := runSeq (fun q => { q with pc := 4, length := 16, loops := [{ lc := 0, first := 2, fin := 7, count := 3 }] })
    (Solo (run tCore) a0 ∧ loopBad (co (run tCore) a0).seq 1 = false ∧ loopBad (co (run tCore) a0).seq 0 = true) ∧
    (Solo l a0 ∧ loopBad (co l a0).seq 7 = false ∧ loopBad (co l a0).seq 8 = true) :=
  ⟨⟨wit_Solo, by decide +kernel, by decide +kernel⟩, ⟨solo_of (by decide +kernel), by decide +kernel, by decide +kernel⟩⟩

-- ---------------------------------------------------------------- streams

def tStream : StreamOp where
  tag := 3
  desc := 0
  w := 0
  ro := 1
  rs := 0
  nr := 63
  ac := 0
  acen := false
  wpi := false

/-- A descriptor of 64 rows at an address that is a multiple of 128. -/
def tDesc : Desc where
  base := 0x200000
  length := 0x8000
  read := true
  write := true
  valid := true

abbrev runDesc : State := runMem (fun m => { m with descs := [(0, tDesc)], ndesc := 1 })

/-- Loads and stores of all 64 rows of the range against all bytes of the descriptor. -/
theorem wit_DescriptorStreams : Solo runDesc a0 ∧ ∀ store ∈ [false, true],
    let k := co runDesc a0
    let o := tStream
    let d := mget {} k.mem.descs o.desc.toNat
    let t := streamTag k o store false
    o.desc.toNat < k.mem.ndesc ∧ descBaseOk d = true ∧ (if store then d.write else d.read) = true ∧
    0 ≤ ((sReg k o.ro).toNat : Int) + o.nr.toNat * (streamStep k o.rs).toInt ∧
    (sReg k o.ro).toNat + 512 ≤ d.length.toNat ∧
    ((sReg k o.ro).toNat : Int) + o.nr.toNat * (streamStep k o.rs).toInt + 512 ≤ d.length.toNat ∧
    t.a0.toNat % 128 = 0 ∧ (o.nr.toNat = 0 ∨ t.astep.toNat % 128 = 0) ∧
    spanIn (boundOf runDesc a0.core.toNat) t.p0 t.pstep (o.nr.toNat + 1) = true ∧
    (store = false → ∀ i ≤ o.nr.toNat, protectedRow k (tagRow t i) = false) ∧
    (tagOf runDesc a0.core.toNat o.tag.toNat).st ≠ .active :=
  ⟨solo_of (by decide +kernel), by decide +kernel⟩

theorem wit_AbsoluteStreams : Solo (run tCore) a0 ∧ ∀ store ∈ [false, true],
    let k := co (run tCore) a0
    let o := tStream
    let t := streamTag k o store true
    o.desc = 0 ∧ t.a0.toNat % 128 = 0 ∧ (o.nr.toNat = 0 ∨ t.astep.toNat % 128 = 0) ∧
    spanIn (boundOf (run tCore) a0.core.toNat) t.p0 t.pstep (o.nr.toNat + 1) = true ∧
    (store = false → ∀ i ≤ o.nr.toNat, protectedRow k (tagRow t i) = false) ∧
    (tagOf (run tCore) a0.core.toNat o.tag.toNat).st ≠ .active :=
  ⟨wit_Solo, by decide +kernel⟩

def tRemote : RemoteOp where
  tag := 3
  w := 0
  rd := 1
  core := 0
  nr := 63
  ac := 2
  wpi := true

/-- Remote streams of all 64 rows between rows of the one task core. -/
theorem wit_RemoteStreamsAndFlush : Solo (run tCore) a0 ∧ ∀ write ∈ [false, true],
    let k := co (run tCore) a0
    let o := tRemote
    let t := remoteTag k o write
    o.core.toNat < (taskCores (run tCore) a0.core.toNat).length ∧
    spanIn (boundOf (run tCore) a0.core.toNat) t.p0 t.pstep t.rows = true ∧
    t.rrow + t.rows ≤ boundOf (run tCore) a0.core.toNat ∧
    (write = false → ∀ i < t.rows, protectedRow k (tagRow t i) = false) ∧
    (tagOf (run tCore) a0.core.toNat o.tag.toNat).st ≠ .active :=
  ⟨wit_Solo, by decide +kernel⟩

-- ---------------------------------------------------------------- synchronisation

/-- A counter that holds exactly the count, of the field and of s register 31; tags that pass; a quiet core. -/
theorem wit_WaitsProceed :
    let s := run { tCore with
      seq := { tCore.seq with s := [(31, 9)] }
      pan := { tCore.pan with ac := [(63, 9)] } }
    let k := co s a0
    Solo s a0 ∧
    (∀ reg ∈ [false, true], let count : BitVec 16 := if reg then 31 else 9
      (reg = true → count.toNat < 32) ∧
      (if reg then ((sReg k (BitVec.ofNat 5 count.toNat)).setWidth 32).toNat else count.toNat) = 9 ∧
      k.pan.ovf.getLsbD 63 = false ∧ 9 ≤ (mget 0 k.pan.ac 63).toNat) ∧
    (∀ f ∈ [false, true], tagPasses k.mem f 31 = true) ∧
    (∀ f ∈ [false, true], ∀ i < 32, (sReg k 31).getLsbD i = true → tagPasses k.mem f i = true) ∧
    quiet k 0b111111 = true ∧ quiet k 0b011111 = true :=
  ⟨solo_of (by decide +kernel), by decide +kernel⟩

/-- The greatest signal, LIVE of a range that ends at the bound with 15 ranges pending, and of an empty range. -/
theorem wit_SignalsAndLive :
    let s := runSeq (fun q => { q with s := [(1, 60), (2, 4)], livePend := List.replicate 15 (0, 1) })
    let k := co s a0
    Solo s a0 ∧ ((4095 : BitVec 12) ≠ 0 ∧ (0 : BitVec 4).toNat < (taskCores s a0.core.toNat).length) ∧
    ((sReg k 2).toNat ≠ 0 ∧ k.seq.livePend.length < 16 ∧
      (sReg k 1).toNat + (sReg k 2).toNat ≤ boundOf s a0.core.toNat) ∧ (sReg k 3).toNat = 0 :=
  ⟨solo_of (by decide +kernel), by decide +kernel⟩

-- ---------------------------------------------------------------- the tensor slot

/-- The pass formats, each with an activation format and a weight format. -/
def passFmts : List (PassFmt × Fmt × Fmt) :=
  [(.i8, 1, 0), (.i4, 0, 2), (.l4, 1, 3), (.f8, 5, 4), (.bf16, 6, 6), (.f16, 7, 7)]

/-- A core whose next tile has weights of format `f` and whose chain slot 0 holds descriptor `d`. -/
def tensorCore (f : Fmt) (d : BitVec 384) : Core :=
  { tCore with
    ta := { tCore.ta with active := { fmt := f, row := 0, zero := false } }
    brd := { slots := [(0, { valid := true, desc := d })] } }

/-- A pass of 64 rows into the last bank rows, its results into all 64 rows of the range. -/
def tTmm (f : Fmt) : TmmOp where
  afmt := f
  mm1 := 63
  wa := 0
  bank := true
  a0 := 448
  clr := true
  chen := true
  ch := 0
  last := true
  defer := false
  linked := false
  wo := 0
  wx := 0

/-- Passes with a chain in all formats, and linked passes in the floating-point formats. -/
theorem wit_PlainPasses : ∀ p ∈ passFmts, ∀ l ∈ [false, true], (l = true → p.1.integer = false) →
    let h := chainOf (if l then 0x600 else 0x200)
    let s := run (tensorCore p.2.2 (if l then 0x600 else 0x200))
    let o := if l then { tTmm p.2.1 with chen := false, last := false, linked := true } else tTmm p.2.1
    let c := a0.core.toNat
    let k := co s a0
    let m := o.mm1.toNat + 1
    let width := nCols k.ta.wale
    let ch : Option Chain := if o.chen then slotChain k.brd o.ch.toNat else none
    let kk := kRows p.1 k.ta.wale
    let src := placement (wReg k o.wa) (itemSize ch o.afmt kk m)
    soloB s a0 = true ∧ fmtReserved o.afmt = false ∧ tmmFlagsBad k.ta.wale p.1 o (nextTile k.ta) = false ∧
    (o.chen = true → ch = some h ∧ chainFault k.brd h m width k.ta.wale false o.last (some o.afmt) = none ∧
      (o.last = true →
        epiBound (boundOf s c) h (resultSpan h (wReg k o.wo) m width o.defer) (wReg k o.wx) m width = none ∧
        spanProtected k (resultSpan h (wReg k o.wo) m width o.defer) = false)) ∧
    (o.linked = true → p.1.integer = false ∧ slotChain k.brd o.ch.toNat = some h ∧ h.link = true) ∧
    spanBad (boundOf s c) (operandRows k.brd ch src kk m) = false ∧ tmmWaits k.ta = false := by
  decide +kernel

/-- A feature map of 16 channels, one line of 4 pixels, with a kernel of one point. -/
def convRow (f : Fmt) : Row := packRow 32 [0x900 + 16 * f.toNat, 0, 0x800010, 0x40001, 0x10000, 8, 0x10001, 0x10001, 0x10001]

def convCore (f w : Fmt) : Core :=
  let k := tensorCore w 0x200
  { k with pan := { k.pan with rows := [(0, convRow f)] } }

def tTmmC (f : Fmt) : TmmCOp where
  afmt := f
  mm1 := 3
  wd := 0
  bank := false
  rp := 2
  clr := false
  chen := true
  ch := 0
  last := false
  wo := 0
  wx := 0

/-- The line that the pass needs, held by the feeder. -/
def convState (p : PassFmt × Fmt × Fmt) : State :=
  let k := convCore p.2.1 p.2.2
  run { k with cnv := { slots := [needOf (baseOf (run k) 0) (convPassOf (convRow p.2.1) 0 0) 4 (kRows p.1 false)] } }

/-- A pass over the whole line in each format, the chain's stages not yet run. -/
theorem wit_ConvolutionPasses : ∀ p ∈ passFmts.map (fun p => (p.1, if p.2.1 = 5 then 4 else p.2.1, p.2.2)),
    let s := convState p
    let o := tTmmC p.2.1
    let h := chainOf 0x200
    let c := a0.core.toNat
    let k := co s a0
    let v := sReg k o.rp
    let m := o.mm1.toNat + 1
    let row := wRow (wReg k o.wd)
    let r := relRow s c row
    let q := convPassOf r row v
    let kk := kRows p.1 false
    let ch : Option Chain := if o.chen then slotChain k.brd o.ch.toNat else none
    let outE := ch.bind (fun h => mapBytes h.sfmt)
    soloB s a0 = true ∧ fmtReserved o.afmt = false ∧ bits v 57 7 = 0 ∧ (bits v 48 9).toNat + m ≤ 512 ∧
    actFits p.1 o.afmt = true ∧ tileFits p.1 (nextTile k.ta).fmt = true ∧ row < boundOf s c ∧
    (o.last = true → o.chen = true) ∧
    (o.chen = true → ch = some h ∧ chainFault k.brd h m 128 false true o.last (some o.afmt) = none ∧
      convChainBad h = false) ∧
    descLost s c row = false ∧ k.ta.wale = false ∧
    convFault q r (convDescOf r) (boundOf s c) m kk o.afmt false false o.last outE
      (match ch with | some h => residBytes h | none => []) (wRow (wReg k o.wo)) (wRow (wReg k o.wx)) = none ∧
    outE = some 4 ∧ (o.last = true → (runRows q.desc (wRow (wReg k o.wo)) q.y q.x0 m 4 q.desc.nOut 0).any (protectedRow k) = false) ∧
    (slotFor k.cnv.slots (needOf (baseOf s c) q m kk)).isSome = true ∧ tmmWaits k.ta = false := by
  decide +kernel

/-- A tile whose last row is the last of the range, in each tile format; both modes; all rows of a bank. -/
theorem wit_TilesModesAndClears :
    (∀ f ∈ ([0, 2, 3, 4, 5, 6, 7] : List Fmt), let s := runSeq (fun q => { q with
          w := [(1, { row := BitVec.ofNat 16 (64 - tileRows f), stride := 1 })] })
      soloB s a0 = true ∧ fmtReserved f = false ∧ tlwFmtOk f = true ∧
      wRow (wReg (co s a0) 1) + tileRows f = boundOf s a0.core.toNat ∧ (co s a0).ta.shadow = none) ∧
    ((co (run tCore) a0).ta.wale = false ∧ (co (run tCore) a0).ta.passes = []) ∧
    ((0 : BitVec 9).toNat + (511 : BitVec 9).toNat + 1 ≤ 512 ∧
      bankInUse (co (run tCore) a0) true 0 512 = false) := by
  decide +kernel

-- ---------------------------------------------------------------- the Braid's instructions, RCALL and SAPP

/-- A chain whose one stage takes row sums over 128 columns, then normalises (R104: kinds 8 and 9). -/
def normDesc : BitVec 384 := 0x000000890000008800000208

def normBrd : Braid where
  pstore := [(0, 128)]
  slots := [(1, { valid := true, desc := 0x200 }), (2, { valid := true, desc := normDesc })]
  rowstat := [(1024, { a := 0x43000000, c := 0x3F800000, count := 128 })]
  pend := [(2, [{ out := { row := 0, stride := 1, size := 512 }, rows := 1, fmt := 8, first := 0, count := 128 }])]

abbrev runBrd : State := run { tCore with brd := normBrd }

def tBrun (wl : Bool) : BrunOp where
  slot := 1
  accf := false
  wl := wl
  bank := false
  a0 := 448
  mm1 := if wl then 15 else 63
  wo := 0
  wx := 0

/-- The last rows of the parameter store, its last descriptor, the last bank rows in both widths, a slot
without a chain, and a pending row whose 128 words are counted. -/
theorem wit_BraidSlots :
    let s := runBrd
    let c := a0.core.toNat
    let k := co s a0
    soloB s a0 = true ∧
    (let rows := itemRows (placement (wReg k 0) 512) 64
     (64 : BitVec 7).toNat + (63 : BitVec 7).toNat + 1 ≤ 128 ∧ spanBad (boundOf s c) rows = false ∧
     anyBusy k = false ∧ (senseRows s c (rows.map (fun r => baseOf s c + r.toNat))).1 = false) ∧
    (16 * (4093 : BitVec 12).toNat + 48 ≤ 65536 ∧ chainBadAt k.brd (descAt k.brd 4093) = none ∧
      slotBusy k 3 = false) ∧
    (slotBusy k 1 = false ∧ mget [] k.brd.pend 1 = []) ∧
    (∀ wl ∈ [false, true],
      let o := tBrun wl
      let ch := chainOf 0x200
      let width := if o.wl then 512 else 128
      let out := resultSpan ch (wReg k o.wo) (o.mm1.toNat + 1) width false
      (o.wl = true → o.mm1.toNat < 128) ∧
      o.a0.toNat + (if o.wl then 4 * (o.mm1.toNat + 1) else o.mm1.toNat + 1) ≤ 512 ∧
      slotChain k.brd o.slot.toNat = some ch ∧ ch.pro = [] ∧
      chainFault k.brd ch (o.mm1.toNat + 1) width o.wl false true none = none ∧
      epiBound (boundOf s c) ch out (wReg k o.wx) (o.mm1.toNat + 1) width = none ∧
      spanProtected k out = false ∧
      bankPending k o.bank o.a0.toNat
        (o.a0.toNat + (if o.wl then 4 * (o.mm1.toNat + 1) else o.mm1.toNat + 1)) = false ∧
      slotBusy k o.slot = false) ∧
    slotChain k.brd (0 : BitVec 2).toNat = none := by
  decide +kernel

theorem wit_BraidSlots_norm :
    let k := co runBrd a0
    let l := mget [] k.brd.pend (2 : BitVec 2).toNat
    let addrs := (l.flatMap pendSpan).map (fun r => baseOf runBrd 0 + r.toNat)
    slotChain k.brd (2 : BitVec 2).toNat = some (chainOf normDesc) ∧ chainBadAt k.brd normDesc = none ∧
    spanProtected k (l.flatMap pendSpan) = false ∧ slotBusy k 2 = false ∧
    (∀ r ∈ l.flatMap pendSpan, heldRow k r.toNat = false) ∧ (senseRows runBrd 0 addrs).1 = false ∧
    ∃ t, renormAll 0 2 (chainOf normDesc) l (senseRows (corrected (shut runBrd a0) a0 true) 0 addrs).2 = (true, t) :=
  ⟨by decide +kernel, by decide +kernel, by decide +kernel, by decide +kernel, by decide +kernel, by decide +kernel,
   of_fst (by decide +kernel)⟩

/-- An RCALL and both SAPPs with 15 calls outstanding, the rows up to the bound; a request block off its
alignment by one, and a context without the store. -/
theorem wit_CallsThatLeaveTheCore :
    let s := runSeq (fun q => { q with s := [(1, 64), (2, 65)], calls := List.replicate 15 (.region 0 0) })
    let u := st tCore { tCtx with grant := false }
    let k := co s a0
    soloB s a0 = true ∧ soloB u a0 = true ∧
    ((sReg k 1).toNat % 64 = 0 ∧ k.seq.calls.length < 16 ∧ k.task = some (5, 0)) ∧ (sReg k 2).toNat % 64 ≠ 0 ∧
    (∀ p ∈ [(false, (255 : Byte)), (true, 63)],
      let rows := itemRows (sappPlace (wReg k 0) p.1) (p.2.toNat + 1)
      (ctxOf s 5).grant = true ∧ spanBad (boundOf s 0) rows = false ∧
      (senseRows s 0 (rows.map (fun r => baseOf s 0 + r.toNat))).1 = false) ∧
    ((co u a0).task = some (5, 0) ∧ (ctxOf u 5).grant = false) := by
  decide +kernel

-- ---------------------------------------------------------------- the vector slot

/-- Each class of formats has a member: the least and the greatest code. -/
theorem wit_VectorArithmetic : VSolo (run tCore) v0 ∧
    (∀ f ∈ ([0, 10] : List Fmt), fmtReserved f = false ∧ vecAny f = true ∧ vecInt f = true ∧ vecArith f = true) ∧
    (∀ f ∈ ([6, 8] : List Fmt), fmtReserved f = false ∧ vecAny f = true ∧ vecFloat f = true ∧ vecArith f = true) ∧
    (vecF32 8 = true ∧ vecDot 0 = true ∧ vecDot 1 = true) ∧
    ((511 : BitVec 12).toNat < 4096 / fmtBits 0 ∧ (127 : BitVec 12).toNat < 4096 / fmtBits 8 ∧
      (5 : BitVec 3).toNat < 6) ∧
    ((cvtPair 0 8 = true ∧ (3 : BitVec 3).toNat < cvtParts 0 8) ∧ cvtPair 3 8 = true ∧
      (7 : BitVec 3).toNat < cvtParts 3 8 ∧ cvtPair 8 0 = true ∧ (3 : BitVec 3).toNat < cvtParts 8 0) :=
  ⟨wit_VSolo, by decide +kernel⟩

/-- Groups of the least and the greatest size of each width; tables that end with the parameter store. -/
theorem wit_VectorReductionsAndLookups : VSolo (run tCore) v0 ∧
    (∀ f ∈ ([0, 6, 8] : List Fmt), ∀ arg ∈ [false, true], fmtReserved f = false ∧
      redOk f arg (BitVec.ofNat 4 (minLg f arg)) = true ∧ redOk f arg 7 = true) ∧
    redOk 0 true 9 = true ∧ redOk 0 true 10 = false ∧
    16 * (4080 : BitVec 12).toNat + 256 = 65536 ∧ 16 * (3967 : BitVec 12).toNat + 2064 = 65536 :=
  ⟨wit_VSolo, by decide +kernel⟩

/-- The last row of the range and the last bank row. -/
theorem wit_VectorLoadsAndStores :
    let s := runSeq (fun q => { q with w := [(1, { row := 63, stride := 1 })] })
    let k := co s a0
    soloB s a0 = true ∧ wRow (wReg k 1) + 1 = boundOf s 0 ∧
    (∀ ecc ∈ ([{}, { single := 1 }] : List RowEcc),
      (readRow (shut s a0) 0 (baseOf s 0 + wRow (wReg k 1)) ecc).2.1 ≠ .double) ∧
    protectedRow k (wRow (wReg k 1)) = false ∧ heldRow k (wRow (wReg k 1)) = false ∧
    bankPending k true 511 512 = false ∧ bankInUse k true 511 512 = false ∧
    (readBank (updTa (shut s a0) 0 (noteBank [(1023, .single)])) 0 [1023]).1 = false := by
  decide +kernel

def tVdw (last : Bool) : VdwOp where
  afmt := 0
  wd := 0
  rp := 2
  mm1 := 3
  lg := 4
  ww := 1
  bank := true
  clr := true
  chen := last
  ch := 0
  last := last
  wo := 2
  wx := 2

/-- A pass over the whole line into the last bank rows, with the last weight rows of the range. -/
def dwRp : DWord := (504#64 <<< 49) ||| (15#64 <<< 45)

def dwState : State :=
  let k := convCore 0 0
  let k := { k with seq := { k.seq with s := [(2, dwRp)], w := [(1, { row := 59, stride := 1 }), (2, { row := 16, stride := 1 })] } }
  run { k with vu := { win := dwNeeds (baseOf (run k) 0) (dwPassOf (convRow 0) 0 dwRp) 4 0 0 } }

theorem wit_VectorSimilarityAndDepthwise :
    let s := dwState
    let k := co s a0
    let armed := run { tCore with vu := { regs := { armed := true } } }
    (soloB s a0 = true ∧ wRow (wReg k 0) < boundOf s 0 ∧ (readRow (shut s a0) 0 0 {}).2.1 ≠ .double) ∧
    ((64 : BitVec 7) ≠ 0 ∧ (64 : BitVec 7).toNat ≤ 64 ∧ (256 : BitVec 9) ≠ 0 ∧ (256 : BitVec 9).toNat ≤ 256) ∧
    (soloB armed a0 = true ∧ (co armed a0).vu.regs.armed = true) ∧
    (∀ last ∈ [false, true],
      let o := tVdw last
      let v := sReg k o.rp
      let m := o.mm1.toNat + 1
      let t := (v.extractLsb' 32 4).toNat
      let j := (v.extractLsb' 45 4).toNat
      let acc := (v.extractLsb' 49 9).toNat
      let row := wRow (wReg k o.wd)
      let p := dwPassOf (relRow s 0 row) row v
      let ch : Option Chain := if o.chen then slotChain k.brd o.ch.toNat else none
      fmtReserved o.afmt = false ∧ v.extractLsb' 58 6 = 0 ∧ row < boundOf s 0 ∧
      dwFault p (relRow s 0 row) (boundOf s 0) m t (2 ^ o.lg.toNat) j o acc (wRow (wReg k o.ww)) k.brd ch
        (wRow (wReg k o.wo)) (wRow (wReg k o.wx)) = none ∧
      (last = true → ch.bind (fun h => mapBytes h.sfmt) = some 4) ∧
      (runRows p.desc (wRow (wReg k o.wo)) p.y p.x0 m 4 (dwChannels p.desc p.b o.afmt) 0).any (protectedRow k) = false ∧
      (senseRows (shut s a0) 0 [baseOf s 0 + row]).1 = false ∧
      (∀ n ∈ dwNeeds (baseOf s 0) p m t o.afmt, (slotFor k.vu.win n).isSome = true) ∧
      dwNeeds (baseOf s 0) p m t o.afmt ≠ [] ∧ k.vu.dw.length < 4) := by
  decide +kernel

-- ---------------------------------------------------------------- what completes on a core

/-- A stream of one row of descriptor 0 under tag 3. -/
def tTag (kind : TagKind) : Tag where
  st := .active
  kind := kind
  rows := 1
  a0 := 0x200000
  astep := 512
  desc := some 0
  base := 0x200000
  p0 := 63
  pstep := 1

abbrev runTag (t : Tag) (f : MemUnit → MemUnit) : State :=
  runMem (fun m => f { m with descs := [(0, tDesc)], ndesc := 1, tags := [(3, t)], nextOrder := 1, granted := true })

/-- The first line of a load and the last line of a store, with 255 lines in flight; the line that completes a
row, alive and dead; a store that only its read-back keeps; lines that wait and that fault. -/
theorem wit_StreamLines :
    let l (n : Nat) (dead : Bool) : InLine :=
      { tag := 3, line := n, pa := 0x200180, slot := 0, epoch := 0, data := 5, sent := 0, dead := dead }
    let many := List.replicate 255 { l 0 false with tag := 4 }
    let a := runTag (tTag .load) (fun m => { m with lines := many })
    let b := runTag { tTag .store with issued := 3 } id
    let r (dead : Bool) := runTag { tTag .load with issued := 4, back := [2, 1, 0] } (fun m => { m with lines := [l 3 dead] })
    let f := runTag { tTag .store with st := .sent, issued := 4, flushPend := true } id
    let x (s : State) := lineXlat (lineTables s 0 5 (tagOf s 0 3) (tagVa (tagOf s 0 3) (tagOf s 0 3).issued) .clean)
      0 3 (tagOf s 0 3).issued (tagOf s 0 3) 5 tTask
    (∀ s ∈ [a, b],
      let t := tagOf s 0 3
      let m := (coreOf s 0).mem
      taskOf s 0 = some (5, tTask) ∧ t.st = .active ∧ t.issued < 4 * t.rows ∧ inFlight m < 256 ∧
      lineBlocked m t (tagVa t t.issued) = false ∧ m.granted = true ∧
      (x s).1 = .pa (0x200000 + 128 * t.issued)) ∧
    (∀ ecc ∈ ([{}, { single := 128 }] : List RowEcc), (storeRow (x b).2 0 3 0 ecc).1 = true) ∧
    (∀ dead ∈ [false, true], let r := r dead
      ((coreOf r 0).mem.lines.find? (fun l => decide (l.tag = 3 ∧ l.line = 3)) = some (l 3 dead) ∧
      apertureOf r (l 3 dead).pa.toNat = none ∧ lineHeld r 0 3 3 = false)) ∧
    ((∀ o ∈ (coreOf f 0).mem.orphans, o.tag ≠ 3 ∨ o.flushPend = false) ∧ (tagOf f 0 3).kind = .store ∧
      (tagOf f 0 3).st = .sent ∧ (tagOf f 0 3).flushPend = true ∧ (tagOf f 0 3).aperture = []) ∧
    (let w := { a with atu := { a.atu with disable := true } }
     ∃ z, (x w).1 = .fault z) := by
  refine ⟨by decide +kernel, by decide +kernel, by decide +kernel, by decide +kernel, ?_⟩
  exact ⟨_, rfl⟩

/-- Remote streams of one row that stand before their only row, and one whose row is on its way back. -/
theorem wit_RemoteRows :
    let w := runTag { tTag .rwrite with rrow := 62 } id
    let r := runTag { tTag .rread with rrow := 63 } id
    let b := runTag { tTag .rread with rrow := 63, issued := 1, buf := [(0, 1)] } id
    let h := runTag { tTag .rwrite with rrow := 62 } (fun m => { m with tags := m.tags ++ [(9, { tTag .store with p0 := 62 })] })
    (∀ s ∈ [w, r, b, h], taskCoreAt s 0 (tagOf s 0 3).rcore = some 0 ∧ (tagOf s 0 3).st = .active) ∧
    (∀ s ∈ [w, h],
     let t := tagOf s 0 3
     t.kind = .rwrite ∧ t.issued < t.rows ∧ remoteBehind (coreOf s 0).mem t .rwrite = false ∧
     protectedRow (coreOf s 0) (t.rrow + t.issued) = false) ∧
    (heldRow (coreOf w 0) 62 = false ∧ 0 ∉ (tagOf w 0 3).landed ∧
     (readRow w 0 (baseOf w 0 + tagRow (tagOf w 0 3) 0) {}).2.1 ≠ .double) ∧
    (heldRow (coreOf h 0) 62 = true ∧ (tagOf h 0 3).landed.length < (tagOf h 0 3).rows ∧
      (rwrRead h 0 3 0).1 = true) ∧
    (let w1 := (rwrRead w 0 3 0).2
     0 ∈ (tagOf w1 0 3).landed ∧ heldRow (coreOf w1 0) 62 = false) ∧
    (let t := tagOf r 0 3
     t.kind = .rread ∧ t.issued < t.rows ∧
     (∀ e ∈ (coreOf r 0).mem.tags, e.2.st = .active → e.2.kind = .rread → e.2.rcore = t.rcore → e.2.order < t.order →
        e.2.rows ≤ e.2.issued) ∧ remoteBehind (coreOf r 0).mem t .rwrite = false ∧
     (∀ ecc ∈ ([{}, { single := 1 }] : List RowEcc), (readRow r 0 (baseOf r 0 + (t.rrow + t.issued)) ecc).2.1 ≠ .double)) ∧
    (let t := tagOf b 0 3
     t.kind = .rread ∧ t.landed.length < t.issued ∧ remoteBehind (coreOf b 0).mem t .rread = false ∧
     heldRow (coreOf b 0) (tagRow t t.landed.length) = false) := by
  decide +kernel

/-- A signal behind no remote write, a watchdog at its limit, a tile whose load is under way. -/
theorem wit_SignalsWatchdogsAndTiles :
    let g : AcSig := { core := 0, ac := 63, count := 1, order := 0 }
    let h : Shadow := { tile := { fmt := 0, row := 32, zero := false }, ready := false }
    let s := run { tCore with
      seq := { tCore.seq with watchdog := 20000 }
      mem := { signals := [g] }
      ta := { tCore.ta with shadow := some h } }
    let k := coreOf s 0
    k.mem.signals.find? (sigReady k.mem) = some g ∧
    (k.seq.wdRun = true ∧ 20000 ≤ k.seq.watchdog ∧ k.ta.repairHold = none) ∧
    (k.ta.shadow = some h ∧ h.ready = false ∧
      (senseRows s 0 ((tileHeld h.tile).map (fun r => baseOf s 0 + r))).1 = false) := by
  decide +kernel

def tPass (clr : Bool) : Pass where
  no := 4
  slot := none
  fmt := .i8
  afmt := 0
  tile := {}
  takesTile := false
  wale := false
  m := 1
  src := .plain { row := 0, stride := 1, size := 128 }
  bank := true
  a0 := 511
  clr := clr
  linked := false
  chain := none
  last := false
  defer := false
  out := { row := 0, stride := 1, size := 512 }
  aux := { row := 0, stride := 1, size := 512 }
  attempts := 0
  held := [0]

/-- A pass whose sums are right, with each kind of bank word and with a word that is lost, and one with a
wrong sum. -/
theorem wit_PassVerdicts : ∀ clr ∈ [false, true],
    let p := tPass clr
    let s := run { tCore with ta := { tCore.ta with passes := [p] }, issueNo := 5 }
    let k := coreOf s 0
    let live := liveFaults k.ta.repairMap
    let v (l : List PassFault) := verdictOf p (actRows s 0 p).1 (passSums p (actRows s 0 p).1 (live l)) (live l)
    let bad : List PassFault := [{ group := 0, row := 0, col := 127, delta := 1 }]
    k.ta.repairHold = none ∧ k.ta.passes = p :: [] ∧
    writesBefore k p.no p.bank p.a0 (p.a0 + passSpan p) = false ∧
    readsBefore k p.no p.bank p.a0 (p.a0 + passSpan p) = false ∧
    p.src = .plain { row := 0, stride := 1, size := 128 } ∧
    (senseRows s 0 (passReads s 0 p)).1 = false ∧ p.clr = clr ∧ (v []).ok = true ∧ (v bad).ok = false ∧
    (∀ e ∈ ([([], false), ([(1023, .double)], true)] : List (BankEcc × Bool)),
      (readBank (updTa s 0 (noteBank e.1)) 0 (passKeys p)).1 = e.2) := by
  decide +kernel

def tInv (slot : BitVec 2) : Invocation where
  no := 4
  slot := slot
  wide := false
  float := true
  firstAct := 0
  bank := false
  lo := 0
  hi := 1
  rows := [List.replicate 128 0]
  out := { row := 63, stride := 1, size := 512 }
  aux := { row := 63, stride := 1, size := 512 }
  target := .placed
  defer := true

abbrev runInv (i : Invocation) : State :=
  run { tCore with invs := [i], brd := { normBrd with pstore := [(0, 256)], rowstat := [] } }

/-- An invocation whose chain has gone; one before its stages, whole and deferred; one at its last row. -/
theorem wit_EpilogueRows :
    let none_ : State := run { tCore with invs := [tInv 3] }
    (∀ p ∈ [(none_, tInv 3), (runInv (tInv 1), tInv 1), (runInv (tInv 2), tInv 2)],
      firstInv (coreOf p.1 0) p.2.slot = some p.2 ∧ lastBefore (coreOf p.1 0) p.2.slot p.2.no = false) ∧
    slotChain (coreOf none_ 0).brd 3 = none ∧
    (∀ p ∈ [((1 : BitVec 2), chainOf 0x200, false), (2, chainOf normDesc, true)],
      (tInv p.1).ran = false ∧ slotChain (coreOf (runInv (tInv p.1)) 0).brd p.1.toNat = some p.2.1 ∧
      epiPlan (coreOf (runInv (tInv p.1)) 0).brd p.2.1 (tInv p.1) = (if p.2.2 then .defer else .whole)) ∧
    (let s := (startInv (runInv (tInv 1)) 0 (chainOf 0x200) (tInv 1) false)
     let i := s.1
     let p := invPlan (chainOf 0x200) i
     i.ran = true ∧ heldRow (coreOf s.2 0) (p.addr i.written) = false ∧ p.count ≤ i.written + 1 ∧
     (takeRows 0 (chainOf 0x200) (p.need i.written) i.rows.length i s.2).1.isSome = true) := by
  decide +kernel

/-- A line that both windows want, with six lines in each; a pass that failed once less than the limit. -/
theorem wit_LinesAndDepthwiseCommit : ∀ clr ∈ [false, true],
    let v := convPassOf (convRow 0) 0 0
    let n : LineSlot := { desc := v.desc, kPass := 128, line := 1, block := 0, xlo := 0, xhi := 3, rows := [63] }
    let d : DwPass := {
      no := 4, slots := [], pc := 0, afmt := 0, conv := v, m := 1, t := 0, g := 1, j := 0, w0 := 59
      bank := false, a0 := 0, clr := clr, chain := none, last := false
      out := { row := 0, stride := 1, size := 512 }, aux := { row := 0, stride := 1, size := 512 }
      attempts := 0, held := [63] }
    let six := List.replicate 6 { n with line := 0 }
    let s := run { tCore with
      issueNo := 5
      cnv := { slots := six, wanted := some n }
      vu := { win := six, wanted := some n, dw := [d] } }
    let k := coreOf s 0
    let w := updTa (vuFailures 0 d.pc 1 s) 0 (noteBank [])
    (k.cnv.wanted = some n ∧ fillSlot (feederHeld k) k.cnv.slots n = some (n :: six) ∧
      (senseRows s 0 n.rows).1 = false) ∧
    (k.vu.wanted = some n ∧ fillSlot (windowHeld k) k.vu.win n = some (n :: six)) ∧
    (k.ta.repairHold = none ∧ k.vu.dw = d :: [] ∧
      writesBefore k d.no d.bank d.a0 (d.a0 + dwSpan d) = false ∧
      readsBefore k d.no d.bank d.a0 (d.a0 + dwSpan d) = false ∧
      (senseRows s 0 ((dwWeightRows d.w0).map (fun r => baseOf s 0 + r))).1 = false ∧
      (BitVec.ofNat 4 (replayLimit k - 1)).toNat < replayLimit k ∧ d.clr = clr ∧
      (readBank w 0 (dwKeys d)).1 = false) := by
  decide +kernel

-- ---------------------------------------------------------------- the Frame Port

/-- A picture of 16 by 16 samples for stream 9, its planes at `a` and one after the other. -/
def picture (h a : Nat) : BitVec 512 :=
  BitVec.ofNat 512 (h + 9 * 2 ^ 32 + 3 * 2 ^ 56 + 16 * 2 ^ 64 + 16 * 2 ^ 80 + 64 * 2 ^ 96 + a * 2 ^ 128 +
    (a + 1024) * 2 ^ 192 + 64 * 2 ^ 256)

def tFp : Fp where
  enable := true
  owner := 3
  descBase := 0x1000000
  poolBase := 0x2000000
  poolLimit := 0x2000600
  holdLimit := 1
  routes := [(9, 0x002845)]
  templates := [(2, [{ ctx := 5, bytes := 5, handleAt := some 12, descAt := some 24 }])]

def tFrame : FrameEntry where
  handle := 7
  stream := 9
  st := .owned
  basket := 1
  relCtx := 5
  refs := 0
  armed := true
  tick := 0
  fence := none

/-- The descriptor of handle 7, in a pool that it just fits, and a ring with one slot free. -/
def frameState (f : Fp → Fp) : State :=
  { st tCore { tCtx with wr := 15 } with
    mem := wrNat tMem 0x10001C0 64 (picture 7 0x2000000).toNat
    fp := f tFp }

theorem wit_FrameHandles :
    let s := frameState id
    let off := frameState (fun f => { f with enable := false })
    let small := frameState (fun f => { f with poolLimit := 0x20005FF })
    let none_ := frameState (fun f => { f with routes := [] })
    let ok (s : State) : Bool := descOk s 7 (frameDesc s 7)
    let r (s : State) := routeOf s (descStream (frameDesc s 7))
    (s.fp.enable = true ∧ ok s = true ∧ (r s).getLsbD 0 = true ∧ frameOf s 7 = none ∧ s.fp.table.length < 4096 ∧
      mget [] s.fp.templates (bits (r s) 5 6).toNat ≠ [] ∧
      templateFits s (mget [] s.fp.templates (bits (r s) 5 6).toNat) = true) ∧ off.fp.enable = false ∧
    (small.fp.enable = true ∧ ok small = false) ∧
    (none_.fp.enable = true ∧ ok none_ = true ∧ (r none_).getLsbD 0 = false) := by
  decide +kernel

/-- An armed entry without references, and entries one tick past the limit. -/
theorem wit_FrameReleases :
    let s := frameState (fun f => { f with table := [tFrame] })
    let old (st : FrameSt) := { frameState (fun f => { f with table := [{ tFrame with st := st }] }) with clk := { tb := 2 } }
    (frameOf s 7 = some tFrame ∧ tFrame.armed = true ∧ tFrame.refs = 0) ∧ frameOf s 8 = none ∧
    (∀ x ∈ [FrameSt.owned, .borrowed], frameOf (old x) 7 = some { tFrame with st := x } ∧
      (old x).fp.holdLimit ≠ 0 ∧ (old x).fp.holdLimit.toNat < (now (old x) - tFrame.tick).toNat) := by
  decide +kernel

-- ---------------------------------------------------------------- the Region Unit

/-- A request block: operation, counts, inputs, output, status and OPARG. -/
def request (op n1 n2 arg : Nat) : BitVec 512 :=
  BitVec.ofNat 512 (op + n1 * 2 ^ 32 + n2 * 2 ^ 64 + (if op = 0x21 then 7 * 2 ^ 96 else 0) + 0x20000 * 2 ^ 128 + 0x21000 * 2 ^ 192 + 0x22000 * 2 ^ 256 +
    0x23000 * 2 ^ 320 + arg * 2 ^ 384)

/-- A CROP of one box of frame 7 into 16 by 16 INT8 elements in one plane of 32-channel rows, a DECODE of one location and class,
a SUPPRESS of one candidate and an IOU of one pair. -/
def requests : List (BitVec 512) :=
  [request 0x21 1 0 (16 + 16 * 2 ^ 10 + 16 * 512 * 2 ^ 32), request 2 1 1 (0x24000 + 8 * 2 ^ 97 + 1 * 2 ^ 103),
    request 3 1 0 (2 ^ 32), request 4 1 1 512]

def tCall (b : BitVec 512) : RegionCmd where
  id := 3
  counts := true
  ctx := 5
  basket := 1
  src := .ring
  req := 0x10000
  block := b
  block2 := 0

def regionCtx : Ctx := { tCtx with cur := some (.region 0x10000), task := none }

/-- The request block at 0x10000, and frame 7 in the table. -/
def regionState (b : BitVec 512) (f : Ru → Ru) : State :=
  let s := frameState (fun f => { f with table := [{ tFrame with armed := false }] })
  { s with
    mem := wrNat s.mem 0x10000 64 b.toNat, ru := f s.ru
    cp := { ctxs := [(5, regionCtx)] }, cores := [] }

def regionBadBlock : BitVec 512 := request 4 1 1 0

/-- A call handed over with block `b`, and what its acceptance reads and drops. -/
def callState (b : BitVec 512) : State := regionState b (fun r => { r with calls := [tCall 0] })
def callRead (b : BitVec 512) : Option (Nat × Xlat) × State :=
  xlatPages 1 (slotOfCtx (callState b) 5) false (pagesOf (span 0x10000 64)) (callState b)
def callDropped (b : BitVec 512) : State := dropCallOf (takeCredit (callRead b).2 1 1) 3
/-- It may be read. -/
theorem wit_RegionSubmission_read : mayRead (callState 0) (tCall 0) = true := by decide +kernel

theorem wit_RegionSubmission_ring :
    let a := st {} { regionCtx with state := .ready, started := false }
    (ctxOf a 5).cur = some (.region 0x10000) ∧ canStart a 5 = true ∧ ringRegion (beginCmd a 5 .running) 5 = false := by
  decide +kernel

theorem wit_RegionSubmission_block : let b := requests.getD 3 0
    (callState b).ru.calls.find? (fun r => !regionHeld (callState b) r) = some (tCall 0) ∧ (callRead b).1 = none ∧
    virtWord (callRead b).2 1 (slotOfCtx (callState b) 5) 0x10000 64 = b.toNat ∧ rqChain b = false ∧
    cmdBadReason (callDropped b) 1 b 0 = none := by
  decide +kernel

/-- A row pitch of 0 for an IOU of one column is too small. -/
theorem wit_RegionSubmission_bad : let b := regionBadBlock
    (callState b).ru.calls.find? (fun r => !regionHeld (callState b) r) = some (tCall 0) ∧ (callRead b).1 = none ∧
    virtWord (callRead b).2 1 (slotOfCtx (callState b) 5) 0x10000 64 = b.toNat ∧ rqChain b = false ∧
    cmdBadReason (callDropped b) 1 b 0 = some 7 := by
  decide +kernel

def isDone : RunRes → Bool
  | .done .. => true
  | _ => false
def isFault : RunRes → Bool
  | .fault .. => true
  | _ => false

/-- Each pipeline is free and its command runs to its output. -/
theorem wit_RegionPipelines :
    ∀ p ∈ [(0, cropRun), (1, decodeRun), (2, suppressRun), (3, iouRun)],
      let r := tCall (requests.getD p.1 0)
      let s := regionState r.block (fun u => { u with queue := [(p.1, r)] })
      mget none s.ru.running p.1 = none ∧ nextCmd s p.1 = some r ∧ mayRead s r = true ∧
      isDone (p.2 { tookCmd s p.1 r with freeCount := s.freeCount + 1 } r).1 = true := by
  decide +kernel

/-- A CROP of a frame without a descriptor, and every command without its page tables. -/
theorem wit_RegionPipelines_bad :
    (let r := tCall (requests.getD 0 0)
     let s := { regionState r.block (fun u => { u with queue := [(0, r)] }) with mem := tMem }
     nextCmd s 0 = some r ∧ mayRead s r = true ∧ (cropRun { tookCmd s 0 r with freeCount := s.freeCount + 1 } r).1 = .bad 6) ∧
    (∀ p ∈ [(0, cropRun), (1, decodeRun), (2, suppressRun), (3, iouRun)],
      let r := tCall (requests.getD p.1 0)
      let s := { regionState r.block (fun u => { u with queue := [(p.1, r)] }) with mem := [] }
      nextCmd s p.1 = some r ∧ mayRead s r = true ∧ isFault (p.2 { tookCmd s p.1 r with freeCount := s.freeCount + 1 } r).1 = true) := by
  decide +kernel

def iouRun4 : RegionRun where
  cmd := tCall (requests.getD 3 0)
  items := 1
  dropped := 0
  last := some 0x22000
  sent := 0

def completeSt (off : Bool) : State :=
  let s := regionState iouRun4.cmd.block (fun u => { u with running := [(3, some iouRun4)] })
  { s with clk := { tb := 1000000 }, atu := { s.atu with disable := off } }

/-- With the output's last line read back, with its record's page and without, and 1,000,000 ticks old. -/
theorem wit_RegionCompletion : ∀ off ∈ [false, true],
    let s := completeSt off
    mget none s.ru.running (3 : BitVec 2).toNat = some iouRun4 ∧ linkBusy s iouRun4.cmd.ctx = false ∧
    mayRead s iouRun4.cmd = true ∧ iouRun4.last = some 0x22000 ∧ 1000000 ≤ (now s - iouRun4.sent).toNat ∧
    (xlatPages iouRun4.cmd.basket (slotOfCtx s iouRun4.cmd.ctx) true (pagesOf (span (rqStatus iouRun4.cmd.block) 16))
      { s with ru := { s.ru with running := mset none s.ru.running 3 none } }).1.isSome = off := by
  decide +kernel

-- ---------------------------------------------------------------- contexts and commands

/-- A state with context 5 alone, in state `x`, and nothing on the cores. -/
abbrev ctxSt (x : CtxState) (f : Ctx → Ctx) : State := st {} (f { tCtx with state := x, task := none })

/-- The host writes the last context of the host and not the next; a context in each state; a doorbell that
fills the ring, and one that would overfill it. -/
theorem wit_ContextStates :
    (ctxWriter 3967 .host = true ∧ ctxWriter 3968 .host = false ∧ ctxWriter 3968 .forge = true) ∧
    (∀ x ∈ [CtxState.stopped, .error, .ready, .idle, .saved, .fenceWait, .running, .faultWait, .faultPending],
      let k := ctxOf (ctxSt x id) 5
      domOn (ctxSt x id) 209 = true ∧ k.state = x ∧ k.task = none ∧ ctxWriter 5 .host = true ∧
      k.state ≠ .free ∧ k.state ≠ .teardown ∧ doorbellOk k 16 = true ∧ doorbellOk k 17 = false) ∧
    (let s := st {} { tCtx with state := .stopped, task := some { tTask with phase := .saved } }
     (ctxOf s 5).state = .stopped ∧ (ctxOf s 5).task = some { tTask with phase := .saved }) := by
  decide +kernel

/-- A context without signals, and one whose task's output fence still has to be failed. -/
theorem wit_TeardownLeaves :
    (∀ x ∈ [CtxState.stopped, .running], canTear (ctxOf (ctxSt x id) 5) = true ∧
      tearSignals (tearDown (ctxSt x id) 5 1 1 none 0) 5 = false) ∧
    (let s := ctxSt .running (fun k => { k with cur := some (.fenceSignal false false 0x1000 1) })
     canTear (ctxOf s 5) = true ∧ tearSignals (tearDown s 5 1 1 none 0) 5 = true) := by
  decide +kernel

/-- A ring whose slot is the last of the window, and one beyond it; a slot that holds a REGION command, and one
that holds none. -/
theorem wit_CommandsRun_fetch :
    let s (b : Nat) : State := ctxSt .ready (fun k => { k with ringBase := BitVec.ofNat 64 b, cur := none, started := false })
    let a (b : Nat) : Nat := ringAddr (ctxOf (s b) 5) 0
    (∀ b ∈ [0xFFFFFC0, 0x10000000, 0x400000], (ctxOf (s b) 5).state = .ready ∧
      (ctxOf (s b) 5).cur = none ∧ (ctxOf (s b) 5).rd ≠ (ctxOf (s b) 5).wr ∧ mayRun (s b) 5 = true) ∧
    (ctxPhysOk (s 0xFFFFFC0) 5 (a 0xFFFFFC0) (a 0xFFFFFC0 + 63) = true ∧
      ctxPhysOk (s 0x10000000) 5 (a 0x10000000) (a 0x10000000 + 63) = false) ∧
    (cmdOf (ofBytes 512 (rdBytes [] 0 64)) = none ∧
      cmdOf (ofBytes 512 (rdBytes [(0, 5)] 0 64)) = some (.region 0)) := by
  decide +kernel

/-- Commands fetched that may start: an EXEC that R342 allows, one whose entry lies beyond its image, a COPY
and a BARRIER. -/
theorem wit_CommandsRun_start :
    let s (x : Cmd) : State := ctxSt .ready (fun k => { k with cur := some x, started := false })
    (∀ x ∈ [Cmd.exec tExec, .exec { tExec with entry := 8 }, .copy 0 128 128, .barrier 6 1 1],
      canStart (s x) 5 = true ∧ (ctxOf (s x) 5).cur = some x) ∧
    (let c := s (.copy 0 128 128)
     mayLookup c (ctxOf c 5).basket.toNat (slotOfCtx c 5) (linePages 0 1 ++ linePages 128 1) = true) ∧
    execBad (s (.exec { tExec with entry := 7 })) 5 { tExec with entry := 7 } = none ∧
    execBad (s (.exec { tExec with entry := 8 })) 5 { tExec with entry := 8 } = some 4 := by
  decide +kernel

/-- A barrier that is met, one short of its count whose target is free, and its time limit; a command that is
over, with and without a STOP. -/
theorem wit_CommandsRun_end :
    let s (n : Nat) : State := { ctxSt .fenceWait (fun k => { k with cur := some (.barrier 6 (BitVec.ofNat 32 n) 1) }) with clk := { tb := 1 } }
    let f (b : Bool) : State := ctxSt .running (fun k => { k with finished := true, stopPend := b })
    (∀ n ∈ [0, 1], (ctxOf (s n) 5).cur = some (.barrier 6 (BitVec.ofNat 32 n) 1) ∧ (ctxOf (s n) 5).state = .fenceWait ∧
      (ctxOf (s n) 5).started = true ∧ (ctxOf (s n) 5).finished = false) ∧
    ((ctxOf (s 0) 6).done - 0).toNat < 2 ^ 31 ∧ ¬ ((ctxOf (s 1) 6).done - 1).toNat < 2 ^ 31 ∧
    (ctxOf (s 1) 6).state = .free ∧ 1 ≤ (now (s 1) - (ctxOf (s 1) 5).cmdTick).toNat ∧
    (∀ b ∈ [false, true], (ctxOf (f b) 5).started = true ∧ (ctxOf (f b) 5).finished = true ∧
      copyWaits (f b) 5 = false ∧ hostGone (f b) 5 = false ∧ (ctxOf (f b) 5).stopPend = b) ∧
    (let w := ctxSt .fenceWait (fun k => { k with finished := true })
     (ctxOf w 5).started = true ∧ (ctxOf w 5).finished = true ∧ (ctxOf w 5).state = .fenceWait ∧
      copyWaits w 5 = false ∧ hostGone w 5 = false) := by
  decide +kernel

-- ---------------------------------------------------------------- fences

/-- Fences in the last block of the window and beyond it; values with and without bit 63. -/
theorem wit_FenceCommands :
    let cw (p : Nat × Nat) : Cmd := .fenceWait (BitVec.ofNat 64 p.1) (BitVec.ofNat 64 p.2) 1
    let cg (p : Bool × Nat) : Cmd := .fenceSignal true p.1 0xFFFFFC0 (BitVec.ofNat 64 p.2)
    let w (p : Nat × Nat) : State := ctxSt .ready (fun k => { k with cur := some (cw p), started := false })
    let g (p : Bool × Nat) : State := ctxSt .ready (fun k => { k with cur := some (cg p), started := false })
    let t := { ctxSt .fenceWait (fun k => { k with cur := some (.fenceWait 0 1 1) }) with clk := { tb := 1 } }
    (∀ p ∈ [(0xFFFFFC0, 0x7FFFFFFFFFFFFFFF), (0x10000000, 0x7FFFFFFFFFFFFFFF), (0, 0x8000000000000000)],
      (ctxOf (w p) 5).cur = some (cw p) ∧ canStart (w p) 5 = true ∧
      apertureOf (w p) p.1 = none ∧
      ctxPhysOk (w p) 5 p.1 (p.1 + 7) = decide (p.1 ≠ 0x10000000)) ∧
    ((0x8000000000000000 : DWord).getLsbD 63 = true ∧ (0x7FFFFFFFFFFFFFFF : DWord).getLsbD 63 = false) ∧
    ((ctxOf t 5).cur = some (.fenceWait 0 1 1) ∧ (ctxOf t 5).state = .fenceWait ∧ (ctxOf t 5).started = true ∧
      (ctxOf t 5).finished = false ∧ 1 ≤ (now t - (ctxOf t 5).cmdTick).toNat) ∧
    (∀ p ∈ [(false, 0x8000000000000000), (true, 0x8000000000000000), (false, 1)],
      (ctxOf (g p) 5).cur = some (cg p) ∧ canStart (g p) 5 = true ∧ linkStores (g p) 5 = false ∧
      ctxPhysOk (g p) 5 0xFFFFFC0 (0xFFFFFC0 + 7) = true) := by
  decide +kernel

/-- Signals at, above and below the fence's word; waits that the word releases, fails and leaves. -/
theorem wit_FenceUnit :
    let sig (v : Nat) : Signal := { src := .command 5, addr := 0x1000, word := BitVec.ofNat 64 v, intr := none }
    let s (v : Nat) : State := { run tCore with mem := [(0x1000, 4)], fu := { signals := [sig v] } }
    let r (m : List Host.Cell) : State :=
      { run tCore with mem := m, fu := { reading := [(0x1000, { ctx := 5, value := 4, deadline := none })] } }
    (∀ v ∈ [3, 4, 5], (s v).fu.signals = sig v :: [] ∧ sigAllowed (s v) (sig v) = true ∧
      apertureOf (s v) (sig v).addr.toNat = none) ∧
    (3 : DWord).toNat < (rd64 (s 3).mem 0x1000).toNat ∧ (rd64 (s 4).mem 0x1000).toNat ≤ (4 : DWord).toNat ∧
    (∀ m ∈ ([[(0x1000, 3)], [(0x1000, 4)], [(0x1007, 128)]] : List (List Host.Cell)),
      (r m).fu.reading = [(0x1000, { ctx := 5, value := 4, deadline := none })]) ∧
    ((rd64 [(0x1000, 3)] 0x1000).getLsbD 63 = false ∧ (rd64 [(0x1000, 3)] 0x1000).toNat < 4) ∧
    ((rd64 [(0x1000, 4)] 0x1000).getLsbD 63 = false ∧ 4 ≤ (rd64 [(0x1000, 4)] 0x1000).toNat) ∧
    (rd64 [(0x1007, 128)] 0x1000).getLsbD 63 = true ∧
    (let t := (State.reset.fu.watch.map (·.1)).foldl (fun t a => testFence t a (rd64 t.mem a.toNat)) State.reset
     t.fu.overflow.length ≤ 512 ∧ t.fu.overflowPos = 0) ∧
    ((23 : BitVec 5).toNat < 24 ∧ domOn State.reset 209 = true) := by
  decide +kernel

-- ---------------------------------------------------------------- the ATU

/-- Slot 0 holds ID 16. What is staged for slot 1: ID 17 that the host may take, ID 17 with ENGINE, and ID 16. -/
theorem wit_SpaceCommits :
    let s (id : Nat) : State :=
      let u := run tCore
      { u with
        atu := { u.atu with sel := 1, stId := BitVec.ofNat 32 id, stHi := 0x90000000 }
        mbx := { u.mbx with reqBusy := true, req := [(0, 6)] } }
    let x (id : Nat) : Space := stagedSpace (s id)
    domOn (s 0) 209 = true ∧
    (∀ id ∈ [0x100011, 0x11], guardedCommit (x id) (spaceOf (s id) 1) = false ∧
      idTaken (s id) 1 (x id) = false ∧ ((x id).valid = false ∨ bits (x id).root 60 4 = 9)) ∧
    guardedCommit (x 0x300011) (spaceOf (s 0x300011) 1) = true ∧ idTaken (s 0x100010) 1 (x 0x100010) = true ∧
    (mbxTakes (s 0) = true ∧ mbxOp (s 0) = 6 ∧ (spaceOf (s 0) (0 : BitVec 12).toNat).valid = true ∧
      (spaceOf (s 0) (1 : BitVec 12).toNat).valid = false) := by
  decide +kernel

/-- The walk of the line of tag 3 at its first and its second level, at a table outside the window, and at an
empty entry; with the ATU disabled. -/
theorem wit_TableWalks :
    let w (level table : Nat) : Walk :=
      { slot := 0, va := 0x200000, store := false, level := level, table := table, forLine := .line 0 3
        waiting := [], pa := [(1, 16)] }
    let s (w : Walk) : State := let u := runTag (tTag .load) id; { u with atu := { u.atu with walks := [(15, some w)] } }
    (∀ p ∈ [(3, 0x400000), (2, 0x401000), (3, 0x10000000), (0, 0x403000)],
      let w := w p.1 p.2
      mget none (s w).atu.walks (15 : BitVec 4).toNat = some w ∧ (s w).atu.disable = false ∧ walkWaits (s w) w = false ∧
      physOkOf (s w) w.pa (spaceOf (s w) 0).engine (pteAddr p.2 0x200000 p.1) (pteAddr p.2 0x200000 p.1 + 7) =
        decide (p.2 ≠ 0x10000000) ∧ (walkLines (s w) w).length = 1) ∧
    (let u := s (w 3 0x400000)
     let off := { u with atu := { u.atu with disable := true } }
     off.atu.disable = true ∧ mget none off.atu.walks 15 = some (w 3 0x400000)) ∧
    pteStep (rd64 tMem (pteAddr 0x400000 0x200000 3)) 3 = .next 0x401000 ∧
    pteStep (rd64 tMem (pteAddr 0x401000 0x200000 2)) 2 = .leaf ∧
    pteStep (rd64 tMem (pteAddr 0x403000 0x200000 0)) 0 = .fault pfInvalid := by
  decide +kernel

def tRec : FaultRec where
  slot := 0
  page := 0x200000
  store := false
  reason := 1
  region := false
  cores := 1
  ctxs := [5]
  opened := 0

/-- An open record, none under the next number, and the time limit reached. -/
theorem wit_FaultRecords :
    let s := let u := ctxSt .faultWait id; { u with atu := { u.atu with faults := [(63, some tRec)], timeout := 1 }, clk := { tb := 1 } }
    domOn s 209 = true ∧ recOf s (63 : BitVec 6).toNat = some tRec ∧ recOf s (62 : BitVec 6).toNat = none ∧
    s.atu.timeout.toNat ≤ (now s - tRec.opened).toNat := by
  decide +kernel

/-- A load line, alive and dead, and a store line of the core; a ring with a command to fetch; a waiting, a
saved and a restored task; a COPY; a signal whose store is not read back; each 1,000,000 ticks old. -/
theorem wit_MemoryErrors :
    let old (s : State) : State := { s with clk := { tb := 1000000 } }
    let l (dead : Bool) : InLine :=
      { tag := 3, line := 3, pa := 0x200180, slot := 0, epoch := 0, data := 0, sent := 0, dead := dead }
    let a (dead : Bool) := old (runTag { tTag .load with issued := 4 } (fun m => { m with lines := [l dead] }))
    let b := old (runTag { tTag .store with issued := 4, st := .sent, ports := [(0, { pa := 0x200180, sent := 0 })] } id)
    let ring := old (ctxSt .ready (fun k => { k with cur := none }))
    let task (t : Task) := old (st {} { tCtx with state := .saved, saveBase := 0x40000, task := some t })
    let waits := { tTask with phase := .waiting }
    let saved := { tTask with phase := .saved }
    let back := { tTask with kept := [(0, {})] }
    let copy := old (ctxSt .running (fun k => { k with cur := some (.copy 0 128 128) }))
    let sig := old (ctxSt .running (fun k => { k with
      cur := some (.fenceSignal false false 0 1), unread := [{ pa := 0x200180, sent := 0 }] }))
    (∀ dead ∈ [false, true],
      (coreOf (a dead) 0).mem.lines.find? (fun l => decide (l.tag = 3 ∧ l.line = 3)) = some (l dead) ∧
      (coreOf (a dead) 0).task = some (5, 0) ∧ apertureOf (a dead) (l dead).pa.toNat = none ∧
      1000000 ≤ (now (a dead) - (l dead).sent).toNat) ∧
    ((coreOf b 0).task = some (5, 0) ∧ storeSent b 0 3 0x200180 = some { pa := 0x200180, sent := 0 }) ∧
    ((ctxOf ring 5).state = .ready ∧ (ctxOf ring 5).cur = none ∧ (ctxOf ring 5).rd ≠ (ctxOf ring 5).wr) ∧
    (∀ t ∈ [waits, saved, back], (ctxOf (task t) 5).task = some t ∧
      1000000 ≤ (now (task t) - (ctxOf (task t) 5).cmdTick).toNat ∧
      inSaveArea (ctxOf (task t) 5) t 0x40000 = true) ∧
    (waits.phase ≠ .running ∧ waits.cmd.descTable.toNat ≤ 0x200F ∧ 0x200F < waits.cmd.descTable.toNat + 16 * waits.cmd.ndesc) ∧
    (back.phase = .running ∧ back.kept ≠ []) ∧
    (commandBusy copy 5 = true ∧ 1000000 ≤ (now copy - (ctxOf copy 5).cmdTick).toNat) ∧
    (commandBusy sig 5 = false ∧ ∃ l ∈ (ctxOf sig 5).unread, l.pa = 0x200180) := by
  decide +kernel

/-- The last place of the queue; messages for a space that a slot holds, for one that none does, and for all, at an idle
and a busy handler; rates at the port's limit and one beyond. -/
theorem wit_InvalidationAndCredit :
    let q (n : Nat) : State := let u := run tCore; { u with atu := { u.atu with inv := List.replicate n (some 0, 0) } }
    (∀ n ∈ [0, 31], (q n).atu.inv.length < 32 ∧ invTarget (q n) (.space 17) = none ∧
      invTarget (q n) (.space 16) = some (some 0) ∧ invTarget (q n) .all = some none) ∧
    (q 0).atu.inv = [] ∧ (q 31).atu.inv ≠ [] ∧
    ((q 1).atu.inv = (some 0, 0) :: [] ∧
      (q 1).cores.any (fun c => (linesOut c.2.mem).any (fun l => lineStale (q 1) (some 0) 0 l.slot l.epoch)) = false ∧
      (linkLines (q 1)).any (fun l => lineStale (q 1) (some 0) 0 l.slot l.epoch) = false) ∧
    (let t := { q 0 with clk := { fabCyc := 1024 } }
     t.atu.creditAt + 1024 ≤ t.clk.fabCyc) ∧
    (let u := { q 0 with atu := { (q 0).atu with bw := [(0, { rate := 5000 })] } }
     domOn u 209 = true ∧ rateSum u - (bwOf u 15).rate.toNat + 563 ≤ 5563 ∧
     5563 < rateSum u - (bwOf u 15).rate.toNat + 564 ∧ (bits (0x10000233 : Word) 0 13).toNat = 563 ∧
     (bits (0x10000233 : Word) 16 13).toNat = 4096) := by
  decide +kernel

-- ---------------------------------------------------------------- the GEQ, the mailbox and the registers

/-- A mailbox request of these words. -/
def asked (l : List Nat) : State :=
  let u := run tCore
  { u with
    mbx := { u.mbx with reqBusy := true, req := (l.zipIdx.map (fun e => (e.2, BitVec.ofNat 32 e.1))).filter (fun e => !decide (e.2 = 0)) }
    cores := [(0, tCore), (1, { pan := { ready := 0xFF } })] }

/-- The last free place of a ring of 4,096 entries, its event still pending; a ring that is off. -/
theorem wit_EventRing :
    let e : GeqEntry := {
      code := 0x1C2, cls := 1, lostBefore := false, replace := false, forge := false, source := 0, ctx := 0, tick := 0
      obj := 0, detail := 0 }
    let s : State := { State.reset with
      geq := { staging := [e], enable := true, base := 0x1000, wr := 4095 }, cp := { intPend := { bits := 1 } } }
    (s.geq.staging = e :: [] ∧ s.geq.enable = true ∧ (s.geq.wr - s.geq.rd).toNat < 2 ^ s.geq.log2.toNat ∧
      s.cp.intPend.bits.getLsbD 0 = true) ∧
    (domOn State.reset 209 = true ∧ State.reset.geq.enable = false) := by
  decide +kernel

theorem wit_Mailbox : (∀ op ∈ [5, 10, 0, 11], mbxTakes (asked [op]) = true ∧ mbxOp (asked [op]) = op) ∧
    domOn (asked [5]) 209 = true := by
  decide +kernel

/-- An offset between registers, one of the Forge's, one of a unit that is off, and one that takes the write. -/
theorem wit_RegisterWrites :
    (∀ o ∈ [0x200004, 0x400080, 0x1001010, 0x800008], o % 4 = 0 ∧ twComplAt o = none ∧ twAt o = none ∧
      ¬ (0x280000 ≤ o ∧ o < 0x284000)) ∧ 0x800009 % 4 ≠ 0 ∧
    rdReg State.reset .host 0x200004 = none ∧
    (rdReg State.reset .host 0x400080 ≠ none ∧ mayWrite .host 0x400080 = false) ∧
    (rdReg State.reset .forge 0x1001010 ≠ none ∧ domOn State.reset (regDom 0x1001010) = false) ∧
    (rdReg State.reset .host 0x800008 ≠ none ∧ mayWrite .host 0x800008 = true ∧
      domOn State.reset (regDom 0x800008) = true) := by
  decide +kernel

/-- A register of sequence number 7 and writes of 7 and 8. -/
theorem wit_SequenceClearedWrites :
    let s := { run tCore with cp := { intPend := { bits := 3, seq := 7 } } }
    domOn s 209 = true ∧ domOn s (13 * (0 : CoreId).toNat) = true ∧ domOn s (13 * (15 : CoreId).toNat) = true ∧
    (0x07000001 : Word).extractLsb' 24 8 = s.cp.intPend.seq ∧ (0x08000001 : Word).extractLsb' 24 8 ≠ s.cp.intPend.seq := by
  decide +kernel

/-- A latch without a word and one with a word, a masked register, and a voted register of which one or the other pair agrees. -/
theorem wit_OtherRegisterKinds :
    let s := run tCore
    let u := { s with port := { s.port with latch := [(4 * 0x14 + initNo .host, some 5)] } }
    let copy (f : Word) : Word := (coreOf s 0).ta.repairMap ^^^ (f &&& 0x3F3F3F3F)
    (domOn s 209 = true ∧ mget none s.port.latch (4 * 0x800018 + initNo .host) = none) ∧
    (0x0000FFFF : Word).extractLsb' 16 16 = 0 ∧
    mget none u.port.latch (4 * 0x14 + initNo .host) = some 5 ∧
    ((0x1601000 : RegOff).toNat % 4 = 0 ∧ domOn s (regDom (0x1601000 : RegOff).toNat) = true) ∧
    domOn s (13 * (0 : CoreId).toNat) = true ∧ (copy 0 = copy 0x40 ∧ copy 0 ≠ copy 1) ∧
    (copy 1 ≠ copy 2 ∧ copy 2 = copy 0x82) := by
  decide +kernel

/-- Every twin-write register, with a write pending in the last core cycle before it lapses and in the next. -/
theorem wit_TwinWriteRules : ∀ r ∈ allTw,
    let p : Twin := { init := .forge, value := 1, cycle := 0, latched := 0 }
    let o := twOff r
    let s (n : Nat) : State := let u := setTwin (run tCore) o (some p); { u with clk := { u.clk with coreCyc := n } }
    mayWrite .forge o = true ∧ domOn (s 0) (regDom o) = true ∧ twinOf (run tCore) o = none ∧
    twinOf (s 1024) o = some p ∧ twLapsed (s 1024) p = false ∧ twLapsed (s 1025) p = true ∧
    (mayWrite .host o = true → p.init ≠ .host) := by
  decide +kernel

/-- A Temper commit a second after the word's last, a reset's array being unlocked; a commit under way. -/
theorem wit_TemperCommits :
    let s : State := { State.reset with clk := { tb := 100000000 }, temper := { Temper.initial with
      words := [(3, { lastTick := some 0 })] } }
    let u : State := { State.reset with clk := { tb := 200 }, temper := { Temper.initial with busy := some (3, 9) } }
    (s.temper.busy = none ∧ tooSoon s 3 = false ∧ tooSoon s 0 = false ∧ temperAssigned 3 = true ∧ temperFactory 3 = false ∧
      temperAssigned 0 = true ∧ temperFactory 0 = true ∧ factoryLock s = false) ∧
    (u.temper.busy = some (3, 9) ∧ u.temper.wait = [] ∧ (tword u 3).failed = 0 ∧ (tword u 3).count ≠ 90000000 ∧
      200 ≤ (now u - u.temper.since).toNat) := by
  decide +kernel

-- ---------------------------------------------------------------- Baskets and scheduling

/-- A Basket of core 1 at the whole rate of the port, and one that asks for what does not exist. -/
theorem wit_BasketOperations_create :
    let s := asked [1, 0x00FF0002, 0x100015BB, 4]
    let n := asked [1, 0x00FF0002, 0, 0x104]
    let k : Basket := { freshBasket (bskOf s 0) with valid := true, cores := 2, segs := 0xFF, rsvd := 0, slice := 4, regions := [] }
    (mbxTakes s = true ∧ mbxOp s = 1 ∧ reqClean s createFields = true ∧ (reqW s 3).getLsbD 8 = false ∧
      bits (reqW s 1) 0 16 = 2 ∧ bits (reqW s 1) 16 8 = 0xFF ∧ bits (reqW s 1) 24 8 = 0 ∧ bits (reqW s 3) 0 6 = 4 ∧
      (coresOf (2 : BitVec 16)).any (fun c => coreRetiredTa s c || (bskOfCore s c).isSome) = false ∧
      (List.range 16).find? (fun b => !(bskOf s b).valid) = some 0 ∧
      ((List.range 8).map (fun r => (r, reqW s (4 + r)))).filter (fun e => !decide (e.2 = 0)) = [] ∧
      (bits (reqW s 2) 0 13).toNat = 5563 ∧ (bits (reqW s 2) 16 13).toNat = 4096 ∧
      rateSum s - (bwOf s 0).rate.toNat + 5563 ≤ (if rtBound s then 5200 else 5563) ∧ basketOk s 0 k = true) ∧
    (mbxTakes n = true ∧ mbxOp n = 1 ∧ reqClean n createFields = true ∧ (reqW n 3).getLsbD 8 = true) := by
  decide +kernel

/-- A Basket with contexts, one without and one that does not exist; a context to bind, and to unbind at both ends of
the host's range. -/
theorem wit_BasketOperations_rest :
    let d (b : Nat) : State := let s := asked [2, b]; { s with baskets := [(1, tBasket), (2, { tBasket with cores := 4 })] }
    let b := asked [3, 3967 + 2 ^ 12 + 2 * 2 ^ 16, 0, 0]
    let u (n : Nat) : State :=
      let s := asked [4, n]
      { s with cp := { ctxs := [(3967, { tCtx with state := .stopped, task := none })] } }
    (∀ n ∈ [1, 2, 3], mbxTakes (d n) = true ∧ mbxOp (d n) = 2 ∧ reqClean (d n) [(1, 0xF)] = true ∧
      (bits (reqW (d n) 1) 0 4).toNat = n) ∧
    ((bskOf (d 3) 3).valid = false ∧ (bskOf (d 2) 2).valid = true ∧ bskCtxs (d 2) 2 = [] ∧
      (bskOf (d 1) 1).valid = true ∧ bskCtxs (d 1) 1 ≠ []) ∧
    (mbxTakes b = true ∧ mbxOp b = 3 ∧ reqClean b [(1, 0x1FFFFF), (2, 0xFFFF), (3, 0xFFFF)] = true ∧
      (bits (reqW b 1) 0 12).toNat = 3967 ∧ (bits (reqW b 1) 12 4).toNat = 1 ∧ (bits (reqW b 1) 16 2) = 2 ∧
      (ctxOf b 3967).state = .free ∧ (bskOf b 1).valid = true ∧
      rgValid (regionOf (bskOf b 1) 0) = true ∧ rgRt (regionOf (bskOf b 1) 0) = false) ∧
    (∀ n ∈ [3967, 3968], mbxTakes (u n) = true ∧ mbxOp (u n) = 4 ∧ reqClean (u n) [(1, 0xFFF)] = true ∧
      (bits (reqW (u n) 1) 0 12).toNat = n) ∧ (ctxOf (u 3967) 3967).state = .stopped := by
  decide +kernel

/-- A Basket to validate, one to drain, one to undrain, one drained and one not yet, one to free. -/
theorem wit_BasketStates :
    let s (k : Basket) : State := let s := asked []; { s with baskets := [(1, tBasket), (2, { k with cores := 2, segs := 0xFF, slice := 40 })] }
    let k (v d : Bool) : State := s { valid := v, drain := d }
    let busy := let u := k true true; { u with cores := [(1, tCore)] }
    (∀ x ∈ [(false, false), (true, false), (true, true)], domOn (k x.1 x.2) 209 = true ∧
      (bskOf (k x.1 x.2) 2).valid = x.1 ∧ (bskOf (k x.1 x.2) 2).drain = x.2 ∧
      1 ≤ (bskOf (k x.1 x.2) 2).slice.toNat ∧ (bskOf (k x.1 x.2) 2).slice.toNat ≤ 40) ∧
    basketOk (k false false) 2 (bskOf (k false false) 2) = true ∧ basketOk (k true true) 2 (bskOf (k true true) 2) = true ∧
    bskCtxs (k true true) 2 = [] ∧ (bskOf (k true true) 2).drained = false ∧
    drainOver (drainEvict (k true true) 2) 2 = true ∧
    ((bskOf busy 2).valid = true ∧ (bskOf busy 2).drain = true ∧ drainOver (drainEvict busy 2) 2 = false) := by
  decide +kernel

/-- A task that waits for a core: free, taken by another, and without its host. -/
theorem wit_Scheduling_dispatch :
    let t : Task := { tTask with phase := .waiting, cores := [], cmd := { tExec with ndesc := 0 } }
    let s (k : Core) (x : Ctx) : State := let u := st k x; { u with baskets := [(1, { tBasket with valid := true })] }
    let k : Core := { pan := { ready := 0xFF }, ta := { st := .service } }
    let x : Ctx := { tCtx with state := .ready, task := some t }
    let gone := let u := s k { x with trail := true }; { u with cp := { u.cp with detached := true } }
    (∀ u ∈ [s k x, s tCore x, gone], (bskOf u 1).valid = true ∧ (bskOf u 1).drain = false ∧ firstCandidate u 1 = some 5 ∧
      (ctxOf u 5).task = some t ∧ t.cmd.cores ≤ popcount (bskOf u 1).cores) ∧
    (freeCores (s tCore x) 1).length < t.cmd.cores ∧
    (t.cmd.cores ≤ (freeCores gone 1).length ∧ hostGone gone 5 = true) ∧
    (t.cmd.cores ≤ (freeCores (s k x) 1).length ∧ hostGone (s k x) 5 = false ∧
      (placeFault (s k x) 5 t (placeTask (s k x) 5 t (freeCores (s k x) 1))).isNone = true ∧
      walkerFree (s k x) = true ∧ hasCredit (s k x) (ctxBsk (s k x) 5) = true ∧
      (translateAll (s k x) (ctxBsk (s k x) 5) (slotOfCtx (s k x) 5) false (imagePages t.cmd) t.cmd.image.toNat).1 = none) ∧
    (let y := { x with space := 99 }
     (placeFault (s k y) 5 t (placeTask (s k y) 5 t (freeCores (s k y) 1))).isSome = true) := by
  decide +kernel

/-- A running task at its YIELD, at its END, and at the end of its slice with and without another that waits. -/
theorem wit_Scheduling_end :
    let y := runSeq (fun q => { q with run := .atYield })
    let e := runSeq (fun q => { q with run := .stopped, ended := true })
    let late : Ctx := { tCtx with task := some { tTask with slice := 200000 } }
    let alone := st tCore late
    let two := { alone with cp := { ctxs := [(5, late), (6, { tCtx with state := .saved, task := some { tTask with phase := .saved } })] } }
    ((ctxOf y 5).task = some tTask ∧ tTask.phase = .running ∧ tTask.cores = 0 :: [] ∧
      walkerFree y = true ∧ hasCredit y (ctxBsk y 5) = true ∧
      tTask.cores.all (fun c => (coreOf y c).seq.run == .atYield) = true) ∧
    ((ctxOf e 5).task = some tTask ∧ tTask.cores.all (fun c => coreEnded (coreOf e c)) = true ∧
      tTask.cores.all (fun c => (endsOpen (coreOf e c)).isNone) = true) ∧
    (∀ p ∈ [(alone, false), (two, true)],
      (ctxOf p.1 5).task = some { tTask with slice := 200000 } ∧ tTask.preempt = false ∧
      50000 * (bskOf p.1 (ctxBsk p.1 5)).slice.toNat = 200000 ∧
      (candidates p.1 (ctxBsk p.1 5)).any (fun y => decide ((ctxOf p.1 y).prio.toNat ≤ (ctxOf p.1 5).prio.toNat)) = p.2) := by
  decide +kernel

-- ---------------------------------------------------------------- service

/-- A run allowed and not, under way of each kind, and what held a core. -/
theorem wit_DiagnosticRuns :
    let s (f : Ta → Ta) : State := run { tCore with ta := f {}, vu := { diagBusy := true, holds := [0, 0] } }
    let t (f : Ta → Ta) : Ta := (coreOf (s f) 0).ta
    domOn (s id) (13 * 0) = true ∧
    (∀ x ∈ [TaSt.hold, .uncal], runAllowed (coreOf (s (fun t => { t with st := x })) 0) = true) ∧
    runAllowed (coreOf (s (fun t => { t with st := .service })) 0) = false ∧
    ((t id).st = .hold ∧ (coreOf (run { tCore with ta := {} }) 0).vu.diagBusy = false) ∧
    (∀ b ∈ [false, true], (t (fun t => { t with diagBusy := true, calRun := b })).diagBusy = true ∧
      (t (fun t => { t with diagBusy := true, calRun := b })).calRun = b) ∧
    (t (fun t => { t with diagBusy := true, calRun := true })).st ≠ .retired ∧ forgeRuns (s id) = true ∧
    ((coreOf (s id) 0).vu.diagBusy = true ∧ byVector (t id).repairHold = false ∧
      byVector (t (fun t => { t with repairHold := some .depthwise })).repairHold = true ∧ recentHolds (s id) 0 < 3) := by
  decide +kernel

/-- A core in repair hold; one worn, in service and once drained; one in HOLD that a calibration has passed. -/
theorem wit_CoreService :
    let s (f : Ta → Ta) (x : Option (Nat × Nat)) : State := run { tCore with task := x, ta := f tCore.ta }
    let held := s (fun t => { t with st := .hold, repairHold := some .array }) (some (5, 0))
    let worn := s (fun t => { t with colCounts := [(0, 7), (0, 7), (0, 7)] }) none
    let due := s (fun t => { t with repairDue := true }) none
    let fit := s (fun t => { t with st := .hold, calOk := true }) none
    (forgeRuns held = true ∧ (coreOf held 0).ta.st = .hold ∧ (coreOf held 0).ta.diagBusy = false ∧
      (coreOf held 0).ta.repairHold = some .array ∧ (coreOf held 0).task ≠ none) ∧
    (forgeRuns worn = true ∧ (coreOf worn 0).ta.st = .service ∧ thresholdMet worn (coreOf worn 0).ta = true ∧
      (coreOf worn 0).ta.repairDue = false ∧ (coreOf worn 0).task = none ∧ bskOfCore worn 0 = some 1) ∧
    ((coreOf due 0).ta.repairDue = true ∧ (coreOf due 0).task = none ∧ (coreOf due 0).ta.diagBusy = false) ∧
    ((coreOf fit 0).ta.st = .hold ∧ (coreOf fit 0).ta.diagBusy = false ∧ (coreOf fit 0).task = none ∧
      (coreOf fit 0).ta.calOk = true ∧ (coreOf fit 0).ta.repairDue = false ∧ retirePending fit 0 = false) ∧
    (∀ x ∈ [TaSt.retired, .hold], (coreOf (s (fun t => { t with st := x }) none) 0).ta.st = x ∧
      domOn (s (fun t => { t with st := x }) none) 209 = true) := by
  decide +kernel

/-- CORE_SET for a core that is its Basket's last, for one that is not, and for one that is retired. -/
theorem wit_CoreService_mailbox :
    let s (w n : Nat) (k : Core) (t : Nat) : State :=
      let u := asked [9, w]
      { u with
        baskets := [(1, { tBasket with cores := BitVec.ofNat 16 n })], cores := [(1, k)]
        temper := { u.temper with shadow := [(0x21, BitVec.ofNat 32 t)], loaded := true } }
    let r (t : Nat) : State := s 1 3 { ta := { st := .retired } } t
    (∀ u ∈ [s 0x101 2 {} 0, s 0x101 3 {} 0, s 0x101 3 { task := some (5, 0) } 0, r 0, r 2, r 3, s 1 3 {} 0],
      mbxTakes u = true ∧ mbxOp u = 9 ∧ reqClean u [(1, 0x10F)] = true ∧ bits (reqW u 1) 0 4 = (1 : CoreId)) ∧
    ((reqW (s 0x101 2 {} 0) 1).getLsbD 8 = true ∧ lastCore (s 0x101 2 {} 0) 1 = true) ∧
    ((coreOf (s 0x101 3 {} 0) 1).ta.st ≠ .retired ∧ lastCore (s 0x101 3 {} 0) 1 = false ∧
      (coreOf (s 0x101 3 {} 0) 1).task = none ∧ (coreOf (s 0x101 3 { task := some (5, 0) } 0) 1).task ≠ none ∧
      (coreOf (s 0x101 3 { task := some (5, 0) } 0) 1).ta.repairHold = none) ∧
    ((reqW (r 0) 1).getLsbD 8 = false ∧ (coreOf (r 0) 1).ta.st = .retired ∧ readmitCount (r 2) 1 < 3 ∧
      3 ≤ readmitCount (r 3) 1 ∧ (coreOf (s 1 3 {} 0) 1).ta.st ≠ .retired) := by
  decide +kernel

-- ---------------------------------------------------------------- the Pannier

/-- A row's code as the scrubber finds it in each of its three states; a segment to sweep; a copy and groups. -/
theorem wit_PannierUpkeep :
    let s (e : SMap RowEcc) (p : Pan) : State := run { pan := { p with errs := e, ready := 0x7F } }
    let x := s [] { copying := some (7, 5) }
    let i := nextScrub (coreOf (s [] {}) 0).pan 6 3120 0
    (∀ e ∈ ([({}, .clean), ({ single := 128 }, .single), ({ double := 1 }, .double)] : List (RowEcc × Ecc)),
      let u := { s [] {} with clk := { tb := 1000000000000 } }
      (coreOf u 0).pan.scrubEn = true ∧ segOn u 0 6 = true ∧ (coreOf u 0).pan.ready.getLsbD 6 = true ∧
      2 ^ (coreOf u 0).pan.scrubShift.toNat ≤ (now u - mget 0 (coreOf u 0).pan.scrubAt 6).toNat ∧
      (readPhys u 0 (4096 * 6 + i) e.1).2.1 = e.2) ∧
    (segOn (s [] {}) 0 7 = true ∧ (coreOf (s [] {}) 0).pan.ready.getLsbD 7 = false) ∧
    ((coreOf x 0).pan.copying = some ((7 : SegId).toNat, 5) ∧ (spareFree (coreOf x 0).pan 7).isSome = true) ∧
    (let u := run { pan := { ready := 0xFF } }
     domOn u (coreDom 0) = true ∧ groupsAligned (bits (0xFFFF : Word) 0 16) = true ∧ groupFree u 0 = true) := by
  decide +kernel

/-- An access to the last row of the window's last core, one off its size, and one a row beyond; a read that
waits behind a buffered write, and holds another. -/
theorem wit_PannierWindow :
    let w : WinWrite := { row := 24575, off := 448, size := 64, data := 1 }
    let s (l : List WinWrite) : State :=
      let u := run tCore
      { u with cores := [(0, { tCore with pan := { tCore.pan with wbuf := List.replicate 14 w } }),
                         (15, { pan := { ready := 0xFF, winEn := true, winWrite := true, wbuf := l } })] }
    let o := 15 * 2 ^ 24 + 24575 * 512 + 448
    (winCore o = 15 ∧ panWinRow o = 24575 ∧ winTakes (s []) o 64 false = true ∧ winBuffered (s []) 15 24575 = false ∧
      winHolds (s []) (o, 64) = false) ∧
    (winTakes (s []) (o + 4) 64 false = false ∧ winTakes (s []) (o + 64) 64 true = false) ∧
    (winTakes (s [w]) o 64 true = true ∧ winPending (s [w]) < 16 ∧ (s [w]).port.winWait = none ∧
      winBuffered (s [w]) 15 24575 = true) ∧
    (let h := { s [w] with port := { (s [w]).port with winWait := some (o, 64) } }
     winHolds h (o - 64, 64) = true) ∧
    ((coreOf (s [w]) 15).pan.wbuf.find? (fun w => !heldAddr (s [w]) 15 w.row) = some w) := by
  decide +kernel

/-- The last working row of a segment with a code that does not correct, or on a test list, with and without
a free list entry. -/
theorem wit_PannierUpkeep_repair :
    let s (e : SMap RowEcc) (t : SMap Word) : State :=
      let u := run { pan := { ready := 0xFF, errs := e } }
      { u with temper := { u.temper with loaded := true, shadow := t } }
    let lost : SMap RowEcc := [(4096 * 7 + 3071, { double := 1 })]
    let full : SMap Word := (List.range 32).map (fun i => (0x100 + i, 0xFFFFFFFF))
    (∀ p ∈ [(lost, false), ([], true)], forgeRuns (s p.1 []) = true ∧
      (coreOf (s p.1 []) 0).pan.retired.getLsbD 7 = false ∧ rowFaulty (s p.1 []) 0 7 3071 p.2 = true) ∧
    (freeListEntry (s lost []) 0 = some 0 ∧ spareFree (coreOf (s lost []) 0).pan 7 ≠ none ∧
      mapAllowed (flushCopy (s lost []) 0) 0 7 3071 = true) ∧
    (forgeRuns (s lost full) = true ∧ rowFaulty (s lost full) 0 7 3071 false = true ∧
      freeListEntry (s lost full) 0 = none) := by
  decide +kernel

-- ---------------------------------------------------------------- the links

abbrev linkSt (k : Link) : State := let u := run tCore; { u with links := [(1, k)], clk := { u.clk with tb := 100000000, fabCyc := 4096 } }

/-- Each state of a link, every time limit reached, and eight skews at the greatest. -/
theorem wit_LinkStates :
    let f : Flit := { seq := 0, vc := 0, kind := 1, body := 0 }
    (∀ x ∈ [LinkSt.down, .detect, .align, .train, .active, .retrain],
      (linkOf (linkSt { st := x, retryBuf := [f] }) 1).st = x ∧ domOn (linkSt { st := x }) (213 + 1) = true ∧
      40000000 ≤ (now (linkSt { st := x }) - (linkOf (linkSt { st := x }) 1).since).toNat ∧
      (linkOf (linkSt { st := x, retryBuf := [f] }) 1).retryBuf ≠ []) ∧
    (linkOf (linkSt { retryBuf := [f] }) 1).ackAt + 4096 ≤ (linkSt {}).clk.fabCyc ∧
    ((List.replicate 8 (32 : BitVec 6)).length = 8 ∧ (List.replicate 8 (32 : BitVec 6)).all (fun x => decide (x.toNat ≤ 32)) = true) ∧
    (let u := linkSt { enable := true }
     let k := linkOf u 1
     k.auto = true ∧ 100000000 ≤ (now u - k.since).toNat ∧ k.st = .down ∧ k.enable = true ∧ k.spent = false) := by
  decide +kernel

theorem bytesOf_congr {a b : Nat} : ∀ (n : Nat) (v : BitVec a) (w : BitVec b),
    (∀ i < 8 * n, v.getLsbD i = w.getLsbD i) → bytesOf v n = bytesOf w n
  | 0, _, _, _ => rfl
  | n + 1, v, w, h => by
    simp only [bytesOf]
    congr 1
    · ext i hi
      simpa [hi] using h i (by omega)
    · exact bytesOf_congr n _ _ (fun i hi => by simpa using h (8 + i) (by omega))

/-- A flit of header `h` and nothing else, whose CRC is off by `e`. -/
def sealed (h : Word) (e : Word) : BitVec 1088 :=
  h.setWidth 1088 ||| ((crc32c (bytesOf h 132) ^^^ e).setWidth 1088 <<< 1056)

theorem sealed_low (h e : Word) (i : Nat) (hi : i < 1056) : (sealed h e).getLsbD i = h.getLsbD i := by
  have : i < 1088 := by omega
  simp only [sealed, BitVec.getLsbD_or, BitVec.getLsbD_setWidth, BitVec.getLsbD_shiftLeft, hi, this, decide_true,
    Bool.not_true, Bool.and_false, Bool.false_and, Bool.or_false, Bool.true_and]

theorem sealed_high (h e : Word) (i : Nat) (hi : i < 32) :
    (sealed h e).getLsbD (1056 + i) = (crc32c (bytesOf h 132) ^^^ e).getLsbD i := by
  have a : 1056 + i < 1088 := by omega
  have b : ¬ 1056 + i < 1056 := by omega
  have c : 1056 + i - 1056 = i := by omega
  have d : i < 1088 := by omega
  rw [sealed, BitVec.getLsbD_or, BitVec.getLsbD_setWidth, BitVec.getLsbD_shiftLeft, BitVec.getLsbD_setWidth, c,
    BitVec.getLsbD_of_ge h (1056 + i) (by omega)]
  simp only [a, b, d, decide_true, decide_false, Bool.not_false, Bool.and_false, Bool.false_or, Bool.true_and]

theorem sealed_header (h e : Word) : (sealed h e).extractLsb' 0 32 = h := by
  apply BitVec.eq_of_getLsbD_eq
  intro i hi
  rw [BitVec.getLsbD_extractLsb', Nat.zero_add, sealed_low h e i (by omega)]
  simp only [hi, decide_true, Bool.true_and]

theorem sealed_crc (h e : Word) :
    (sealed h e).extractLsb' 1056 32 = crc32c (bytesOf (sealed h e) 132) ^^^ e := by
  rw [bytesOf_congr 132 (sealed h e) h (fun i hi => sealed_low h e i hi)]
  apply BitVec.eq_of_getLsbD_eq
  intro i hi
  rw [BitVec.getLsbD_extractLsb', sealed_high h e i hi]
  simp only [hi, decide_true, Bool.true_and]

/-- Header bits: sequence number, VC and kind. -/
def header (seq vc kind : Nat) : Word := BitVec.ofNat 32 (seq + vc * 2 ^ 16 + kind * 2 ^ 18)

/-- Blocks of the last lane: a marker in its place and out of it, a control block of each known type and of
another, a data block of another lane than the next. -/
theorem wit_LinkFrames_blocks :
    let t (p : DWord) : Word × Word := let r := (descrambleWord p 0).1
      (r.extractLsb' 0 8 |>.setWidth 32, r.extractLsb' 8 8 |>.setWidth 32)
    t 0x074B = (0x4B, 7) ∧ t 0x064B = (0x4B, 6) ∧ (t 0x55).1 = 0x55 ∧ (t 0x78).1 = 0x78 ∧ (t 0x1E).1 = 0x1E ∧
    (t 0x33).1 = 0x33 ∧
    (let s := linkSt { st := .active }
     (linkOf s 1).st = .active ∧ (7 : BitVec 3).toNat ≠ (linkOf s 1).rxLane.toNat ∧
      mget [] (linkOf s 1).laneWords (linkOf s 1).rxLane.toNat = []) := by
  decide +kernel

/-- A field for the last lane; a flit with a wrong CRC, one of a reserved kind, one that carries nothing, the
expected one with one place left and with none, and one that comes too soon. -/
theorem wit_LinkFrames :
    let f : Flit := { seq := 0, vc := 2, kind := 1, body := 0 }
    let t := linkSt { st := .train }
    let s (n : Nat) : State := linkSt { st := .active, expect := 9, rxBuf := List.replicate n f }
    ((linkOf t 1).st = .train ∧ (5 : BitVec 4).toNat < 6 ∧ (7 : BitVec 4).toNat < 8) ∧
    ((linkOf (s 7) 1).st = .active ∧ (∀ h, crc32c (bytesOf (sealed h 1) 132) ≠ (sealed h 1).extractLsb' 1056 32) ∧
      ∀ h, crc32c (bytesOf (sealed h 0) 132) = (sealed h 0).extractLsb' 1056 32 ∧ (sealed h 0).extractLsb' 0 32 = h) ∧
    (((header 9 0 3).extractLsb' 18 2).toNat = 3 ∧ ((header 9 0 0).extractLsb' 18 2).toNat = 0) ∧
    (((header 9 2 1).extractLsb' 18 2).toNat = 1 ∧ ((header 9 2 1).extractLsb' 16 2).toNat = 2 ∧
      (header 9 2 1).getLsbD 31 = false ∧ (header 9 2 1).extractLsb' 0 8 = (linkOf (s 7) 1).expect ∧
      (vcFlits (linkOf (s 7) 1) 2).length + 1 = vcCapacity 2 ∧ vcCapacity 2 ≤ (vcFlits (linkOf (s 8) 1) 2).length) ∧
    (header 10 2 1).extractLsb' 0 8 ≠ (linkOf (s 7) 1).expect ∧
    (let u := linkSt { st := .active, retryOut := true, retryAt := 3072 }
     (linkOf u 1).retryOut = true ∧ (linkOf u 1).retryAt + 1024 ≤ u.clk.fabCyc) := by
  refine ⟨by decide +kernel, ⟨by decide +kernel, fun h => ?_, fun h => ⟨?_, sealed_header h 0⟩⟩, by decide +kernel,
    by decide +kernel, by decide +kernel, by decide +kernel⟩
  · rw [sealed_crc]
    intro e
    have := congrArg (crc32c (bytesOf (sealed h 1) 132) ^^^ ·) e
    simp at this
  · simp [sealed_crc]

/-- The last window: closed, open, and the engine's; an entry that an open window uses and the one after it. -/
theorem wit_LinkRegisters :
    let s (x : PltWin) (n : Nat) : State := linkSt { wins := [(63, x)], xtSel := BitVec.ofNat 10 n }
    domOn (s {} 0) (213 + (1 : LinkId).toNat) = true ∧
    (winOf (s {} 0) 1 (63 : BitVec 6).toNat).engine = false ∧ (winOf (s {} 0) 1 63).opened = false ∧
    (winOf (s { engine := true } 0) 1 63).engine = true ∧
    entryInUse (linkOf (s { opened := true, first := 4, count := 2 } 5) 1) 5 = true ∧
    entryInUse (linkOf (s { opened := true, first := 4, count := 2 } 6) 1) 6 = false ∧
    (linkOf (s {} 0) 1).msgBusy = false := by
  decide +kernel

/-- A window of one 4 KiB page of memory, open for reads, writes and fences. -/
def peerState (kind : Bool) (pa perm : Nat) (body : BitVec 1024) : State :=
  linkSt {
    st := .active
    rxBuf := [{ seq := 0, vc := 0, kind := 1, body := body }]
    wins := [(0, { opened := true, kind := kind, perm := BitVec.ofNat 3 perm, g := 12 })]
    table := [(0, BitVec.ofNat 64 (pa + (if kind then 3 else 1)))] }

/-- A request for the last line of the page. -/
def peerBody (type : Nat) : BitVec 1024 := BitVec.ofNat 1024 (type + (if type = 3 then 0xFC0 else 0xF80) * 2 ^ 64)

/-- Each request, permitted and not, at memory inside the windows and outside, and at rows that no task holds. -/
theorem wit_PeerRequests :
    let t (s : State) : State := updLink (headRequest s 1).2 1 (takeFlits 1 vcRequest)
    (∀ p ∈ [(1, 0), (2, 1), (3, 2)],
      let b := peerBody p.1
      let ok := peerState true 0x5000 7 b
      let no := peerState true 0x5000 0 b
      (linkOf ok 1).inb = none ∧ (headRequest ok 1).1 = some b ∧ bType b = p.1 ∧ winTest (t ok) 1 b p.2 = 0 ∧
      (headRequest no 1).1 = some b ∧ winTest (t no) 1 b p.2 = 3) ∧
    (let b := peerBody 9
     (linkOf (peerState true 0x5000 7 b) 1).inb = none ∧ (headRequest (peerState true 0x5000 7 b) 1).1 = some b ∧
      bType b ∉ [txWinWrite, txWinRead, txFenceSig]) ∧
    tableStatus 0 .clean = 0 ∧ tableStatus 0 .double ≠ 0 ∧
    (let b := peerBody 3
     let pa (s : State) : Nat := winPa (t s) 1 (winOf (t s) 1 (bWindow b)) (bOffset b)
     physOk (t (peerState true 0x5000 7 b)) false (pa (peerState true 0x5000 7 b)) (pa (peerState true 0x5000 7 b) + 7) = true ∧
     winTest (t (peerState true 0x10000000 7 b)) 1 b 2 = 0 ∧
     physOk (t (peerState true 0x10000000 7 b)) false (pa (peerState true 0x10000000 7 b))
       (pa (peerState true 0x10000000 7 b) + 7) = false) := by
  decide +kernel

def isOk : Except Byte (List (BitVec 1024)) → Bool
  | .ok _ => true
  | .error _ => false

theorem wit_PeerRequests_read :
    let t (s : State) : State := updLink (headRequest s 1).2 1 (takeFlits 1 vcRequest)
    let b := peerBody 2
    isOk (readLines (t (peerState true 0x5000 7 b)) 1 b .ok).1 = true ∧
    winTest (t (peerState true 0x10000000 7 b)) 1 b 1 = 0 ∧
    isOk (readLines (t (peerState true 0x10000000 7 b)) 1 b .ok).1 = false := by
  decide +kernel

/-- Lines handed over in three states of the link; a message for the Forge and for the host, a bad one; a
completion with and without its transaction, and one past its time. -/
theorem wit_LinkTransactions :
    let a (store : Bool) : ApLine := {
      ctx := 5, core := 15, ref := { tag := 3, order := 0, line := 0, slot := 0, epoch := 0 }, store := store
      window := 0, offset := 0, data := 0 }
    let x : Txn := { gen := 63, type := 1, window := 0, offset := 0, lines := 1, ctx := 5, core := 0, refs := [], sent := 0, sig := none }
    let s (st : LinkSt) (store : Bool) : State := linkSt { st := st, apLines := [a store] }
    let fl (vc : BitVec 2) (b : Nat) : Flit := { seq := 0, vc := vc, kind := 1, body := BitVec.ofNat 1024 b }
    let m (b : Nat) : State := linkSt { st := .active, rxBuf := [fl 2 b] }
    let c (l : SMap (Option Txn)) : State := linkSt { st := .active, rxBuf := [fl 1 (0x81 + (1023 + 63 * 1024) * 2 ^ 16)], txns := l }
    (∀ st ∈ [LinkSt.active, .down, .retrain], ∀ b ∈ [false, true],
      (linkOf (s st b) 1).apLines = a b :: [] ∧ (linkOf (s st b) 1).st = st ∧ (a b).store = b ∧ (a b).core < 16) ∧
    (∀ b ∈ [4, 4 + 2 ^ 40, 5],
      vcHead (linkOf (updLink (m b) 1 (fun k => dropStray k vcControl)) 1).rxBuf (BitVec.ofNat 2 vcControl) = some (fl 2 b) ∧
      bodyOk (fl 2 b).body = decide (b ≠ 5) ∧ bForge (fl 2 b).body = decide (b = 4 + 2 ^ 40) ∧ inboxRoom (m b) = true) ∧
    (∀ l ∈ [[], [(1023, some x)]],
      let u := updLink (c l) 1 (fun k => dropStray k vcResponse)
      (vcFlits (linkOf u 1) vcResponse).length = 1 ∧
      (vcFlits (linkOf u 1) vcResponse).all (fun f => decide (bType f.body = txCompletion) &&
        decide (txnFor (linkOf u 1) f.body = if l.isEmpty then none else some (1023, x))) = true) ∧
    x.type.toNat ≠ txWinRead ∧
    (let u := c [(1023, some x)]
     mget none (linkOf u 1).txns (1023 : BitVec 10).toNat = some x ∧ 1000000 ≤ (now u - x.sent).toNat) := by
  decide +kernel

/-- What the second statement asks beside the conditions above: a retry that is out, a run and a message under
a free tag, a request with its data, a completion and a message's transaction. -/
theorem wit_WalksAndLinksComplete :
    let a : ApLine := {
      ctx := 5, core := 15, ref := { tag := 3, order := 0, line := 0, slot := 0, epoch := 0 }, store := false
      window := 0, offset := 0, data := 0 }
    let r : Run := { core := 15, lines := [a], last := 0 }
    let f : TrainFrame := { field := 1, lane := 7, value := 0, echo := false }
    let x (n : Nat) : Txn := { gen := 63, type := BitVec.ofNat 8 n, window := 0, offset := 0, lines := 1, ctx := 5
                               core := 0, refs := [], sent := 0, sig := none }
    let act := linkSt { st := .active, retryOut := true, retryAt := 3072, runs := [r], txns := [(1023, some (x 4))] }
    let b := peerBody 1
    let w : State := linkSt { linkOf (peerState true 0x5000 7 b) 1 with
      rxBuf := [{ seq := 0, vc := 0, kind := 1, body := b }, { seq := 1, vc := 0, kind := 2, body := 5 }] }
    let t (s : State) : State := updLink (headRequest s 1).2 1 (takeFlits 1 vcRequest)
    let c := linkSt { st := .active, txns := [(1023, some (x 1))]
                      rxBuf := [{ seq := 0, vc := 1, kind := 1, body := BitVec.ofNat 1024 (0x81 + (1023 + 63 * 1024) * 2 ^ 16) }] }
    domOn act (213 + 1) = true ∧
    ((linkOf act 1).st = .active ∧ (linkOf act 1).retryAt + 1024 ≤ act.clk.fabCyc ∧ (linkOf act 1).runs = [r] ∧
      r.last + 4096 ≤ act.clk.fabCyc ∧ r.lines ≠ [] ∧ freeTag (linkOf act 1) ≠ none ∧
      (linkOf act 1).msgBusy = false ∧ linkHolds (linkOf act 1) = true) ∧
    (f.echo = false ∧ f.field = 1 ∧ f.lane.toNat < 8) ∧
    ((linkOf w 1).inb = none ∧ (headRequest w 1).1 = some b ∧ bType b = txWinWrite ∧ winTest (t w) 1 b 0 = 0 ∧
      bLines b = 1 ∧ (winOf (t w) 1 (bWindow b)).kind = true ∧ (winOf (t w) 1 (bWindow b)).acen = false ∧
      physOk (t w) false (winPa (t w) 1 (winOf (t w) 1 (bWindow b)) (bOffset b))
        (winPa (t w) 1 (winOf (t w) 1 (bWindow b)) (bOffset b) + 127) = true ∧
      (vcHead (linkOf (t w) 1).rxBuf 0).map (·.kind) = some 2) ∧
    (let u := updLink c 1 (fun k => dropStray k vcResponse)
     (vcFlits (linkOf u 1) vcResponse).all (fun f => decide (bType f.body = txCompletion) &&
        decide (txnFor (linkOf u 1) f.body = some (1023, x 1)) && decide (bStatus f.body = 0)) = true ∧
      (vcFlits (linkOf u 1) vcResponse).length = 1 ∧ (x 1).type.toNat = txWinWrite) ∧
    (mget none (linkOf act 1).txns (1023 : BitVec 10).toNat = some (x 4) ∧ (x 4).type.toNat = txMsg ∧
      1000000 ≤ (now act - (x 4).sent).toNat) := by
  decide +kernel

-- ---------------------------------------------------------------- standing operation and service

/-- A plan of one Basket, slot 2, with one entry that fires at minute 0. -/
def tPlan : Plan :=
  { planOfOne 1 with baskets := (planOfOne 1).baskets.map (fun b =>
      { b with slot := 2, entries := [{ trigger := .time 0 0, change := [] }] }) }

/-- The host gone and back, its quiet limit reached; ADOPT of each mode before and after the quiet; a plan like the one
in force, and one during a switch. -/
theorem wit_HostAbsence :
    let s (l : List Nat) (quiet : Bool) (f : Sb → Sb) : State :=
      let u := asked l
      { u with
        cores := [], clk := { tb := 2000000 }, cp := { detached := true, ctxs := [(5, { tCtx with state := .detached, task := none })] }
        sb := f { u.sb with hostResetTick := some 0, hostQuiet := quiet }
        temper := { u.temper with loaded := true, shadow := [(6, 16)] } }
    (State.reset.cp.detached = false ∧ (s [] false id).cp.detached = true) ∧
    ((s [] false id).sb.hostResetTick = some 0 ∧ (s [] false id).sb.quietLimit.toNat ≤ (now (s [] false id) - 0).toNat) ∧
    ((s [] false id).sb.hostQuiet = false ∧ quietNow (s [] false id) = true) ∧
    (∀ m ∈ [0, 1, 2], ∀ q ∈ [false, true], mbxTakes (s [7, m] q id) = true ∧ mbxOp (s [7, m] q id) = 7 ∧
      reqClean (s [7, m] q id) [(1, 3), (2, 0xFFFFFFFF), (3, 0xFFFFFFFF)] = true ∧
      (bits (reqW (s [7, m] q id) 1) 0 2).toNat = m ∧ (s [7, m] q id).sb.hostQuiet = q) ∧
    (let u := s [7, 2] true (fun b => { b with plan := some tPlan, standing := 4, alloc := 1 })
     let f : ForgeInputs := { plan := some tPlan, badIngots := [], templates := [] }
     u.sb.switching.any (fun e => e.2.isSome) = false ∧ carveOk u = true ∧ planRead u f = some tPlan ∧
     changedBaskets u tPlan = [] ∧ u.sb.alloc ≠ 0) ∧
    (let u := s [7, 2] true (fun b => { b with alloc := 1 })
     let u := { u with baskets := [(2, { tBasket with standing := true, drain := true })], cores := [(0, tCore)] }
     let f : ForgeInputs := { plan := some tPlan, badIngots := [], templates := [] }
     u.sb.switching.any (fun e => e.2.isSome) = false ∧ carveOk u = true ∧ planRead u f = some tPlan ∧
     changedBaskets u tPlan = [2] ∧ (bskOf u 2).valid = true ∧ (bskOf u 2).standing = true ∧
     (bskOf u 2).drain = true ∧ drainOver u 2 = false) ∧
    (s [7, 2] true (fun b => { b with switching := [(2, some { entry := 0 })] })).sb.switching.any (fun e => e.2.isSome) = true := by
  decide +kernel

/-- The Forge before and after its start; a standing context in ERROR; a second since the last sample; an entry whose
day has come and whose day has not; a switch before and after its placing. -/
theorem wit_StandingOperation :
    let sb : Sb := {
      plan := some tPlan, standing := 4, timeCertain := true, wall := some (0, 0), samples := [(32, 1)], sampled := some 0 }
    let s (tb : Nat) (f : Sb → Sb) : State :=
      let u := run tCore
      { u with
        clk := { tb := BitVec.ofNat 64 tb }, sb := f sb, cp := { ctxs := [(3984, { tCtx with basket := 2, state := .error })] }
        baskets := [(2, { tBasket with standing := true })] }
    let day (u : State) : Nat := dayMark (wallSecond u) 0 0
    let u := s 8640000000000 id
    (forgeRuns u = true ∧ u.mbx.forgeReady = true ∧ ctxStanding u 3984 = true ∧ (ctxOf u 3984).state = .error) ∧
    (let x := run tCore
     let x := { x with mbx := { x.mbx with forgeReady := false } }
     forgeRuns x = true ∧ x.mbx.forgeReady = false) ∧
    (u.sb.plan = some tPlan ∧ u.sb.sampled = some 0 ∧ 100000000 ≤ (now u - 0).toNat) ∧
    ((planOf u 2).isSome = true ∧ (planOf u 2).bind (fun p => p.entries[0]?) = some { trigger := .time 0 0, change := [] } ∧
      u.sb.timeCertain = true ∧ u.sb.standing.getLsbD 2 = true ∧ u.sb.parked.getLsbD 2 = false ∧
      mget 0 u.sb.samples (16 * 2 + 0) = 1 ∧ day u = 2 ∧ day (s 8639999999999 id) = 1) ∧
    (∀ b ∈ [false, true],
      let v := s 0 (fun q => { q with switching := [(2, some { entry := 1, placed := b })] })
      mget none v.sb.switching 2 = some { entry := 1, placed := b } ∧ (planOf v 2).isSome = true ∧
      v.sb.parked.getLsbD 2 = false) := by
  decide +kernel

/-- The fifteenth and the sixteenth resend of the last link; the watchdog at its limit with each kind of last recovery; an
update of the greatest size, while the engine is busy and while it is not; the handover and its two limits; a reminder. -/
theorem wit_ForgeService :
    let s (n : Nat) (f : Svc → Svc) : State :=
      let u := run tCore
      { u with clk := { tb := 8640000000000 }, svc := f { u.svc with resends := [(39, n)] } }
    let up (f : State → State) : State :=
      let u := f (asked [8, 0xFFFFF000, 0, 524288, 1])
      { u with svc := { u.svc with update := none } }
    let q : Update := { tag := 1, version := 2, authentic := true, loaded := true, since := 0 }
    (mget 0 (s 14 id).svc.resends 39 + 1 < 16 ∧ 16 ≤ mget 0 (s 15 id).svc.resends 39 + 1 ∧
      (s 15 id).svc.meshRetired.getLsbD 39 = false) ∧
    (domOn (s 0 id) 209 = true ∧ (1 : Word).getLsbD 0 = true) ∧
    (forgeRuns (s 0 id) = true ∧ (s 0 id).mbx.forgeReady = true ∧ 10000000 ≤ (now (s 0 id) - (s 0 id).svc.wdog).toNat ∧
      (s 0 id).svc.lastRecovery = none) ∧
    (let r := s 0 (fun v => { v with lastRecovery := some (8640000000000 - 59999999999) })
     r.svc.lastRecovery = some (8640000000000 - 59999999999) ∧
       (now r - (8640000000000 - 59999999999)).toNat < 60000000000 ∧ forgeRuns r = true ∧ r.mbx.forgeReady = true) ∧
    (s 0 (fun v => { v with recovering := true })).svc.recovering = true ∧
    (∀ p ∈ [(up id, true), (up (fun u => { u with store := { u.store with commitBusy := true } }), false)],
      p.1.svc.update = none ∧ mbxTakes p.1 = true ∧ mbxOp p.1 = 8 ∧
      reqClean p.1 [(1, 0xFFFFFFFF), (2, 0xFFFFFFFF), (3, 0xFFFFFFFF), (4, 1)] = true ∧ reqW p.1 1 &&& 0xFFF = 0 ∧
      1 ≤ (reqW p.1 3).toNat ∧ (reqW p.1 3).toNat ≤ 524288 ∧ quiescent (mbxKeep p.1) = p.2) ∧
    (let h := s 0 (fun v => { v with update := some q })
     h.svc.update = some q ∧ h.mbx.handover = false ∧ 100000000 ≤ (now h - q.since).toNat ∧
     forgeRuns h = true ∧ quiescent h = true ∧
     { h with mbx := { h.mbx with handover := true } }.mbx.handover = true ∧ 200000 ≤ (now h - q.since).toNat) ∧
    (let r := s 0 (fun v => { v with replace := 1 })
     forgeRuns r = true ∧ r.svc.replace ≠ 0 ∧ 8640000000000 ≤ (now r - r.svc.reminder).toNat) := by
  decide +kernel

-- ---------------------------------------------------------------- power, resets, telemetry

/-- A domain that is on, one whose parent is on, one whose parent is off, a retired one; requests of both kinds and the
time limit; the store on and off. -/
theorem wit_PowerDomains :
    let base (on : BitVec 224) : State := let u := run tCore; { u with pwr := { u.pwr with on := on, en := on } }
    let all := base (BitVec.allOnes 224)
    let few := base ((1#224 <<< 209) ||| 1#224)
    let ret := { few with cores := [(1, { ta := { st := .retired } })] }
    let rq (b : Bool) : SeqReq := { domain := 216, on := b, since := 0 }
    let asks (b : Bool) : State := { all with clk := { tb := 5000 }, pwr := { all.pwr with reqs := [rq b] } }
    (domOn all 209 = true ∧ domOn few 209 = true ∧ (216 : Byte).toNat < 217 ∧ 217 ≤ (217 : Byte).toNat ∧
      all.pwr.en.getLsbD 216 = true) ∧
    (few.pwr.en.getLsbD 216 = false ∧ domParent 216 = none ∧ domRetired few 216 = false) ∧
    (few.pwr.en.getLsbD 1 = false ∧ domParent 1 = some 0 ∧ domOn few 0 = true ∧ domRetired few 1 = false) ∧
    (few.pwr.en.getLsbD 211 = false ∧ domParent 211 = some 210 ∧ domOn few 210 = false) ∧
    (ret.pwr.en.getLsbD 13 = false ∧ domRetired ret 13 = true) ∧
    (∀ b ∈ [false, true], (asks b).pwr.reqs.find? (fun r => decide (r.domain = (216 : Byte).toNat)) = some (rq b) ∧
      5000 ≤ (now (asks b) - (rq b).since).toNat) ∧ domOn all 210 = true ∧ domOn few 210 = false := by
  decide +kernel

/-- Budgets of 600 and 601 and one below the last estimate; a sample of every sensor below the limit; a lock lost. -/
theorem wit_OperatingPoints :
    let s : State := let u := run tCore; { u with clk := { tb := 1000000 }, pwr := { u.pwr with est := 600, budget := 600 } }
    let l := { s with pwr := { s.pwr with lostSince := some 0 } }
    domOn s 209 = true ∧ 600 < (601 : Word).toNat % 1024 ∧
    ((600 : Word).toNat % 1024 ≤ 600 ∧ s.pwr.est.toNat ≤ (600 : Word).toNat % 1024) ∧
    ((599 : Word).toNat % 1024 ≤ 600 ∧ (599 : Word).toNat % 1024 < s.pwr.est.toNat) ∧
    (let good := (List.range 20).filter (sensorOk s 0 (List.replicate 20 260))
     let top := (good.map (fun k => (sensorValue s k ((List.replicate 20 (260 : BitVec 11)).getD k 0)).toNat)).foldl max 0
     1000 ≤ (now s - s.pwr.thermAt).toNat ∧ good = List.range 20 ∧ top < 4 * (s.pwr.limit.toNat + 40) ∧ top < 2048) ∧
    s.pwr.lostSince = none ∧ (l.pwr.lostSince = some 0 ∧ 1000000 ≤ (now l - 0).toNat) := by
  decide +kernel

theorem wit_BlockResets :
    let i : StartInputs := {
      lock := true, authentic := false, calFails := [], readings := [], selfTestFail := 0, temper := [], version := 0 }
    i.lock = true ∧ i.authentic = false := by decide

theorem linePaced_none {s : State} (h : s.tel.lineAt = none) : linePaced s = false := by simp [linePaced, h]

/-- A tick to come and one that has come; a snapshot that is due; lines of four records at the ring's last place, and at
an address outside the windows; a record a thousand ticks old that lacks three others. -/
theorem wit_Telemetry :
    let r : TraceRec := { tick := 0, type := 1, lostBefore := false, source := 0, ctx := 0, mask := 0, payload := 0 }
    let s (f : Tel → Tel) : State := let u := run tCore; { u with clk := { tb := 1000 }, tel := f u.tel }
    let q (n : Nat) (b : DWord) : State := s (fun t => { t with
      traceEn := true, queue := List.replicate n r, base := b, wr := 4092 })
    let a (u : State) : Nat := u.tel.base.toNat + 32 * (u.tel.wr.toNat % 2 ^ u.tel.log2.toNat)
    domOn (s id) 216 = true ∧
    ((now (s id)).toNat < (s (fun t => { t with tick := 1001 })).tel.tick.toNat ∧
      (s (fun t => { t with tick := 1000 })).tel.tick.toNat ≤ (now (s id)).toNat ∧ (s id).tel.traceEn = false) ∧
    (let u := s (fun t => { t with pending := some 1000, period := 1 })
     u.tel.pending = some 1000 ∧ (1000 : DWord).toNat ≤ (now u).toNat ∧ u.pwr.lostSince = none ∧ u.tel.period ≠ 0) ∧
    ((q 5 0).tel.queue[(q 5 0).tel.queue.length / 4 * 4]? = some r ∧ (q 5 0).tel.traceEn = true ∧
      1000 ≤ (now (q 5 0) - r.tick).toNat) ∧
    (q 4 0xFFE0000).tel.lineAt = none ∧ (q 4 0x10000000).tel.lineAt = none ∧
    (4 ≤ (q 4 0xFFE0000).tel.queue.length ∧ (q 4 0xFFE0000).pwr.lostSince = none ∧
      ((q 4 0xFFE0000).tel.wr - (q 4 0xFFE0000).tel.rd).toNat + 4 ≤ 2 ^ (q 4 0xFFE0000).tel.log2.toNat ∧
      physOk (q 4 0xFFE0000) false (a (q 4 0xFFE0000)) (a (q 4 0xFFE0000) + 127) = true ∧
      physOk (q 4 0x10000000) false (a (q 4 0x10000000)) (a (q 4 0x10000000) + 127) = false) := by
  decide +kernel

/-- The values of TEL_PERIOD that the register takes. -/
theorem wit_SnapshotPeriod : domOn (run tCore) 216 = true ∧ (0 : Word) = 0 ∧ 1000 ≤ (1000 : Word).toNat := by
  decide +kernel

/-- The three cases of the rule: over budget; a point to rise to, 2 W below the budget; neither. -/
theorem wit_OperatingPointRule :
    let s (div : BitVec 2) (budget : BitVec 10) : State :=
      let u := run tCore
      { u with clk := { tb := 1000 }, pwr := { u.pwr with div := div, budget := budget } }
    let r (u : State) : Nat := pointRate u.pwr.div.toNat u.pwr.gate.toNat
    (1000 ≤ (now (s 0 600) - (s 0 600).pwr.period).toNat) ∧ (s 0 99).pwr.budget.toNat < 20 + 80 ∧
    (let u := s 1 128
     let q : Nat × Nat := (fasterPoint (pointNow u)).getD (9, 9)
     fasterPoint (pointNow u) = some q ∧ 20 * r u + 80 * pointRate q.1 q.2 + 8 * r u ≤ u.pwr.budget.toNat * r u ∧
       8 ≤ u.pwr.budget.toNat ∧ thermAllows u = true ∧ ¬ (u.pwr.budget.toNat < 20 + 80) ∧ thermAbove u 0 = false) ∧
    (fasterPoint (pointNow (s 0 600)) = none ∧ ¬ ((s 0 600).pwr.budget.toNat < 20 + 80) ∧ thermAbove (s 0 600) 0 = false) := by
  decide +kernel

-- ---------------------------------------------------------------- the whole block

/-- A command waits before another; none waits, with the root clock and without it. -/
theorem wit_StepRunsFront : ({ State.reset with pending := [.hostReset, .crop] } : State).pending = .hostReset :: [.crop] ∧
    State.reset.pending = [] ∧ State.reset.pwr.lostSince = none ∧ [8, 10, 12, 16][State.reset.pwr.div.toNat]? = some 8 := by
  decide +kernel

theorem wit_StepKeepsMemory : MemCanonical (run tCore) ∧ ∃ t, step (run tCore) = .next t :=
  ⟨by decide +kernel, _, rfl⟩

/-- An offset that no chapter assigns; a masked register and a word without a mask; GEQ_LOST with the staging full. -/
theorem wit_RegisterRules :
    let s : State := let u := run tCore; { u with geq := { u.geq with lost := 7, staging := List.replicate 256 {
      code := 0, cls := 0, lostBefore := false, replace := false, forge := false, source := 0, ctx := 0, tick := 0
      obj := 0, detail := 0 } } }
    ((0x200004 : RegOff).toNat % 4 = 0 ∧ rdReg s .host (0x200004 : RegOff).toNat = none ∧
      twComplAt (0x200004 : RegOff).toNat = none ∧ twAt (0x200004 : RegOff).toNat = none ∧
      ¬ (0x280000 ≤ (0x200004 : RegOff).toNat ∧ (0x200004 : RegOff).toNat < 0x284000) ∧
      mget none s.port.latch (4 * 0x200004 + initNo .host) = none) ∧
    ((0x1601000 : RegOff).toNat % 4 = 0 ∧ domOn s (regDom (0x1601000 : RegOff).toNat) = true ∧
      (0x0000FFFF : Word).extractLsb' 16 16 = 0) ∧
    (domOn s 209 = true ∧ mget none s.port.latch (4 * 0x800018 + initNo .host) = none ∧ s.geq.staging.length = 256 ∧
      s.cp.detached = false ∧ (0x800019 : RegOff).toNat % 4 ≠ 0) := by
  decide +kernel

/-- A signal that an earlier remote write holds back stands before one that none does. -/
theorem wit_SignalRule :
    let w : Tag := { tTag .rwrite with rrow := 62, rcore := 0, order := 0 }
    let g (n c : Nat) : AcSig := { core := c, ac := 1, count := 1, order := n }
    let s := runTag w (fun m => { m with signals := [g 1 0, g 0 0] })
    Solo s a0 ∧ (co s a0).mem.signals = [g 1 0] ++ g 0 0 :: [] ∧
    (∃ e ∈ (co s a0).mem.tags, e.2.st = .active ∧ e.2.kind = .rwrite ∧ e.2.rcore = (g 1 0).core ∧ e.2.order < (g 1 0).order) ∧
    (¬ ∃ e ∈ (co s a0).mem.tags, e.2.st = .active ∧ e.2.kind = .rwrite ∧ e.2.rcore = (g 0 0).core ∧ e.2.order < (g 0 0).order) ∧
    taskCoreAt s 0 (g 0 0).core = some 0 ∧ (4095 : BitVec 12) ≠ 0 ∧ (taskCores s 0).length ≤ (1 : BitVec 4).toNat :=
  ⟨solo_of (by decide +kernel), by decide +kernel⟩

theorem wit_StoresStayPut :
    let b := runTag { tTag .store with issued := 3 } id
    let s := frameState (fun f => { f with table := [tFrame] })
    (taskOf b 0 = some (5, tTask) ∧ (tagOf b 0 3).st = .active ∧ (tagOf b 0 3).kind = .store ∧
      (tagOf b 0 3).issued < 4 * (tagOf b 0 3).rows ∧ inFlight (coreOf b 0).mem < 256 ∧
      lineBlocked (coreOf b 0).mem (tagOf b 0 3) (tagVa (tagOf b 0 3) 3) = false ∧ (coreOf b 0).mem.granted = true ∧
      (lineXlat b 0 3 3 (tagOf b 0 3) 5 tTask).1 = .pa 0x200180 ∧
      (storeRow (lineXlat b 0 3 3 (tagOf b 0 3) 5 tTask).2 0 3 0 {}).1 = true) ∧
    (frameOf s 7 = some tFrame ∧ tFrame.armed = true ∧ tFrame.refs = 0) ∧
    b.cp.detached = false ∧
    (let d := { s with cp := { s.cp with detached := true } }
     waitsOn d.fu 64 = [] ∧ ctxForge d 5 = false) := by
  decide +kernel

-- ---------------------------------------------------------------- the Ingot Store

/-- A part profile of one target in each module, 500 blocks of 64 pages, and the least of every other field. -/
def tProfile : SMap Word := [(65, 0x100101), (66, 64 * 2 ^ 17 + 500), (67, 1152), (70, 0x10000), (71, 1), (73, 0x80001)]

/-- The store as given, on a block whose Forge runs. -/
def storeSt (f : Store → Store) : State :=
  let u := asked []
  { u with clk := { tb := 1000 }, store := f { u.store with st := 2 }, temper := { u.temper with shadow := tProfile } }

def tOp (started : Option DWord) (retried : Bool) : NandOp where
  erase := false
  block := 5
  gallery := false
  page := 0
  cls := 0
  started := started
  retried := retried

theorem wit_StoreUpkeep :
    let f : Store → Store := fun t => { t with st := 0, enable := false }
    let u (s : State) : State := { s with store := { storeForget s.store with enable := true, st := 1 } }
    let bare : State := { storeSt f with temper := {} }
    let w (d : DWord) : State := { storeSt id with clk := { tb := d } }
    domOn (storeSt id) 210 = true ∧ (storeSt (fun t => { t with enable := true })).store.enable = true ∧
    ((storeSt f).store.enable = false ∧ profOk (u (storeSt f)) = true ∧
      (bringUp (u (storeSt f)) 0).store.outA = false ∧ (bringUp (u (storeSt f)) 0).store.outB = false) ∧
    (bare.store.enable = false ∧ profOk (u bare) = false) ∧
    (∀ r ∈ [false, true], let o := tOp (some 0) r
      let s := storeSt (fun t => { t with ops := [o] })
      nextOp s.store 0 = some o ∧ o.started = some 0 ∧ o.retried = r ∧ 2 * profTime s o.erase < (now s - 0).toNat) ∧
    ((w 1000000000).store.st = 2 ∧ 1000000000 ≤ (now (w 1000000000) - (w 1000000000).store.zqTick).toNat) ∧
    ((storeSt (fun t => { t with armedUntil := some 1000 })).store.armedUntil = some 1000 ∧
      (now (storeSt id) - 1000).toNat < 2 ^ 63) ∧
    (forgeRuns (w 360000000000) = true ∧
      360000000000 ≤ (now (w 360000000000) - (w 360000000000).store.hoursTick).toNat) ∧
    (∀ b ∈ [false, true],
      let g : Option Word := if b then some 7 else none
      let s := storeSt (fun t => { t with rebuilding := true, copiedGen := g, gen := 8 })
      s.store.rebuilding = true ∧ s.store.st = 2 ∧ s.store.outA = false ∧ s.store.outB = false ∧
        s.store.copiedGen = g ∧ g ≠ some s.store.gen) ∧
    (let s := updStore (storeSt id) (fun t => updBlk { t with ceCnt := satAdd t.ceCnt 7 } 5
        (fun b => { b with corrected := b.corrected + 7 }))
     refreshDue s 5 7 = false) := by
  decide +kernel

theorem wit_StoreCommits :
    let s (b l : Bool) : State := storeSt (fun t => { t with commitBusy := b, lastStart := if l then none else some 1000 })
    (∀ b ∈ [false, true], ∀ l ∈ [false, true],
      (s b l).store.st = 2 ∧ (s b l).store.blank = false ∧ forgeRuns (s b l) = true ∧ (s b l).temper.busy = none ∧
        (s b l).store.commitBusy = b ∧ (s b l).store.reqs = [] ∧ commitDue (s b l) = l) ∧
    pagesDone (s true true).store = true ∧
    (let u := storeSt (fun t => { t with ops := [tOp none false] })
     commitDue u = true ∧ pagesDone (commitStart u).store = false) := by
  decide +kernel

-- ---------------------------------------------------------------- STORE and SAPP

/-- A request block: subop, COUNT, the buffer at 0x20000, LEN and ARG0. -/
def storeReq (sub count len arg0 : Nat) : BitVec 512 :=
  BitVec.ofNat 512 (sub + count * 2 ^ 32 + 0x20000 * 2 ^ 64 + len * 2 ^ 128 + arg0 * 2 ^ 192)

/-- Context 5 with a STORE command whose block, at `req`, is `b`. -/
def storeCmd (sub req : Nat) (b : BitVec 512) (f : Ctx → Ctx) : State :=
  let u := storeSt id
  { u with
    mem := wrNat u.mem 0x10000 64 b.toNat
    cp := { ctxs := [(5, f { tCtx with state := .ready, cur := some (.store sub (BitVec.ofNat 64 req)), started := false, task := none })] } }

/-- The reserved subops, one of each kind of listed ones, a block that cannot be read, one that is not as R473 asks and
one that is; SEARCH beside the others. -/
theorem wit_StoreRequests :
    (∀ sub ∈ [1, 5], let s := storeCmd sub 0x10000 (storeReq sub 0 64 1) id
      mayLookup s 1 (slotOfCtx s 5) (pagesOf (span 0x10000 64)) = true) ∧
    (∀ sub ∈ [0, 7, 15, 23, 1, 5, 6, 16, 22],
      let s := storeCmd sub 0x10000 (storeReq sub 0 64 1) id
      let k := ctxOf s 5
      k.cur = some (.store sub 0x10000) ∧ canStart s 5 = true ∧ k.grant = true ∧ reqOf s 5 = none) ∧
    ((ctxOf (storeCmd 1 0x10000 0 (fun k => { k with grant := false })) 5).grant = false ∧
      canStart (storeCmd 1 0x10000 0 (fun k => { k with grant := false })) 5 = true) ∧
    (∀ sub ∈ [1, 5], ∀ bad ∈ [false, true],
      let s := storeCmd sub 0x10000 (storeReq (if bad then 3 else sub) 0 64 1) id
      let u := if sub = subSearch then s else beginCmd s 5 .running
      let x := xlatPages 1 (slotOfCtx u 5) false (pagesOf (span 0x10000 64)) u
      x.1 = none ∧ sqOk sub (BitVec.ofNat 512 (virtWord x.2 1 (slotOfCtx u 5) 0x10000 64)) = !bad) ∧
    (let s := storeCmd 1 0x40000000 0 id
     let u := beginCmd s 5 .running
     ((xlatPages 1 (slotOfCtx u 5) false (pagesOf (span 0x40000000 64)) u).1.map (·.1)) = some 0x40000000) := by
  decide +kernel

/-- A SAPP of two records on core 0, of a pair above the last and of one that is not, into a store that is mounted and
one whose modules are out. -/
def sappSt (p : Option (Nat × Nat)) (m : BitVec 2) : State :=
  let u := st { tCore with seq := { tCore.seq with calls := [.append true { row := 0, stride := 1, size := 5 } 2 [[], []] 1 3 4] } }
    { tCtx with sappPair := p }
  { u with store := { u.store with st := m } }

theorem wit_SappAccept : ∀ p ∈ [some (3, 4), some (3, 3)], ∀ m ∈ [2, 3],
    sappCall (sappSt p m) 0 = some (5, 0, .append true { row := 0, stride := 1, size := 5 } 2 [[], []] 1 3 4) ∧
    pairAbove (ctxOf (sappSt p m) 5).sappPair 3 4 = decide (p = some (3, 3)) ∧ (sappSt p m).store.st = m ∧
    2 ≤ logRoom (sappSt p m).store true ∧ appendBehind (sappSt p m) 5 3 4 = false ∧
    appendBehind (sappSt p m) 5 3 5 = true := by
  decide +kernel

-- ---------------------------------------------------------------- the subops

/-- Context 5 whose STORE command's block, `b`, has been read. -/
def servedSt (sub : Nat) (b : BitVec 512) (taken : Bool) (f : State → State) : State :=
  let u := storeCmd sub 0x10000 b (fun k => { k with state := .running, started := true })
  f { u with store := { u.store with reqs := [(5, some { rd := 0, block := b, taken := taken })] } }

def servesB (s : State) (sub : Nat) (r : StoreReq) : Bool :=
  (match (ctxOf s 5).cur with
   | some (.store x _) => decide (x = sub)
   | _ => false) &&
  decide (reqOf s 5 = some r ∧ (ctxOf s 5).started = true ∧ (ctxOf s 5).finished = false ∧ (ctxOf s 5).state = .running ∧
    r.rd = (ctxOf s 5).rd ∧ r.waits = false ∧ r.result = none ∧ s.store.st = 2 ∧
    mayLookup s (ctxOf s 5).basket.toNat (slotOfCtx s 5) (pagesOf (span (sqStatus r.block) 16)) = true)

theorem serves_of {s : State} {sub : Nat} {r : StoreReq} (h : servesB s sub r = true) : Serves s 5 sub r := by
  simp only [servesB, Bool.and_eq_true, decide_eq_true_eq] at h
  obtain ⟨h0, h1, h2, h3, h4, h5, h6, h7, h8, h9⟩ := h
  refine ⟨?_, h1, h2, h3, h4, h5, h6, h7, h8, h9⟩
  split at h0
  next x y hx => exact ⟨y, by rw [hx, of_decide_eq_true h0]⟩
  · cases h0

/-- What a clause asks of the state and the request of a subop, beside that it is served. -/
def served (sub : Nat) (b : BitVec 512) (taken : Bool) (f : State → State) (p : State → Bool) : Bool :=
  let s := servedSt sub b taken f
  servesB s sub { rd := 0, block := b, taken := taken } && p s

def blank : State → State := fun s => { s with store := { s.store with blank := true } }

/-- Appends: records left over, a blank store, a buffer one byte short of 256 records, and one that holds them. -/
theorem wit_AppendSubops : ∀ g ∈ [false, true],
    let sub := if g then subGalleryAppend else subJournalAppend
    let b (short : Nat) : BitVec 512 := storeReq sub 256 (256 * recBytes g - short) 0
    served sub (b 0) true id (fun _ => true) = true ∧
    served sub (b 0) false blank (fun s => s.store.blank) = true ∧
    served sub (b 1) false id (fun s => !s.store.blank && decide (sqLen (b 1) < sqCount (b 1) * recBytes g)) = true ∧
    served sub (b 0) false id (fun s => !s.store.blank && decide (sqCount (b 0) * recBytes g ≤ sqLen (b 0))) = true := by
  decide +kernel

/-- Reads of a buffer of 63 and of 64 bytes; a SEARCH whose output area is one byte short, and one that is not. -/
theorem wit_ReadSubops : (∀ g ∈ [false, true], ∀ n ∈ [63, 64],
      let sub := if g then subGalleryRead else subJournalRead
      served sub (storeReq sub 1 n 0) false id (fun s => decide (sqLen (storeReq sub 1 n 0) = n) &&
        decide (spanRecs s.store g (sqA0 (storeReq sub 1 n 0)) ≤ 2 ^ 32)) = true) ∧
    (∀ n ∈ [71, 72],
      let b := storeReq subSearch 0 n 0x20000
      let s := servedSt subSearch b false id
      let s := updCtx s 5 (fun k => { k with task := some { tTask with cmd := { tExec with search := true } } })
      servesB s subSearch { rd := 0, block := b } = true ∧
      (ctxOf s 5).task = some { tTask with cmd := { tExec with search := true } } ∧
      sqLen b = n ∧ 64 + 8 * sqNq b * sqK b = 72 ∧ spanRecs s.store true 0 ≤ 2 ^ 32) := by
  decide +kernel

def tImage (onA : Bool) : Image where
  bytes := [1, 2, 3, 4]
  onA := onA
  onB := false

/-- Ingots: room for one and no room; none of the name, one that fills the buffer, one a byte longer than it, one whose
module is out; one in force and one that is not. -/
theorem wit_IngotSubops :
    let n : Nat := 5
    let img (s : State) : State := { s with store := { s.store with ingots := [(n, some (tImage true))] } }
    let room (s : State) : State := { s with store := { s.store with ingotShare := 4 } }
    let out (s : State) : State := let u := img s
      { u with store := { u.store with outA := true } }
    let inForce (s : State) : State := let u := img s
      { u with sb := { u.sb with plan := some { tPlan with baskets := tPlan.baskets.map (fun b =>
          { b with ctxs := [{ index := 0, prio := 0, region := 0, ingot := 5, template := false }], entries := [] }) } } }
    let w := storeReq subIngotWrite 0 4 n
    let r (len : Nat) : BitVec 512 := storeReq subIngotRead 0 len n
    let d := storeReq subIngotDelete 0 0 n
    (served subIngotWrite w false id (fun s => !ingotRoom s (sqA0 w) (sqLen w)) = true ∧
      served subIngotWrite w false room (fun s => ingotRoom s (sqA0 w) (sqLen w)) = true ∧
      served subCommit (storeReq subCommit 0 0 0) false id (fun _ => true) = true ∧
      served subPlanWrite (storeReq subPlanWrite 0 0 0) false id (fun _ => true) = true) ∧
    (served subIngotRead (r 4) false id (fun s => ingotOf s.store (sqA0 (r 4)) == none) = true ∧
      served subIngotRead (r 3) false img (fun s => (ingotOf s.store (sqA0 (r 3)) == some (tImage true)) &&
        decide (sqLen (r 3) < (tImage true).bytes.length)) = true ∧
      served subIngotRead (r 4) false img (fun s => (ingotOf s.store (sqA0 (r 4)) == some (tImage true)) &&
        decide ((tImage true).bytes.length ≤ sqLen (r 4)) && onPresent s.store true false) = true ∧
      served subIngotRead (r 4) false out (fun s => (ingotOf s.store (sqA0 (r 4)) == some (tImage true)) &&
        !onPresent s.store true false) = true) ∧
    (served subIngotDelete d false id (fun s => ingotOf s.store (sqA0 d) == none) = true ∧
      served subIngotDelete d false img (fun s => (ingotOf s.store (sqA0 d) != none) && !ingotInForce s (sqA0 d)) = true ∧
      served subIngotDelete d false inForce (fun s => (ingotOf s.store (sqA0 d) != none) && ingotInForce s (sqA0 d)) = true) := by
  decide +kernel

/-- FORMAT disarmed, armed beside a standing Basket and armed with two thirds of the space to Ingots; a module removed
beside the other one, alone and again; a module brought in that is in and one that is out. -/
theorem wit_ModuleSubops :
    let armed (s : State) : State := { s with store := { s.store with armedUntil := some 2000, targets := 0x0101 } }
    let standing (s : State) : State := let u := armed s
      { u with baskets := [(1, { tBasket with standing := true })] }
    let x := storeReq subFormat 0 0 600
    let m (sub : Nat) : BitVec 512 := storeReq sub 0 0 1
    let outA (s : State) : State := { s with store := { s.store with outA := true } }
    let outB (s : State) : State := { s with store := { s.store with outB := true } }
    let copying (s : State) : State := { s with store := { s.store with rebuilding := true } }
    (served subFormat x false id (fun s => s.store.armedUntil == none) = true ∧
      served subFormat x false standing (fun s => (s.store.armedUntil != none) && standingUnparked s) = true ∧
      served subFormat x false armed (fun s => (s.store.armedUntil != none) && !standingUnparked s) = true ∧
      served subFormat x false armed (fun s =>
        decide (formatShares ((allBlocks s).filter (fun k => isGood s.store k)).length (sqA0 x) = some (150, 0, 31))) = true) ∧
    ((∀ f ∈ [outA, copying], served subModuleOut (m subModuleOut) false f (fun s =>
        decide (sqA0 (m subModuleOut) = 1) && (modOut s.store false || s.store.rebuilding)) = true) ∧
      served subModuleOut (m subModuleOut) false outB (fun s => !modOut s.store false && !s.store.rebuilding &&
        modOut s.store true) = true ∧
      served subModuleOut (m subModuleOut) false id (fun s => !modOut s.store false && !s.store.rebuilding &&
        !modOut s.store true) = true) ∧
    (served subModuleIn (m subModuleIn) false id (fun s => !modOut s.store true) = true ∧
      served subModuleIn (m subModuleIn) false outB (fun s => modOut s.store true &&
        decide (profTargets s &&& 0xFF00 = 0x0100 ∧ (0x0100 : BitVec 16) &&& 1 = 0)) = true) := by
  decide +kernel

/-- Errors of an Ingot's pages, of the log's alone, and none. -/
theorem wit_StoreSubops_errors :
    let e (r : BitVec 2) : PageErr := { region := r, page := 0, modB := false, level := 0, flips := [(15, 8767)] }
    (∀ x ∈ [e 1], x.region = 1) ∧ [e 1] ≠ [] ∧ (∀ x ∈ [e 0, e 2], x.region ≠ 1) := by
  decide

/-- What the completion statement asks beside the conditions of the others: an erase under way, room for the
records left, buffers that translate, a store to reset, a line the ring has room for. -/
theorem wit_StoreAndPowerComplete :
    let erase : NandOp := { tOp (some 0) false with erase := true }
    let s := storeSt (fun t => { t with ops := [erase] })
    let b (sub : Nat) : BitVec 512 := storeReq sub 1 64 5
    let w := servedSt subIngotWrite (b subIngotWrite) false id
    let off := storeSt (fun t => { t with enable := false })
    (nextOp s.store 0 = some erase ∧ erase.started = some 0 ∧ erase.erase = true) ∧
    (let a := servedSt subJournalAppend (b subJournalAppend) true id
     ({ rd := 0, block := b subJournalAppend, taken := true } : StoreReq).left.length ≤ logRoom a.store false) ∧
    sqA3 (b subJournalRead) = 0 ∧ sqA3 (storeReq subSearch 0 72 0x20000) = 0 ∧
    (xlatPages (ctxBsk w 5) (slotOfCtx w 5) false (pagesOf (span (sqBuf (b subIngotWrite)) (sqLen (b subIngotWrite)))) w).1.isNone = true ∧
    (domOn off 209 = true ∧ domOn off 210 = true ∧ off.store.enable = false) ∧
    (let u := run tCore
     let q : State := { u with pwr := { u.pwr with queue := [], reqs := [{ domain := 216, on := true, since := 0 }] } }
     ((216 : Byte).toNat, false) ∉ q.pwr.queue ∧ domRetired u 216 = false ∧ domParent 216 = none) ∧
    (let t := { storeSt id with clk := { tb := 1000 } }
     1000 ≤ (now t - t.pwr.thermAt).toNat) ∧
    (let u := run tCore
     traceRoom u = true ∧ physOk u false (traceAddr u) (traceAddr u + 127) = true) := by
  decide +kernel

/-- A served subop is one in the statement's own words. -/
theorem wit_StoreSubops : Serves (servedSt subCommit (storeReq subCommit 0 0 0) false id) 5 subCommit
    { rd := 0, block := storeReq subCommit 0 0 0 } := serves_of (by decide +kernel)

theorem wit_RegisterSlotFrames : Solo (run tCore) a0 := wit_Solo

-- ---------------------------------------------------------------- the spec's worked examples

theorem wit_IdleTick : State.reset.pending = [] ∧ State.reset.pwr.lostSince = none ∧
    [8, 10, 12, 16][State.reset.pwr.div.toNat]? = some 8 ∧ ∀ c < 16, ownFetch State.reset c = false := by decide

/-- What a command makes of a state, for a look at a field of it. -/
def after {α : Type} (i : Instr) (s : State) (f : State → α) : Option α :=
  match exec i s with
  | .next t => some (f t)
  | _ => none

/-- A sum wraps modulo 2^64; a quotient by zero is all ones and the remainder RA (R256). -/
theorem test_scalar :
    let s := runSeq (fun q => { q with s := [(1, 0xFFFFFFFFFFFFFFFF), (2, 2)] })
    let r (u : State) : DWord := sReg (coreOf u 0) 3
    after (.add a0 3 1 2) s r = some 1 ∧ after (.addi a0 3 1 0x3FFFFFFF) s r = some 0xFFFFFFFFFFFFFFFE ∧
    after (.divu a0 3 2 0) s r = some 0xFFFFFFFFFFFFFFFF ∧ after (.remu a0 3 2 0) s r = some 2 ∧
    after (.slt a0 3 1 2) s r = some 1 ∧ after (.sltu a0 3 1 2) s r = some 0 := by
  decide +kernel

/-- The bundle of the worked example of 09: ADDI s5, s5, 512, MLD on tag 3 through d7, and WAIT.AC ac4, 40. -/
theorem test_bundle :
    let at_ : At := { core := 2, more := true, ecc := {} }
    let b : BitVec 256 := (0x0002_8101_0000_0000#64 ++ 0x0000_0000_0000_0000#64) ++
      (0x0000_0018_A138_0A40#64 ++ 0xE301_0000_0800_A511#64)
    let ld : StreamOp := { tag := 3, desc := 7, w := 2, ro := 5, rs := 0, nr := 39, ac := 5, acen := true, wpi := true }
    (bundleSlots at_ b).map (fun x => x.2.2) =
      [some (.addi at_ 5 5 512), some (.mld at_ ld), some (.waitAc at_ 4 40 false)] := by
  decide +kernel

/-- Slots of the worked example of 10: TLW.I8 w5 with WPI, WAIT.AC ac7, 32, WADD w6, s5 and TMM.I8. A reserved bit
set, and a reserved opcode, spell nothing. -/
theorem test_slots :
    let at_ : At := { core := 0, more := false, ecc := {} }
    let t : TmmOp := {
      afmt := 0, mm1 := 15, wa := 6, bank := false, a0 := 0, clr := false, chen := true, ch := 0, last := true
      defer := false, linked := false, wo := 4, wx := 0 }
    tenOf at_ 0x5410 = some (.tlw at_ 0 5 true) ∧ synOf at_ 0x000201C1 = some (.waitAc at_ 7 32 false) ∧
    ctlOf at_ 0x5625 = some (.wadd at_ 6 5) ∧ tenOf at_ 0x042400303C01 = some (.tmmI8 at_ t) ∧
    ctlOf at_ (0x5625 + 2 ^ 47) = none ∧ ctlOf at_ 0x10 = none ∧ tenOf at_ 0x3F = none ∧ synOf at_ 0x3F = none := by
  decide +kernel

/-- One Lattice-4 output (the end of 02): codes and activations of four K, the scale 0x2E66, the sum, and QUANT to INT8
with scale 16, which saturates. -/
theorem test_lattice :
    let a := [100, 219, 12, 127] ++ List.replicate 28 0
    let w := [3, 11, 7, 8] ++ List.replicate 28 0
    let t : Tile := { fmt := 3, zero := false, data := List.replicate 32 (0 : Row) ++ [(0x2E66 : Row) <<< 640] }
    let acc := latticeSum t 0 40 a w (fun _ => 0)
    dotInt (decInt 0) latticeOf a w = -2647 ∧ scale t 0 40 = 0x2E66 ∧
    acc = enc32 (.fin true 2167893 (-18)) ∧
    floatToInt 0 (rne32 (fvMul (dec32 acc) (fvInt 16))) = (-128, { sat := 1 }) := by
  decide +kernel

/-- The detector stem and the depthwise neck layer (05, 06): lines and pixels of the output. -/
theorem test_conv_sizes : outSize 384 4 1 8 4 = 96 ∧ outSize 640 4 1 8 4 = 160 ∧ outSize 96 1 1 2 1 = 96 ∧
    outSize 48 2 1 3 1 = 48 ∧ outSize 80 2 1 3 1 = 80 := by decide

def tCand (src cls : Nat) (score : Word) (x1 y1 x2 y2 : Nat) : Cand where
  x1 := enc32 (fvInt x1)
  y1 := enc32 (fvInt y1)
  x2 := enc32 (fvInt x2)
  y2 := enc32 (fvInt y2)
  score := score
  cls := cls
  src := src

/-- Ties in suppression (07): 0, 2 and 3 are kept, whichever of the equal scores comes first in the list. -/
theorem test_suppress :
    let c0 := tCand 0 2 0x3F666666 100 100 200 300
    let c1 := tCand 1 2 0x3F666666 110 105 210 305
    let c2 := tCand 2 0 0x3F59999A 105 100 205 300
    let c3 := tCand 3 2 0x3F19999A 400 100 480 160
    enc32 (iouOf (candBox c0) (candBox c1)) = enc32 (fvDiv (fvInt 17550) (fvInt 22450)) ∧
    enc32 (iouOf (candBox c0) (candBox c3)) = 0 ∧
    suppressWalk (dec32 0x3F000000) 100 (walkOrder 0 [c0, c1, c2, c3]) [] = [c0, c2, c3] ∧
    suppressWalk (dec32 0x3F000000) 100 (walkOrder 0 [c1, c0, c2, c3]) [] = [c0, c2, c3] := by
  decide +kernel

/-- A budget cut (18): from 1.1 GHz with 16 W and 102 W, 60 W takes the point to divisor 12 with G6. The period that
then ends with 58.4 W leaves it there. -/
theorem test_budget :
    let u := run tCore
    let s (d : BitVec 2) (g : BitVec 3) (dyn : Nat) (b : BitVec 10) : State := { u with
      clk := { tb := 1000 }
      pwr := { u.pwr with budget := b, div := d, gate := g, stat := 64, dyn := dyn, est := BitVec.ofNat 10 (64 + dyn) } }
    after (.pwrBudgetWrite .pmgr 240) (s 0 0 408 600) pointNow = some (2, 6) ∧
    after (.powerPeriod 64 170) (s 2 6 170 240) pointNow = some (2, 6) := by
  decide +kernel

/-- A commit that power cuts at T+120 (19): what the next start takes for the word, by how copy 1 decodes. -/
theorem test_torn :
    let x : TWord := {}
    (shadowOf (tornWord x 1 3 (some 0)) = 0 ∧ shadowOf (tornWord x 1 3 (some 1)) = 1 ∧
      shadowOf (tornWord x 1 3 none) = 0) ∧ shadowOf (tornWord x 1 4 none) = 1 := by
  decide

/-- The codes of 1.0 in each format, and a value that rounds to even (R38, R50). -/
theorem test_formats : encFloat 4 (fvInt 1) = 0x38 ∧ encFloat 5 (fvInt 1) = 0x3C ∧ encFloat 6 (fvInt 1) = 0x3F80 ∧
    encFloat 7 (fvInt 1) = 0x3C00 ∧ encFloat 8 (fvInt 1) = 0x3F800000 ∧
    floatToInt 0 (.fin false 5 (-1)) = (2, {}) ∧ floatToInt 0 .nan = (0, { nan := 1 }) := by decide

end Sys2Proof.Tests
end

section
/-! PROOF. The signals of ACSIG (R268): when one is held back, which one is sent, and the slot that queues it. -/

namespace Sys2Proof.Proofs

open Sys2Proof Sys2Proof.Machine Sys2Proof.Says Sys2Proof.Laws

-- ---------------------------------------------------------------- the task that a core runs

/-- The cores of a core's task depend on the task that the core names and on the contexts alone. -/
theorem taskCores_congr {s t : State} {c : Nat} (htask : (coreOf t c).task = (coreOf s c).task) (hcp : t.cp = s.cp) :
    taskCores t c = taskCores s c := by
  simp only [taskCores, taskOf, ctxOf, htask, hcp]

@[simp] theorem coreOf_setOpen (s : State) (c j : Nat) (l : List Instr) : coreOf (setOpen s c l) j = coreOf s j := rfl

@[simp] theorem taskCores_shut (s : State) (a : At) :
    taskCores (shut s a) a.core.toNat = taskCores s a.core.toNat :=
  taskCores_congr (by simp [updSeq]) rfl

@[simp] theorem taskCoreAt_updMem (s : State) (c t : Nat) (f : MemUnit → MemUnit) :
    taskCoreAt (updMem s c f) c t = taskCoreAt s c t := by
  have hcores : taskCores (updMem s c f) c = taskCores s c := taskCores_congr (by simp [updMem]) rfl
  simp only [taskCoreAt, hcores]

-- ---------------------------------------------------------------- which signal is sent

/-- An earlier remote write of the core to the signal's target core is still under way (R268). -/
def HeldBack (m : MemUnit) (g : AcSig) : Prop :=
  ∃ e ∈ m.tags, e.2.st = .active ∧ e.2.kind = .rwrite ∧ e.2.rcore = g.core ∧ e.2.order < g.order

theorem sigReady_iff (m : MemUnit) (g : AcSig) : sigReady m g = true ↔ ¬ HeldBack m g := by
  simp [sigReady, HeldBack, imp_iff_not_or, or_assoc]

theorem sigReady_eq_false_iff (m : MemUnit) (g : AcSig) : sigReady m g = false ↔ HeldBack m g := by
  rw [← Bool.not_eq_true, sigReady_iff, not_not]

/-- The first signal that nothing holds back is the one that is found. -/
theorem find?_sigReady {m : MemUnit} {g : AcSig} {before rest : List AcSig} (hl : m.signals = before ++ g :: rest)
    (hbefore : ∀ x ∈ before, HeldBack m x) (hg : ¬ HeldBack m g) : m.signals.find? (sigReady m) = some g := by
  refine List.find?_eq_some_iff_append.mpr ⟨(sigReady_iff m g).mpr hg, before, rest, hl, fun x hx => ?_⟩
  rw [(sigReady_eq_false_iff m x).mpr (hbefore x hx), Bool.not_false]

theorem find?_sigReady_eq_none {m : MemUnit} (h : ∀ g ∈ m.signals, HeldBack m g) :
    m.signals.find? (sigReady m) = none :=
  List.find?_eq_none.mpr fun g hg hready => (sigReady_iff m g).mp hready (h g hg)

/-- What is erased is the signal that was found, not an equal one before it. -/
theorem erase_first_of_not_heldBack {m : MemUnit} {g : AcSig} {before rest : List AcSig}
    (hbefore : ∀ x ∈ before, HeldBack m x) (hg : ¬ HeldBack m g) :
    (before ++ g :: rest).erase g = before ++ rest := by
  have hnot : g ∉ before := fun h => hg (hbefore g h)
  rw [List.erase_append_right _ hnot, List.erase_cons_head]

theorem deliver_of_taskCoreAt {s : State} {c d : Nat} {g : AcSig} (hd : taskCoreAt s c g.core = some d) :
    deliver s c g = acInc s d g.ac.toNat g.count := by
  simp only [deliver, hd]

theorem updMem_congr {s : State} {c : Nat} {f f' : MemUnit → MemUnit}
    (h : f (coreOf s c).mem = f' (coreOf s c).mem) : updMem s c f = updMem s c f' := by
  simp only [updMem, updCore, h]

theorem acsigDelivery_of_all_heldBack {s : State} {core : CoreId}
    (h : ∀ g ∈ (coreOf s core.toNat).mem.signals, HeldBack (coreOf s core.toNat).mem g) :
    acsigDelivery core s = s := by
  simp only [acsigDelivery, find?_sigReady_eq_none h]

theorem acsigDelivery_of_first {s : State} {core : CoreId} {g : AcSig} {before rest : List AcSig} {d : Nat}
    (hl : (coreOf s core.toNat).mem.signals = before ++ g :: rest)
    (hbefore : ∀ x ∈ before, HeldBack (coreOf s core.toNat).mem x) (hg : ¬ HeldBack (coreOf s core.toNat).mem g)
    (hd : taskCoreAt s core.toNat g.core = some d) :
    acsigDelivery core s =
      acInc (updMem s core.toNat (fun m => { m with signals := before ++ rest })) d g.ac.toNat g.count := by
  have herase : updMem s core.toNat (fun m => { m with signals := m.signals.erase g }) =
      updMem s core.toNat (fun m => { m with signals := before ++ rest }) :=
    updMem_congr (by simp only [hl, erase_first_of_not_heldBack hbefore hg])
  simp only [acsigDelivery, find?_sigReady hl hbefore hg, herase]
  exact deliver_of_taskCoreAt (by rw [taskCoreAt_updMem, hd])

-- ---------------------------------------------------------------- the slot

theorem exec_acsig (a : At) (ac : AcId) (target : BitVec 4) (count : BitVec 12) (s : State) :
    exec (.acsig a ac target count) s = .next (issueBy slotOf (.acsig a ac target count) s) := rfl

theorem exec_acsigDelivery (core : CoreId) (s : State) :
    exec (.acsigDelivery core) s = .next (acsigDelivery core s) := rfl

theorem slotAcsig_run_next {s : State} {a : At} {ac : AcId} {target : BitVec 4} {count : BitVec 12}
    (hcount : count ≠ 0) (htarget : target.toNat < (taskCores s a.core.toNat).length) :
    (slotAcsig a ac target count).run s s = .next (updMem s a.core.toNat (fun m => { m with
      signals := m.signals ++ [{ core := target.toNat, ac := ac, count := count.toNat
                                 order := m.nextOrder }] })) none :=
  if_neg (not_or.mpr ⟨hcount, not_le.mpr htarget⟩)

theorem slotAcsig_run_illegal {s : State} {a : At} {ac : AcId} {target : BitVec 4} {count : BitVec 12}
    (h : count = 0 ∨ (taskCores s a.core.toNat).length ≤ target.toNat) :
    (slotAcsig a ac target count).run s s =
      .fault (fun s => seqFault s a.core.toNat tfIllegal 6 slotSyn) :=
  if_pos h

/-- An ACSIG that is presented alone and has an effect: its signal stands behind the others. -/
theorem acsig_issues {s : State} {a : At} (h : Solo s a) (ac : AcId) {target : BitVec 4} {count : BitVec 12}
    (hcount : count ≠ 0) (htarget : target.toNat < (taskCores s a.core.toNat).length) :
    Issues (.acsig a ac target count) s a (updMem (shut s a) a.core.toNat (fun m => { m with
      signals := m.signals ++ [{ core := target.toNat, ac := ac, count := count.toNat
                                 order := m.nextOrder }] })) none := by
  have hrun := slotAcsig_run_next (s := shut s a) (ac := ac) hcount (by rwa [taskCores_shut s a])
  rw [Issues, Goes, exec_acsig, issue_next h (x := slotAcsig a ac target count) rfl rfl rfl rfl hrun]
  rfl

/-- An ACSIG that is presented alone with operands that R268 does not admit. -/
theorem acsig_illegal {s : State} {a : At} (h : Solo s a) (ac : AcId) {target : BitVec 4} {count : BitVec 12}
    (hbad : count = 0 ∨ (taskCores s a.core.toNat).length ≤ target.toNat) :
    Goes (.acsig a ac target count) s (seqFault (shut s a) a.core.toNat tfIllegal 6 slotSyn) := by
  have hrun := slotAcsig_run_illegal (s := shut s a) (ac := ac) (by rwa [taskCores_shut s a])
  rw [Goes, exec_acsig, issue_stop h (x := slotAcsig a ac target count) rfl rfl rfl rfl (.inl hrun)]

-- ---------------------------------------------------------------- the statement

/-- Settles O59: the slot's two outcomes, and the delivery by whether some signal is not held back. -/
theorem signalRule : Obligations.SignalRule := by
  intro s core
  refine ⟨?slot, ?allHeld, ?first⟩
  case slot =>
    rintro a ac target count hsolo rfl
    exact ⟨acsig_issues hsolo ac, acsig_illegal hsolo ac⟩
  case allHeld =>
    intro h
    rw [Goes, exec_acsigDelivery, acsigDelivery_of_all_heldBack h]
  case first =>
    intro g before rest d hl hbefore hg hd
    rw [Goes, exec_acsigDelivery, acsigDelivery_of_first hl hbefore hg hd]

end Sys2Proof.Proofs
end

section
/-! PROOF. The operating point at the end of a period (R509): what power control records of the period, which of
the three rules then moves the point, and the state that POWER_PERIOD answers. -/

namespace Sys2Proof.Proofs

open Sys2Proof Sys2Proof.Machine Sys2Proof.Says Sys2Proof.Laws

-- ---------------------------------------------------------------- what is recorded of the period

@[simp] theorem count_pwr (s : State) (i n : Nat) : (count s i n).pwr = s.pwr := by
  unfold count
  split <;> rfl

/-- The state with the estimate of the period just ended (R508), its prediction at the slowest point (R511) and its
energy counted (R550), before any rule of R509 is applied. -/
def estimated (s : State) (stat dyn : Nat) : State :=
  count { s with pwr := { s.pwr with
    period := now s, stat := stat, dyn := dyn, est := BitVec.ofNat 10 (min 1023 (stat + dyn))
    floor := floorOf s stat dyn } } 271 (((stat + dyn) * 25 + 5000) / 10000)

section
variable (s : State) (stat dyn : Nat)

@[simp] theorem estimated_budget : (estimated s stat dyn).pwr.budget = s.pwr.budget := by simp [estimated]

@[simp] theorem pointNow_estimated : pointNow (estimated s stat dyn) = pointNow s := by simp [estimated, pointNow]

@[simp] theorem thermAbove_estimated (d : Nat) : thermAbove (estimated s stat dyn) d = thermAbove s d := by
  simp [estimated, thermAbove]

@[simp] theorem thermAllows_estimated : thermAllows (estimated s stat dyn) = thermAllows s := by
  simp [estimated, thermAllows]

/-- The prediction for `q` weighs the parts of the period just ended by the rate they were measured at (R508). -/
theorem fits_estimated (q : Nat × Nat) (b : Nat) : fits (estimated s stat dyn) q b =
    decide (stat * pointRate s.pwr.div.toNat s.pwr.gate.toNat + dyn * pointRate q.1 q.2 ≤
      b * pointRate s.pwr.div.toNat s.pwr.gate.toNat) := by
  simp [estimated, fits]

end

-- ---------------------------------------------------------------- the rules

/-- Rule 1 of R509: over budget, or the thermal step-down applies (R512). -/
def StepsDown (s : State) (stat dyn : Nat) : Prop :=
  s.pwr.budget.toNat < stat + dyn ∨ thermAbove s 0 = true

/-- Rule 2 of R509: `q` is the next faster point, its prediction is at most 2 W (8 steps) below the budget, and the
thermal rules allow a step up. -/
def StepsUp (s : State) (stat dyn : Nat) (q : Nat × Nat) : Prop :=
  let r := pointRate s.pwr.div.toNat s.pwr.gate.toNat
  fasterPoint (pointNow s) = some q ∧ stat * r + dyn * pointRate q.1 q.2 + 8 * r ≤ s.pwr.budget.toNat * r ∧
    8 ≤ s.pwr.budget.toNat ∧ thermAllows s = true

/-- Rules 2 and 3 of R509: one point faster where the prediction and the thermal rules allow it. -/
def risenPoint (v : State) : State :=
  if thermAllows v then
    (match fasterPoint (pointNow v) with
    | some q => if decide (8 ≤ v.pwr.budget.toNat) && fits v q (v.pwr.budget.toNat - 8) then toPoint v q else v
    | none => v)
  else v

/-- The first rule of R509 that holds, applied to a state whose estimate is `p`. -/
def movedPoint (v : State) (p : Nat) : State :=
  if p > v.pwr.budget.toNat || thermAbove v 0 then toPoint v (slowerPoint (pointNow v)) else risenPoint v

theorem powerPeriod_of_elapsed {s : State} {stat dyn : Nat} (h : 1000 ≤ (now s - s.pwr.period).toNat) :
    powerPeriod s stat dyn = unmetCheck (movedPoint (estimated s stat dyn) (stat + dyn)) :=
  if_neg (not_lt.mpr h)

/-- The 2 W below the budget, as the model subtracts them and as the rule adds them to the prediction. -/
theorem fits_two_watts_below_iff (s : State) (stat dyn : Nat) (q : Nat × Nat) {b : Nat} (hb : 8 ≤ b) :
    fits (estimated s stat dyn) q (b - 8) = true ↔
      stat * pointRate s.pwr.div.toNat s.pwr.gate.toNat + dyn * pointRate q.1 q.2 +
        8 * pointRate s.pwr.div.toNat s.pwr.gate.toNat ≤ b * pointRate s.pwr.div.toNat s.pwr.gate.toNat := by
  rw [fits_estimated, decide_eq_true_iff, Nat.sub_mul]
  exact Nat.le_sub_iff_add_le (Nat.mul_le_mul_right _ hb)

/-- Rule 2 as the model tests it on the recorded state. -/
theorem stepsUp_iff (s : State) (stat dyn : Nat) (q : Nat × Nat) :
    StepsUp s stat dyn q ↔ fasterPoint (pointNow s) = some q ∧ thermAllows s = true ∧
      (decide (8 ≤ s.pwr.budget.toNat) && fits (estimated s stat dyn) q (s.pwr.budget.toNat - 8)) = true := by
  rw [Bool.and_eq_true, decide_eq_true_iff]
  constructor
  · rintro ⟨hq, hfits, hb, hallows⟩
    exact ⟨hq, hallows, hb, (fits_two_watts_below_iff s stat dyn q hb).mpr hfits⟩
  · rintro ⟨hq, hallows, hb, hfits⟩
    exact ⟨hq, (fits_two_watts_below_iff s stat dyn q hb).mp hfits, hb, hallows⟩

section
variable {s : State} {stat dyn : Nat}

theorem movedPoint_of_stepsDown (h : StepsDown s stat dyn) :
    movedPoint (estimated s stat dyn) (stat + dyn) = toPoint (estimated s stat dyn) (slowerPoint (pointNow s)) := by
  rw [movedPoint, if_pos (by simpa [StepsDown] using h), pointNow_estimated]

theorem movedPoint_of_not_stepsDown (h : ¬ StepsDown s stat dyn) :
    movedPoint (estimated s stat dyn) (stat + dyn) = risenPoint (estimated s stat dyn) :=
  if_neg (by simpa [StepsDown] using h)

theorem risenPoint_of_stepsUp {q : Nat × Nat} (h : StepsUp s stat dyn q) :
    risenPoint (estimated s stat dyn) = toPoint (estimated s stat dyn) q := by
  obtain ⟨hq, hallows, hfits⟩ := (stepsUp_iff s stat dyn q).mp h
  simp only [risenPoint, thermAllows_estimated, pointNow_estimated, estimated_budget, hq, hallows, hfits, if_true]

theorem risenPoint_of_no_step (h : ∀ q, ¬ StepsUp s stat dyn q) :
    risenPoint (estimated s stat dyn) = estimated s stat dyn := by
  simp only [risenPoint, thermAllows_estimated, pointNow_estimated, estimated_budget]
  split
  case isFalse => rfl
  case isTrue hallows =>
    split
    case h_2 => rfl
    case h_1 q hq => exact if_neg fun hfits => h q ((stepsUp_iff s stat dyn q).mpr ⟨hq, hallows, hfits⟩)

end

-- ---------------------------------------------------------------- the statement

theorem exec_powerPeriod (stat dyn : Nat) (s : State) :
    exec (.powerPeriod stat dyn) s = .next (powerPeriod s stat dyn) := rfl

/-- At the end of a period the command answers the moved state, once the unmet budget is looked for (R511). -/
theorem powerPeriod_goes {s t : State} {stat dyn : Nat} (h : 1000 ≤ (now s - s.pwr.period).toNat)
    (hmove : movedPoint (estimated s stat dyn) (stat + dyn) = t) :
    Goes (.powerPeriod stat dyn) s (unmetCheck t) := by
  rw [Goes, exec_powerPeriod, powerPeriod_of_elapsed h, hmove]

/-- Settles O57: one case for each rule of R509, in their order. -/
theorem operatingPointRule : Obligations.OperatingPointRule := by
  intro s stat dyn h
  refine ⟨?slower, ?faster, ?stay⟩
  case slower => exact fun hdown => powerPeriod_goes h (movedPoint_of_stepsDown hdown)
  case faster =>
    intro hdown q hup
    exact powerPeriod_goes h ((movedPoint_of_not_stepsDown hdown).trans (risenPoint_of_stepsUp hup))
  case stay =>
    intro hdown hup
    exact powerPeriod_goes h ((movedPoint_of_not_stepsDown hdown).trans (risenPoint_of_no_step hup))

end Sys2Proof.Proofs
end

section
/-! PROOF. Register accesses as they arrive (R9, R525 to R530): which are performed, what one at an offset that no
chapter assigns does, a masked write that selects no bit, and the clear-on-read GEQ_LOST. -/

namespace Sys2Proof.Proofs

open Sys2Proof Sys2Proof.Machine Sys2Proof.Says Sys2Proof.Laws

-- ---------------------------------------------------------------- the commands

theorem exec_registerWrite (a : Access) (s : State) : exec (.registerWrite a) s = .next (registerWrite a s) := rfl

theorem exec_mwWrite (a : Access) (s : State) : exec (.mwWrite a) s = .next (mwWrite a s) := rfl

theorem exec_crRead (a : ReadAccess) (s : State) : exec (.crRead a) s = .next (plainRead a s) := rfl

theorem exec_loReadLatch (a : ReadAccess) (s : State) : exec (.loReadLatch a) s = .next (plainRead a s) := rfl

-- ---------------------------------------------------------------- which accesses are performed

section
variable {s : State} {i : Initiator} {off : RegOff} {size : Byte} {v : Word}

theorem plainAccess_of_aligned (h : off.toNat % 4 = 0) : plainAccess off 4 = true :=
  decide_eq_true ⟨rfl, h⟩

theorem plainAccess_eq_false_iff : plainAccess off size = false ↔ size ≠ 4 ∨ off.toNat % 4 ≠ 0 := by
  rw [plainAccess, decide_eq_false_iff_not, not_and_or]

theorem plainWrite_of_aligned (h : off.toNat % 4 = 0) (f : State → State) :
    plainWrite { init := i, off := off, size := 4, value := v } s f = f s :=
  if_pos (plainAccess_of_aligned h)

theorem registerWrite_of_aligned (h : off.toNat % 4 = 0) :
    registerWrite { init := i, off := off, size := 4, value := v } s = regWrite s i off.toNat v :=
  plainWrite_of_aligned h _

theorem plainRead_of_aligned (h : off.toNat % 4 = 0) :
    plainRead { init := i, off := off, size := 4 } s = clearRead s i off.toNat :=
  if_pos (plainAccess_of_aligned h)

theorem plainRead_of_not_plain (h : size ≠ 4 ∨ off.toNat % 4 ≠ 0) :
    plainRead { init := i, off := off, size := size } s = regRefused (answer s 0) off.toNat 0 i :=
  if_neg (by simp [plainAccess_eq_false_iff.mpr h])

end

section
variable {s : State} {o : Nat} {v : Word} {i : Initiator} {ok : Bool} {dom : Nat} {f : State → State}

theorem gated_of_allowed (hok : ok = true) (hon : domOn s dom = true) : gated s o v i ok dom f = f s :=
  if_pos (by rw [hok, hon, Bool.and_self])

/-- A write that its register refuses is refused on either side of the gate. -/
theorem gated_of_refuses (h : f s = regRefused s o v i) : gated s o v i ok dom f = regRefused s o v i := by
  rw [gated, h, ite_self]

theorem notSecp_of_ne (h : i ≠ .secp) : notSecp i = true := by simpa [notSecp] using h

theorem byHostForge_of_eq (h : i = .host ∨ i = .forge) : byHostForge i = true := by simpa [byHostForge] using h

end

-- ---------------------------------------------------------------- masked writes

/-- A masked-write register after a write of `v` (R530): bits [31:16] select those of bits [15:0] that it takes. -/
def maskedAfter (old : BitVec 16) (v : Word) : BitVec 16 :=
  (old &&& ~~~(bits v 16 16)) ||| (bits v 0 16 &&& bits v 16 16)

theorem maskedAfter_of_no_bit (old : BitVec 16) {v : Word} (h : bits v 16 16 = 0#16) : maskedAfter old v = old := by
  rw [maskedAfter, h, BitVec.and_zero, BitVec.or_zero, BitVec.not_zero, BitVec.and_allOnes]

/-- The state with `x` in the masked-write register at `o`. -/
def setMasked (s : State) (o : Nat) (x : BitVec 16) : State :=
  { s with port := { s.port with masked := mset 0 s.port.masked o x } }

theorem mget_mset_self {α : Type} [DecidableEq α] (d : α) (m : SMap α) (k j : Nat) :
    mget d (mset d m k (mget d m k)) j = mget d m j := by
  rw [mget_mset]
  split
  case isTrue h => rw [h]
  case isFalse => rfl

theorem mwWrite_of_allowed {s : State} {i : Initiator} {off : RegOff} (v : Word) (halign : off.toNat % 4 = 0)
    (hi : i ≠ .secp) (hon : domOn s (regDom off.toNat) = true) :
    mwWrite { init := i, off := off, size := 4, value := v } s =
      setMasked s off.toNat (maskedAfter (mget 0 s.port.masked off.toNat) v) :=
  (plainWrite_of_aligned halign _).trans (gated_of_allowed (notSecp_of_ne hi) hon)

/-- Settles O28: the register takes its own value again, which no read of the table tells apart. -/
theorem maskedWriteOfNothing : Obligations.MaskedWriteOfNothing := by
  intro s i off v halign hi hon hbits
  refine ⟨setMasked s off.toNat (mget 0 s.port.masked off.toNat), ?goes, ?reads, rfl⟩
  case goes => rw [Goes, exec_mwWrite, mwWrite_of_allowed v halign hi hon, maskedAfter_of_no_bit _ hbits]
  case reads => exact mget_mset_self 0 s.port.masked off.toNat

-- ---------------------------------------------------------------- reads

section
variable {s : State} {i : Initiator} {o : Nat}

theorem regRead_of_unassigned (hreg : rdReg s i o = none) (htw : twComplAt o = none) : regRead s i o = 0 := by
  rw [regRead, htw, hreg]
  exact ite_self 0

theorem regRead_of_on (hon : domOn s (regDom o) = true) (htw : twComplAt o = none) :
    regRead s i o = (rdReg s i o).getD 0 := by
  rw [regRead, hon, htw]
  rfl

theorem pairRead_rdata_of_unlatched (h : mget none s.port.latch (latchKey o i) = none) :
    (pairRead s i o).port.rdata = regRead s i o := by
  rw [pairRead, h]
  split <;> rfl

/-- A read changes the port alone, whether it latches a HI word, returns a latched one or does neither (R533). -/
theorem pairRead_frame (s : State) (i : Initiator) (o : Nat) : { pairRead s i o with port := s.port } = s := by
  unfold pairRead
  split
  case isTrue => rfl
  case isFalse => split <;> rfl

@[simp] theorem pairRead_geq (s : State) (i : Initiator) (o : Nat) : (pairRead s i o).geq = s.geq :=
  (congrArg State.geq (pairRead_frame s i o) :)

@[simp] theorem pairRead_cp (s : State) (i : Initiator) (o : Nat) : (pairRead s i o).cp = s.cp :=
  (congrArg State.cp (pairRead_frame s i o) :)

theorem clearRead_of_ne (h : o ≠ offGeqLost) : clearRead s i o = pairRead s i o :=
  if_neg fun hboth => h hboth.1

theorem clearRead_geqLost (h : byHostForge i = true) :
    clearRead s i offGeqLost = updGeq (pairRead s i offGeqLost) (fun g => { g with lost := 0 }) :=
  if_pos ⟨rfl, h⟩

end

-- ---------------------------------------------------------------- GEQ_LOST

theorem rdReg_geqLost (s : State) (i : Initiator) :
    rdReg s i offGeqLost = some (if byHostForge i then s.geq.lost else 0) := rfl

theorem putReg_geqLost (s : State) (i : Initiator) (v : Word) :
    putReg s i offGeqLost v = regRefused s offGeqLost v i := rfl

theorem twComplAt_geqLost : twComplAt offGeqLost = none := by decide

theorem twAt_geqLost : twAt offGeqLost = none := by decide

theorem regRead_geqLost {s : State} {i : Initiator} (hi : byHostForge i = true) (hon : domOn s 209 = true) :
    regRead s i offGeqLost = s.geq.lost := by
  rw [regRead_of_on hon twComplAt_geqLost, rdReg_geqLost, if_pos hi, Option.getD_some]

/-- Whoever writes GEQ_LOST, and whether its domain is on or off, the write is refused (R526, R527, R529). -/
theorem regWrite_geqLost (s : State) (i : Initiator) (v : Word) :
    regWrite s i offGeqLost v = regRefused s offGeqLost v i := by
  have hbell : ¬ (0x280000 ≤ offGeqLost ∧ offGeqLost < 0x284000) := by decide
  rw [regWrite, if_neg hbell, twComplAt_geqLost, twAt_geqLost, rdReg_geqLost]
  exact gated_of_refuses (f := fun s => putReg s i offGeqLost v) (putReg_geqLost s i v)

/-- An entry that finds staging full, with a host there, is counted (R356). -/
theorem geqPut_lost_of_full {s : State} (hfull : geqFull s = true) (hhost : s.cp.detached = false) (e : GeqEntry) :
    (geqPut s e).geq.lost = satAdd s.geq.lost 1 := by
  simp [geqPut, hfull, hhost]

/-- Settles O55: the read of GEQ_LOST itself, the two ways in which a read is not performed, and the write. -/
theorem clearOnRead : Obligations.ClearOnRead := by
  intro s i v size
  refine ⟨?read, ?otherSize, ?otherAlignment, ?write⟩
  case read =>
    intro hi hon hlatch
    have hby : byHostForge i = true := byHostForge_of_eq hi
    refine ⟨updGeq (pairRead s i offGeqLost) (fun g => { g with lost := 0 }), ?goes, ?returned, rfl, ?counted⟩
    case goes => rw [Goes, exec_crRead, plainRead_of_aligned rfl, ← clearRead_geqLost hby]; rfl
    case returned => exact (pairRead_rdata_of_unlatched hlatch).trans (regRead_geqLost hby hon)
    case counted =>
      intro e hlen hhost
      exact geqPut_lost_of_full (by simp [geqFull, updGeq, hlen]) (by simpa [updGeq] using hhost) e
  case otherSize =>
    intro hsize
    rw [Goes, exec_crRead, plainRead_of_not_plain (.inl hsize)]
    rfl
  case otherAlignment =>
    intro off halign
    rw [Goes, exec_crRead, plainRead_of_not_plain (.inr halign)]
    rfl
  case write =>
    rw [Goes, exec_registerWrite, registerWrite_of_aligned rfl]
    exact congrArg _ (regWrite_geqLost s i v)

-- ---------------------------------------------------------------- offsets that no chapter assigns

theorem regWrite_of_unassigned {s : State} {i : Initiator} {o : Nat} (v : Word)
    (hbell : ¬ (0x280000 ≤ o ∧ o < 0x284000)) (hcompl : twComplAt o = none) (htw : twAt o = none)
    (hreg : rdReg s i o = none) : regWrite s i o v = regReserved s o v i := by
  rw [regWrite, if_neg hbell, hcompl, htw, hreg]
  rfl

/-- GEQ_LOST is assigned, so a read of an unassigned offset clears nothing. -/
theorem ne_geqLost_of_unassigned {s : State} {i : Initiator} {o : Nat} (h : rdReg s i o = none) : o ≠ offGeqLost := by
  rintro rfl
  rw [rdReg_geqLost] at h
  cases h

/-- Settles O54: the two reads do the same, and the write falls through to the reserved entry. -/
theorem unassignedOffsets : Obligations.UnassignedOffsets := by
  intro s i off v halign hreg hcompl
  refine ⟨?read, ?write⟩
  case read =>
    intro hlatch read hread
    refine ⟨pairRead s i off.toNat, ?goes, ?zero, pairRead_frame s i off.toNat⟩
    case goes =>
      have hpair : plainRead { init := i, off := off, size := 4 } s = pairRead s i off.toNat := by
        rw [plainRead_of_aligned halign, clearRead_of_ne (ne_geqLost_of_unassigned hreg)]
      obtain rfl | rfl : read = Instr.crRead ∨ read = Instr.loReadLatch := by simpa using hread
      · rw [Goes, exec_crRead, hpair]
      · rw [Goes, exec_loReadLatch, hpair]
    case zero => rw [pairRead_rdata_of_unlatched hlatch, regRead_of_unassigned hreg hcompl]
  case write =>
    intro hbell htw
    refine ⟨unitOf off.toNat, v.setWidth 64 ||| BitVec.ofNat 64 (initNo i) <<< 32, ?_⟩
    rw [Goes, exec_registerWrite, registerWrite_of_aligned halign, regWrite_of_unassigned v hbell hcompl htw hreg]
    rfl

end Sys2Proof.Proofs
end

section
/-! PROOF. Scheduled snapshots (R551 to R553): what GO arms, what a snapshot taken arms next, and a write of
TEL_PERIOD, which arms nothing. -/

namespace Sys2Proof.Proofs

open Sys2Proof Sys2Proof.Machine Sys2Proof.Says Sys2Proof.Laws

-- ---------------------------------------------------------------- the commands

theorem exec_snapshot (s : State) : exec .snapshot s = .next (snapshot s) := rfl

theorem exec_snapshotArm (i : Initiator) (s : State) : exec (.snapshotArm i) s = .next (snapshotArm s i) := rfl

-- ---------------------------------------------------------------- what a trace record leaves unchanged

section
variable (s : State) (type source : Nat) (ctx : Option Nat) (mask : BitVec 16) (payload : BitVec 128)

/-- A trace record changes the ring's queue and its account of lost records alone, whether it is queued, dropped or
not traced (R555, R556). -/
theorem trace_frame :
    { trace s type source ctx mask payload with
      tel := { (trace s type source ctx mask payload).tel with
        queue := s.tel.queue, lost := s.tel.lost, lostPend := s.tel.lostPend } } = s := by
  unfold trace
  split
  case isTrue => split <;> rfl
  case isFalse => rfl

@[simp] theorem trace_tel_taken : (trace s type source ctx mask payload).tel.taken = s.tel.taken :=
  (congrArg (fun u : State => u.tel.taken) (trace_frame s type source ctx mask payload) :)

@[simp] theorem trace_tel_period : (trace s type source ctx mask payload).tel.period = s.tel.period :=
  (congrArg (fun u : State => u.tel.period) (trace_frame s type source ctx mask payload) :)

end

-- ---------------------------------------------------------------- a snapshot taken

/-- The copy that a snapshot pending for tick `t` makes (R551), late where it is not made at that tick (R552). -/
def copied (s : State) (t : DWord) : State :=
  updTel s (fun x => { x with
    shadows := x.counters, taken := now s, seq := s.tel.seq + 1, late := s.tel.lateNext || decide (now s ≠ t)
    lateNext := false, pending := none })

/-- The next snapshot, armed one TEL_PERIOD after the tick `n` of the one just taken (R553). -/
def armNext (n : DWord) (s : State) : State :=
  if s.tel.period = 0 then s else updTel s (fun x => { x with pending := some (n + s.tel.period.setWidth 64) })

/-- A snapshot is the copy, its trace record, and what TEL_PERIOD then arms. -/
theorem takeSnapshot_eq (s : State) (t : DWord) :
    ∃ payload, takeSnapshot s t = armNext (now s) (trace (copied s t) 8 srcTel none 0 payload) := ⟨_, rfl⟩

theorem armNext_tel_taken (n : DWord) (s : State) : (armNext n s).tel.taken = s.tel.taken := by
  unfold armNext
  split <;> rfl

theorem armNext_tel_pending {s : State} (h : s.tel.period ≠ 0) (n : DWord) :
    (armNext n s).tel.pending = some (n + s.tel.period.setWidth 64) := by
  rw [armNext, if_neg h]
  rfl

/-- TEL_TAKEN records the tick of the copy actually made (R552). -/
theorem takeSnapshot_tel_taken (s : State) (t : DWord) : (takeSnapshot s t).tel.taken = now s := by
  obtain ⟨payload, htake⟩ := takeSnapshot_eq s t
  rw [htake, armNext_tel_taken, trace_tel_taken]
  rfl

theorem takeSnapshot_tel_pending {s : State} (h : s.tel.period ≠ 0) (t : DWord) :
    (takeSnapshot s t).tel.pending = some (now s + s.tel.period.setWidth 64) := by
  obtain ⟨payload, htake⟩ := takeSnapshot_eq s t
  have hperiod : (trace (copied s t) 8 srcTel none 0 payload).tel.period = s.tel.period := trace_tel_period ..
  rw [htake, armNext_tel_pending (hperiod ▸ h), hperiod]

/-- The pending snapshot is taken once its tick has come, with domain 216 on and the derived clocks running. -/
theorem snapshot_of_due {s : State} {t : DWord} (hpending : s.tel.pending = some t) (hclocks : s.pwr.lostSince = none)
    (hon : domOn s 216 = true) (hdue : t.toNat ≤ (now s).toNat) : snapshot s = takeSnapshot s t := by
  simp [snapshot, clocksRun, hpending, hclocks, hon, hdue]

-- ---------------------------------------------------------------- GO

theorem armAt_of_begun {s : State} {t : DWord} (h : t.toNat ≤ (now s).toNat) :
    armAt s t = updTel s (fun x => { x with pending := some (now s + 1), lateNext := true }) :=
  if_pos h

theorem armAt_of_to_come {s : State} {t : DWord} (h : (now s).toNat < t.toNat) :
    armAt s t = updTel s (fun x => { x with pending := some t, lateNext := false }) :=
  if_neg (not_le.mpr h)

/-- A GO by the driver or the Forge arms the tick that TEL_SNAP_TICK names (R551). -/
theorem snapshotArm_goes {s u : State} {i : Initiator} (hi : i = .host ∨ i = .forge) (hon : domOn s 216 = true)
    (harm : armAt s s.tel.tick = u) : Goes (.snapshotArm i) s u := by
  rw [Goes, exec_snapshotArm, snapshotArm, gated_of_allowed (byHostForge_of_eq hi) hon, harm]

-- ---------------------------------------------------------------- a write of TEL_PERIOD

/-- A write of an assigned register that is neither a doorbell nor half of a twin-write register, by an initiator
that may make it and with the register's domain on (R526, R527). -/
theorem regWrite_of_accepted {s : State} {i : Initiator} {o : Nat} (v : Word)
    (hbell : ¬ (0x280000 ≤ o ∧ o < 0x284000)) (hcompl : twComplAt o = none) (htw : twAt o = none)
    (hreg : rdReg s i o ≠ none) (hmay : mayWrite i o = true) (hon : domOn s (regDom o) = true) :
    regWrite s i o v = putReg s i o v := by
  rw [regWrite, if_neg hbell, hcompl, htw]
  dsimp only
  rw [if_neg (by simp [hreg]), gated_of_allowed hmay hon]

/-- The offset of TEL_PERIOD (R559). -/
def offTelPeriod : Nat := 0xE00014

theorem putReg_telPeriod (s : State) (i : Initiator) (v : Word) :
    putReg s i offTelPeriod v = legal s offTelPeriod v i (decide (v = 0 ∨ 1000 ≤ v.toNat))
      (fun s => updTel s (fun t => { t with period := v })) := rfl

theorem regWrite_telPeriod {s : State} {i : Initiator} {v : Word} (hi : i = .host ∨ i = .forge)
    (hon : domOn s 216 = true) (hv : v = 0 ∨ 1000 ≤ v.toNat) :
    regWrite s i offTelPeriod v = updTel s (fun t => { t with period := v }) := by
  have hwrite : regWrite s i offTelPeriod v = putReg s i offTelPeriod v :=
    regWrite_of_accepted v (by decide) (by decide) (by decide) (Option.some_ne_none _) (byHostForge_of_eq hi) hon
  rw [hwrite, putReg_telPeriod]
  exact if_pos (decide_eq_true hv)

-- ---------------------------------------------------------------- the statement

/-- Settles O56: the snapshot taken, the two outcomes of GO, and the write of TEL_PERIOD. -/
theorem snapshotPeriod : Obligations.SnapshotPeriod := by
  intro s hon
  refine ⟨?taken, ?toCome, ?begun, ?period⟩
  case taken =>
    intro t hperiod hpending hdue hclocks
    refine ⟨takeSnapshot s t, ?goes, ?armed⟩
    case goes => rw [Goes, exec_snapshot, snapshot_of_due hpending hclocks hon hdue]
    case armed => rw [takeSnapshot_tel_taken, takeSnapshot_tel_pending hperiod]
  case toCome =>
    intro i hi htick
    exact ⟨_, snapshotArm_goes hi hon (armAt_of_to_come htick), rfl, rfl⟩
  case begun =>
    intro i hi htick
    exact ⟨_, snapshotArm_goes hi hon (armAt_of_begun htick), rfl, rfl⟩
  case period =>
    intro i v hi hv
    rw [Goes, exec_registerWrite, registerWrite_of_aligned rfl]
    exact congrArg _ (regWrite_telPeriod hi hon hv)

end Sys2Proof.Proofs
end

section
/-! PROOF. The canonical form of memory under the writers of the model: each keeps it. -/

namespace Sys2Proof.Proofs

open Sys2Proof Sys2Proof.Machine Sys2Proof.Says Sys2Proof.Laws

variable {m : List Host.Cell}

theorem memWf_putW {a n v : Nat} (h : memWf m = true) : memWf (putW a n v m) = true :=
  memWf_wrNat a n v h

theorem foldl_of_keeps {α β : Type} {P : α → Prop} {f : α → β → α} (hf : ∀ x y, P x → P (f x y)) (l : List β) {x : α}
    (h : P x) : P (l.foldl f x) := by
  induction l generalizing x with
  | nil => exact h
  | cons y l ih => exact ih (hf x y h)

/-- A writer repeated over an index keeps what each of its writes keeps. -/
theorem memWf_eachOf {n : Nat} {f : Nat → Bytes → Bytes} (hf : ∀ i m, memWf m = true → memWf (f i m) = true)
    (h : memWf m = true) : memWf (eachOf n f m) = true :=
  foldl_of_keeps (P := fun m => memWf m = true) (fun x i hx => hf i x hx) (List.range n) h

theorem memWf_putLoop {a i : Nat} {loops : List LoopRec} (h : memWf m = true) :
    memWf (putLoop a loops i m) = true := by
  unfold putLoop
  split
  · split
    · exact memWf_putW (memWf_putW (memWf_putW h))
    · exact h
  · exact memWf_putW h

theorem memWf_putRanges {a : Nat} {l : List (Nat × Nat)} (h : memWf m = true) : memWf (putRanges a l m) = true :=
  memWf_eachOf (fun _ _ hm => memWf_putW (memWf_putW hm)) h

theorem memWf_putRowStat {a : Nat} {r : RowStat} (h : memWf m = true) : memWf (putRowStat a r m) = true :=
  memWf_putW (memWf_putW (memWf_putW (memWf_putW h)))

theorem memWf_putStat {a : Nat} {r : StatRec} (h : memWf m = true) : memWf (putStat a r m) = true :=
  memWf_putW (memWf_putW (memWf_putW (memWf_putW h)))

theorem memWf_putPend {a : Nat} {p : PendEntry} (h : memWf m = true) : memWf (putPend a p m) = true :=
  memWf_putW (memWf_putW (memWf_putW (memWf_putW (memWf_putW (memWf_putW (memWf_putW (memWf_putW h)))))))

/-- A block of equal fields, each written by one `putW`. -/
theorem memWf_eachOf_putW {n : Nat} {a k v : Nat → Nat} (h : memWf m = true) :
    memWf (eachOf n (fun i m => putW (a i) (k i) (v i) m) m) = true :=
  memWf_eachOf (fun _ _ hm => memWf_putW hm) h

theorem memWf_putVu {a : Nat} {v : VuRegs} (h : memWf m = true) : memWf (putVu a v m) = true := by
  unfold putVu
  split
  · exact memWf_eachOf (fun _ _ hm => memWf_putW (memWf_putW hm)) (memWf_eachOf_putW (memWf_eachOf_putW h))
  · exact memWf_eachOf_putW (memWf_eachOf_putW h)

theorem memWf_putBraid {a : Nat} {b : Braid} (h : memWf m = true) : memWf (putBraid a b m) = true := by
  unfold putBraid
  refine memWf_putW (memWf_eachOf (fun i m hm => ?_) (memWf_eachOf (fun _ _ hm => memWf_putW (memWf_putW hm))
    (memWf_eachOf (fun _ _ hm => memWf_putStat hm) (memWf_eachOf (fun _ _ hm => memWf_putRowStat hm)
      (memWf_eachOf_putW h)))))
  split
  · exact memWf_putPend hm
  · exact memWf_putW hm

theorem memWf_putImage {a : Nat} {r : Restart} (h : memWf m = true) : memWf (putImage a r m) = true := by
  unfold putImage
  refine memWf_putVu (memWf_putBraid (memWf_putRanges (memWf_eachOf_putW (memWf_putW (memWf_eachOf_putW (memWf_putW
    (memWf_eachOf_putW (memWf_eachOf (fun _ _ hm => memWf_putLoop hm) ?regs))))))))
  exact memWf_eachOf_putW (memWf_eachOf_putW (memWf_eachOf_putW (memWf_putW h)))

theorem memWf_putFull {a l : Nat} {k : Core} {base : Nat} (h : memWf m = true) :
    memWf (putFull a l k base m) = true :=
  memWf_eachOf_putW (memWf_eachOf_putW (memWf_eachOf_putW (memWf_putRanges (memWf_eachOf_putW h))))

theorem memWf_putRows {a base : Nat} {p : Pan} {ranges : List (Nat × Nat)} (h : memWf m = true) :
    memWf (putRows a base p ranges m) = true :=
  foldl_of_keeps (P := fun m => memWf m = true) (fun _ _ hm => memWf_eachOf_putW hm) ranges h

theorem memWf_putHeader {base ctx n l : Nat} {full : Bool} {ord : Nat} {saved : BitVec 16} {start : DWord}
    {ovr : Nat} {cores : List Nat} (h : memWf m = true) :
    memWf (putHeader base ctx n l full ord saved start ovr cores m) = true :=
  memWf_eachOf_putW (memWf_putW (memWf_putW (memWf_putW (memWf_putW (memWf_putW (memWf_putW (memWf_putW
    (memWf_putW h))))))))

theorem mwf_filter {α : Type} [DecidableEq α] {d : α} {m : SMap α} (p : Nat × α → Bool) (h : mwf d m = true) :
    mwf d (m.filter p) = true := by
  induction m with
  | nil => rfl
  | cons e m ih =>
    obtain ⟨a, v⟩ := e
    simp only [mwf, Bool.and_eq_true, decide_eq_true_eq, List.all_eq_true] at h
    obtain ⟨⟨hv, hlt⟩, hm⟩ := h
    rw [List.filter_cons]
    split
    · simp only [mwf, Bool.and_eq_true, decide_eq_true_eq, List.all_eq_true]
      exact ⟨⟨hv, fun e he => hlt e (List.mem_filter.mp he).1⟩, ih hm⟩
    · exact ih hm

theorem memWf_zeroRange {lo hi : Nat} (h : memWf m = true) : memWf (zeroRange m lo hi) = true := mwf_filter _ h

theorem memWf_putRecords {phase : Bool} {a : Nat} {l : List TraceRec} (h : memWf m = true) :
    memWf (putRecords m phase a l) = true := by
  induction l generalizing m a with
  | nil => exact h
  | cons r l ih => exact ih (memWf_wrNat _ _ _ h)

end Sys2Proof.Proofs
end

section
/-! PROOF. Host memory and the queue (I). What every function of the model that a core's instructions use leaves of
them: the queue as it was, and memory in its canonical form if it was so. -/

namespace Sys2Proof.Proofs

open Sys2Proof Sys2Proof.Machine Sys2Proof.Says Sys2Proof.Laws

variable {s t : State}

/-- A change of any part of the state but the queue and memory. -/
theorem keeps_with (h : Keeps s t)
    {clk port twins cores bundles cp geq mbx fu baskets atu fp ru links store sb svc pwr temper tel freeCount} :
    Keeps s ⟨t.pending, t.mem, clk, port, twins, cores, bundles, cp, geq, mbx, fu, baskets, atu, fp, ru, links, store,
      sb, svc, pwr, temper, tel, freeCount⟩ := h.same rfl rfl

theorem keeps_outside (h : Keeps s t) {outside : List Host.Cell} :
    Keeps s { t with mem := wrCells t.mem outside } := h.store rfl (memWf_wrCells _)

theorem keeps_stored (h : Keeps s t) {m : List Host.Cell} (hm : memWf t.mem = true → memWf m = true) :
    Keeps s { t with mem := m } := h.store rfl hm

/-- A chain of operations that may have no room: what each of them keeps, the chain keeps. -/
theorem keeps_foldl_bind {β : Type} {f : State → β → Option State}
    (hf : ∀ t x u, Keeps s t → f t x = some u → Keeps s u) {l : List β} {o : Option State}
    (ho : ∀ t, o = some t → Keeps s t) {u : State} (hu : l.foldl (fun o x => o.bind (fun t => f t x)) o = some u) :
    Keeps s u :=
  foldl_of_keeps (P := fun o => ∀ t, o = some t → Keeps s t) (fun o x hkeep v hv => by
    obtain ⟨t, ht, hfx⟩ := Option.bind_eq_some_iff.mp hv
    exact hf t x v (hkeep t ht) hfx) l ho u hu

theorem keeps_scramble (h : Keeps s t) {a n} : Keeps s (scramble t a n) :=
  h.store rfl (memWf_wrNat _ _ _)

theorem keeps_setCore (h : Keeps s t) {c k} : Keeps s (setCore t c k) := keeps_with h

theorem keeps_updCore (h : Keeps s t) {c f} : Keeps s (updCore t c f) := keeps_setCore h

theorem keeps_setCtx (h : Keeps s t) {c k} : Keeps s (setCtx t c k) := keeps_with h

theorem keeps_updCtx (h : Keeps s t) {c f} : Keeps s (updCtx t c f) := keeps_setCtx h

theorem keeps_setBsk (h : Keeps s t) {b k} : Keeps s (setBsk t b k) := keeps_with h

theorem keeps_updBsk (h : Keeps s t) {b f} : Keeps s (updBsk t b f) := keeps_setBsk h

theorem keeps_setLink (h : Keeps s t) {l k} : Keeps s (setLink t l k) := keeps_with h

theorem keeps_updLink (h : Keeps s t) {l f} : Keeps s (updLink t l f) := keeps_setLink h

theorem keeps_updTa (h : Keeps s t) {c f} : Keeps s (updTa t c f) := keeps_updCore h

theorem keeps_updPan (h : Keeps s t) {c f} : Keeps s (updPan t c f) := keeps_updCore h

theorem keeps_updSeq (h : Keeps s t) {c f} : Keeps s (updSeq t c f) := keeps_updCore h

theorem keeps_updMem (h : Keeps s t) {c f} : Keeps s (updMem t c f) := keeps_updCore h

theorem keeps_count (h : Keeps s t) {i n} : Keeps s (count t i n) := by
  unfold count
  split <;> apply_rules [keeps_with, Keeps.ite]

theorem keeps_countCore (h : Keeps s t) {c i n} : Keeps s (countCore t c i n) := keeps_count h

theorem keeps_trace (h : Keeps s t) {type source ctx mask payload} :
    Keeps s (trace t type source ctx mask payload) := by
  unfold trace
  repeat' split
  all_goals apply_rules [keeps_with, Keeps.ite]

theorem keeps_eventLog (h : Keeps s t) {e} : Keeps s (eventLog t e) := by
  refine h.store rfl fun hm => memWf_wr32 _ _ ?_
  split
  · exact memWf_wr64 _ _ (memWf_wrNat _ _ _ hm)
  · exact memWf_wrNat _ _ _ hm

theorem keeps_geqPut (h : Keeps s t) {e} : Keeps s (geqPut t e) := by
  unfold geqPut
  repeat' split
  all_goals apply_rules [keeps_eventLog, keeps_with, Keeps.ite]

theorem keeps_inboxPut (h : Keeps s t) {e} : Keeps s (inboxPut t e) := by
  grind [inboxPut, ← keeps_with, ← keeps_geqPut]

theorem keeps_post (h : Keeps s t) {code source ctx obj detail} : Keeps s (post t code source ctx obj detail) :=
  keeps_geqPut h

theorem keeps_postReplace (h : Keeps s t) {code source obj detail bit} :
    Keeps s (postReplace t code source obj detail bit) :=
  keeps_with (keeps_geqPut h)

theorem keeps_postBsk (h : Keeps s t) {code source b obj detail} : Keeps s (postBsk t code source b obj detail) :=
  keeps_geqPut h

theorem keeps_tableEcc (h : Keeps s t) {source ctx x3} : Keeps s (tableEcc t source ctx x3) := by
  unfold tableEcc
  split <;> grind [← keeps_with, ← keeps_post]

theorem keeps_sendMsi (h : Keeps s t) {v} : Keeps s (sendMsi t v) :=
  h.store rfl (memWf_wr32 _ _)

theorem keeps_intEvent (h : Keeps s t) {v} : Keeps s (intEvent t v) := by
  unfold intEvent
  dsimp only
  repeat' split
  all_goals apply_rules [keeps_with, keeps_sendMsi, Keeps.ite]

theorem keeps_postReg (h : Keeps s t) {code off value i} : Keeps s (postReg t code off value i) := keeps_post h

theorem keeps_regReserved (h : Keeps s t) {off v i} : Keeps s (regReserved t off v i) := keeps_postReg h

theorem keeps_regRefused (h : Keeps s t) {off v i} : Keeps s (regRefused t off v i) := keeps_postReg h

theorem keeps_twAbort (h : Keeps s t) {off v i} : Keeps s (twAbort t off v i) := keeps_postReg h

theorem keeps_setTwin (h : Keeps s t) {off t'} : Keeps s (setTwin t off t') := keeps_with h

theorem keeps_twValue (h : Keeps s t) {off i v latched} : Keeps s (twValue t off i v latched) := by
  unfold twValue
  split
  · exact keeps_setTwin h
  · split
    · exact keeps_setTwin (keeps_twAbort h)
    · exact keeps_regRefused h

theorem keeps_twExpire (h : Keeps s t) {off} : Keeps s (twExpire t off) := by
  unfold twExpire
  split <;> apply_rules [keeps_setTwin, keeps_twAbort, Keeps.ite]

theorem keeps_twComplement (h : Keeps s t) {off i v} : Keeps s (twComplement t off i v).2 := by
  unfold twComplement
  dsimp only
  repeat' split
  all_goals apply_rules [keeps_twExpire, keeps_twAbort, keeps_regRefused, keeps_setTwin, Keeps.ite]

theorem keeps_setBw (h : Keeps s t) {b w} : Keeps s (setBw t b w) := keeps_with h

theorem keeps_takeCredit (h : Keeps s t) {b n} : Keeps s (takeCredit t b n) := keeps_setBw h

theorem keeps_walkDone (h : Keeps s t) : Keeps s (walkDone t) := keeps_count (keeps_with h)

theorem keeps_stlbMiss (h : Keeps s t) : Keeps s (stlbMiss t) := keeps_count (keeps_with h)

theorem keeps_freeWalker (h : Keeps s t) {i} : Keeps s (freeWalker t i) := by
  unfold freeWalker
  split <;> apply_rules [keeps_with, Keeps.ite]

theorem keeps_walkNow (h : Keeps s t) {b slot va} : Keeps s (walkNow t b slot va).2 := by
  unfold walkNow
  dsimp only
  repeat' split
  all_goals apply_rules [keeps_freeWalker, keeps_walkDone, keeps_takeCredit, keeps_with, Keeps.ite]

theorem keeps_lookupLeaf (h : Keeps s t) {b slot va fits} : Keeps s (lookupLeaf t b slot va fits).2 := by
  unfold lookupLeaf
  split <;> grind [← keeps_with, ← keeps_walkNow, ← keeps_stlbMiss]

theorem keeps_translate (h : Keeps s t) {b slot va store} : Keeps s (Machine.translate t b slot va store).2 := by
  unfold Machine.translate
  dsimp only
  split <;> apply_rules [keeps_lookupLeaf, Keeps.ite]

theorem keeps_translateAll {b slot store n va} (h : Keeps s t) : Keeps s (translateAll t b slot store n va).2 := by
  induction n generalizing t va with
  | zero => exact h
  | succ n ih =>
    rw [translateAll]
    split
    · exact ih (keeps_translate h)
    · exact keeps_translate h

theorem keeps_buildList {b slot lost base length n budget l} (h : Keeps s t) :
    Keeps s (buildList b slot lost base length n budget l t).2.2 := by
  induction n generalizing t budget l with
  | zero => exact h
  | succ n ih =>
    unfold buildList
    split
    · exact h
    · dsimp only
      split
      · exact keeps_lookupLeaf h
      · exact ih (keeps_lookupLeaf h)

theorem keeps_buildLists {b slot lost ds budget acc} (h : Keeps s t) :
    Keeps s (buildLists b slot lost ds budget acc t).2 := by
  induction ds generalizing t budget acc with
  | nil => exact h
  | cons d ds ih =>
    rw [buildLists]
    split
    · exact ih (keeps_buildList h)
    · exact ih h

theorem keeps_readPhys (h : Keeps s t) {c k e} : Keeps s (readPhys t c k e).2.2 := by
  unfold readPhys
  apply_rules [keeps_updPan, keeps_countCore, Keeps.ite]

theorem keeps_readRow (h : Keeps s t) {c a e} : Keeps s (readRow t c a e).2.2 := keeps_readPhys h

theorem keeps_senseRows {c rows} (h : Keeps s t) : Keeps s (senseRows t c rows).2 := by
  induction rows generalizing t with
  | nil => exact h
  | cons a rows ih =>
    rw [senseRows]
    split
    · exact ih h
    · dsimp only
      split
      · exact keeps_readRow h
      · exact ih (keeps_readRow h)

theorem keeps_writeRow (h : Keeps s t) {c a v} : Keeps s (writeRow t c a v) := keeps_updCore h

theorem keeps_setRelRow (h : Keeps s t) {c r v} : Keeps s (setRelRow t c r v) := keeps_writeRow h

theorem keeps_acInc (h : Keeps s t) {c i n} : Keeps s (acInc t c i n) := keeps_updPan h

theorem keeps_acKeep (h : Keeps s t) {x t' i n} : Keeps s (acKeep t x t' i n) := keeps_updCtx h

theorem keeps_acIncCtx (h : Keeps s t) {x t' i n old} : Keeps s (acIncCtx t x t' i n old) := by
  unfold acIncCtx
  split <;> apply_rules [keeps_acInc, keeps_acKeep, keeps_updSeq, Keeps.ite]

theorem keeps_setTag (h : Keeps s t) {c t' x} : Keeps s (setTag t c t' x) := keeps_updMem h

theorem keeps_tagCount (h : Keeps s t) {c t'} : Keeps s (tagCount t c t') := by
  unfold tagCount
  split <;> apply_rules [keeps_acInc, Keeps.ite]

theorem keeps_landRow (h : Keeps s t) {c tg i counts} : Keeps s (landRow t c tg i counts) := by
  unfold landRow
  apply_rules [keeps_setRelRow, keeps_setTag, keeps_tagCount, Keeps.ite]

theorem keeps_lineBack (h : Keeps s t) {c tg n data counts} : Keeps s (lineBack t c tg n data counts) := by
  unfold lineBack
  apply_rules [keeps_setTag, keeps_landRow, Keeps.ite]

theorem keeps_completeLines (h : Keeps s t) {c} : Keeps s (completeLines t c) := by
  grind [completeLines, ← Keeps.foldl, ← keeps_lineBack, ← keeps_updMem]

theorem keeps_landLines (h : Keeps s t) {c} : Keeps s (landLines t c) := by
  grind [landLines, ← Keeps.foldl, ← keeps_lineBack, ← keeps_updMem]

theorem keeps_moveLines (h : Keeps s t) {x l} : Keeps s (moveLines t x l) := keeps_with h

theorem keeps_setState (h : Keeps s t) {c st} : Keeps s (setState t c st) := keeps_updCtx h

theorem keeps_toIdle (h : Keeps s t) {c} : Keeps s (toIdle t c) := by
  unfold toIdle
  apply_rules [keeps_setCtx, keeps_setState, Keeps.ite]

theorem keeps_fromWait (h : Keeps s t) {c} : Keeps s (fromWait t c) := by
  unfold fromWait
  apply_rules [keeps_setState, keeps_setCtx, Keeps.ite]

theorem keeps_releaseCores (h : Keeps s t) {l} : Keeps s (releaseCores t l) := by
  grind [releaseCores, ← Keeps.foldl, ← keeps_updCore]

theorem keeps_dropBundles (h : Keeps s t) {l} : Keeps s (dropBundles t l) := keeps_with h

theorem keeps_setOcc (h : Keeps s t) {core region o} : Keeps s (setOcc t core region o) := keeps_with h

theorem keeps_dropOcc (h : Keeps s t) {c} : Keeps s (dropOcc t c) := keeps_with h

theorem keeps_updFrames (h : Keeps s t) {f} : Keeps s (updFrames t f) := keeps_with h

theorem keeps_dropRef (h : Keeps s t) {b} : Keeps s (dropRef t b) := by
  unfold dropRef
  split <;> apply_rules [keeps_updFrames, Keeps.ite]

theorem keeps_dropStoreReq (h : Keeps s t) {c} : Keeps s (dropStoreReq t c) := keeps_with h

theorem keeps_dropRegion (h : Keeps s t) {c} : Keeps s (dropRegion t c) := by
  grind [dropRegion, ← Keeps.foldl, ← keeps_dropRef, ← keeps_with]

theorem keeps_dropFaults (h : Keeps s t) {c} : Keeps s (dropFaults t c) := keeps_with h

theorem keeps_closeWindows (h : Keeps s t) {c} : Keeps s (closeWindows t c) := keeps_with h

theorem keeps_armFrames (h : Keeps s t) {c} : Keeps s (armFrames t c) := keeps_updFrames h

theorem keeps_endTeardown (h : Keeps s t) {c} : Keeps s (endTeardown t c) := by
  unfold endTeardown
  split <;> apply_rules [keeps_post, keeps_trace, keeps_count, keeps_updCtx, Keeps.ite]

theorem keeps_tearDown (h : Keeps s t) {c code reason core detail} :
    Keeps s (tearDown t c code reason core detail) := by
  unfold tearDown
  exact .ite (keeps_endTeardown (keeps_updCtx (keeps_with (keeps_closeWindows (keeps_dropOcc (keeps_armFrames
    (keeps_dropFaults (keeps_dropRegion (keeps_dropStoreReq (keeps_releaseCores (keeps_dropBundles h))))))))))) h

theorem keeps_cmdFault (h : Keeps s t) {c code reason} : Keeps s (cmdFault t c code reason) := keeps_tearDown h

theorem keeps_coreFault (h : Keeps s t) {c code reason reg} : Keeps s (coreFault t c code reason reg) := by
  unfold coreFault
  split <;> apply_rules [keeps_tearDown, Keeps.ite]

theorem keeps_seqFault (h : Keeps s t) {c code reason slot} : Keeps s (seqFault t c code reason slot) :=
  keeps_coreFault (keeps_updSeq h)

theorem keeps_panFault (h : Keeps s t) {c code reason} : Keeps s (panFault t c code reason) :=
  keeps_coreFault (keeps_updPan h)

theorem keeps_memFault (h : Keeps s t) {c code reason tag desc} : Keeps s (memFault t c code reason tag desc) :=
  keeps_coreFault (keeps_updMem h)

theorem keeps_brdFaultAt (h : Keeps s t) {c code reason slot stage} :
    Keeps s (brdFaultAt t c code reason slot stage) :=
  keeps_coreFault (keeps_updCore h)

theorem keeps_vuFault (h : Keeps s t) {c code reason} : Keeps s (vuFault t c code reason) :=
  keeps_coreFault (keeps_updCore h)

theorem keeps_addrFault (h : Keeps s t) {c code reason core addr} : Keeps s (addrFault t c code reason core addr) :=
  keeps_tearDown h

theorem keeps_stopCore (h : Keeps s t) {full c} : Keeps s (stopCore full t c) := by
  unfold stopCore
  apply_rules [keeps_landLines, keeps_completeLines, Keeps.ite]

theorem keeps_writeSave (h : Keeps s t) {c k full} : Keeps s (writeSave t c k full) := by
  unfold writeSave
  refine keeps_updCtx (keeps_stored h fun hm => memWf_putHeader (foldl_of_keeps (P := fun m => memWf m = true) ?_ _ hm))
  intro m p hx
  dsimp only
  split
  · exact memWf_putFull (memWf_putImage hx)
  · exact memWf_putImage hx

theorem keeps_switchOut (h : Keeps s t) {c rollback full} : Keeps s (switchOut t c rollback full) := by
  unfold switchOut
  split
  · next k _ =>
    have hstop : Keeps s (k.cores.foldl (stopCore full) t) := Keeps.foldl (fun _ _ hu => keeps_stopCore hu) _ h
    grind [← keeps_addrFault, ← keeps_dropBundles, ← keeps_releaseCores, ← keeps_takeCredit, ← keeps_updCtx,
      ← keeps_writeSave, ← keeps_with]
  · exact h

theorem keeps_setS (h : Keeps s t) {c r v} : Keeps s (setS t c r v) := by
  unfold setS
  apply_rules [keeps_updSeq, Keeps.ite]

theorem keeps_setW (h : Keeps s t) {c w v} : Keeps s (setW t c w v) := keeps_updSeq h

theorem keeps_setF (h : Keeps s t) {c f v} : Keeps s (setF t c f v) := by
  unfold setF
  apply_rules [keeps_updSeq, Keeps.ite]

theorem keeps_issued (h : Keeps s t) {c l target} : Keeps s (issued t c l target) := by
  unfold issued
  apply_rules [keeps_countCore, keeps_updSeq, Keeps.ite]

theorem keeps_fetchBundle (h : Keeps s t) {c e run} (hrun : ∀ u, Keeps s u → Keeps s (run u)) :
    Keeps s (fetchBundle t c e run) := by
  unfold fetchBundle
  split
  · exact h
  · split
    · exact keeps_seqFault h
    · dsimp only
      split
      · exact keeps_seqFault (keeps_updSeq h)
      · exact hrun _ (keeps_updSeq h)

theorem keeps_setOpen (h : Keeps s t) {c l} : Keeps s (setOpen t c l) := keeps_with h

theorem keeps_cnvFault (h : Keeps s t) {c b} : Keeps s (cnvFault t c b) := keeps_coreFault (keeps_updCore h)

theorem keeps_readRows (h : Keeps s t) {c rows f} (hf : ∀ u, Keeps s u → Keeps s (f u)) :
    Keeps s (readRows t c rows f) := by
  unfold readRows
  dsimp only
  split
  · exact keeps_panFault (keeps_senseRows h)
  · exact hf _ (keeps_senseRows h)

theorem keeps_setRec (h : Keeps s t) {id r} : Keeps s (setRec t id r) := keeps_with h

theorem keeps_abortCtxs (h : Keeps s t) {r} : Keeps s (abortCtxs t r) := by
  grind [abortCtxs, ← Keeps.foldl, ← keeps_addrFault]

theorem keeps_abortLost (h : Keeps s t) {r} : Keeps s (abortLost t r) := by
  grind [abortLost, ← Keeps.foldl, ← keeps_updCtx, ← keeps_abortCtxs]

theorem keeps_openRec (h : Keeps s t) {id h' others} : Keeps s (openRec t id h' others) := by
  grind [openRec, ← Keeps.foldl, ← keeps_with, ← keeps_setState, ← keeps_abortCtxs, ← keeps_inboxPut, ← keeps_geqPut,
      ← keeps_abortLost, ← keeps_setRec]

theorem keeps_joinRec (h : Keeps s t) {id h'} : Keeps s (joinRec t id h') := by
  unfold joinRec
  split <;> apply_rules [keeps_setState, keeps_setRec, Keeps.ite]

theorem keeps_takePending (h : Keeps s t) {l} : Keeps s (takePending t l).2 := by
  grind [takePending, ← keeps_with, ← Keeps.foldl, ← keeps_updCtx]

theorem keeps_assignPending {n id} (h : Keeps s t) : Keeps s (assignPending n t id) := by
  induction n generalizing t with
  | zero => exact h
  | succ n ih => grind [assignPending, ← keeps_takePending, ← keeps_openRec]

theorem keeps_closeRec (h : Keeps s t) {id} : Keeps s (closeRec t id) := keeps_assignPending (keeps_setRec h)

theorem keeps_pageFault (h : Keeps s t) {h'} : Keeps s (pageFault t h') := by
  unfold pageFault
  grind [← keeps_addrFault, ← keeps_joinRec, ← keeps_openRec, ← keeps_setState, ← keeps_switchOut, ← keeps_takePending,
    ← keeps_updCtx, ← keeps_with]

theorem keeps_xlatFault (h : Keeps s t) {x core va store region x6} :
    Keeps s (xlatFault t x core va store region x6) := by
  unfold xlatFault
  split <;> apply_rules [keeps_addrFault, keeps_pageFault, Keeps.ite]

theorem keeps_startStream (h : Keeps s t) {c tg x} : Keeps s (startStream t c tg x) := keeps_updMem h

theorem keeps_postInc (h : Keeps s t) {c w v on n} : Keeps s (postInc t c w v on n) := by
  unfold postInc
  apply_rules [keeps_setW, Keeps.ite]

theorem keeps_lineCredit (h : Keeps s t) {c b} : Keeps s (lineCredit t c b) := by
  unfold lineCredit
  apply_rules [keeps_updMem, keeps_setBw, Keeps.ite]

theorem keeps_setWalk (h : Keeps s t) {i w} : Keeps s (setWalk t i w) := keeps_with h

theorem keeps_startWalk (h : Keeps s t) {slot va store f} : Keeps s (startWalk t slot va store f) := by
  unfold startWalk
  repeat' split
  all_goals apply_rules [keeps_setWalk, keeps_with, Keeps.ite]

theorem keeps_sharedXlat (h : Keeps s t) {slot va store f micro} :
    Keeps s (sharedXlat t slot va store f micro).2 := by
  grind [sharedXlat, ← keeps_with, ← keeps_updMem, ← keeps_startWalk, ← keeps_stlbMiss]

theorem keeps_lineXlat (h : Keeps s t) {c tg n t' x k} : Keeps s (lineXlat t c tg n t' x k).2 := by
  unfold lineXlat
  split <;> grind [← keeps_buildList, ← keeps_updCtx, ← keeps_sharedXlat, ← keeps_updMem, ← keeps_startWalk]

theorem keeps_sentCheck (h : Keeps s t) {c tg} : Keeps s (sentCheck t c tg) := by
  unfold sentCheck
  apply_rules [keeps_setTag, Keeps.ite]

theorem keeps_lineLeft (h : Keeps s t) {c tg n t'} : Keeps s (lineLeft t c tg n t') :=
  keeps_countCore (keeps_updMem (keeps_setTag h))

theorem keeps_sendLoad (h : Keeps s t) {c tg n t' x pa} : Keeps s (sendLoad t c tg n t' x pa) := by
  rw [show sendLoad = delta% sendLoad from rfl]
  dsimp only
  split
  · exact keeps_updLink (keeps_updMem (keeps_lineLeft h))
  · exact keeps_updMem (keeps_lineLeft h)

theorem keeps_sendStore (h : Keeps s t) {c tg n t' x pa} : Keeps s (sendStore t c tg n t' x pa) := by
  refine keeps_sentCheck ?_
  split
  · exact keeps_updLink (keeps_lineLeft h)
  · exact (keeps_lineLeft h).store rfl (memWf_wrNat _ _ _)

theorem keeps_storeRow (h : Keeps s t) {c tg i ecc} : Keeps s (storeRow t c tg i ecc).2 := by
  unfold storeRow
  dsimp only
  repeat' split
  all_goals apply_rules [keeps_readRow, keeps_panFault, keeps_setTag, keeps_tagCount, Keeps.ite]

theorem keeps_purgeLine (h : Keeps s t) {c x slot t' va} : Keeps s (purgeLine t c x slot t' va) := by
  unfold purgeLine
  split <;> apply_rules [keeps_with, keeps_updMem, keeps_updCtx, Keeps.ite]

theorem keeps_lineTables (h : Keeps s t) {c x t' va tecc} : Keeps s (lineTables t c x t' va tecc) := by
  unfold lineTables
  dsimp only
  split <;> apply_rules [keeps_tableEcc, keeps_purgeLine, Keeps.ite]

theorem keeps_lineRequestIssue (h : Keeps s t) {core tag ecc tecc} :
    Keeps s (lineRequestIssue core tag ecc tecc t) := by
  unfold lineRequestIssue
  dsimp only
  split
  · exact h
  · refine .ite (.ite ?_ (keeps_lineCredit h)) h
    split
    · exact keeps_lineXlat (keeps_lineTables (keeps_lineCredit h))
    · exact keeps_xlatFault (keeps_lineXlat (keeps_lineTables (keeps_lineCredit h)))
    · exact .ite (.ite (keeps_sendStore (keeps_storeRow (keeps_lineXlat (keeps_lineTables (keeps_lineCredit h)))))
        (keeps_storeRow (keeps_lineXlat (keeps_lineTables (keeps_lineCredit h)))))
        (keeps_sendLoad (keeps_lineXlat (keeps_lineTables (keeps_lineCredit h))))

theorem keeps_loadLineReturn (h : Keeps s t) {core tag line} : Keeps s (loadLineReturn core tag line t) := by
  unfold loadLineReturn
  dsimp only
  split <;> apply_rules [keeps_updMem, keeps_lineBack, Keeps.ite]

theorem keeps_flushReadbackDone (h : Keeps s t) {core tag resp} : Keeps s (flushReadbackDone core tag resp t) := by
  unfold flushReadbackDone
  dsimp only
  repeat' split
  all_goals apply_rules [keeps_addrFault, keeps_updMem, keeps_setTag, Keeps.ite]

theorem keeps_rwrRead (h : Keeps s t) {c tg i} : Keeps s (rwrRead t c tg i).2 := by
  unfold rwrRead
  dsimp only
  repeat' split
  all_goals apply_rules [keeps_readRow, keeps_setTag, Keeps.ite]

theorem keeps_rwrLand (h : Keeps s t) {c tg d i} : Keeps s (rwrLand t c tg d i) := by
  unfold rwrLand
  dsimp only
  split <;> apply_rules [keeps_setRelRow, keeps_acInc, keeps_setTag, Keeps.ite]

theorem keeps_remoteRowArrival (h : Keeps s t) {core tag} : Keeps s (remoteRowArrival core tag t) := by
  unfold remoteRowArrival
  dsimp only
  split
  · exact h
  · exact .ite (.ite (keeps_seqFault h) (.ite h (.ite (keeps_panFault (keeps_rwrRead h)) (.ite (keeps_rwrRead h)
      (keeps_rwrLand (keeps_rwrRead h)))))) h

theorem keeps_remoteReadServe (h : Keeps s t) {core tag ecc} : Keeps s (remoteReadServe core tag ecc t) := by
  unfold remoteReadServe
  dsimp only
  split <;> apply_rules [keeps_readRow, keeps_panFault, keeps_setTag, Keeps.ite]

theorem keeps_remoteReadRowReturn (h : Keeps s t) {core tag} : Keeps s (remoteReadRowReturn core tag t) := by
  unfold remoteReadRowReturn
  apply_rules [keeps_landRow, Keeps.ite]

theorem keeps_deliver (h : Keeps s t) {c g} : Keeps s (deliver t c g) := by
  unfold deliver
  split <;> apply_rules [keeps_acInc, Keeps.ite]

theorem keeps_acsigDelivery (h : Keeps s t) {core} : Keeps s (acsigDelivery core t) := by
  unfold acsigDelivery
  dsimp only
  split <;> apply_rules [keeps_deliver, keeps_updMem, Keeps.ite]

theorem keeps_deliverAll (h : Keeps s t) {c} : Keeps s (deliverAll t c) := by
  grind [deliverAll, ← Keeps.foldl, ← keeps_deliver, ← keeps_updMem]

theorem keeps_noYield (h : Keeps s t) {core} : Keeps s (noYield core t) := by
  unfold noYield
  apply_rules [keeps_seqFault, Keeps.ite]

theorem keeps_setBankRow (h : Keeps s t) {c bank r v} : Keeps s (setBankRow t c bank r v) := keeps_updTa h

theorem keeps_readBank {c keys} (h : Keeps s t) : Keeps s (readBank t c keys).2 := by
  induction keys generalizing t with
  | nil => exact h
  | cons k keys ih =>
    rw [readBank]
    split
    · exact ih h
    · exact ih (keeps_updTa h)
    · exact h

theorem keeps_countEv (h : Keeps s t) {c e} : Keeps s (countEv t c e) :=
  keeps_countCore (keeps_countCore (keeps_countCore h))

theorem keeps_takeChunk (h : Keeps s t) {c ch i n} : Keeps s (takeChunk t c ch i n).2 :=
  keeps_countEv (keeps_updCore h)

theorem keeps_takeRows {c ch need n i} (h : Keeps s t) : Keeps s (takeRows c ch need n i t).2 := by
  induction n generalizing t i with
  | zero => exact h
  | succ n ih =>
    grind [takeRows, ← keeps_coreFault, ← keeps_panFault, ← keeps_readBank, ← keeps_senseRows, ← keeps_takeChunk]

theorem keeps_setInv (h : Keeps s t) {c i j} : Keeps s (setInv t c i j) := keeps_updCore h

theorem keeps_dropInv (h : Keeps s t) {c i} : Keeps s (dropInv t c i) := keeps_updCore h

theorem keeps_writeInvRow (h : Keeps s t) {c ch i0 i} : Keeps s (writeInvRow t c ch i0 i) := by
  grind [writeInvRow, ← keeps_setInv, ← keeps_takeRows, ← keeps_setRelRow, ← keeps_dropInv]

theorem keeps_startInv (h : Keeps s t) {c ch i deferred} : Keeps s (startInv t c ch i deferred).2 := by
  unfold startInv
  apply_rules [keeps_updCore, Keeps.ite]

theorem keeps_pstoreSingle (h : Keeps s t) {c} : Keeps s (pstoreSingle t c) := keeps_updCore h

theorem keeps_epilogueRowWrite (h : Keeps s t) {core slot ecc} : Keeps s (epilogueRowWrite core slot ecc t) := by
  unfold epilogueRowWrite
  dsimp only
  repeat' split
  all_goals apply_rules [keeps_dropInv, keeps_brdFaultAt, keeps_pstoreSingle, keeps_writeInvRow, keeps_startInv,
      Keeps.ite]

theorem keeps_putItem (h : Keeps s t) {c p j f row} : Keeps s (putItem t c p j f row) := by
  grind [putItem, ← keeps_setRelRow, ← Keeps.foldl]

theorem keeps_renorm (h : Keeps s t) {c sl ch p} : Keeps s (renorm t c sl ch p) := by
  grind [renorm, ← keeps_updCore, ← keeps_with, ← keeps_countEv, ← Keeps.foldl, ← keeps_putItem]

theorem keeps_renormAll {c sl ch l} (h : Keeps s t) : Keeps s (renormAll c sl ch l t).2 := by
  induction l generalizing t with
  | nil => exact h
  | cons p l ih =>
    unfold renormAll
    extract_lets b n
    split
    · exact ih (keeps_renorm h)
    · exact h

theorem keeps_commitRow (h : Keeps s t) {c p m sums} : Keeps s (commitRow c p m sums t) := by
  unfold commitRow
  dsimp only
  repeat' split
  all_goals apply_rules [keeps_setBankRow, keeps_updCore, Keeps.ite]

theorem keeps_commitPass (h : Keeps s t) {c p sums} : Keeps s (commitPass t c p sums) := by
  grind [commitPass, ← Keeps.foldl, ← keeps_commitRow, ← keeps_updCore, ← keeps_countCore]

theorem keeps_repairHold (h : Keeps s t) {c by_} : Keeps s (repairHold t c by_) := keeps_updTa h

theorem keeps_failPass (h : Keeps s t) {c p v} : Keeps s (failPass t c p v) := by
  unfold failPass
  dsimp only
  split
  · exact keeps_readRows (keeps_trace (keeps_post (keeps_countCore (keeps_updTa h)))) fun _ hu => keeps_updTa hu
  · exact keeps_post (keeps_repairHold (keeps_updTa (keeps_post (keeps_countCore (keeps_updTa h)))))

theorem keeps_withSlot (h : Keeps s t) {c p f} (hf : ∀ u q, Keeps s u → Keeps s (f u q)) :
    Keeps s (withSlot t c p f) := by
  have huse : ∀ u q, Keeps s u → Keeps s (f (updTa u c (fun t => { t with passes := q :: t.passes.tail })) q) :=
    fun u q hu => hf _ q (keeps_updTa hu)
  unfold withSlot
  dsimp only
  split
  · exact hf _ _ h
  · refine .ite (hf _ _ h) ?_
    split
    · exact huse _ _ h
    · split
      · exact h
      · exact keeps_readRows h fun _ hu => huse _ _ (keeps_updCore hu)

theorem keeps_passVerdict (h : Keeps s t) {core faults ecc} : Keeps s (passVerdict core faults ecc t) := by
  unfold passVerdict
  dsimp only
  split
  · refine .ite h (keeps_withSlot h fun u p hu => keeps_readRows hu fun v hv => ?_)
    split
    · split
      · exact .ite (keeps_coreFault (keeps_countCore (keeps_updTa hv)))
          (keeps_commitPass (keeps_countEv (keeps_countCore (keeps_updTa hv))))
      · exact .ite (keeps_coreFault (keeps_readBank (keeps_countCore (keeps_updTa hv))))
          (keeps_commitPass (keeps_countEv (keeps_readBank (keeps_countCore (keeps_updTa hv)))))
    · exact keeps_failPass (keeps_countCore (keeps_updTa hv))
  · exact h

theorem keeps_issuePass (h : Keeps s t) {c p} : Keeps s (issuePass t c p) := keeps_updCore h

theorem keeps_readDesc (h : Keeps s t) {c row} : Keeps s (readDesc t c row) := by
  unfold readDesc
  dsimp only
  split
  · exact h
  · exact keeps_readRows h fun _ hu => keeps_updCore hu

theorem keeps_lineSlotFill (h : Keeps s t) {core} : Keeps s (lineSlotFill core t) := by
  unfold lineSlotFill
  dsimp only
  split
  · exact h
  · split
    · exact h
    · exact keeps_readRows h fun _ hu => keeps_updCore hu

theorem keeps_tlwLoadDone (h : Keeps s t) {core} : Keeps s (tlwLoadDone core t) := by
  unfold tlwLoadDone
  dsimp only
  split
  · exact h
  · split
    · exact h
    · exact keeps_readRows h fun _ hu => keeps_updTa hu

theorem keeps_nextSapp (h : Keeps s t) {c} : Keeps s (nextSapp t c) := by
  unfold nextSapp
  split <;> apply_rules [keeps_updCtx, Keeps.ite]

theorem keeps_updVu (h : Keeps s t) {c f} : Keeps s (updVu t c f) := keeps_updCore h

theorem keeps_updVr (h : Keeps s t) {c f} : Keeps s (updVr t c f) := keeps_updVu h

theorem keeps_setV (h : Keeps s t) {c r v} : Keeps s (setV t c r v) := keeps_updVr h

theorem keeps_vuFailure (h : Keeps s t) {c pc attempt} : Keeps s (vuFailure c pc attempt t) :=
  keeps_post (keeps_trace (keeps_updVu h))

theorem keeps_vuFailures (h : Keeps s t) {c pc n} : Keeps s (vuFailures c pc n t) := by
  grind [vuFailures, ← Keeps.foldl, ← keeps_vuFailure]

theorem keeps_vuHold (h : Keeps s t) {c pc n by_} : Keeps s (vuHold c pc n by_ t) :=
  keeps_repairHold (keeps_updVu (keeps_vuFailures h))

theorem keeps_writeLanes (h : Keeps s t) {c k w pr vd f} : Keeps s (writeLanes t c k w pr vd f) :=
  keeps_countEv (keeps_setV h)

theorem keeps_vdwFault (h : Keeps s t) {c b} : Keeps s (vdwFault t c b) := keeps_vuFault h

theorem keeps_dwWindowFill (h : Keeps s t) {core} : Keeps s (dwWindowFill core t) := by
  unfold dwWindowFill
  dsimp only
  split
  · exact h
  · split
    · exact h
    · exact keeps_readRows h fun _ hu => keeps_updVu hu

theorem keeps_dwCommitRow (h : Keeps s t) {s0 c p half m} : Keeps s (dwCommitRow s0 c p half m t) := by
  unfold dwCommitRow
  exact keeps_setBankRow h

theorem keeps_dwCommit (h : Keeps s t) {c p} : Keeps s (dwCommit t c p) := by
  unfold dwCommit
  refine keeps_countCore (keeps_updCore ?_)
  refine Keeps.foldl (fun u half hu => ?_) _ h
  exact Keeps.foldl (fun v m hv => keeps_dwCommitRow hv) _ hu

theorem keeps_vdwCommit (h : Keeps s t) {core fails ecc} : Keeps s (vdwCommit core fails ecc t) := by
  unfold vdwCommit
  dsimp only
  split
  · refine .ite h (keeps_readRows h fun u hu => .ite (keeps_vuHold hu) ?_)
    split
    · exact .ite (keeps_coreFault (keeps_updTa (keeps_vuFailures hu)))
        (keeps_dwCommit (keeps_updTa (keeps_vuFailures hu)))
    · exact .ite (keeps_coreFault (keeps_readBank (keeps_updTa (keeps_vuFailures hu))))
        (keeps_dwCommit (keeps_readBank (keeps_updTa (keeps_vuFailures hu))))
  · exact h

end Sys2Proof.Proofs
end

section
/-! PROOF. Host memory and the queue (II). The same of contexts, fences, Baskets, the ATU, frames, links and repair. -/

namespace Sys2Proof.Proofs

open Sys2Proof Sys2Proof.Machine Sys2Proof.Says Sys2Proof.Laws

variable {s t : State}

theorem keeps_gated (h : Keeps s t) {off v i ok dom f} (hg : Keeps s (f t)) : Keeps s (gated t off v i ok dom f) := by
  unfold gated
  apply_rules [keeps_regRefused, Keeps.ite]

theorem keeps_setTword (h : Keeps s t) {w x} : Keeps s (setTword t w x) := keeps_with h

theorem keeps_temperStart (h : Keeps s t) {l} : Keeps s (temperStart t l) := keeps_with h

theorem keeps_temperBegin (h : Keeps s t) {w v} : Keeps s (temperBegin t w v) := keeps_with (keeps_setTword h)

theorem keeps_temperTry (h : Keeps s t) {i value data} : Keeps s (temperTry t i value data) := by
  unfold temperTry
  exact .ite (keeps_regRefused h) (.ite (keeps_regReserved h) (.ite (keeps_regRefused h) (keeps_temperBegin h)))

theorem keeps_temperWear (h : Keeps s t) : Keeps s (temperWear t) := keeps_postReplace h

theorem keeps_temperPump (h : Keeps s t) : Keeps s (temperPump t) := by
  unfold temperPump
  repeat' split
  all_goals apply_rules [keeps_temperBegin, keeps_with, Keeps.ite]

theorem keeps_forgeTemper (h : Keeps s t) {w v routine} : Keeps s (forgeTemper t w v routine) := by
  grind [forgeTemper, ← keeps_with, ← keeps_temperPump]

theorem keeps_temperCommitDone (h : Keeps s t) {failA failB} : Keeps s (temperCommitDone failA failB t) := by
  grind [temperCommitDone, ← keeps_setTword, ← keeps_with, ← keeps_temperWear, ← keeps_temperPump]

theorem keeps_tickCore (h : Keeps s t) {n gated c} : Keeps s (tickCore n gated t c) := by
  unfold tickCore
  apply_rules [keeps_countCore, keeps_updSeq, Keeps.ite]

theorem keeps_tickTasks (h : Keeps s t) : Keeps s (tickTasks t) := keeps_with h

theorem keeps_tickClocks (h : Keeps s t) : Keeps s (tickClocks t) := by
  grind [tickClocks, ← keeps_with, ← Keeps.foldl, ← keeps_tickCore]

theorem keeps_linkPump (h : Keeps s t) {l} : Keeps s (linkPump t l) := by
  unfold linkPump
  apply_rules [keeps_setLink, keeps_count, Keeps.ite]

theorem keeps_queueFlits (h : Keeps s t) {l fs} : Keeps s (queueFlits t l fs) := keeps_linkPump (keeps_updLink h)

theorem keeps_startTxn (h : Keeps s t) {l vc x value lines} : Keeps s (startTxn t l vc x value lines) := by
  unfold startTxn
  dsimp only
  split
  · exact h
  · exact keeps_queueFlits (keeps_updLink h)

theorem keeps_sendFenceSig (h : Keeps s t) {l off g} : Keeps s (sendFenceSig t l off g) := keeps_startTxn h

theorem keeps_beginCmd (h : Keeps s t) {c st} : Keeps s (beginCmd t c st) := keeps_updCtx h

theorem keeps_finishCmd (h : Keeps s t) {c} : Keeps s (finishCmd t c) := keeps_updCtx h

theorem keeps_releaseWait (h : Keeps s t) {word w} : Keeps s (releaseWait word t w) := by
  unfold releaseWait
  split <;> apply_rules [keeps_cmdFault, keeps_finishCmd, Keeps.ite]

theorem keeps_testFence (h : Keeps s t) {a word} : Keeps s (testFence t a word) := by
  grind [testFence, ← Keeps.foldl, ← keeps_releaseWait, ← keeps_with]

theorem keeps_joinWatch (h : Keeps s t) {a w} : Keeps s (joinWatch t a w) := by
  grind [joinWatch, ← keeps_with, ← keeps_post]

theorem keeps_fenceError (h : Keeps s t) {c a} : Keeps s (fenceError t c a) := keeps_post h

theorem keeps_fenceWaitStart (h : Keeps s t) {ctx} : Keeps s (fenceWaitStart ctx t) := by
  unfold fenceWaitStart
  dsimp only
  split
  · exact .ite h (.ite (keeps_cmdFault h) (.ite (keeps_cmdFault h) (.ite (keeps_addrFault (keeps_fenceError h))
      (keeps_with (keeps_beginCmd h)))))
  · exact h

theorem keeps_fenceReadFails (h : Keeps s t) {a resp} : Keeps s (fenceReadFails t a resp) := by
  grind [fenceReadFails, ← keeps_fenceError, ← Keeps.foldl, ← keeps_addrFault]

theorem keeps_reRegister (h : Keeps s t) {a} : Keeps s (reRegister t a) := keeps_with h

theorem keeps_fenceRead (h : Keeps s t) {addr resp} : Keeps s (fenceRead addr resp t) := by
  unfold fenceRead
  split <;> grind [← keeps_with, ← keeps_testFence, ← Keeps.foldl, ← keeps_releaseWait, ← keeps_joinWatch,
      ← keeps_fenceReadFails]

theorem keeps_fenceReadResponse (h : Keeps s t) {addr resp ecc outside} :
    Keeps s (fenceReadResponse addr resp ecc outside t) :=
  have htable := keeps_tableEcc (keeps_outside h)
  .ite (keeps_reRegister htable) (keeps_fenceRead htable)

theorem keeps_readFence (h : Keeps s t) {a} : Keeps s (readFence t a) := keeps_testFence h

theorem keeps_readWatched (h : Keeps s t) : Keeps s (readWatched t) := by
  grind [readWatched, ← Keeps.foldl, ← keeps_readFence]

theorem keeps_watchPoll (h : Keeps s t) {outside} : Keeps s (watchPoll outside t) :=
  Keeps.foldl (fun _ _ hu => keeps_readFence hu) _ (keeps_with (keeps_readWatched (keeps_outside h)))

theorem keeps_fuNotify (h : Keeps s t) {outside} : Keeps s (fuNotify outside t) :=
  keeps_readWatched (keeps_outside h)

theorem keeps_fenceTimeout (h : Keeps s t) {ctx} : Keeps s (fenceTimeout ctx t) := by
  unfold fenceTimeout
  dsimp only
  split <;> apply_rules [keeps_cmdFault, Keeps.ite]

theorem keeps_fenceSignalStart (h : Keeps s t) {ctx} : Keeps s (fenceSignalStart ctx t) := by
  unfold fenceSignalStart
  dsimp only
  split
  · exact .ite h (.ite (keeps_cmdFault (keeps_post h)) (.ite (keeps_addrFault (keeps_fenceError h))
      (keeps_with (keeps_updCtx (keeps_beginCmd h)))))
  · exact h

theorem keeps_fenceRaise (h : Keeps s t) {c a w} : Keeps s (fenceRaise t c a w).2 := by
  have hstored : ∀ v, Keeps s { t with mem := wr64 t.mem a.toNat v } := fun v => keeps_stored h (memWf_wr64 _ _)
  unfold fenceRaise
  extract_lets old new raised _ noted
  have hnoted : Keeps s noted := .ite (keeps_post (keeps_with (hstored new))) (hstored new)
  clear_value noted
  exact keeps_testFence hnoted

theorem keeps_sigVector (h : Keeps s t) {g} : Keeps s (sigVector t g) := by
  unfold sigVector
  split <;> apply_rules [keeps_intEvent, Keeps.ite]

theorem keeps_sigDone (h : Keeps s t) {g} : Keeps s (sigDone t g) := by
  unfold sigDone
  split <;> apply_rules [keeps_sigVector, keeps_finishCmd, Keeps.ite]

theorem keeps_sigFails (h : Keeps s t) {g reason} : Keeps s (sigFails t g reason) := by
  unfold sigFails
  split <;> apply_rules [keeps_fenceError, keeps_addrFault, keeps_sigVector, Keeps.ite]

theorem keeps_sigOver (h : Keeps s t) {g} : Keeps s (sigOver t g) := by
  unfold sigOver
  split <;> apply_rules [keeps_endTeardown, Keeps.ite]

theorem keeps_fenceAtomicResponse (h : Keeps s t) {resp} : Keeps s (fenceAtomicResponse resp t) := by
  unfold fenceAtomicResponse
  split
  · exact h
  · next g l _ =>
    have hnext : Keeps s { t with fu := { t.fu with signals := l } } := keeps_with h
    split
    · exact keeps_sigOver (keeps_sigVector (keeps_fenceError hnext))
    · split
      · exact .ite (keeps_sigOver (keeps_sigFails hnext)) (.ite h (keeps_sendFenceSig hnext))
      · refine keeps_sigOver ?_
        split
        · exact keeps_sigDone (keeps_fenceRaise hnext)
        · exact keeps_sigFails (keeps_scramble hnext)
        · exact keeps_sigFails (keeps_scramble hnext)

theorem keeps_commandFetch (h : Keeps s t) {ctx ecc} : Keeps s (commandFetch ctx ecc t) := by
  unfold commandFetch
  dsimp only
  split
  · refine .ite (keeps_cmdFault (keeps_tableEcc h)) (.ite (keeps_cmdFault (keeps_tableEcc h)) ?_)
    split
    · exact keeps_cmdFault (keeps_tableEcc h)
    · exact keeps_updCtx (keeps_tableEcc h)
  · exact h

theorem keeps_beginExec (h : Keeps s t) {c e} : Keeps s (beginExec t c e) := by
  unfold beginExec
  split <;> apply_rules [keeps_cmdFault, keeps_count, keeps_updCtx, Keeps.ite]

theorem keeps_startExec (h : Keeps s t) {ctx} : Keeps s (startExec ctx t) := by
  unfold startExec
  split <;> apply_rules [keeps_beginExec, Keeps.ite]

/-- `putLine` is unfolded as a function: applied, the kernel would compute the address test of `apertureOf`. -/
theorem keeps_putLine (h : Keeps s t) {c pa d} : Keeps s (putLine t c pa d) := by
  rw [show putLine = delta% putLine from rfl]
  dsimp only
  split
  · exact keeps_updLink h
  · exact keeps_stored h (memWf_wrNat _ _ _)

theorem keeps_copyLines {c b slot n src dst} (h : Keeps s t) : Keeps s (copyLines c b slot n src dst t) := by
  induction n generalizing t src dst with
  | zero => exact keeps_finishCmd h
  | succ n ih =>
    rw [copyLines]
    dsimp only
    split
    · split
      · exact ih (keeps_putLine (keeps_translate (keeps_translate h)))
      · exact keeps_xlatFault (keeps_translate (keeps_translate h))
    · exact keeps_xlatFault (keeps_translate h)

theorem keeps_copyStart (h : Keeps s t) {ctx} : Keeps s (copyStart ctx t) := by
  grind [copyStart, ← keeps_beginCmd, ← keeps_with, ← keeps_copyLines]

theorem keeps_barrierStart (h : Keeps s t) {ctx} : Keeps s (barrierStart ctx t) := by
  unfold barrierStart
  split <;> apply_rules [keeps_beginCmd, Keeps.ite]

theorem keeps_barrierRelease (h : Keeps s t) {ctx} : Keeps s (barrierRelease ctx t) := by
  unfold barrierRelease
  dsimp only
  split <;> apply_rules [keeps_finishCmd, keeps_cmdFault, Keeps.ite]

theorem keeps_barrierTimeout (h : Keeps s t) {ctx} : Keeps s (barrierTimeout ctx t) := by
  unfold barrierTimeout
  dsimp only
  split <;> apply_rules [keeps_cmdFault, Keeps.ite]

theorem keeps_commandComplete (h : Keeps s t) {ctx} : Keeps s (commandComplete ctx t) := by
  unfold commandComplete
  apply_rules [keeps_updCtx, keeps_setCtx, keeps_fromWait, keeps_toIdle, Keeps.ite]

theorem keeps_ctxCmd (h : Keeps s t) {i c op f} (hg : Keeps s (f t)) : Keeps s (ctxCmd t i c op f) := by
  unfold ctxCmd
  apply_rules [keeps_gated, Keeps.ite]

theorem keeps_withdrawWait (h : Keeps s t) {c} : Keeps s (withdrawWait t c) := keeps_updCtx (keeps_with h)

theorem keeps_stopCtx (h : Keeps s t) {c} : Keeps s (stopCtx t c) := by
  unfold stopCtx
  dsimp only
  split <;> apply_rules [keeps_setState, keeps_withdrawWait, keeps_setCtx, Keeps.ite]

theorem keeps_startCtx (h : Keeps s t) {i c} : Keeps s (startCtx t i c) := by
  unfold startCtx
  apply_rules [keeps_setCtx, keeps_regRefused, Keeps.ite]

theorem keeps_resetCtx (h : Keeps s t) {i c} : Keeps s (resetCtx t i c) := by
  unfold resetCtx
  apply_rules [keeps_setCtx, keeps_regRefused, Keeps.ite]

theorem keeps_freeCtx (h : Keeps s t) {c} : Keeps s (freeCtx t c) := by
  unfold freeCtx
  apply_rules [keeps_closeWindows, keeps_dropOcc, keeps_updCtx, keeps_dropStoreReq, keeps_with, Keeps.ite]

theorem keeps_bindCtx (h : Keeps s t) {c b prio grant} : Keeps s (bindCtx t c b prio grant) := keeps_updCtx h

theorem keeps_clearValid (h : Keeps s t) {i c} : Keeps s (clearValid t i c) := by
  unfold clearValid
  dsimp only
  split
  · exact h
  · exact keeps_freeCtx h
  · exact keeps_freeCtx h
  · exact keeps_regRefused h

theorem keeps_doorbellRefused (h : Keeps s t) {c v} : Keeps s (doorbellRefused t c v) := keeps_post h

theorem keeps_ringTo (h : Keeps s t) {c v} : Keeps s (ringTo t c v) := keeps_updCtx h

theorem keeps_doorbell (h : Keeps s t) {i ctx v outside} : Keeps s (doorbell i ctx v outside t) :=
  .ite (keeps_doorbellRefused (keeps_outside h)) (keeps_ringTo (keeps_outside h))

theorem keeps_unmaskVec (h : Keeps s t) {v} : Keeps s (unmaskVec t v) := by
  unfold unmaskVec
  dsimp only
  split <;> apply_rules [keeps_with, keeps_sendMsi, Keeps.ite]

theorem keeps_vectorUnmask (h : Keeps s t) {i vec} : Keeps s (vectorUnmask i vec t) := by
  unfold vectorUnmask
  apply_rules [keeps_gated, keeps_unmaskVec, keeps_regReserved, Keeps.ite]

theorem keeps_msiWriteError (h : Keeps s t) : Keeps s (msiWriteError t) := keeps_with h

theorem keeps_geqDrop (h : Keeps s t) {l} : Keeps s (geqDrop t l) := keeps_tableEcc (keeps_with h)

theorem keeps_geqRingWrite (h : Keeps s t) {ecc} : Keeps s (geqRingWrite ecc t) := by
  unfold geqRingWrite
  split
  · exact h
  · refine .ite h (.ite (keeps_geqDrop h) (keeps_intEvent (keeps_count ?_)))
    exact (keeps_tableEcc h).store rfl (memWf_wrNat _ _ _)

theorem keeps_geqWriteError (h : Keeps s t) : Keeps s (geqWriteError t) := by
  unfold geqWriteError
  split
  · exact keeps_intEvent (keeps_with (keeps_scramble h))
  · exact h

theorem keeps_geqEnableTo (h : Keeps s t) : Keeps s (geqEnableTo t) := by
  unfold geqEnableTo
  split <;> apply_rules [keeps_with, Keeps.ite]

theorem keeps_mbxPut (h : Keeps s t) {op status tag words} : Keeps s (mbxPut t op status tag words) :=
  keeps_intEvent (keeps_with h)

theorem keeps_mbxReply (h : Keeps s t) {status words} : Keeps s (mbxReply t status words) :=
  keeps_mbxPut (keeps_with h)

theorem keeps_mbxKeep (h : Keeps s t) : Keeps s (mbxKeep t) := by
  unfold mbxKeep
  split <;> apply_rules [keeps_with, Keeps.ite]

theorem keeps_mbxRow (h : Keeps s t) {op f} (hg : Keeps s (f t)) : Keeps s (mbxRow t op f) := by
  unfold mbxRow
  apply_rules [Keeps.ite]

theorem keeps_mbxOpRow (h : Keeps s t) {op used f} (hg : Keeps s (f t)) : Keeps s (mbxOpRow t op used f) := by
  unfold mbxOpRow
  apply_rules [keeps_mbxRow, keeps_mbxReply, Keeps.ite]

theorem keeps_mbxDoorbell (h : Keeps s t) : Keeps s (mbxDoorbell t) := by
  unfold mbxDoorbell
  split <;> apply_rules [keeps_post, keeps_with, Keeps.ite]

theorem keeps_mbxAck (h : Keeps s t) : Keeps s (mbxAck t) := keeps_with h

theorem keeps_storeGrantOf (h : Keeps s t) {c g} : Keeps s (storeGrantOf t c g) := keeps_mbxReply (keeps_updCtx h)

theorem keeps_queryAnswer (h : Keeps s t) : Keeps s (queryAnswer t) := keeps_mbxReply (keeps_with h)

theorem keeps_writeEvicted (h : Keeps s t) {x c i k} : Keeps s (writeEvicted t x c i k) := by
  unfold writeEvicted
  extract_lets _ _ _ _ _ _ m credited named
  have hnamed : Keeps s named :=
    keeps_updCtx (keeps_takeCredit (keeps_stored h fun hm => memWf_putW (memWf_putRows hm)))
  exact .ite hnamed (keeps_updBsk hnamed)

theorem keeps_evictRegion (h : Keeps s t) {c r} : Keeps s (evictRegion t c r) := by
  unfold evictRegion
  split
  · exact h
  · dsimp only
    split
    · exact keeps_setOcc h
    · exact .ite (keeps_writeEvicted (keeps_setOcc h)) (keeps_addrFault (keeps_setOcc h))

theorem keeps_requestStop (h : Keeps s t) {x} : Keeps s (requestStop t x) := keeps_updCtx h

theorem keeps_drainEvict (h : Keeps s t) {b} : Keeps s (drainEvict t b) := by
  grind [drainEvict, ← Keeps.foldl, ← keeps_evictRegion]

theorem keeps_drainBegin (h : Keeps s t) {b} : Keeps s (drainBegin t b) :=
  keeps_drainEvict (Keeps.foldl (fun _ _ hu => keeps_requestStop hu) _ (keeps_updBsk h))

theorem keeps_drainDone (h : Keeps s t) {b} : Keeps s (drainDone t b) := by
  unfold drainDone
  apply_rules [keeps_drainEvict, keeps_updBsk, keeps_inboxPut, Keeps.ite]

theorem keeps_dropOccCores (h : Keeps s t) {l} : Keeps s (dropOccCores t l) := keeps_with h

theorem keeps_bskCtlFields (h : Keeps s t) {i b v} : Keeps s (bskCtlFields t i b v) := by
  unfold bskCtlFields
  apply_rules [keeps_updBsk, keeps_regReserved, Keeps.ite]

theorem keeps_bskCtlWrite (h : Keeps s t) {i b v} : Keeps s (bskCtlWrite t i b v) := by
  unfold bskCtlWrite
  apply_rules [keeps_regRefused, keeps_bskCtlFields, keeps_updBsk, keeps_drainBegin, keeps_dropOccCores, Keeps.ite]

theorem keeps_bskCtlRow (h : Keeps s t) {i b set clear} : Keeps s (bskCtlRow t i b set clear) := by
  unfold bskCtlRow
  apply_rules [keeps_gated, keeps_bskCtlWrite, Keeps.ite]

theorem keeps_bskCoresWrite (h : Keeps s t) {i b v} : Keeps s (bskCoresWrite t i b v) := by
  unfold bskCoresWrite
  apply_rules [keeps_setBsk, keeps_regRefused, Keeps.ite]

theorem keeps_bskSegsWrite (h : Keeps s t) {i b v} : Keeps s (bskSegsWrite t i b v) := by
  unfold bskSegsWrite
  apply_rules [keeps_setBsk, keeps_regRefused, Keeps.ite]

theorem keeps_bskRegionWrite (h : Keeps s t) {i b r v} : Keeps s (bskRegionWrite t i b r v) := by
  unfold bskRegionWrite
  exact .ite (.ite (keeps_setBsk h) (keeps_regReserved (keeps_setBsk h))) (keeps_regRefused h)

theorem keeps_bskResetDone (h : Keeps s t) {i b v} : Keeps s (bskResetDone t i b v) := by
  grind [bskResetDone, ← keeps_regRefused, ← Keeps.foldl, ← keeps_cmdFault, ← keeps_updCore, ← keeps_dropOccCores,
      ← keeps_with, ← keeps_postBsk]

theorem keeps_placeWrite (h : Keeps s t) {i c v} : Keeps s (placeWrite t i c v) := by
  unfold placeWrite
  apply_rules [keeps_regRefused, keeps_updCtx, Keeps.ite]

theorem keeps_setRate (h : Keeps s t) {b rate depth} : Keeps s (setRate t b rate depth) := keeps_setBw h

theorem keeps_basketCreate (h : Keeps s t) : Keeps s (basketCreate t) := by
  unfold basketCreate
  split <;> apply_rules [keeps_mbxReply, keeps_setRate, keeps_setBsk, Keeps.ite]

theorem keeps_freeBasket (h : Keeps s t) {b} : Keeps s (freeBasket t b) :=
  keeps_setRate (keeps_dropOccCores (keeps_setBsk h))

theorem keeps_basketDestroy (h : Keeps s t) : Keeps s (basketDestroy t) := by
  unfold basketDestroy
  apply_rules [keeps_mbxReply, keeps_freeBasket, Keeps.ite]

theorem keeps_contextBind (h : Keeps s t) : Keeps s (contextBind t) := by
  unfold contextBind
  apply_rules [keeps_mbxReply, keeps_bindCtx, keeps_updCtx, Keeps.ite]

theorem keeps_contextUnbind (h : Keeps s t) : Keeps s (contextUnbind t) := by
  unfold contextUnbind
  exact .ite (keeps_mbxReply h) (.ite (keeps_mbxReply (keeps_freeCtx h)) (keeps_mbxReply h))

theorem keeps_stopVictims {need l} (h : Keeps s t) : Keeps s (stopVictims need l t) := by
  induction l generalizing t need with
  | nil => rw [stopVictims]; exact h
  | cons x l ih =>
    rw [stopVictims]
    exact .ite h (ih (keeps_requestStop h))

theorem keeps_preemptFor (h : Keeps s t) {b x need} : Keeps s (preemptFor t b x need) := by
  unfold preemptFor
  apply_rules [keeps_stopVictims, Keeps.ite]

theorem keeps_evictMoved (h : Keeps s t) {x k cores} : Keeps s (evictMoved t x k cores) :=
  Keeps.foldl (fun _ _ hu => .ite (keeps_evictRegion hu) hu) _ h

theorem keeps_zeroRows (h : Keeps s t) {c base n} : Keeps s (zeroRows t c base n) := by
  grind [zeroRows, ← Keeps.foldl, ← keeps_writeRow]

theorem keeps_claimCore (h : Keeps s t) {x c base n} : Keeps s (claimCore t x c base n) := by
  grind [claimCore, ← Keeps.foldl, ← keeps_evictRegion, ← keeps_zeroRows, ← keeps_setOcc]

theorem keeps_loadCore (h : Keeps s t) {c x i e img ds} : Keeps s (loadCore t c x i e img ds) := keeps_updCore h

theorem keeps_resumeCore (h : Keeps s t) {x t' i c} : Keeps s (resumeCore t x t' i c) := by
  unfold resumeCore
  apply_rules [keeps_updCore, Keeps.ite]

theorem keeps_rangeFault (h : Keeps s t) {x c} : Keeps s (rangeFault t x c) := keeps_tearDown (keeps_updPan h)

theorem keeps_placeFault (h : Keeps s t) {x t' cores} : ∀ {u}, placeFault t x t' cores = some u → Keeps s u := by
  grind [placeFault, ← keeps_addrFault, ← keeps_rangeFault, ← keeps_cmdFault]

theorem keeps_dispatchTrace (h : Keeps s t) {x t' cores} : Keeps s (dispatchTrace t x t' cores) := by
  unfold dispatchTrace
  apply_rules [keeps_trace, Keeps.ite]

theorem keeps_runTask (h : Keeps s t) {x k cores} : Keeps s (runTask t x k cores) := by
  unfold runTask
  extract_lets _ _ _ _ _ _ _ claimed _ _ _ loaded _ started _ _ _ counted _
  have hclaimed : Keeps s claimed :=
    Keeps.foldl (fun _ _ hu => keeps_claimCore hu) _ (keeps_evictMoved (keeps_takeCredit h))
  have hloaded : Keeps s loaded := Keeps.foldl (fun _ _ hu => keeps_loadCore hu) _ hclaimed
  have hstarted : Keeps s started := Keeps.foldl (fun _ _ hu =>
    .ite (keeps_updCore hu) (.ite (keeps_resumeCore hu) (keeps_updCore hu))) _ hloaded
  have hcounted : Keeps s counted := keeps_with (keeps_dispatchTrace hstarted)
  exact keeps_updCtx (.ite hcounted (keeps_moveLines hcounted))

theorem keeps_placeCandidate (h : Keeps s t) {x k cores} : Keeps s (placeCandidate t x k cores) := by
  unfold placeCandidate
  split
  · next u hu => exact keeps_placeFault h hu
  · refine .ite h ?_
    dsimp only
    split
    · exact keeps_xlatFault (keeps_translateAll h)
    · exact keeps_runTask (keeps_translateAll h)

theorem keeps_dispatch (h : Keeps s t) {b ecc} : Keeps s (dispatch b ecc t) := by
  unfold dispatch
  dsimp only
  repeat' split
  all_goals apply_rules [keeps_tableEcc, keeps_cmdFault, keeps_preemptFor, keeps_setState, keeps_placeCandidate,
      Keeps.ite]

theorem keeps_listBuild (h : Keeps s t) {ctx lost} : Keeps s (listBuild ctx lost t) := by
  unfold listBuild
  dsimp only
  repeat' split
  all_goals apply_rules [keeps_buildLists, keeps_updCtx, Keeps.ite]

theorem keeps_measure (h : Keeps s t) {x k} : Keeps s (Machine.measure t x k) := by
  unfold Machine.measure
  exact .ite (keeps_trace h) (.ite (keeps_post (keeps_setCtx (keeps_trace h))) (keeps_setCtx (keeps_trace h)))

theorem keeps_taskEnd (h : Keeps s t) {ctx} : Keeps s (taskEnd ctx t) := by
  unfold taskEnd
  dsimp only
  repeat' split
  all_goals apply_rules [keeps_brdFaultAt, keeps_releaseCores, keeps_dropBundles, keeps_measure, keeps_finishCmd,
      keeps_updCtx, Keeps.ite]

theorem keeps_stopTask (h : Keeps s t) {x} : Keeps s (stopTask t x) := by
  unfold stopTask
  split <;> apply_rules [keeps_updCtx, keeps_switchOut, keeps_count, keeps_updBsk, keeps_trace, Keeps.ite]

theorem keeps_yieldCorrected (h : Keeps s t) {l} : Keeps s (yieldCorrected t l) := by
  grind [yieldCorrected, ← Keeps.foldl, ← keeps_updCore]

theorem keeps_passBarrier (h : Keeps s t) {x t'} : Keeps s (passBarrier t x t') := by
  grind [passBarrier, ← Keeps.foldl, ← keeps_deliverAll, ← keeps_countCore, ← keeps_updCore, ← keeps_updCtx,
      ← keeps_stopTask]

theorem keeps_yieldBarrier (h : Keeps s t) {ctx ecc} : Keeps s (yieldBarrier ctx ecc t) := by
  unfold yieldBarrier
  dsimp only
  repeat' split
  all_goals apply_rules [keeps_yieldCorrected, keeps_vuFault, keeps_passBarrier, Keeps.ite]

theorem keeps_sliceExpiry (h : Keeps s t) {ctx} : Keeps s (sliceExpiry ctx t) := by
  unfold sliceExpiry
  dsimp only
  split <;> apply_rules [keeps_setCtx, Keeps.ite]

theorem keeps_deliverEpochs (h : Keeps s t) : Keeps s (deliverEpochs t) := keeps_with h

theorem keeps_fillWalkers {n} (h : Keeps s t) : Keeps s (fillWalkers n t) := by
  induction n generalizing t with
  | zero => exact h
  | succ n ih =>
    rw [fillWalkers]
    split
    · exact ih (keeps_freeWalker h)
    · exact h

theorem keeps_purgeSlots (h : Keeps s t) {p} : Keeps s (purgeSlots t p) :=
  keeps_deliverEpochs (keeps_fillWalkers (keeps_with h))

theorem keeps_newEpoch (h : Keeps s t) {slot} : Keeps s (newEpoch t slot) := keeps_purgeSlots (keeps_with h)

theorem keeps_newEpochs (h : Keeps s t) : Keeps s (newEpochs t) := keeps_purgeSlots (keeps_with h)

theorem keeps_putSpace (h : Keeps s t) {slot x} : Keeps s (putSpace t slot x) := keeps_newEpoch (keeps_with h)

theorem keeps_spaceCommit (h : Keeps s t) {i} : Keeps s (spaceCommit t i) := by
  unfold spaceCommit
  apply_rules [keeps_post, keeps_regReserved, keeps_putSpace, Keeps.ite]

theorem keeps_spaceFlagsOf (h : Keeps s t) {slot engine forge} : Keeps s (spaceFlagsOf t slot engine forge) := by
  unfold spaceFlagsOf
  apply_rules [keeps_mbxReply, keeps_putSpace, Keeps.ite]

theorem keeps_lineFaults (h : Keeps s t) {slot l} : Keeps s (lineFaults t slot l) := by
  grind [lineFaults, ← Keeps.foldl, ← keeps_pageFault]

theorem keeps_lineErrors (h : Keeps s t) {l code reason addr} : Keeps s (lineErrors t l code reason addr) := by
  grind [lineErrors, ← Keeps.foldl, ← keeps_addrFault]

theorem keeps_leafIn (h : Keeps s t) {w pte l} : Keeps s (leafIn t w pte l) := by
  grind [leafIn, ← keeps_with, ← Keeps.foldl, ← keeps_updMem]

theorem keeps_endWalk (h : Keeps s t) {i} : Keeps s (endWalk t i) := keeps_freeWalker (keeps_walkDone h)

theorem keeps_walkLeaf (h : Keeps s t) {i w pte} : Keeps s (walkLeaf t i w pte) :=
  keeps_lineErrors (keeps_lineFaults (keeps_leafIn (keeps_endWalk h)))

theorem keeps_walkStep (h : Keeps s t) {i w resp} : Keeps s (walkStep t i w resp) := by
  unfold walkStep
  split <;> grind [← keeps_takeCredit, ← keeps_lineErrors, ← keeps_endWalk, ← keeps_setWalk, ← keeps_walkLeaf,
      ← keeps_lineFaults]

theorem keeps_pteReadResponse (h : Keeps s t) {walker resp} : Keeps s (pteReadResponse walker resp t) := by
  unfold pteReadResponse
  dsimp only
  split <;> apply_rules [keeps_lineErrors, keeps_endWalk, keeps_walkStep, Keeps.ite]

theorem keeps_retryCtx (h : Keeps s t) {x} : Keeps s (retryCtx t x) := by
  unfold retryCtx
  apply_rules [keeps_setCtx, Keeps.ite]

theorem keeps_faultRespond (h : Keeps s t) {id act} : Keeps s (faultRespond t id act) := by
  grind [faultRespond, ← keeps_post, ← keeps_with, ← keeps_closeRec, ← Keeps.foldl, ← keeps_retryCtx,
      ← keeps_abortCtxs]

theorem keeps_faultAnswer (h : Keeps s t) {i id act} : Keeps s (faultAnswer t i id act) := by
  unfold faultAnswer
  apply_rules [keeps_gated, keeps_faultRespond, Keeps.ite]

theorem keeps_faultTimeout (h : Keeps s t) {id ecc} : Keeps s (faultTimeout id ecc t) := by
  unfold faultTimeout
  split <;> apply_rules [keeps_tableEcc, keeps_closeRec, keeps_abortCtxs, keeps_post, Keeps.ite]

theorem keeps_lateStore (h : Keeps s t) {core pa silent reason} : Keeps s (lateStore t core pa silent reason) := by
  unfold lateStore
  split <;> apply_rules [keeps_addrFault, keeps_scramble, Keeps.ite]

theorem keeps_loadFails (h : Keeps s t) {c tag line silent} : Keeps s (loadFails t c tag line silent) := by
  unfold loadFails
  dsimp only
  repeat' split
  all_goals apply_rules [keeps_updMem, keeps_addrFault, Keeps.ite]

theorem keeps_storeFails (h : Keeps s t) {c tg pa silent} : Keeps s (storeFails t c tg pa silent) := by
  unfold storeFails
  repeat' split
  all_goals apply_rules [keeps_addrFault, keeps_scramble, keeps_lateStore, Keeps.ite]

theorem keeps_saveFails (h : Keeps s t) {x pa write silent} : Keeps s (saveFails t x pa write silent) := by
  unfold saveFails
  dsimp only
  split <;> apply_rules [keeps_addrFault, keeps_scramble, Keeps.ite]

theorem keeps_commandFails (h : Keeps s t) {x pa write silent} : Keeps s (commandFails t x pa write silent) := by
  unfold commandFails
  apply_rules [keeps_addrFault, keeps_scramble, Keeps.ite]

theorem keeps_memFails (h : Keeps s t) {r silent} : Keeps s (memFails t r silent) := by
  unfold memFails
  repeat' split
  all_goals apply_rules [keeps_loadFails, keeps_storeFails, keeps_addrFault, keeps_saveFails, keeps_commandFails,
      Keeps.ite]

theorem keeps_invApply (h : Keeps s t) : Keeps s (invApply t) := by
  unfold invApply
  repeat' split
  all_goals apply_rules [keeps_newEpoch, keeps_newEpochs, keeps_with, Keeps.ite]

theorem keeps_invalidation (h : Keeps s t) {k outside} : Keeps s (invalidation k outside t) := by
  unfold invalidation
  refine .ite (keeps_outside h) ?_
  dsimp only
  split
  · exact keeps_count (keeps_with (keeps_outside h))
  · exact .ite (keeps_invApply (keeps_with (keeps_count (keeps_with (keeps_outside h)))))
      (keeps_with (keeps_count (keeps_with (keeps_outside h))))

theorem keeps_invalidationAck (h : Keeps s t) : Keeps s (invalidationAck t) := by
  unfold invalidationAck
  repeat' split
  all_goals apply_rules [keeps_invApply, keeps_with, Keeps.ite]

theorem keeps_grantCredit {b l} (h : Keeps s t) : Keeps s (grantCredit b l t) := by
  induction l generalizing t with
  | nil => exact h
  | cons e l ih =>
    rw [grantCredit]
    exact .ite (ih h) (.ite (ih (keeps_updMem (keeps_setBw h))) (ih (keeps_setBw h)))

theorem keeps_addCredit (h : Keeps s t) {b} : Keeps s (addCredit t b) := keeps_grantCredit (keeps_setBw h)

theorem keeps_creditAdd (h : Keeps s t) : Keeps s (creditAdd t) :=
  .ite (Keeps.foldl (fun _ _ hu => keeps_addCredit hu) _ (keeps_with h)) h

theorem keeps_bwWrite (h : Keeps s t) {i b v} : Keeps s (bwWrite t i b v) := by
  unfold bwWrite
  exact .ite (keeps_regRefused h) (.ite (keeps_setRate h) (keeps_regReserved (keeps_setRate h)))

theorem keeps_atuCtlDone (h : Keeps s t) {v} : Keeps s (atuCtlDone t v) := keeps_with h

theorem keeps_releaseWrite (h : Keeps s t) {v} : Keeps s (releaseWrite t v) :=
  h.store rfl (memWf_wr32 _ _)

theorem keeps_frameSignal (h : Keeps s t) {f} : Keeps s (frameSignal t f) := by
  unfold frameSignal
  split <;> apply_rules [keeps_with, Keeps.ite]

theorem keeps_fpPost (h : Keeps s t) {code h'} : Keeps s (fpPost t code h') := keeps_post h

theorem keeps_frameReject (h : Keeps s t) {code h' d} : Keeps s (frameReject t code h' d) := by
  unfold frameReject
  apply_rules [keeps_fpPost, keeps_releaseWrite, Keeps.ite]

theorem keeps_frameDrop (h : Keeps s t) {h' d} : Keeps s (frameDrop t h' d) := by
  grind [frameDrop, ← keeps_fpPost, ← keeps_with, ← keeps_releaseWrite, ← keeps_frameSignal]

theorem keeps_templatePut (h : Keeps s t) {v desc e} : Keeps s (templatePut v desc t e) :=
  keeps_ringTo (keeps_stored h (memWf_wrBytes _ _))

theorem keeps_frameHandle (h : Keeps s t) {v outside} : Keeps s (frameHandle v outside t) := by
  have hout := keeps_outside (outside := outside) h
  unfold frameHandle
  exact .ite (keeps_fpPost hout) (.ite (keeps_frameDrop hout) (.ite (keeps_frameReject hout)
    (.ite (keeps_frameReject hout) (.ite (keeps_frameDrop hout)
      (Keeps.foldl (fun _ _ hu => keeps_templatePut hu) _ (keeps_trace (keeps_count (keeps_with hout))))))))

theorem keeps_frameFree (h : Keeps s t) {h'} : Keeps s (frameFree t h') := keeps_with h

theorem keeps_frameRelease (h : Keeps s t) {h' ecc} : Keeps s (frameRelease h' ecc t) := by
  unfold frameRelease
  split <;> apply_rules [keeps_fpPost, keeps_tableEcc, keeps_frameFree, keeps_frameSignal, keeps_releaseWrite,
      Keeps.ite]

theorem keeps_releaseFailed (h : Keeps s t) {h'} : Keeps s (releaseFailed h' t) := keeps_fpPost h

theorem keeps_frameStale (h : Keeps s t) {h'} : Keeps s (frameStale h' t) := by
  unfold frameStale
  split <;> apply_rules [keeps_fpPost, keeps_updFrames, Keeps.ite]

theorem keeps_linesLost (h : Keeps s t) {l ctx core window offset tag} :
    Keeps s (linesLost t l ctx core window offset tag) :=
  keeps_addrFault (keeps_post (keeps_with h))

theorem keeps_linesRefused (h : Keeps s t) {l t' tag status} : Keeps s (linesRefused t l t' tag status) :=
  keeps_addrFault (keeps_post h)

theorem keeps_freeDead (h : Keeps s t) {t'} : Keeps s (freeDead t t') := by
  unfold freeDead
  apply_rules [keeps_updMem, Keeps.ite]

theorem keeps_dropTxn (h : Keeps s t) {l tag} : Keeps s (dropTxn t l tag) := by
  unfold dropTxn
  split <;> apply_rules [keeps_freeDead, keeps_updLink, Keeps.ite]

theorem keeps_msgEnds (h : Keeps s t) {l status} : Keeps s (msgEnds t l status) := keeps_updLink h

theorem keeps_txnLost (h : Keeps s t) {l tag} : Keeps s (txnLost t l tag) := by
  grind [txnLost, ← keeps_dropTxn, ← keeps_sigOver, ← keeps_sigFails, ← keeps_msgEnds, ← keeps_with,
      ← keeps_linesLost]

theorem keeps_apLineLost (h : Keeps s t) {l a} : Keeps s (apLineLost l t a) := by
  unfold apLineLost
  apply_rules [keeps_updMem, keeps_linesLost, Keeps.ite]

theorem keeps_linkDown (h : Keeps s t) {l reason} : Keeps s (linkDown t l reason) := by
  grind [linkDown, ← Keeps.foldl, ← keeps_txnLost, ← keeps_apLineLost, ← keeps_updLink, ← keeps_post]

theorem keeps_linkProtocol (h : Keeps s t) {l} : Keeps s (linkProtocol t l) := keeps_post (keeps_linkDown h)

theorem keeps_sendRun (h : Keeps s t) {l r} : Keeps s (sendRun t l r) := by
  unfold sendRun
  split
  · exact h
  · exact .ite h (keeps_startTxn (keeps_updLink h))

theorem keeps_gatherLine (h : Keeps s t) {l a} : Keeps s (gatherLine t l a) := by
  grind [gatherLine, ← keeps_setLink, ← keeps_sendRun, ← Keeps.foldl, ← keeps_updLink]

theorem keeps_apertureLine (h : Keeps s t) {l} : Keeps s (apertureLine l t) := by
  unfold apertureLine
  dsimp only
  split <;> apply_rules [keeps_setLink, keeps_gatherLine, keeps_sentCheck, keeps_apLineLost, Keeps.ite]

theorem keeps_runTimeout (h : Keeps s t) {l core} : Keeps s (runTimeout l core t) := by
  grind [runTimeout, ← Keeps.foldl, ← keeps_sendRun]

theorem keeps_sendCompletion (h : Keeps s t) {l tag status old written data} :
    Keeps s (sendCompletion t l tag status old written data) :=
  keeps_queueFlits h

theorem keeps_setWin (h : Keeps s t) {l w x} : Keeps s (setWin t l w x) := keeps_updLink h

theorem keeps_winRefused (h : Keeps s t) {l b status} : Keeps s (winRefused t l b status) := by
  unfold winRefused
  apply_rules [keeps_setWin, keeps_post, Keeps.ite]

theorem keeps_setInb (h : Keeps s t) {l i} : Keeps s (setInb t l i) := keeps_updLink h

theorem keeps_inbFails (h : Keeps s t) {l i status} : Keeps s (inbFails t l i status) :=
  keeps_setInb (keeps_winRefused h)

theorem keeps_inbDiscard (h : Keeps s t) {l i} : Keeps s (inbDiscard t l i) := by
  unfold inbDiscard
  exact .ite (keeps_sendCompletion (keeps_setInb (keeps_setLink h))) (keeps_setLink h)

theorem keeps_applyRows {n l} (h : Keeps s t) : Keeps s (applyRows n l t) := by
  induction n generalizing t with
  | zero => exact h
  | succ n ih =>
    unfold applyRows
    split
    · exact h
    · refine .ite h ?_
      dsimp only
      split
      · exact keeps_inbFails h
      · exact .ite h (ih (keeps_updLink (.ite (keeps_acIncCtx (keeps_writeRow h)) (keeps_writeRow h))))

theorem keeps_applyLines {n l resp} (h : Keeps s t) : Keeps s (applyLines n l resp t) := by
  induction n generalizing t resp with
  | zero => exact h
  | succ n ih =>
    unfold applyLines
    split
    · exact .ite h (.ite (keeps_inbFails h) (.ite (keeps_inbFails (keeps_scramble h)) (ih (keeps_updLink
        (.ite (keeps_acIncCtx (keeps_stored h (memWf_wrNat _ _ _))) (keeps_stored h (memWf_wrNat _ _ _)))))))
    · exact h

theorem keeps_inbGo (h : Keeps s t) {l resp} : Keeps s (inbGo t l resp) := by
  unfold inbGo
  dsimp only
  repeat' split
  all_goals apply_rules [keeps_applyLines, keeps_applyRows, keeps_inbDiscard, Keeps.ite]

theorem keeps_headRequest (h : Keeps s t) {l} : Keeps s (headRequest t l).2 := by
  unfold headRequest
  dsimp only
  split <;> apply_rules [keeps_updLink, Keeps.ite]

theorem keeps_winWrite (h : Keeps s t) {l resp ecc} : Keeps s (winWrite l resp ecc t) := by
  unfold winWrite
  refine .ite (keeps_inbGo h) ?_
  have hhead : Keeps s (headRequest t l.toNat).2 := keeps_headRequest h
  dsimp only
  split
  · exact hhead
  · exact .ite hhead (keeps_inbGo (keeps_setInb (.ite (keeps_tableEcc (keeps_updLink hhead))
      (keeps_winRefused (keeps_tableEcc (keeps_updLink hhead))))))

theorem keeps_readLines (h : Keeps s t) {l b resp} : Keeps s (readLines t l b resp).2 := by
  unfold readLines
  dsimp only
  split
  · split <;> exact h
  · split
    · exact h
    · refine foldl_of_keeps (P := fun acc => Keeps s (Prod.snd acc)) (fun acc p hacc => ?_) _ h
      split
      · exact keeps_readRow hacc
      · split <;> exact keeps_readRow hacc

theorem keeps_winRead (h : Keeps s t) {l resp} : Keeps s (winRead l resp t) := by
  unfold winRead
  dsimp only
  split
  · exact h
  · have hhead := keeps_headRequest (l := l.toNat) h
    split
    · exact hhead
    · refine .ite hhead (.ite (keeps_sendCompletion (keeps_winRefused (keeps_updLink hhead))) ?_)
      split
      · exact keeps_sendCompletion (keeps_readLines (keeps_updLink hhead))
      · exact keeps_sendCompletion (keeps_winRefused (keeps_readLines (keeps_updLink hhead)))

theorem keeps_fenceSig (h : Keeps s t) {l resp} : Keeps s (fenceSig l resp t) := by
  unfold fenceSig
  dsimp only
  split
  · exact h
  · have hhead := keeps_headRequest (l := l.toNat) h
    split
    · exact hhead
    · have htaken := keeps_updLink (f := takeFlits 1 vcRequest) (l := l.toNat) hhead
      exact .ite hhead (.ite (keeps_sendCompletion (keeps_winRefused htaken)) (.ite (keeps_sendCompletion htaken)
        (.ite (keeps_sendCompletion (keeps_fenceError (keeps_scramble htaken)))
          (keeps_sendCompletion (keeps_fenceRaise htaken)))))

theorem keeps_msg (h : Keeps s t) {l} : Keeps s (msg l t) := by
  have hstray := keeps_updLink (l := l.toNat) (f := fun k => dropStray k vcControl) h
  unfold msg
  dsimp only
  split
  · exact hstray
  · have htaken := keeps_updLink (l := l.toNat) (f := takeFlits 1 vcControl) hstray
    exact .ite (keeps_sendCompletion (keeps_winRefused htaken)) (.ite (.ite
      (keeps_sendCompletion (keeps_inboxPut htaken)) (keeps_sendCompletion htaken))
      (keeps_sendCompletion (keeps_geqPut htaken)))

theorem keeps_updWork (h : Keeps s t) {x i f} : Keeps s (updWork t x i f) := keeps_updCtx h

theorem keeps_lineWritten (h : Keeps s t) {c r} : Keeps s (lineWritten c t r) := keeps_updMem h

theorem keeps_linesWritten (h : Keeps s t) {t'} : Keeps s (linesWritten t t') := by
  grind [linesWritten, ← Keeps.foldl, ← keeps_lineWritten, ← keeps_updWork]

theorem keeps_lineRead (h : Keeps s t) {c p} : Keeps s (lineRead c t p) := by
  unfold lineRead
  apply_rules [keeps_updMem, keeps_lineBack, Keeps.ite]

theorem keeps_linesRead (h : Keeps s t) {t' data} : Keeps s (linesRead t t' data) := by
  grind [linesRead, ← Keeps.foldl, ← keeps_lineRead, ← keeps_updWork]

theorem keeps_txnEnds (h : Keeps s t) {l tag t' status data} : Keeps s (txnEnds t l tag t' status data) := by
  unfold txnEnds
  repeat' split
  all_goals apply_rules [keeps_dropTxn, keeps_msgEnds, keeps_sigOver, keeps_sigDone, keeps_sigFails,
      keeps_linesRefused, keeps_linesRead, keeps_linesWritten, Keeps.ite]

theorem keeps_completion (h : Keeps s t) {l} : Keeps s (completion l t) := by
  unfold completion
  dsimp only
  repeat' split
  all_goals apply_rules [keeps_updLink, keeps_txnEnds, Keeps.ite]

theorem keeps_transactionTimeout (h : Keeps s t) {l tag} : Keeps s (transactionTimeout l tag t) := by
  unfold transactionTimeout
  split <;> apply_rules [keeps_txnLost, Keeps.ite]

theorem keeps_sendMsg (h : Keeps s t) {l forge} : Keeps s (sendMsg t l forge) := by
  unfold sendMsg
  exact .ite (keeps_msgEnds (keeps_with h)) (.ite h (keeps_startTxn (keeps_updLink h)))

theorem keeps_linkTry (h : Keeps s t) {l} : Keeps s (linkTry t l) := by
  unfold linkTry
  apply_rules [keeps_setLink, Keeps.ite]

theorem keeps_linkEnableTo (h : Keeps s t) {l} : Keeps s (linkEnableTo t l) := keeps_linkTry (keeps_updLink h)

theorem keeps_linkDisableTo (h : Keeps s t) {l} : Keeps s (linkDisableTo t l) := by
  unfold linkDisableTo
  apply_rules [keeps_linkDown, keeps_updLink, Keeps.ite]

theorem keeps_linkRetrain (h : Keeps s t) {l} : Keeps s (linkRetrain t l) := by
  unfold linkRetrain
  apply_rules [keeps_setLink, Keeps.ite]

theorem keeps_linkDetect (h : Keeps s t) {l} : Keeps s (linkDetect l t) := by
  unfold linkDetect
  apply_rules [keeps_setLink, Keeps.ite]

theorem keeps_forgeHourly (h : Keeps s t) {w v} : Keeps s (forgeHourly t w v) := by
  unfold forgeHourly
  repeat' split
  all_goals apply_rules [keeps_forgeTemper, Keeps.ite]

theorem keeps_storeDeskew (h : Keeps s t) {l skew} : Keeps s (storeDeskew t l skew) :=
  keeps_forgeHourly (keeps_forgeHourly h)

theorem keeps_storePresets (h : Keeps s t) {l} : Keeps s (storePresets t l) := keeps_forgeHourly h

theorem keeps_linkAlign (h : Keeps s t) {l skew} : Keeps s (linkAlign l skew t) := by
  unfold linkAlign
  apply_rules [keeps_storeDeskew, keeps_setLink, Keeps.ite]

theorem keeps_alignTimeout (h : Keeps s t) {l} : Keeps s (alignTimeout l t) := by
  unfold alignTimeout
  apply_rules [keeps_setLink, Keeps.ite]

theorem keeps_trainTimeout (h : Keeps s t) {l} : Keeps s (trainTimeout l t) := by
  unfold trainTimeout
  apply_rules [keeps_updLink, keeps_linkDown, keeps_post, Keeps.ite]

theorem keeps_retrainTimeout (h : Keeps s t) {l} : Keeps s (retrainTimeout l t) := by
  unfold retrainTimeout
  apply_rules [keeps_linkDown, Keeps.ite]

theorem keeps_linkAutoRestart (h : Keeps s t) {l} : Keeps s (linkAutoRestart l t) := by
  unfold linkAutoRestart
  apply_rules [keeps_linkTry, Keeps.ite]

theorem keeps_replayFlits (h : Keeps s t) {l} : Keeps s (replayFlits t l) := keeps_count (keeps_updLink h)

theorem keeps_linkActive (h : Keeps s t) {l} : Keeps s (linkActive t l) := by
  unfold linkActive
  apply_rules [keeps_storePresets, keeps_setLink, keeps_replayFlits, keeps_linkPump, keeps_post, Keeps.ite]

theorem keeps_doneCheck (h : Keeps s t) {l} : Keeps s (doneCheck t l) := keeps_linkActive (keeps_updLink h)

theorem keeps_trainField (h : Keeps s t) {l f lane v} : Keeps s (trainField t l f lane v) := keeps_updLink h

theorem keeps_trainEcho (h : Keeps s t) {l f lane v} : Keeps s (trainEcho t l f lane v) := by
  unfold trainEcho
  apply_rules [keeps_updLink, keeps_linkDown, Keeps.ite]

theorem keeps_trainFrame (h : Keeps s t) {l f} : Keeps s (trainFrame l f t) := by
  unfold trainFrame
  apply_rules [keeps_trainEcho, keeps_trainField, keeps_doneCheck, Keeps.ite]

theorem keeps_applyHeader (h : Keeps s t) {l v} : Keeps s (applyHeader t l v) := by
  unfold applyHeader
  exact .ite (.ite (keeps_linkRetrain (keeps_setLink h)) (keeps_linkPump (keeps_replayFlits (keeps_setLink h))))
    (keeps_linkPump (keeps_setLink h))

theorem keeps_takeSequenced (h : Keeps s t) {l h' body} : Keeps s (takeSequenced t l h' body) := by
  unfold takeSequenced
  apply_rules [keeps_linkProtocol, keeps_applyHeader, keeps_setLink, Keeps.ite]

theorem keeps_takeFlit (h : Keeps s t) {l flit} : Keeps s (takeFlit t l flit) := by
  unfold takeFlit
  apply_rules [keeps_linkPump, keeps_setLink, keeps_linkProtocol, keeps_applyHeader, keeps_takeSequenced, Keeps.ite]

theorem keeps_takeStream {n l} (h : Keeps s t) : Keeps s (takeStream n l t) := by
  induction n generalizing t with
  | zero => exact h
  | succ n ih =>
    rw [takeStream]
    split
    · exact h
    · exact .ite (ih (keeps_setLink h)) (ih (keeps_takeFlit (keeps_setLink h)))

theorem keeps_controlBlock (h : Keeps s t) {l lane v} : Keeps s (controlBlock t l lane v) := by
  unfold controlBlock
  apply_rules [keeps_linkRetrain, keeps_updLink, Keeps.ite]

theorem keeps_dataBlock (h : Keeps s t) {l lane v} : Keeps s (dataBlock t l lane v) := by
  unfold dataBlock
  apply_rules [keeps_updLink, keeps_takeStream, Keeps.ite]

theorem keeps_takeLaneBlock (h : Keeps s t) {l b} : Keeps s (takeLaneBlock l t b) := by
  unfold takeLaneBlock
  apply_rules [keeps_updLink, keeps_dataBlock, keeps_controlBlock, Keeps.ite]

theorem keeps_flitReceive (h : Keeps s t) {l blocks} : Keeps s (flitReceive l blocks t) := by
  grind [flitReceive, ← Keeps.foldl, ← keeps_takeLaneBlock]

theorem keeps_retryRequestTimeout (h : Keeps s t) {l} : Keeps s (retryRequestTimeout l t) := by
  unfold retryRequestTimeout
  apply_rules [keeps_linkPump, keeps_setLink, Keeps.ite]

theorem keeps_ackStallTimeout (h : Keeps s t) {l} : Keeps s (ackStallTimeout l t) := by
  unfold ackStallTimeout
  apply_rules [keeps_linkRetrain, Keeps.ite]

theorem keeps_pltMsgGo (h : Keeps s t) {i l forge} : Keeps s (pltMsgGo t i l forge) := by
  unfold pltMsgGo
  apply_rules [keeps_gated, keeps_updLink, keeps_regRefused, keeps_sendMsg, Keeps.ite]

theorem keeps_windowOpen (h : Keeps s t) {i l w} : Keeps s (windowOpen t i l w) := by
  unfold windowOpen
  apply_rules [keeps_gated, keeps_regRefused, keeps_setWin, Keeps.ite]

theorem keeps_windowClose (h : Keeps s t) {i l w} : Keeps s (windowClose t i l w) := by
  unfold windowClose
  apply_rules [keeps_gated, keeps_setWin, Keeps.ite]

theorem keeps_xtCommit (h : Keeps s t) {i l hi} : Keeps s (xtCommit t i l hi) := by
  unfold xtCommit
  apply_rules [keeps_gated, keeps_regRefused, keeps_setLink, Keeps.ite]

theorem keeps_linkEnableBy (h : Keeps s t) {i l} : Keeps s (linkEnableBy t i l) := by
  unfold linkEnableBy
  apply_rules [keeps_gated, keeps_linkEnableTo, Keeps.ite]

theorem keeps_linkDisableBy (h : Keeps s t) {i l} : Keeps s (linkDisableBy t i l) := by
  unfold linkDisableBy
  apply_rules [keeps_gated, keeps_linkDisableTo, Keeps.ite]

theorem keeps_linkRetrainBy (h : Keeps s t) {i l} : Keeps s (linkRetrainBy t i l) := by
  unfold linkRetrainBy
  apply_rules [keeps_gated, keeps_linkRetrain, Keeps.ite]

theorem keeps_linkResetDone (h : Keeps s t) {l v} : Keeps s (linkResetDone t l v) := by
  unfold linkResetDone
  apply_rules [keeps_linkDown, Keeps.ite]

theorem keeps_resetCore (h : Keeps s t) {c enabled} : Keeps s (resetCore t c enabled) :=
  keeps_dropOccCores (keeps_dropBundles (keeps_setCore h))

theorem keeps_pwrRefused (h : Keeps s t) {off} : Keeps s (pwrRefused t off) := keeps_post h

theorem keeps_coreResetReq (h : Keeps s t) {c} : Keeps s (coreResetReq t c) := by
  grind [coreResetReq, ← keeps_with, ← keeps_resetCore, ← keeps_pwrRefused]

theorem keeps_diagGo (h : Keeps s t) {i c cal} : Keeps s (diagGo t i c cal) := by
  unfold diagGo
  apply_rules [keeps_updTa, keeps_regRefused, Keeps.ite]

theorem keeps_runEnd (h : Keeps s t) {c fails ev} : Keeps s (runEnd t c fails ev) := keeps_updTa h

theorem keeps_diagDone (h : Keeps s t) {c fails} : Keeps s (diagDone t c fails) := by
  unfold diagDone
  apply_rules [keeps_runEnd, Keeps.ite]

theorem keeps_spareTake (h : Keeps s t) {c q f} : Keeps s (spareTake t c q f) := keeps_updTa h

theorem keeps_spareCtlDone (h : Keeps s t) {i c v} : Keeps s (spareCtlDone t i c v) := by
  unfold spareCtlDone
  apply_rules [keeps_spareTake, keeps_updTa, keeps_regRefused, Keeps.ite]

theorem keeps_dropRoutes (h : Keeps s t) {b} : Keeps s (dropRoutes t b) := keeps_with h

theorem keeps_parkBasket (h : Keeps s t) {b} : Keeps s (parkBasket t b) := by
  grind [parkBasket, ← keeps_dropRoutes, ← Keeps.foldl, ← keeps_stopCtx, ← keeps_with]

theorem keeps_parkIfShort (h : Keeps s t) {b} : Keeps s (parkIfShort t b) := by
  unfold parkIfShort
  apply_rules [keeps_parkBasket, Keeps.ite]

theorem keeps_basketReplaced (h : Keeps s t) {b} : Keeps s (basketReplaced t b) := keeps_postBsk h

theorem keeps_fullSave (h : Keeps s t) {c} : Keeps s (fullSave t c) := by
  unfold fullSave
  split <;> apply_rules [keeps_switchOut, keeps_updBsk, keeps_updCtx, Keeps.ite]

theorem keeps_dropFromBasket (h : Keeps s t) {c} : Keeps s (dropFromBasket t c) := by
  unfold dropFromBasket
  split <;> apply_rules [keeps_updBsk, keeps_parkIfShort, keeps_basketReplaced, keeps_dropOccCores, Keeps.ite]

theorem keeps_retireCore (h : Keeps s t) {c} : Keeps s (retireCore t c) :=
  keeps_dropFromBasket (keeps_updTa (keeps_fullSave (keeps_postReplace (keeps_updTa (keeps_forgeTemper h)))))

theorem keeps_calPass (h : Keeps s t) {c} : Keeps s (calPass t c) := keeps_updTa (keeps_runEnd h)

theorem keeps_calFail (h : Keeps s t) {c fails} : Keeps s (calFail t c fails) := by
  unfold calFail
  apply_rules [keeps_updTa, keeps_runEnd, keeps_retireCore, Keeps.ite]

theorem keeps_calibrationDone (h : Keeps s t) {c fails} : Keeps s (calibrationDone t c fails) := by
  unfold calibrationDone
  apply_rules [keeps_calPass, keeps_calFail, Keeps.ite]

theorem keeps_releaseHold (h : Keeps s t) {c} : Keeps s (releaseHold t c) := keeps_updCore h

theorem keeps_repairHoldRelease (h : Keeps s t) {c} : Keeps s (repairHoldRelease t c) := by
  unfold repairHoldRelease
  apply_rules [keeps_releaseHold, Keeps.ite]

theorem keeps_repairRun (h : Keeps s t) {c fails calFails} : Keeps s (repairRun t c fails calFails) := by
  unfold repairRun
  exact .ite (keeps_releaseHold (keeps_updTa (keeps_runEnd (keeps_updTa h))))
    (.ite (keeps_retireCore (keeps_runEnd (keeps_updTa h)))
      (.ite (keeps_releaseHold (keeps_post (keeps_forgeTemper (keeps_calPass (keeps_updTa (keeps_spareTake
          (keeps_runEnd (keeps_updTa h))))))))
        (keeps_retireCore (keeps_runEnd (keeps_updTa (keeps_spareTake (keeps_runEnd (keeps_updTa h))))))))

theorem keeps_drainCore (h : Keeps s t) {c} : Keeps s (drainCore t c) := by
  unfold drainCore
  dsimp only
  split <;> apply_rules [keeps_updCore, keeps_requestStop, Keeps.ite]

theorem keeps_forgeRepair (h : Keeps s t) {c hard fails calFails} :
    Keeps s (forgeRepair t c hard fails calFails) := by
  unfold forgeRepair
  apply_rules [keeps_repairRun, keeps_drainCore, keeps_updTa, Keeps.ite]

theorem keeps_vdiagGo (h : Keeps s t) {i c} : Keeps s (vdiagGo t i c) := by
  unfold vdiagGo
  apply_rules [keeps_updCore, keeps_regRefused, Keeps.ite]

theorem keeps_vdiagDone (h : Keeps s t) {c fail} : Keeps s (vdiagDone t c fail) := by
  unfold vdiagDone
  apply_rules [keeps_updCore, keeps_retireCore, keeps_releaseHold, Keeps.ite]

theorem keeps_coreRetireReq (h : Keeps s t) : Keeps s (coreRetireReq t) := by
  unfold coreRetireReq
  apply_rules [keeps_mbxReply, keeps_mbxKeep, keeps_drainCore, keeps_retireCore, Keeps.ite]

theorem keeps_giveCore (h : Keeps s t) {c} : Keeps s (giveCore t c) := by
  unfold giveCore
  dsimp only
  split <;> apply_rules [keeps_updBsk, Keeps.ite]

theorem keeps_clearCoreBit (h : Keeps s t) : Keeps s (clearCoreBit t) := by
  unfold clearCoreBit
  split <;> apply_rules [keeps_with, Keeps.ite]

theorem keeps_readmitCore (h : Keeps s t) {c fails vfails calFails} :
    Keeps s (readmitCore t c fails vfails calFails) := by
  unfold readmitCore
  extract_lets _ enabled tested _ ran _
  have htested : Keeps s tested := keeps_runEnd (keeps_resetCore (keeps_forgeTemper (keeps_forgeTemper h)))
  have hran : Keeps s ran := keeps_updTa (keeps_runEnd (keeps_updCore htested))
  exact .ite (keeps_mbxReply (keeps_post (keeps_giveCore (keeps_clearCoreBit (keeps_updTa hran)))))
    (keeps_mbxReply (keeps_retireCore hran))

theorem keeps_coreReadmitReq (h : Keeps s t) {fails vfails calFails} :
    Keeps s (coreReadmitReq t fails vfails calFails) := by
  unfold coreReadmitReq
  apply_rules [keeps_mbxReply, keeps_readmitCore, Keeps.ite]

theorem keeps_readmitRow (h : Keeps s t) {m f} (hg : Keeps s (f t)) : Keeps s (readmitRow t m f) := by
  unfold readmitRow
  apply_rules [keeps_mbxOpRow, Keeps.ite]

theorem keeps_scrubbed (h : Keeps s t) {c g i x4} : Keeps s (scrubbed t c g i x4) := by
  unfold scrubbed
  split <;> apply_rules [keeps_updPan, keeps_post, Keeps.ite]

theorem keeps_scrubVisit (h : Keeps s t) {c g ecc} : Keeps s (scrubVisit t c g ecc) := by
  unfold scrubVisit
  apply_rules [keeps_updPan, keeps_readPhys, keeps_scrubbed, Keeps.ite]

theorem keeps_copyRow (h : Keeps s t) {c g i} : Keeps s (copyRow t c g i) := by
  unfold copyRow
  split <;> apply_rules [keeps_readPhys, keeps_updPan, Keeps.ite]

theorem keeps_mapOutCopy (h : Keeps s t) {c g} : Keeps s (mapOutCopy t c g) := by
  unfold mapOutCopy
  split <;> apply_rules [keeps_copyRow, Keeps.ite]

theorem keeps_flushCopy (h : Keeps s t) {c} : Keeps s (flushCopy t c) := by
  unfold flushCopy
  split <;> apply_rules [keeps_mapOutCopy, Keeps.ite]

theorem keeps_panMapDone (h : Keeps s t) {i c v} : Keeps s (panMapDone t i c v) := by
  unfold panMapDone
  exact .ite (keeps_regReserved (keeps_updPan h)) (.ite (keeps_updPan (keeps_flushCopy h))
    (keeps_regRefused (keeps_updPan (keeps_flushCopy h))))

theorem keeps_panGroupSet (h : Keeps s t) {i c v} : Keeps s (panGroupSet t i c v) := by
  unfold panGroupSet
  exact .ite (keeps_regReserved h) (.ite (keeps_updPan h) (keeps_regRefused h))

theorem keeps_panGroupWrite (h : Keeps s t) {a} : Keeps s (panGroupWrite a t) := by
  unfold panGroupWrite
  apply_rules [keeps_gated, keeps_panGroupSet, keeps_regRefused, Keeps.ite]

theorem keeps_segmentSweep (h : Keeps s t) {c g} : Keeps s (segmentSweep t c g) := by
  unfold segmentSweep
  apply_rules [keeps_updPan, Keeps.ite]

theorem keeps_panWinRefused (h : Keeps s t) {off} : Keeps s (panWinRefused t off) := keeps_post h

theorem keeps_panEccHost (h : Keeps s t) {c a} : Keeps s (panEccHost t c a) := keeps_post h

theorem keeps_winReadRow (h : Keeps s t) {c a ecc} : Keeps s (winReadRow t c a ecc).2 := by
  unfold winReadRow
  dsimp only
  split <;> apply_rules [keeps_readRow, keeps_panEccHost, Keeps.ite]

theorem keeps_winWaits (h : Keeps s t) {w} : Keeps s (winWaits t w) := keeps_with h

theorem keeps_panWindowRead (h : Keeps s t) {off size ecc} : Keeps s (panWindowRead off size ecc t) := by
  grind [panWindowRead, ← keeps_panWinRefused, ← keeps_with, ← keeps_winWaits, ← keeps_winReadRow]

theorem keeps_panWindowWrite (h : Keeps s t) {off size data} : Keeps s (panWindowWrite off size data t) := by
  unfold panWindowWrite
  apply_rules [keeps_panWinRefused, keeps_updPan, Keeps.ite]

theorem keeps_panWindowWritePerform (h : Keeps s t) {c} : Keeps s (panWindowWritePerform c t) := by
  unfold panWindowWritePerform
  split <;> apply_rules [keeps_updPan, keeps_winReadRow, keeps_writeRow, Keeps.ite]

theorem keeps_shrinkBasket (h : Keeps s t) {b g} : Keeps s (shrinkBasket t b g) := by
  grind [shrinkBasket, ← Keeps.foldl, ← keeps_panGroupSet, ← keeps_updBsk, ← keeps_bskCtlWrite,
      ← keeps_basketReplaced]

theorem keeps_replaceSegment (h : Keeps s t) {c g} : Keeps s (replaceSegment t c g) := by
  unfold replaceSegment
  split <;> apply_rules [keeps_drainBegin, keeps_drainDone, keeps_shrinkBasket, Keeps.ite]

theorem keeps_retireSegment (h : Keeps s t) {c g i} : Keeps s (retireSegment t c g i) :=
  keeps_replaceSegment (keeps_postReplace (keeps_updPan (keeps_forgeTemper h)))

theorem keeps_forgeRowRepair (h : Keeps s t) {c g i listed} : Keeps s (forgeRowRepair t c g i listed) := by
  unfold forgeRowRepair
  refine .ite h (.ite (keeps_replaceSegment h) (.ite ?_ h))
  split
  · exact keeps_retireSegment h
  · exact .ite (keeps_retireSegment h) (.ite (keeps_forgeTemper (keeps_copyRow (keeps_flushCopy h)))
      (keeps_flushCopy h))

end Sys2Proof.Proofs
end

section
/-! PROOF. Host memory and the queue (III). The same of the flash, the regions and the Ingot Store. -/

namespace Sys2Proof.Proofs

open Sys2Proof Sys2Proof.Machine Sys2Proof.Says Sys2Proof.Laws

variable {s t : State}

theorem keeps_xlatPages {b slot store l} (h : Keeps s t) : Keeps s (xlatPages b slot store l t).2 := by
  induction l generalizing t with
  | nil => exact h
  | cons p l ih =>
    rw [xlatPages]
    split
    · exact ih (keeps_translate h)
    · exact keeps_translate h

theorem keeps_putPart (h : Keeps s t) {c pa l} : Keeps s (putPart t c pa l) :=
  .ite (keeps_putLine h) (h.store rfl (memWf_wrBytes _ _))

theorem keeps_putVirt {c b slot n va l} (h : Keeps s t) : Keeps s (putVirt c b slot n va l t) := by
  induction n generalizing t va l with
  | zero => exact h
  | succ n ih =>
    unfold putVirt
    split
    · exact h
    · refine ih ?_
      split
      · exact keeps_putPart h
      · exact h

theorem keeps_putOut (h : Keeps s t) {c b slot w} : Keeps s (putOut t c b slot w) := keeps_putVirt h

theorem keeps_regionStart (h : Keeps s t) {ctx} : Keeps s (regionStart ctx t) := by
  unfold regionStart
  dsimp only
  repeat' split
  all_goals apply_rules [keeps_beginCmd, keeps_with, Keeps.ite]

theorem keeps_addRef (h : Keeps s t) {b} : Keeps s (addRef t b) := by
  unfold addRef
  split <;> apply_rules [keeps_updFrames, Keeps.ite]

theorem keeps_dropCallOf (h : Keeps s t) {id} : Keeps s (dropCallOf t id) := keeps_with h

theorem keeps_unqueue (h : Keeps s t) {r} : Keeps s (unqueue t r) := keeps_with h

theorem keeps_dropRefs (h : Keeps s t) {r} : Keeps s (dropRefs t r) := keeps_dropRef (keeps_dropRef h)

theorem keeps_discardCmd (h : Keeps s t) {r} : Keeps s (discardCmd t r) := by
  unfold discardCmd
  apply_rules [keeps_dropCallOf, keeps_unqueue, keeps_dropRefs, Keeps.ite]

theorem keeps_regionFault (h : Keeps s t) {r va store x} : Keeps s (regionFault t r va store x) := by
  unfold regionFault
  apply_rules [keeps_xlatFault, keeps_discardCmd, Keeps.ite]

theorem keeps_regionBad (h : Keeps s t) {r slot reason} : Keeps s (regionBad t r slot reason) := by
  unfold regionBad
  dsimp only
  split <;> apply_rules [keeps_xlatPages, keeps_putOut, keeps_takeCredit, keeps_cmdFault, Keeps.ite]

theorem keeps_acceptBlock (h : Keeps s t) {r slot} : Keeps s (acceptBlock t r slot) := by
  unfold acceptBlock
  dsimp only
  split <;> apply_rules [keeps_dropCallOf, keeps_regionBad, keeps_addRef, keeps_with, Keeps.ite]

theorem keeps_readBlock (h : Keeps s t) {r} : Keeps s (readBlock t r) := by
  unfold readBlock
  dsimp only
  split
  · exact keeps_regionFault (keeps_xlatPages h)
  · refine .ite ?_ (keeps_acceptBlock (keeps_takeCredit (keeps_xlatPages h)))
    split
    · exact keeps_regionFault (keeps_xlatPages (keeps_takeCredit (keeps_xlatPages h)))
    · exact keeps_acceptBlock (keeps_takeCredit (keeps_xlatPages (keeps_takeCredit (keeps_xlatPages h))))

theorem keeps_regionAccept (h : Keeps s t) {ecc} : Keeps s (regionAccept ecc t) := by
  unfold regionAccept
  split <;> apply_rules [keeps_tableEcc, keeps_cmdFault, keeps_dropCallOf, keeps_readBlock, Keeps.ite]

theorem keeps_reading (h : Keeps s t) {r l f} (hf : ∀ u, Keeps s u → Keeps s (f u).2) :
    Keeps s (reading t r l f).2 := by
  unfold reading
  dsimp only
  split
  · exact keeps_xlatPages h
  · exact hf _ (keeps_xlatPages h)

theorem keeps_cropRun (h : Keeps s t) {r} : Keeps s (cropRun t r).2 := by
  refine keeps_reading h fun u hu => ?_
  dsimp only
  split
  · exact hu
  · split
    · exact keeps_reading hu fun v hv => keeps_count hv
    · exact keeps_count hu

theorem keeps_decodeRun (h : Keeps s t) {r} : Keeps s (decodeRun t r).2 := by
  unfold decodeRun
  exact keeps_reading h fun _ hu => hu

theorem keeps_suppressRun (h : Keeps s t) {r} : Keeps s (suppressRun t r).2 :=
  keeps_reading h fun _ hu => keeps_with hu

theorem keeps_iouRun (h : Keeps s t) {r} : Keeps s (iouRun t r).2 := by
  unfold iouRun
  exact keeps_reading h fun _ hu => hu

theorem keeps_tookCmd (h : Keeps s t) {pipe r} : Keeps s (tookCmd t pipe r) := keeps_with h

theorem keeps_runDone (h : Keeps s t) {pipe r reads out items dropped} :
    Keeps s (runDone t pipe r reads out items dropped) := by
  unfold runDone
  dsimp only
  split
  · exact keeps_regionFault (keeps_xlatPages h)
  · exact keeps_with (keeps_unqueue (Keeps.foldl (fun _ _ hu => keeps_putOut hu) _
      (keeps_takeCredit (keeps_xlatPages h))))

theorem keeps_runBad (h : Keeps s t) {r reason} : Keeps s (runBad t r reason) := keeps_regionBad (keeps_discardCmd h)

theorem keeps_runPipe (h : Keeps s t) {pipe f} (hf : ∀ u r, Keeps s u → Keeps s (f u r).2) :
    Keeps s (runPipe pipe f t) := by
  unfold runPipe
  split
  · refine .ite h ?_
    have hrun := fun r => hf { tookCmd t pipe r with freeCount := t.freeCount + 1 } r (keeps_with (keeps_tookCmd h))
    dsimp only
    split
    · exact keeps_regionFault (hrun _)
    · exact keeps_runBad (hrun _)
    · exact keeps_runDone (hrun _)
  · exact h

theorem keeps_armRel (h : Keeps s t) {b} : Keeps s (armRel t b) := by
  unfold armRel
  split <;> apply_rules [keeps_updFrames, Keeps.ite]

theorem keeps_callDone (h : Keeps s t) {x t' p} : Keeps s (callDone t x t' p) := by
  unfold callDone
  split <;> apply_rules [keeps_updSeq, keeps_updCtx, Keeps.ite]

theorem keeps_regionReport (h : Keeps s t) {r} : Keeps s (regionReport t r) := by
  unfold regionReport
  split <;> apply_rules [keeps_finishCmd, keeps_callDone, keeps_acIncCtx, Keeps.ite]

theorem keeps_chainOn (h : Keeps s t) {x} : Keeps s (chainOn t x) := keeps_with h

theorem keeps_regionEnd (h : Keeps s t) {x} : Keeps s (regionEnd t x) := by
  unfold regionEnd
  exact .ite (.ite (keeps_dropRefs h) (keeps_chainOn h))
    (keeps_regionReport (keeps_armRel (keeps_armRel (keeps_dropRef (keeps_dropRef h)))))

theorem keeps_readbackFails (h : Keeps s t) {x pa silent} : Keeps s (readbackFails t x pa silent) := by
  unfold readbackFails
  apply_rules [keeps_dropRefs, keeps_addrFault, Keeps.ite]

theorem keeps_recordFault (h : Keeps s t) {pipe r va y} : Keeps s (recordFault t pipe r va y) := by
  grind [recordFault, ← keeps_with, ← keeps_regionFault]

theorem keeps_writeRecord (h : Keeps s t) {pipe x} : Keeps s (writeRecord t pipe x) := by
  unfold writeRecord
  dsimp only
  split <;> apply_rules [keeps_xlatPages, keeps_recordFault, keeps_regionEnd, keeps_putOut, keeps_takeCredit,
      Keeps.ite]

theorem keeps_regionComplete (h : Keeps s t) {pipe resp} : Keeps s (regionComplete pipe resp t) := by
  grind [regionComplete, ← keeps_with, ← keeps_writeRecord, ← keeps_readbackFails]

theorem keeps_updStore (h : Keeps s t) {f} : Keeps s (updStore t f) := keeps_with h

theorem keeps_stEvent (h : Keeps s t) {bit} : Keeps s (stEvent t bit) := keeps_updStore h

theorem keeps_stPost (h : Keeps s t) {code} : Keeps s (stPost t code) := keeps_post h

theorem keeps_useBlock (h : Keeps s t) {k region} : Keeps s (useBlock t k region) := by
  unfold useBlock
  apply_rules [keeps_updStore, Keeps.ite]

theorem keeps_spareCheck (h : Keeps s t) : Keeps s (spareCheck t) := by
  unfold spareCheck
  apply_rules [keeps_postReplace, keeps_updStore, Keeps.ite]

theorem keeps_eraseBlock (h : Keeps s t) {k} : Keeps s (eraseBlock t k) := keeps_updStore h

theorem keeps_retireBlock (h : Keeps s t) {k} : Keeps s (retireBlock t k) := keeps_spareCheck (keeps_updStore h)

theorem keeps_updLog (h : Keeps s t) {g f} : Keeps s (updLog t g f) := keeps_updStore h

theorem keeps_takeStripe {region chs l} (h : Keeps s t) : Keeps s (takeStripe region chs t l).2 := by
  induction chs generalizing t l with
  | nil => exact h
  | cons ch chs ih =>
    rw [takeStripe]
    split
    · exact ih (keeps_useBlock h)
    · exact ih h

theorem keeps_wrapLog (h : Keeps s t) {g} : Keeps s (wrapLog t g) := by
  grind [wrapLog, ← Keeps.foldl, ← keeps_eraseBlock, ← keeps_updStore, ← keeps_stPost, ← keeps_updLog]

theorem keeps_ensureStripe (h : Keeps s t) {g} : Keeps s (ensureStripe t g) := by
  unfold ensureStripe
  apply_rules [keeps_wrapLog, keeps_takeStripe, keeps_updLog, Keeps.ite]

theorem keeps_pumpOps (h : Keeps s t) : Keeps s (pumpOps t) := by
  grind [pumpOps, ← Keeps.foldl, ← keeps_updStore]

theorem keeps_updPage (h : Keeps s t) {g p f} : Keeps s (updPage t g p f) := keeps_updLog h

theorem keeps_wroteMeta (h : Keeps s t) {n} : Keeps s (wroteMeta t n) := keeps_updStore h

theorem keeps_sealPage (h : Keeps s t) {g cls} : Keeps s (sealPage t g cls) := by
  unfold sealPage
  exact .ite (keeps_ensureStripe h)
    (keeps_pumpOps (keeps_updStore (keeps_updLog (keeps_wroteMeta (keeps_ensureStripe h)))))

theorem keeps_sealFull {g cls n} (h : Keeps s t) : Keeps s (sealFull g cls n t) := by
  induction n generalizing t with
  | zero => exact h
  | succ n ih =>
    rw [sealFull]
    exact .ite (ih (keeps_sealPage h)) h

theorem keeps_sealPadded (h : Keeps s t) {g} : Keeps s (sealPadded t g) := by
  unfold sealPadded
  apply_rules [keeps_updLog, keeps_sealPage, Keeps.ite]

theorem keeps_appendRecs (h : Keeps s t) {g cls l} : Keeps s (appendRecs t g cls l) := keeps_sealFull (keeps_updLog h)

theorem keeps_programDone (h : Keeps s t) {o} : Keeps s (programDone t o) := keeps_updPage (keeps_count h)

theorem keeps_swapIn (h : Keeps s t) {k new} : Keeps s (swapIn t k new) := keeps_updStore h

theorem keeps_moveBlock (h : Keeps s t) {k u} (hu : moveBlock t k = some u) : Keeps s u := by
  obtain ⟨n, -, rfl⟩ := Option.map_eq_some_iff.mp hu
  exact keeps_eraseBlock (keeps_updStore (keeps_swapIn (keeps_useBlock h)))

theorem keeps_noteCopy (h : Keeps s t) {k r} : Keeps s (noteCopy k t r) := by
  unfold noteCopy
  extract_lets counted marked
  have hmarked : Keeps s marked := by
    unfold marked
    split
    · exact keeps_updStore (keeps_updStore h)
    · exact keeps_updStore h
  exact .ite hmarked (keeps_stEvent (keeps_updStore hmarked))

theorem keeps_rewriteCopy (h : Keeps s t) {k} : Keeps s (rewriteCopy t k) := by
  refine keeps_stPost ?_
  cases hmove : k.bind (moveBlock t) with
  | none => exact h
  | some u =>
    obtain ⟨b, -, hb⟩ := Option.bind_eq_some_iff.mp hmove
    exact keeps_moveBlock h hb

theorem keeps_notePage (h : Keeps s t) {at_ o} : Keeps s (notePage at_ t o) := by
  grind [notePage, ← Keeps.foldl, ← keeps_noteCopy, ← keeps_rewriteCopy, ← keeps_stPost]

theorem keeps_programFails (h : Keeps s t) {o} : Keeps s (programFails t o) := by
  unfold programFails
  dsimp only
  split
  · exact keeps_updStore (keeps_updPage (keeps_swapIn (keeps_useBlock (keeps_retireBlock h))))
  · exact .ite (keeps_stPost (keeps_updStore (keeps_updLog (keeps_updPage (keeps_swapIn (keeps_retireBlock h))))))
      (keeps_updLog (keeps_updPage (keeps_swapIn (keeps_retireBlock h))))

theorem keeps_nandDone (h : Keeps s t) {lun fail} : Keeps s (nandDone t lun fail) := by
  unfold nandDone
  split
  · exact h
  · refine .ite h (keeps_pumpOps (.ite (.ite ?_ (keeps_updStore h)) (.ite
      (keeps_programFails (keeps_stPost (keeps_stEvent (keeps_updStore h)))) (keeps_programDone (keeps_updStore h)))))
    dsimp only
    split <;> exact keeps_swapIn (keeps_stPost (keeps_stEvent (keeps_retireBlock (keeps_updStore h))))

theorem keeps_dropModule (h : Keeps s t) {b} : Keeps s (dropModule t b) := by
  unfold dropModule
  apply_rules [keeps_updStore, Keeps.ite]

theorem keeps_nandBit (h : Keeps s t) : Keeps s (nandBit t) := keeps_with h

theorem keeps_bothOut (h : Keeps s t) : Keeps s (bothOut t) := by
  unfold bothOut
  apply_rules [keeps_stPost, keeps_updStore, Keeps.ite]

theorem keeps_targetFails (h : Keeps s t) {target} : Keeps s (targetFails t target) :=
  keeps_bothOut (keeps_dropModule (keeps_postReplace (keeps_updStore (keeps_stEvent h))))

theorem keeps_rootWrite (h : Keeps s t) {w v} : Keeps s (rootWrite t w v) := by
  unfold rootWrite
  exact .ite h (keeps_with (.ite (keeps_temperWear (keeps_setTword h)) (keeps_setTword h)))

theorem keeps_mapStripe (h : Keeps s t) : Keeps s (mapStripe t) := by
  grind [mapStripe, ← keeps_updStore, ← Keeps.foldl, ← keeps_eraseBlock, ← keeps_takeStripe]

theorem keeps_commitStart (h : Keeps s t) : Keeps s (commitStart t) :=
  keeps_sealPadded (keeps_sealPadded (keeps_updStore h))

theorem keeps_commitEnd (h : Keeps s t) : Keeps s (commitEnd t) :=
  keeps_trace (keeps_count (keeps_stEvent (keeps_updStore (keeps_rootWrite (keeps_rootWrite (keeps_rootWrite
      (keeps_rootWrite (keeps_mapStripe h))))))))

theorem keeps_noteCkpt (h : Keeps s t) {c o} : Keeps s (noteCkpt t c o) := by
  grind [noteCkpt, ← keeps_notePage, ← Keeps.foldl, ← keeps_noteCopy]

theorem keeps_findCkpt {errs l} (h : Keeps s t) : Keeps s (findCkpt errs l t).2 := by
  induction l generalizing t with
  | nil => exact h
  | cons e l ih =>
    rw [findCkpt]
    split
    · exact ih (keeps_stPost h)
    · dsimp only
      split
      · exact keeps_noteCkpt h
      · exact ih (keeps_stPost (keeps_noteCkpt h))

theorem keeps_blankStore (h : Keeps s t) : Keeps s (blankStore t) := keeps_stPost (keeps_updStore h)

theorem keeps_mountRoot (h : Keeps s t) {errs} : Keeps s (mountRoot t errs) := by
  unfold mountRoot
  dsimp only
  split <;> apply_rules [keeps_findCkpt, keeps_blankStore, keeps_updStore, keeps_spareCheck, keeps_stPost, Keeps.ite]

theorem keeps_bringUp (h : Keeps s t) {bad} : Keeps s (bringUp t bad) := by
  grind [bringUp, ← keeps_updStore, ← Keeps.foldl, ← keeps_targetFails]

theorem keeps_storeMount (h : Keeps s t) {bad errs} : Keeps s (storeMount t bad errs) := by
  unfold storeMount
  apply_rules [keeps_updStore, keeps_bringUp, keeps_nandBit, keeps_bothOut, keeps_mountRoot, Keeps.ite]

theorem keeps_finishOps (h : Keeps s t) {p} : Keeps s (finishOps t p) := by
  grind [finishOps, ← keeps_updStore, ← Keeps.foldl, ← keeps_programDone]

theorem keeps_storeUnmount (h : Keeps s t) : Keeps s (storeUnmount t) := by
  unfold storeUnmount
  apply_rules [keeps_updStore, keeps_finishOps, Keeps.ite]

theorem keeps_setReq (h : Keeps s t) {c r} : Keeps s (setReq t c r) := keeps_updStore h

theorem keeps_storeStart (h : Keeps s t) {c sub req} : Keeps s (storeStart t c sub req) := by
  unfold storeStart
  dsimp only
  repeat' split
  all_goals apply_rules [keeps_cmdFault, keeps_beginCmd, keeps_xlatPages, keeps_xlatFault, keeps_beginExec,
      keeps_setReq, Keeps.ite]

theorem keeps_storeCmd (h : Keeps s t) {ctx} : Keeps s (storeCmd ctx t) := by
  unfold storeCmd
  dsimp only
  split <;> apply_rules [keeps_storeStart, Keeps.ite]

theorem keeps_storeFinish (h : Keeps s t) {c r q} : Keeps s (storeFinish t c r q) := by
  unfold storeFinish
  dsimp only
  repeat' split
  all_goals apply_rules [keeps_setReq, keeps_xlatPages, keeps_xlatFault, keeps_putOut, keeps_finishCmd, Keeps.ite]

theorem keeps_subopRow (h : Keeps s t) {ctx sub f} (hf : ∀ c r u, Keeps s u → Keeps s (f c r u)) :
    Keeps s (subopRow ctx sub f t) := by
  unfold subopRow
  dsimp only
  split
  · refine .ite ?_ h
    split
    · exact keeps_storeFinish h
    · exact hf _ _ _ h
  · exact h

theorem keeps_mountedRow (h : Keeps s t) {ctx sub f} (hf : ∀ c r u, Keeps s u → Keeps s (f c r u)) :
    Keeps s (mountedRow ctx sub f t) :=
  keeps_subopRow h fun _ _ _ hu => .ite (hf _ _ _ hu) (keeps_storeFinish hu)

theorem keeps_readBuf (h : Keeps s t) {c l f} (hf : ∀ u, Keeps s u → Keeps s (f u)) :
    Keeps s (readBuf t c l f) := by
  unfold readBuf
  dsimp only
  split
  · exact keeps_xlatFault (keeps_xlatPages h)
  · exact hf _ (keeps_xlatPages h)

theorem keeps_writeBuf (h : Keeps s t) {c r l q} : Keeps s (writeBuf t c r l q) := by
  grind [writeBuf, ← keeps_with, ← keeps_xlatPages, ← keeps_xlatFault, ← keeps_storeFinish, ← keeps_putOut]

theorem keeps_appendMore (h : Keeps s t) {c g r} : Keeps s (appendMore t c g r) := by
  unfold appendMore
  apply_rules [keeps_appendRecs, keeps_setReq, keeps_storeFinish, Keeps.ite]

theorem keeps_appendSub (h : Keeps s t) {g c r} : Keeps s (appendSub g c r t) := by
  unfold appendSub
  exact .ite (keeps_appendMore h) (.ite (keeps_storeFinish h) (.ite (keeps_storeFinish h)
    (keeps_readBuf h fun _ hu => keeps_appendMore hu)))

theorem keeps_journalAppend (h : Keeps s t) {ctx} : Keeps s (journalAppend ctx t) :=
  keeps_mountedRow h fun _ _ _ hu => keeps_appendSub hu

theorem keeps_galleryAppend (h : Keeps s t) {ctx} : Keeps s (galleryAppend ctx t) :=
  keeps_mountedRow h fun _ _ _ hu => keeps_appendSub hu

theorem keeps_sappAccept (h : Keeps s t) {c} : Keeps s (sappAccept t c) := by
  unfold sappAccept
  split <;> apply_rules [keeps_acIncCtx, keeps_callDone, keeps_updCtx, keeps_updStore, keeps_appendRecs, Keeps.ite]

theorem keeps_finishCovered (h : Keeps s t) : Keeps s (finishCovered t) := by
  grind [finishCovered, ← Keeps.foldl, ← keeps_storeFinish]

theorem keeps_journalCommit (h : Keeps s t) : Keeps s (journalCommit t) := by
  unfold journalCommit
  apply_rules [keeps_commitStart, keeps_finishCovered, keeps_commitEnd, Keeps.ite]

theorem keeps_commitSub (h : Keeps s t) {x0 r} : Keeps s (commitSub x0 r t) := keeps_storeFinish (keeps_updStore h)

theorem keeps_noteScan (h : Keeps s t) {g z} : Keeps s (noteScan t g z) := by
  grind [noteScan, ← Keeps.foldl, ← keeps_notePage]

theorem keeps_readSub (h : Keeps s t) {errs g c r} : Keeps s (readSub errs g c r t) := by
  unfold readSub
  exact .ite (keeps_storeFinish h) (keeps_readBuf h fun _ hu => keeps_writeBuf (keeps_count (keeps_noteScan hu)))

theorem keeps_journalRead (h : Keeps s t) {ctx errs} : Keeps s (journalRead ctx errs t) :=
  keeps_mountedRow h fun _ _ _ hu => keeps_readSub hu

theorem keeps_galleryRead (h : Keeps s t) {ctx errs} : Keeps s (galleryRead ctx errs t) :=
  keeps_mountedRow h fun _ _ _ hu => keeps_readSub hu

theorem keeps_endSearch (h : Keeps s t) {c} : Keeps s (endSearch t c) := by
  grind [endSearch, ← Keeps.foldl, ← keeps_updSeq]

theorem keeps_searchRun (h : Keeps s t) {errs c r} : Keeps s (searchRun t errs c r) := by
  unfold searchRun
  exact .ite (keeps_endSearch (keeps_storeFinish h)) (.ite (keeps_endSearch (keeps_storeFinish h))
    (keeps_readBuf h fun _ hu => keeps_endSearch (keeps_writeBuf (keeps_count (keeps_noteScan hu)))))

theorem keeps_search (h : Keeps s t) {ctx errs} : Keeps s (search ctx errs t) := by
  unfold search
  dsimp only
  split <;> apply_rules [keeps_searchRun, Keeps.ite]

theorem keeps_imageWrite (h : Keeps s t) {id f c r} : Keeps s (imageWrite id f c r t) := by
  unfold imageWrite
  exact .ite (keeps_storeFinish h) (keeps_readBuf h fun _ hu =>
    keeps_setReq (keeps_updStore (keeps_wroteMeta (keeps_count hu))))

theorem keeps_ingotWrite (h : Keeps s t) {ctx} : Keeps s (ingotWrite ctx t) :=
  keeps_mountedRow h fun _ _ _ hu => keeps_imageWrite hu

theorem keeps_planWrite (h : Keeps s t) {ctx p} : Keeps s (planWrite ctx p t) :=
  keeps_mountedRow h fun _ _ _ hu => keeps_imageWrite hu

theorem keeps_readImage (h : Keeps s t) {errs c r i} : Keeps s (readImage t errs c r i) := by
  grind [readImage, ← Keeps.foldl, ← keeps_notePage, ← keeps_writeBuf, ← keeps_count]

theorem keeps_ingotReadSub (h : Keeps s t) {errs c r} : Keeps s (ingotReadSub errs c r t) := by
  unfold ingotReadSub
  split
  · exact keeps_storeFinish h
  · exact .ite (keeps_storeFinish h) (.ite (keeps_storeFinish h) (.ite (keeps_readImage h)
      (keeps_writeBuf (keeps_count h))))

theorem keeps_ingotRead (h : Keeps s t) {ctx errs} : Keeps s (ingotRead ctx errs t) :=
  keeps_mountedRow h fun _ _ _ hu => keeps_ingotReadSub hu

theorem keeps_ingotDeleteSub (h : Keeps s t) {c r} : Keeps s (ingotDeleteSub c r t) := by
  unfold ingotDeleteSub
  apply_rules [keeps_storeFinish, keeps_updStore, Keeps.ite]

theorem keeps_ingotDelete (h : Keeps s t) {ctx} : Keeps s (ingotDelete ctx t) :=
  keeps_mountedRow h fun _ _ _ hu => keeps_ingotDeleteSub hu

theorem keeps_formatBlock (h : Keeps s t) {bad k} : Keeps s (formatBlock t bad k) := by
  unfold formatBlock
  apply_rules [keeps_updStore, keeps_eraseBlock, Keeps.ite]

theorem keeps_ingotPool {n} (h : Keeps s t) : Keeps s (ingotPool n t) := by
  induction n generalizing t with
  | zero => exact h
  | succ n ih => exact ih (keeps_takeStripe h)

theorem keeps_formatStore (h : Keeps s t) {bad q} : Keeps s (formatStore t bad q) := by
  grind [formatStore, ← keeps_updStore, ← Keeps.foldl, ← keeps_formatBlock, ← keeps_ingotPool]

theorem keeps_formatSub (h : Keeps s t) {bad c r} : Keeps s (formatSub bad c r t) := by
  unfold formatSub
  dsimp only
  repeat' split
  all_goals apply_rules [keeps_storeFinish, keeps_updStore, keeps_formatStore, Keeps.ite]

theorem keeps_format (h : Keeps s t) {ctx bad} : Keeps s (format ctx bad t) :=
  keeps_mountedRow h fun _ _ _ hu => keeps_formatSub hu

theorem keeps_setDom (h : Keeps s t) {d on} : Keeps s (setDom t d on) := keeps_with h

theorem keeps_moduleOutSub (h : Keeps s t) {c r} : Keeps s (moduleOutSub c r t) := by
  unfold moduleOutSub
  apply_rules [keeps_storeFinish, keeps_finishOps, keeps_setDom, keeps_nandBit, keeps_dropModule, Keeps.ite]

theorem keeps_moduleOut (h : Keeps s t) {ctx} : Keeps s (moduleOut ctx t) :=
  keeps_mountedRow h fun _ _ _ hu => keeps_moduleOutSub hu

theorem keeps_restripe {region b l acc} (h : Keeps s t) : Keeps s (restripe region b l t acc).2 := by
  induction l generalizing t acc with
  | nil => exact h
  | cons a l ih => exact ih (keeps_takeStripe h)

theorem keeps_eraseCopies (h : Keeps s t) {b} : Keeps s (eraseCopies t b) := by
  unfold eraseCopies
  apply_rules [keeps_updStore, Keeps.ite]

theorem keeps_moduleFresh (h : Keeps s t) {b bad} : Keeps s (moduleFresh t b bad) := by
  unfold moduleFresh
  exact keeps_updLog (keeps_restripe (keeps_updStore (keeps_restripe (keeps_updLog
    (Keeps.foldl (fun _ _ hu => keeps_formatBlock hu) _ (keeps_eraseCopies (keeps_updStore h)))))))

theorem keeps_moduleInSub (h : Keeps s t) {badT bad c r} : Keeps s (moduleInSub badT bad c r t) := by
  unfold moduleInSub
  exact .ite (keeps_storeFinish h) (.ite
    (keeps_storeFinish (Keeps.foldl (fun _ _ hu => keeps_targetFails hu) _ (keeps_updStore (keeps_updStore
      (keeps_setDom h)))))
    (keeps_storeFinish (keeps_stPost (keeps_updStore (keeps_moduleFresh (keeps_updStore (keeps_setDom h)))))))

theorem keeps_moduleIn (h : Keeps s t) {ctx badT bad} : Keeps s (moduleIn ctx badT bad t) :=
  keeps_mountedRow h fun _ _ _ hu => keeps_moduleInSub hu

theorem keeps_rebuildCopy (h : Keeps s t) : Keeps s (rebuildCopy t) := by
  unfold rebuildCopy
  apply_rules [keeps_updStore, Keeps.ite]

theorem keeps_clearNandBit (h : Keeps s t) : Keeps s (clearNandBit t) := by
  unfold clearNandBit
  split <;> apply_rules [keeps_with, Keeps.ite]

theorem keeps_mirrorRebuilt (h : Keeps s t) : Keeps s (mirrorRebuilt t) := by
  unfold mirrorRebuilt
  repeat' split
  all_goals apply_rules [keeps_rebuildCopy, keeps_updStore, keeps_clearNandBit, keeps_stPost, keeps_stEvent,
      Keeps.ite]

theorem keeps_eraseArmDone (h : Keeps s t) {v} : Keeps s (eraseArmDone t v) := by
  unfold eraseArmDone
  apply_rules [keeps_updStore, Keeps.ite]

theorem keeps_eraseArmExpiry (h : Keeps s t) : Keeps s (eraseArmExpiry t) := by
  unfold eraseArmExpiry
  split <;> apply_rules [keeps_updStore, Keeps.ite]

theorem keeps_storeRefresh (h : Keeps s t) {k corrected} : Keeps s (storeRefresh t k corrected) := by
  unfold storeRefresh
  refine .ite (.ite ?_ (keeps_updStore h)) h
  split
  · next u hu => exact keeps_stPost (keeps_moveBlock (keeps_updStore h) hu)
  · exact keeps_updStore h

theorem keeps_storeHoursTick (h : Keeps s t) : Keeps s (storeHoursTick t) := by
  unfold storeHoursTick
  apply_rules [keeps_forgeTemper, keeps_updStore, Keeps.ite]

theorem keeps_zqTimer (h : Keeps s t) : Keeps s (zqTimer t) := by
  unfold zqTimer
  apply_rules [keeps_updStore, Keeps.ite]

theorem keeps_statusPoll (h : Keeps s t) {ch ce lun status} : Keeps s (statusPoll t ch ce lun status) := by
  unfold statusPoll
  split <;> apply_rules [keeps_nandDone, Keeps.ite]

theorem keeps_nandOpTimeout (h : Keeps s t) {ch ce lun} : Keeps s (nandOpTimeout t ch ce lun) := by
  unfold nandOpTimeout
  repeat' split
  all_goals apply_rules [keeps_targetFails, keeps_updStore, Keeps.ite]

theorem keeps_storeResetDone (h : Keeps s t) : Keeps s (storeResetDone t) := by
  unfold storeResetDone
  apply_rules [keeps_finishOps, keeps_updStore, keeps_storeMount, Keeps.ite]

end Sys2Proof.Proofs
end

section
/-! PROOF. Host memory and the queue (IV). The same of standing operation, service, power, telemetry and registers. -/

namespace Sys2Proof.Proofs

open Sys2Proof Sys2Proof.Machine Sys2Proof.Says Sys2Proof.Laws

variable {s t : State}

theorem keeps_updSb (h : Keeps s t) {f} : Keeps s (updSb t f) := keeps_with h

theorem keeps_abortOpen (h : Keeps s t) : Keeps s (abortOpen t) := by
  refine Keeps.foldl (fun u i hu => ?_) _ h
  split
  · exact .ite hu (keeps_closeRec (keeps_abortCtxs hu))
  · exact hu

theorem keeps_hostReset (h : Keeps s t) : Keeps s (hostReset t) := by
  unfold hostReset
  exact .ite h (keeps_abortOpen (keeps_updSb (keeps_with h)))

theorem keeps_quietLimitExpiry (h : Keeps s t) : Keeps s (quietLimitExpiry t) := by
  grind [quietLimitExpiry, ← Keeps.foldl, ← keeps_cmdFault]

theorem keeps_closeOutside (h : Keeps s t) : Keeps s (closeOutside t) := keeps_with h

theorem keeps_quietWait (h : Keeps s t) {c} : Keeps s (quietWait t c) := by
  grind [quietWait, ← keeps_updCtx, ← keeps_withdrawWait]

theorem keeps_hostQuiet (h : Keeps s t) : Keeps s (hostQuiet t) := by
  grind [hostQuiet, ← keeps_closeOutside, ← Keeps.foldl, ← keeps_quietWait, ← keeps_updSb]

theorem keeps_layCarve (h : Keeps s t) {version} : Keeps s (layCarve t version) := by
  unfold layCarve
  extract_lets a keep starts wr zeroed kept size tabled headed
  refine keeps_updSb (keeps_stored h fun hm => memWf_wr32 _ _ (memWf_wr32 _ _ (memWf_wr32 _ _ ?_)))
  have hzeroed : memWf zeroed = true := memWf_zeroRange hm
  have hkept : memWf kept = true := by
    unfold kept
    split
    · exact memWf_zeroRange hzeroed
    · exact hzeroed
  exact foldl_of_keeps (P := fun m => memWf m = true) (fun _ _ hx => memWf_wrNat _ _ _ hx) _ hkept

theorem keeps_sealHeader (h : Keeps s t) : Keeps s (sealHeader t) :=
  keeps_stored h fun hm => memWf_wr32 _ _ (memWf_wrNat _ _ _ hm)

theorem keeps_carveTake (h : Keeps s t) {n a u} (hu : carveTake t n = some (a, u)) : Keeps s u := by
  unfold carveTake at hu
  dsimp only at hu
  split at hu
  · cases hu
    exact keeps_updSb h
  · cases hu

theorem keeps_standAreas (h : Keeps s t) {b n bound u} (hu : standAreas t b n bound = some u) : Keeps s u := by
  refine keeps_foldl_bind (fun t i u ht hi => ?_) (fun t ht => Option.some.inj ht ▸ h) hu
  have hcarve : ∀ {t u : State} {n a}, Keeps s t → carveTake t n = some (a, u) → Keeps s u :=
    fun h hu => keeps_carveTake h hu
  -- the kernel would otherwise evaluate `carveTake` at its literal sizes
  generalize carveTake = take at hi hcarve
  as_aux_lemma =>
    split at hi
    · cases hi
    · next r hring =>
      split at hi
      · cases hi
      · next v harea =>
        cases hi
        exact keeps_updCtx (hcarve (hcarve ht hring) harea)

theorem keeps_placeIngot (h : Keeps s t) {id u} (hu : placeIngot t id = some u) : Keeps s u := by
  obtain ⟨⟨a, v⟩, htake, rfl⟩ := Option.map_eq_some_iff.mp hu
  exact keeps_stored (keeps_carveTake h htake) (memWf_wrBytes _ _)

theorem keeps_standSpace (h : Keeps s t) {b} : Keeps s (standSpace t b) := by
  unfold standSpace
  dsimp only
  split <;> apply_rules [keeps_putSpace, Keeps.ite]

theorem keeps_standBind (h : Keeps s t) {b i x} : Keeps s (standBind t b i x) :=
  keeps_startCtx (keeps_updSb (keeps_updCtx (keeps_bindCtx h)))

theorem keeps_parkPlanned (h : Keeps s t) {b} : Keeps s (parkPlanned t b) := keeps_updSb h

theorem keeps_startBasket (h : Keeps s t) {bad p} : Keeps s (startBasket t bad p) := by
  have harea : ∀ {u : State} {b n bound}, standAreas t b n bound = some u → Keeps s u :=
    fun hu => keeps_standAreas h hu
  unfold startBasket
  generalize standAreas = areas at harea ⊢
  as_aux_lemma =>
    dsimp only
    split
    · exact keeps_parkPlanned h
    · refine .ite (keeps_parkPlanned h) ?_
      split
      · exact keeps_parkPlanned h
      · next u hroom =>
        obtain ⟨v, hareas, hplaced⟩ := Option.bind_eq_some_iff.mp hroom
        have hu : Keeps s u := keeps_foldl_bind (fun _ _ _ ht hx => keeps_placeIngot ht hx)
          (fun _ ht => Option.some.inj ht ▸ harea hareas) hplaced
        exact .ite (keeps_parkPlanned h) (keeps_updSb (Keeps.foldl (fun _ _ hw => keeps_standBind hw) _
          (keeps_standSpace (keeps_with (keeps_setRate (keeps_setBsk hu))))))

theorem keeps_setRoute (h : Keeps s t) {stream v} : Keeps s (setRoute t stream v) := keeps_with h

theorem keeps_planRoutes (h : Keeps s t) {p sel} : Keeps s (planRoutes t p sel) := by
  grind [planRoutes, ← Keeps.foldl, ← keeps_setRoute]

theorem keeps_markDays (h : Keeps s t) : Keeps s (markDays t) := by
  grind [markDays, ← Keeps.foldl, ← keeps_updSb]

theorem keeps_applyPlan (h : Keeps s t) {f p} : Keeps s (applyPlan t f p) := by
  grind [applyPlan, ← keeps_layCarve, ← keeps_updSb, ← Keeps.foldl, ← keeps_startBasket, ← keeps_with,
      ← keeps_sealHeader, ← keeps_planRoutes]

theorem keeps_takeAnchor (h : Keeps s t) : Keeps s (takeAnchor t) := by
  unfold takeAnchor
  split <;> apply_rules [keeps_updSb, Keeps.ite]

theorem keeps_forgeStart (h : Keeps s t) {f} : Keeps s (forgeStart t f) := by
  unfold forgeStart
  refine .ite h ?_
  extract_lets _ noted mounted marked anchored planned _ ported linked _ ready
  have hmounted : Keeps s mounted := keeps_storeMount (keeps_setDom (keeps_setDom (keeps_setDom (keeps_with h))))
  have hanchored : Keeps s anchored := keeps_takeAnchor (.ite (keeps_nandBit hmounted) hmounted)
  have hplanned : Keeps s planned := by
    unfold planned
    split
    · exact keeps_applyPlan hanchored
    · exact hanchored
  exact keeps_post (keeps_with (Keeps.foldl (fun _ _ hu => .ite (keeps_linkTry hu) hu) _ (keeps_with hplanned)))

theorem keeps_fireEntry (h : Keeps s t) {b e} : Keeps s (fireEntry t b e) := by
  unfold fireEntry
  split <;> apply_rules [keeps_updSb, Keeps.ite]

theorem keeps_superviseBasket (h : Keeps s t) {b} : Keeps s (superviseBasket t b) := by
  unfold superviseBasket
  dsimp only
  repeat' split
  all_goals apply_rules [keeps_updSb, keeps_parkBasket, keeps_fireEntry, Keeps.ite]

theorem keeps_standingRestart (h : Keeps s t) {c} : Keeps s (standingRestart t c) := by
  unfold standingRestart
  apply_rules [keeps_eventLog, keeps_resetCtx, keeps_updSb, keeps_startCtx, keeps_superviseBasket, Keeps.ite]

theorem keeps_sampleEntry (h : Keeps s t) {b e} : Keeps s (sampleEntry t b e) := by
  unfold sampleEntry
  split <;> apply_rules [keeps_updSb, keeps_fireEntry, Keeps.ite]

theorem keeps_sceneSample (h : Keeps s t) : Keeps s (sceneSample t) := by
  grind [sceneSample, ← keeps_updSb, ← Keeps.foldl, ← keeps_sampleEntry]

theorem keeps_timeTrigger (h : Keeps s t) {b e} : Keeps s (timeTrigger t b e) := by
  unfold timeTrigger
  repeat' split
  all_goals apply_rules [keeps_updSb, keeps_fireEntry, Keeps.ite]

theorem keeps_switchLog (h : Keeps s t) {b e} : Keeps s (switchLog t b e) := keeps_eventLog h

theorem keeps_switchRoutes (h : Keeps s t) {b m} : Keeps s (switchRoutes t b m) := keeps_with h

theorem keeps_setSwitch (h : Keeps s t) {b r} : Keeps s (setSwitch t b r) := keeps_updSb h

theorem keeps_switchPends (h : Keeps s t) {b r} : Keeps s (switchPends t b r) := by
  unfold switchPends
  apply_rules [keeps_setSwitch, keeps_switchLog, Keeps.ite]

theorem keeps_switchPlace (h : Keeps s t) {b p r bad} : Keeps s (switchPlace t b p r bad) := by
  unfold switchPlace
  dsimp only
  split
  · split
    · exact .ite (keeps_setSwitch (keeps_parkBasket h)) (keeps_setSwitch h)
    · exact keeps_setSwitch (keeps_parkBasket h)
  · refine .ite (keeps_switchPends h) ?_
    split
    · exact keeps_switchPends h
    · next u hplaced =>
      have hu : Keeps s u := keeps_foldl_bind (fun _ _ _ ht hx => keeps_placeIngot ht hx)
        (fun _ ht => Option.some.inj ht ▸ h) hplaced
      exact keeps_setSwitch (keeps_switchRoutes (Keeps.foldl (fun _ _ hw => keeps_standBind hw) _
        (keeps_sealHeader hu)))

theorem keeps_nextFired (h : Keeps s t) {b} : Keeps s (nextFired t b) := by
  unfold nextFired
  split <;> apply_rules [keeps_fireEntry, keeps_updSb, Keeps.ite]

theorem keeps_switchEnd (h : Keeps s t) {b r} : Keeps s (switchEnd t b r) := by
  unfold switchEnd
  exact .ite (keeps_nextFired (keeps_switchLog (keeps_updSb (keeps_forgeTemper
    (Keeps.foldl (fun _ _ hu => keeps_freeCtx (keeps_stopCtx hu)) _ h))))) h

theorem keeps_ingotSwitch (h : Keeps s t) {b bad} : Keeps s (ingotSwitch t b bad) := by
  unfold ingotSwitch
  split <;> apply_rules [keeps_switchEnd, keeps_switchPlace, Keeps.ite]

theorem keeps_remind (h : Keeps s t) : Keeps s (remind t) := by
  unfold remind
  apply_rules [keeps_geqPut, Keeps.ite]

theorem keeps_adoptTime (h : Keeps s t) : Keeps s (adoptTime t) := by
  unfold adoptTime
  apply_rules [keeps_updStore, keeps_markDays, keeps_updSb, Keeps.ite]

theorem keeps_adoptReply (h : Keeps s t) : Keeps s (adoptReply t) := keeps_mbxReply (keeps_remind (keeps_adoptTime h))

theorem keeps_adoptRow (h : Keeps s t) {n f} (hf : Keeps s (f t)) : Keeps s (adoptRow t n f) :=
  keeps_mbxOpRow h (.ite (keeps_mbxReply h) (.ite hf h))

theorem keeps_forgetCtx (h : Keeps s t) {c} : Keeps s (forgetCtx t c) :=
  keeps_freeCtx (keeps_dropFaults (keeps_dropRegion (keeps_releaseCores (keeps_dropBundles h))))

theorem keeps_forgetBasket (h : Keeps s t) {b} : Keeps s (forgetBasket t b) := by
  grind [forgetBasket, ← Keeps.foldl, ← keeps_updCore, ← keeps_freeBasket]

theorem keeps_adoptFresh (h : Keeps s t) : Keeps s (adoptFresh t) := by
  unfold adoptFresh
  exact .ite (keeps_mbxReply h) (keeps_adoptReply (keeps_updSb (keeps_with
    (Keeps.foldl (fun _ _ hu => keeps_putSpace hu) _ (Keeps.foldl (fun _ _ hu => keeps_forgetBasket hu) _
      (Keeps.foldl (fun _ _ hu => keeps_forgetCtx hu) _ h))))))

theorem keeps_adoptResume (h : Keeps s t) : Keeps s (adoptResume t) := by
  unfold adoptResume
  exact .ite (keeps_mbxReply h) (keeps_adoptReply (keeps_updSb (keeps_with
    (Keeps.foldl (fun _ _ hu => keeps_updCtx hu) _ h))))

theorem keeps_dropStanding (h : Keeps s t) {b} : Keeps s (dropStanding t b) := by
  have hforget : Keeps s ((bskCtxs t b).foldl forgetCtx t) := Keeps.foldl (fun _ _ hu => keeps_forgetCtx hu) _ h
  unfold dropStanding
  refine keeps_updSb (keeps_dropRoutes ?_)
  split
  · exact keeps_forgetBasket hforget
  · exact hforget

theorem keeps_adoptPlan (h : Keeps s t) {f} : Keeps s (adoptPlan t f) := by
  unfold adoptPlan
  refine .ite (keeps_mbxReply h) ?_
  split
  · exact keeps_mbxReply h
  · extract_lets l live drained dropped laid planned started _
    have hdrained : Keeps s drained := Keeps.foldl (fun _ _ hu => .ite hu (keeps_drainBegin hu)) _ h
    have hdropped : Keeps s dropped := Keeps.foldl (fun _ _ hu => keeps_dropStanding hu) _ hdrained
    have hplanned : Keeps s planned := keeps_updSb (.ite (keeps_layCarve hdropped) hdropped)
    have hstarted : Keeps s started := Keeps.foldl (fun _ _ hu => keeps_startBasket hu) _ hplanned
    exact .ite (keeps_adoptReply (keeps_sealHeader (keeps_planRoutes (keeps_with hstarted)))) (keeps_mbxKeep hdrained)

theorem keeps_updSvc (h : Keeps s t) {f} : Keeps s (updSvc t f) := keeps_with h

theorem keeps_retireLost (h : Keeps s t) {link} : Keeps s (retireLost t link) := by
  have hone : ∀ u c, Keeps s u → Keeps s (if coreRetiredTa u c then u else retireCore u c) :=
    fun _ _ hu => .ite hu (keeps_retireCore hu)
  exact .ite (hone _ _ h) (Keeps.foldl (fun _ _ hu => .ite (hone _ _ hu) hu) _ h)

theorem keeps_retireLink (h : Keeps s t) {link} : Keeps s (retireLink t link) := by
  unfold retireLink
  apply_rules [keeps_updSvc, keeps_forgeTemper, keeps_retireLost, keeps_postReplace, Keeps.ite]

theorem keeps_packetResend (h : Keeps s t) {link again} : Keeps s (packetResend t link again) := by
  unfold packetResend
  apply_rules [keeps_retireLink, keeps_updSvc, keeps_count, Keeps.ite]

theorem keeps_svcWdog (h : Keeps s t) {i v} : Keeps s (svcWdog t i v) := by
  unfold svcWdog
  apply_rules [keeps_gated, keeps_updSvc, Keeps.ite]

theorem keeps_recoveredEntry (h : Keeps s t) {halted} : Keeps s (recoveredEntry t halted) := by
  unfold recoveredEntry
  apply_rules [keeps_postReplace, keeps_post, Keeps.ite]

theorem keeps_forgeWatchdogExpiry (h : Keeps s t) : Keeps s (forgeWatchdogExpiry t) := by
  grind [forgeWatchdogExpiry, ← keeps_updStore, ← keeps_with, ← keeps_recoveredEntry, ← keeps_updSvc]

theorem keeps_forgeRecovered (h : Keeps s t) : Keeps s (forgeRecovered t) := by
  unfold forgeRecovered
  split <;> apply_rules [keeps_updSvc, keeps_recoveredEntry, keeps_with, Keeps.ite]

theorem keeps_updateReply (h : Keeps s t) {status words} : Keeps s (updateReply t status words) :=
  keeps_mbxReply (keeps_updSvc h)

theorem keeps_handOver (h : Keeps s t) {u} : Keeps s (handOver t u) := by
  unfold handOver
  apply_rules [keeps_updSvc, keeps_with, Keeps.ite]

theorem keeps_fwUpdateReq (h : Keeps s t) {authentic version} : Keeps s (fwUpdateReq t authentic version) := by
  unfold fwUpdateReq
  apply_rules [keeps_mbxReply, keeps_mbxKeep, keeps_handOver, keeps_updSvc, Keeps.ite]

theorem keeps_fwUpdate (h : Keeps s t) {authentic version} : Keeps s (fwUpdate t authentic version) := by
  unfold fwUpdate
  split <;> apply_rules [keeps_handOver, keeps_mbxOpRow, keeps_fwUpdateReq, Keeps.ite]

theorem keeps_handoverReady (h : Keeps s t) : Keeps s (handoverReady t) := by
  grind [handoverReady, ← keeps_updSvc, ← keeps_with, ← keeps_post, ← keeps_updateReply]

theorem keeps_handoverTimeout (h : Keeps s t) : Keeps s (handoverTimeout t) := by
  grind [handoverTimeout, ← keeps_updSvc, ← keeps_with, ← keeps_updateReply, ← keeps_post]

theorem keeps_quiescenceTimeout (h : Keeps s t) : Keeps s (quiescenceTimeout t) := by
  unfold quiescenceTimeout
  split <;> apply_rules [keeps_updateReply, Keeps.ite]

theorem keeps_replaceReminder (h : Keeps s t) : Keeps s (replaceReminder t) := by
  unfold replaceReminder
  apply_rules [keeps_updSvc, keeps_remind, Keeps.ite]

theorem keeps_updPwr (h : Keeps s t) {f} : Keeps s (updPwr t f) := keeps_with h

theorem keeps_pwrEvent (h : Keeps s t) {bit} : Keeps s (pwrEvent t bit) := keeps_updPwr h

theorem keeps_setEn (h : Keeps s t) {d b} : Keeps s (setEn t d b) := keeps_updPwr h

theorem keeps_setOn (h : Keeps s t) {d b} : Keeps s (setOn t d b) := keeps_updPwr h

theorem keeps_pumpSeq {n} (h : Keeps s t) : Keeps s (pumpSeq n t) := by
  induction n generalizing t with
  | zero => exact h
  | succ n ih =>
    unfold pumpSeq
    refine .ite h ?_
    dsimp only
    split
    · exact h
    · exact ih (keeps_updPwr h)

theorem keeps_askSeq (h : Keeps s t) {d on} : Keeps s (askSeq t d on) := keeps_pumpSeq (keeps_updPwr h)

theorem keeps_enableDomain (h : Keeps s t) {d} : Keeps s (enableDomain t d) := by
  unfold enableDomain
  apply_rules [keeps_pwrRefused, keeps_askSeq, keeps_setEn, Keeps.ite]

theorem keeps_domainOn (h : Keeps s t) {i d} : Keeps s (domainOn t i d) := by
  unfold domainOn
  apply_rules [keeps_regReserved, keeps_gated, keeps_enableDomain, Keeps.ite]

theorem keeps_loseDomain (h : Keeps s t) {d} : Keeps s (loseDomain t d) := by
  unfold loseDomain
  exact .ite (.ite (keeps_updTa (keeps_resetCore h)) (.ite (keeps_updTa h) (keeps_updPan h))) (.ite (keeps_updStore h)
    (.ite (keeps_setLink h) (.ite (keeps_with h) (.ite (keeps_with h) h))))

theorem keeps_turnOff (h : Keeps s t) {d} : Keeps s (turnOff t d) := by
  unfold turnOff
  apply_rules [keeps_askSeq, keeps_loseDomain, keeps_setOn, keeps_setEn, Keeps.ite]

theorem keeps_forceOffNow (h : Keeps s t) {d} : Keeps s (forceOffNow t d) := by
  grind [forceOffNow, ← keeps_updPwr, ← Keeps.foldl, ← keeps_turnOff, ← keeps_pwrRefused]

theorem keeps_forceOffDone (h : Keeps s t) {i v} : Keeps s (forceOffDone t i v) := by
  unfold forceOffDone
  apply_rules [keeps_regReserved, keeps_forceOffNow, Keeps.ite]

theorem keeps_domainUp (h : Keeps s t) {d} : Keeps s (domainUp t d) := by
  unfold domainUp
  apply_rules [keeps_setOn, keeps_linkTry, Keeps.ite]

theorem keeps_offAfterOn (h : Keeps s t) {d} : Keeps s (offAfterOn t d) := by
  unfold offAfterOn
  apply_rules [keeps_forceOffNow, keeps_updPwr, Keeps.ite]

theorem keeps_powerAck (h : Keeps s t) {d} : Keeps s (powerAck t d) := by
  unfold powerAck
  split <;> apply_rules [keeps_updPwr, keeps_pumpSeq, keeps_offAfterOn, keeps_domainUp, Keeps.ite]

theorem keeps_pwrSeqTimeout (h : Keeps s t) {d} : Keeps s (pwrSeqTimeout t d) := by
  unfold pwrSeqTimeout
  split <;> apply_rules [keeps_updPwr, keeps_post, keeps_pwrEvent, keeps_setEn, keeps_pumpSeq, Keeps.ite]

theorem keeps_toPoint (h : Keeps s t) {p} : Keeps s (toPoint t p) := by
  unfold toPoint
  apply_rules [keeps_updPwr, keeps_trace, Keeps.ite]

theorem keeps_unmetCheck (h : Keeps s t) : Keeps s (unmetCheck t) := by
  unfold unmetCheck
  apply_rules [keeps_updPwr, keeps_toPoint, keeps_post, keeps_pwrEvent, Keeps.ite]

theorem keeps_powerPeriod (h : Keeps s t) {stat dyn} : Keeps s (powerPeriod t stat dyn) := by
  unfold powerPeriod
  dsimp only
  repeat' split
  all_goals apply_rules [keeps_updPwr, keeps_count, keeps_toPoint, keeps_unmetCheck, Keeps.ite]

theorem keeps_budgetWrite (h : Keeps s t) {i v} : Keeps s (budgetWrite t i v) := by
  unfold budgetWrite
  apply_rules [keeps_gated, keeps_regReserved, keeps_updPwr, keeps_unmetCheck, keeps_toPoint, Keeps.ite]

theorem keeps_thermTrip (h : Keeps s t) : Keeps s (thermTrip t) := by
  unfold thermTrip
  apply_rules [keeps_updPwr, keeps_toPoint, keeps_post, keeps_forgeTemper, Keeps.ite]

theorem keeps_sense (h : Keeps s t) {l bad} : Keeps s (sense t l bad) := by
  unfold sense
  apply_rules [keeps_updPwr, keeps_with, Keeps.ite]

theorem keeps_sensorBad (h : Keeps s t) {old} : Keeps s (sensorBad t old) := by
  grind [sensorBad, ← Keeps.foldl, ← keeps_post, ← keeps_pwrEvent]

theorem keeps_thermHigh (h : Keeps s t) : Keeps s (thermHigh t) := by
  unfold thermHigh
  apply_rules [keeps_post, keeps_pwrEvent, keeps_updPwr, Keeps.ite]

theorem keeps_thermRead (h : Keeps s t) {l bad} : Keeps s (thermRead t l bad) := by
  unfold thermRead
  apply_rules [keeps_sensorBad, keeps_sense, keeps_thermTrip, keeps_thermHigh, keeps_toPoint, Keeps.ite]

theorem keeps_thermalSample (h : Keeps s t) {l bad} : Keeps s (thermalSample t l bad) := by
  unfold thermalSample
  apply_rules [keeps_thermRead, Keeps.ite]

theorem keeps_pllUnlock (h : Keeps s t) : Keeps s (pllUnlock t) := by
  unfold pllUnlock
  apply_rules [keeps_updPwr, Keeps.ite]

theorem keeps_pllRelock (h : Keeps s t) : Keeps s (pllRelock t) := by
  unfold pllRelock
  split <;> apply_rules [keeps_updPwr, keeps_post, keeps_pwrEvent, Keeps.ite]

theorem keeps_pllUnlockTimeout (h : Keeps s t) : Keeps s (pllUnlockTimeout t) := by
  unfold pllUnlockTimeout
  split <;> apply_rules [keeps_updPwr, Keeps.ite]

theorem keeps_cleared (h : Keeps s t) : Keeps s (cleared t) := keeps_with h

theorem keeps_startUpCore (h : Keeps s t) {c} : Keeps s (startUpCore t c) := by
  unfold startUpCore
  exact .ite (keeps_updPan (Keeps.foldl (fun _ _ hu => keeps_setOn (keeps_setEn hu)) _ (keeps_resetCore h)))
    (keeps_resetCore h)

theorem keeps_startUpCal (h : Keeps s t) {calFails c} : Keeps s (startUpCal calFails t c) := by
  unfold startUpCal
  repeat' split
  all_goals apply_rules [keeps_updTa, keeps_calFail, keeps_calPass, Keeps.ite]

theorem keeps_carveWindow (h : Keeps s t) : Keeps s (carveWindow t) := by
  unfold carveWindow
  split <;> apply_rules [keeps_with, Keeps.ite]

theorem keeps_meshStart (h : Keeps s t) : Keeps s (meshStart t) := keeps_updSvc h

theorem keeps_startUp (h : Keeps s t) {i} : Keeps s (startUp t i) := by
  unfold startUp
  extract_lets _ sensed pointed on verified _ windowed cored
  have hsensed : Keeps s sensed := keeps_thermRead (keeps_updPwr (keeps_meshStart (keeps_temperStart h)))
  have hverified : Keeps s verified :=
    keeps_updSvc (keeps_setOn (keeps_setEn (.ite (keeps_toPoint hsensed) hsensed)))
  exact .ite (Keeps.foldl (fun _ _ hu => keeps_startUpCal hu) _ (Keeps.foldl (fun _ _ hu => keeps_startUpCore hu) _
    (keeps_updSvc (keeps_carveWindow hverified)))) (Keeps.foldl (fun _ _ hu => keeps_resetCore hu) _ hverified)

theorem keeps_blockColdReset (h : Keeps s t) {i} : Keeps s (blockColdReset t i) := by
  unfold blockColdReset
  apply_rules [keeps_cleared, keeps_startUp, Keeps.ite]

theorem keeps_blockWarmReset (h : Keeps s t) {i} : Keeps s (blockWarmReset t i) :=
  keeps_startUp (keeps_updPwr (keeps_with (keeps_cleared h)))

theorem keeps_storeResetReq (h : Keeps s t) : Keeps s (storeResetReq t) := by
  unfold storeResetReq
  apply_rules [keeps_storeResetDone, keeps_pwrRefused, Keeps.ite]

theorem keeps_powerLoss (h : Keeps s t) {step torn} : Keeps s (powerLoss t step torn) :=
  h.store rfl fun _ => rfl

theorem keeps_updTel (h : Keeps s t) {f} : Keeps s (updTel t f) := keeps_with h

theorem keeps_armAt (h : Keeps s t) {t'} : Keeps s (armAt t t') := by
  unfold armAt
  apply_rules [keeps_updTel, Keeps.ite]

theorem keeps_snapshotArm (h : Keeps s t) {i} : Keeps s (snapshotArm t i) := by
  unfold snapshotArm
  apply_rules [keeps_gated, keeps_armAt, Keeps.ite]

theorem keeps_takeSnapshot (h : Keeps s t) {t'} : Keeps s (takeSnapshot t t') := by
  unfold takeSnapshot
  apply_rules [keeps_updTel, keeps_trace, Keeps.ite]

theorem keeps_snapshot (h : Keeps s t) : Keeps s (snapshot t) := by
  unfold snapshot
  split <;> apply_rules [keeps_takeSnapshot, Keeps.ite]

theorem keeps_traceEnableTo (h : Keeps s t) : Keeps s (traceEnableTo t) := by
  unfold traceEnableTo
  apply_rules [keeps_updTel, Keeps.ite]

theorem keeps_traceStop (h : Keeps s t) : Keeps s (traceStop t) := keeps_updTel h

theorem keeps_traceEnable (h : Keeps s t) {i} : Keeps s (traceEnable t i) := by
  unfold traceEnable
  apply_rules [keeps_gated, keeps_traceEnableTo, Keeps.ite]

theorem keeps_traceLineTimeout (h : Keeps s t) : Keeps s (traceLineTimeout t) := by
  unfold traceLineTimeout
  dsimp only
  split <;> apply_rules [keeps_updTel, Keeps.ite]

theorem keeps_traceFails (h : Keeps s t) {a} : Keeps s (traceFails t a) := keeps_post (keeps_traceStop h)

theorem keeps_traceLineWrite (h : Keeps s t) {resp} : Keeps s (traceLineWrite t resp) := by
  unfold traceLineWrite
  refine .ite (.ite (keeps_traceFails (keeps_updTel h)) ?_) h
  dsimp only
  split
  · exact (keeps_updTel h).store rfl memWf_putRecords
  · exact keeps_traceFails (keeps_scramble (keeps_updTel h))

theorem keeps_legal (h : Keeps s t) {o v i ok f} (hg : Keeps s (f t)) : Keeps s (legal t o v i ok f) := by
  unfold legal
  apply_rules [keeps_regReserved, Keeps.ite]

theorem keeps_putMailbox (h : Keeps s t) {i at_ o v} : Keeps s (putMailbox t i at_ o v) := by
  grind [putMailbox, ← keeps_with, ← keeps_mbxDoorbell, ← keeps_mbxAck, ← keeps_updSb, ← keeps_legal, ← keeps_svcWdog]

theorem keeps_ctxCtlPut (h : Keeps s t) {i c v} : Keeps s (ctxCtlPut t i c v) := by
  unfold ctxCtlPut
  apply_rules [keeps_bindCtx, keeps_clearValid, keeps_updCtx, Keeps.ite]

theorem keeps_ctxHostPut (h : Keeps s t) {i c at_ v} : Keeps s (ctxHostPut t i c at_ v) := by
  unfold ctxHostPut
  apply_rules [keeps_updCtx, keeps_legal, Keeps.ite]

theorem keeps_ctxCmdPut (h : Keeps s t) {i c at_ v} : Keeps s (ctxCmdPut t i c at_ v) := by
  unfold ctxCmdPut
  split <;> apply_rules [keeps_stopCtx, keeps_startCtx, keeps_cmdFault, keeps_resetCtx, keeps_regReserved, Keeps.ite]

theorem keeps_ctxAddrPut (h : Keeps s t) {i c at_ o v} : Keeps s (ctxAddrPut t i c at_ o v) := by
  unfold ctxAddrPut
  apply_rules [keeps_ctxHostPut, keeps_legal, keeps_updCtx, Keeps.ite]

theorem keeps_putCtx (h : Keeps s t) {i c at_ o v} : Keeps s (putCtx t i c at_ o v) := by
  unfold putCtx
  apply_rules [keeps_ctxCtlPut, keeps_ctxAddrPut, keeps_regRefused, keeps_ctxCmdPut, Keeps.ite]

theorem keeps_putSched (h : Keeps s t) {i c at_ o v} : Keeps s (putSched t i c at_ o v) := by
  unfold putSched
  apply_rules [keeps_placeWrite, keeps_updCtx, keeps_regRefused, Keeps.ite]

theorem keeps_putVec (h : Keeps s t) {i n at_ o v} : Keeps s (putVec t i n at_ o v) := by
  grind [putVec, ← keeps_with, ← keeps_legal, ← keeps_unmaskVec]

theorem keeps_putBsk (h : Keeps s t) {i b o v} : Keeps s (putBsk t i b o v) := by
  unfold putBsk
  exact .ite (keeps_bskCtlWrite h) (.ite (keeps_bskCoresWrite h) (.ite (keeps_bskSegsWrite h)
    (.ite (keeps_bskRegionWrite h) h)))

theorem keeps_putCp (h : Keeps s t) {i at_ o v} : Keeps s (putCp t i at_ o v) := by
  grind [putCp, ← keeps_with, ← keeps_putVec, ← keeps_putBsk, ← keeps_putCtx, ← keeps_putSched]

theorem keeps_updAtu (h : Keeps s t) {f} : Keeps s (updAtu t f) := keeps_with h

theorem keeps_updGeq (h : Keeps s t) {f} : Keeps s (updGeq t f) := keeps_with h

theorem keeps_putAtu (h : Keeps s t) {i at_ o v} : Keeps s (putAtu t i at_ o v) := by
  unfold putAtu
  apply_rules [keeps_updAtu, keeps_spaceCommit, keeps_legal, keeps_faultRespond, keeps_bwWrite, Keeps.ite]

theorem keeps_putGeq (h : Keeps s t) {i at_ o v} : Keeps s (putGeq t i at_ o v) := by
  unfold putGeq
  apply_rules [keeps_geqEnableTo, keeps_updGeq, keeps_regRefused, keeps_legal, Keeps.ite]

theorem keeps_enableDomains (h : Keeps s t) {n v} : Keeps s (enableDomains t n v) := by
  grind [enableDomains, ← Keeps.foldl, ← keeps_enableDomain]

theorem keeps_rstCtlPut (h : Keeps s t) {v} : Keeps s (rstCtlPut t v) := by
  unfold rstCtlPut
  extract_lets selected reset
  have hreset : Keeps s reset := .ite (keeps_coreResetReq (keeps_updPwr h)) (keeps_updPwr h)
  exact .ite (keeps_storeResetReq hreset) hreset

theorem keeps_putPower (h : Keeps s t) {i at_ o v} : Keeps s (putPower t i at_ o v) := by
  unfold putPower
  apply_rules [keeps_budgetWrite, keeps_updPwr, keeps_enableDomains, keeps_legal, keeps_rstCtlPut, Keeps.ite]

theorem keeps_putTemper (h : Keeps s t) {o v} : Keeps s (putTemper t o v) := by
  unfold putTemper
  repeat' split
  all_goals apply_rules [keeps_with, Keeps.ite]

theorem keeps_putTel (h : Keeps s t) {i at_ o v} : Keeps s (putTel t i at_ o v) := by
  unfold putTel
  apply_rules [keeps_traceEnableTo, keeps_traceStop, keeps_updTel, keeps_armAt, keeps_legal, keeps_regRefused,
      Keeps.ite]

theorem keeps_diagCtlPut (h : Keeps s t) {i c v} : Keeps s (diagCtlPut t i c v) := by
  unfold diagCtlPut
  apply_rules [keeps_diagGo, keeps_updTa, Keeps.ite]

theorem keeps_putTa (h : Keeps s t) {i c at_ o v} : Keeps s (putTa t i c at_ o v) := by
  unfold putTa
  apply_rules [keeps_updTa, keeps_legal, keeps_diagCtlPut, Keeps.ite]

theorem keeps_mapSelPut (h : Keeps s t) {i c at_ v} : Keeps s (mapSelPut t i c at_ v) := by
  unfold mapSelPut
  apply_rules [keeps_updPan, keeps_legal, Keeps.ite]

theorem keeps_putPan (h : Keeps s t) {i c at_ o v} : Keeps s (putPan t i c at_ o v) := by
  unfold putPan
  apply_rules [keeps_updPan, keeps_panGroupSet, keeps_legal, keeps_mapSelPut, Keeps.ite]

theorem keeps_putCore (h : Keeps s t) {i c at_ o v} : Keeps s (putCore t i c at_ o v) := by
  unfold putCore
  split <;> apply_rules [keeps_putTa, keeps_putPan, keeps_vdiagGo, Keeps.ite]

theorem keeps_updFp (h : Keeps s t) {f} : Keeps s (updFp t f) := keeps_with h

theorem keeps_routePut (h : Keeps s t) {i at_ v} : Keeps s (routePut t i at_ v) := by
  unfold routePut
  apply_rules [keeps_legal, keeps_setRoute, Keeps.ite]

theorem keeps_putFp (h : Keeps s t) {i at_ o v} : Keeps s (putFp t i at_ o v) := by
  unfold putFp
  apply_rules [keeps_updFp, keeps_routePut, Keeps.ite]

theorem keeps_putRu (h : Keeps s t) {o v} : Keeps s (putRu t o v) := by
  unfold putRu
  repeat' split
  all_goals apply_rules [keeps_with, Keeps.ite]

theorem keeps_winCtlPut (h : Keeps s t) {i l w at_ v} : Keeps s (winCtlPut t i l w at_ v) := by
  unfold winCtlPut
  apply_rules [keeps_regRefused, keeps_setWin, keeps_legal, Keeps.ite]

theorem keeps_winMapPut (h : Keeps s t) {i l w at_ v} : Keeps s (winMapPut t i l w at_ v) := by
  unfold winMapPut
  apply_rules [keeps_legal, keeps_setWin, Keeps.ite]

theorem keeps_winOwnerPut (h : Keeps s t) {i l w at_ v} : Keeps s (winOwnerPut t i l w at_ v) := by
  unfold winOwnerPut
  apply_rules [keeps_legal, keeps_setWin, Keeps.ite]

theorem keeps_putWin (h : Keeps s t) {i l w at_ o v} : Keeps s (putWin t i l w at_ o v) := by
  unfold putWin
  apply_rules [keeps_winCtlPut, keeps_regRefused, keeps_winMapPut, keeps_winOwnerPut, Keeps.ite]

theorem keeps_lnkCtlPut (h : Keeps s t) {l v} : Keeps s (lnkCtlPut t l v) := by
  unfold lnkCtlPut
  apply_rules [keeps_updLink, keeps_linkEnableTo, keeps_linkDisableTo, keeps_linkRetrain, Keeps.ite]

theorem keeps_putLink (h : Keeps s t) {i l a o v} : Keeps s (putLink t i l a o v) := by
  unfold putLink
  exact .ite (keeps_lnkCtlPut h) (.ite (keeps_updLink h) (.ite (keeps_legal h (keeps_updLink h))
    (.ite (keeps_updLink h) (.ite (.ite (keeps_pltMsgGo h) (keeps_updLink h)) (.ite (keeps_putWin h)
      (.ite (keeps_updLink h) (.ite (keeps_updLink h) (.ite (keeps_xtCommit h) h))))))))

theorem keeps_putStore (h : Keeps s t) {i at_ o v} : Keeps s (putStore t i at_ o v) := by
  unfold putStore
  apply_rules [keeps_storeMount, keeps_storeUnmount, keeps_updStore, keeps_legal, Keeps.ite]

theorem keeps_putReg (h : Keeps s t) {i o v} : Keeps s (putReg t i o v) := by
  unfold putReg
  exact .ite h (.ite (keeps_putMailbox h) (.ite (keeps_putCp h) (.ite (keeps_putAtu h) (.ite (.ite (keeps_fuNotify h) h)
    (.ite (keeps_putGeq h) (.ite (keeps_putPower h) (.ite (keeps_putTemper h) (.ite (keeps_putTel h)
      (.ite (keeps_putCore h) (.ite h (.ite (keeps_putFp h) (.ite (keeps_putRu h) (.ite (keeps_putLink h)
        (.ite h (keeps_putStore h)))))))))))))))

theorem keeps_twDone (h : Keeps s t) {r i p} : Keeps s (twDone r t i p) := by
  unfold twDone
  split <;> apply_rules [keeps_spareCtlDone, keeps_panMapDone, keeps_atuCtlDone, keeps_bskResetDone,
      keeps_linkResetDone, keeps_eraseArmDone, keeps_forceOffDone, keeps_temperTry, Keeps.ite]

theorem keeps_twFinish (h : Keeps s t) {r i v} : Keeps s (twFinish r t i v) := by
  grind [twFinish, ← keeps_gated, ← keeps_twComplement, ← keeps_twDone]

theorem keeps_twBegin (h : Keeps s t) {r i v} : Keeps s (twBegin r t i v) := by
  unfold twBegin
  apply_rules [keeps_gated, keeps_twValue, keeps_twExpire, Keeps.ite]

theorem keeps_regWrite (h : Keeps s t) {i o v} : Keeps s (regWrite t i o v) := by
  unfold regWrite
  repeat' split
  all_goals apply_rules [keeps_doorbell, keeps_twFinish, keeps_twBegin, keeps_regReserved, keeps_gated, keeps_putReg,
      Keeps.ite]

theorem keeps_plainWrite (h : Keeps s t) {a f} (hg : Keeps s (f t)) : Keeps s (plainWrite a t f) := by
  unfold plainWrite
  apply_rules [keeps_regRefused, Keeps.ite]

theorem keeps_setLatch (h : Keeps s t) {k v} : Keeps s (setLatch t k v) := keeps_with h

theorem keeps_answer (h : Keeps s t) {v} : Keeps s (answer t v) := keeps_with h

theorem keeps_pairRead (h : Keeps s t) {i o} : Keeps s (pairRead t i o) := by
  unfold pairRead
  repeat' split
  all_goals apply_rules [keeps_answer, keeps_setLatch, Keeps.ite]

theorem keeps_clearRead (h : Keeps s t) {i o} : Keeps s (clearRead t i o) := by
  unfold clearRead
  apply_rules [keeps_pairRead, keeps_updGeq, Keeps.ite]

theorem keeps_plainRead (h : Keeps s t) {a} : Keeps s (plainRead a t) := by
  unfold plainRead
  split <;> apply_rules [keeps_clearRead, keeps_regRefused, keeps_answer, Keeps.ite]

theorem keeps_setShadow (h : Keeps s t) {w v} : Keeps s (setShadow t w v) := keeps_with h

theorem keeps_tvBsk (h : Keeps s t) {b o v} : Keeps s (tvBsk t b o v) := keeps_updBsk h

theorem keeps_tvSpace (h : Keeps s t) {o v} : Keeps s (tvSpace t o v) := by
  unfold tvSpace
  apply_rules [keeps_updAtu, Keeps.ite]

theorem keeps_tvCore (h : Keeps s t) {c o v} : Keeps s (tvCore t c o v) := by
  unfold tvCore
  apply_rules [keeps_updTa, keeps_updPan, Keeps.ite]

theorem keeps_tvPut (h : Keeps s t) {o v} : Keeps s (tvPut t o v) := by
  unfold tvPut
  split <;> apply_rules [keeps_setShadow, keeps_tvBsk, keeps_updCtx, keeps_tvSpace, keeps_updPwr, keeps_tvCore,
      keeps_setRoute, Keeps.ite]

theorem keeps_tvLost (h : Keeps s t) {o} : Keeps s (tvLost t o) := by
  unfold tvLost
  split <;> apply_rules [keeps_setShadow, keeps_post, keeps_tvPut, Keeps.ite]

theorem keeps_tvScrub (h : Keeps s t) {o f0 f1 f2} : Keeps s (tvScrub t o f0 f1 f2) := by
  unfold tvScrub
  apply_rules [keeps_tvPut, keeps_count, keeps_tvLost, Keeps.ite]

theorem keeps_registerWrite (h : Keeps s t) {a} : Keeps s (registerWrite a t) := by
  unfold registerWrite
  apply_rules [keeps_plainWrite, keeps_regWrite, Keeps.ite]

theorem keeps_scWrite (h : Keeps s t) {a} : Keeps s (scWrite a t) := by
  unfold scWrite
  apply_rules [keeps_registerWrite, Keeps.ite]

theorem keeps_mwWrite (h : Keeps s t) {a} : Keeps s (mwWrite a t) := by
  unfold mwWrite
  apply_rules [keeps_plainWrite, keeps_gated, keeps_with, Keeps.ite]

theorem keeps_crRead (h : Keeps s t) {a} : Keeps s (crRead a t) := keeps_plainRead h

theorem keeps_loReadLatch (h : Keeps s t) {a} : Keeps s (loReadLatch a t) := keeps_plainRead h

theorem keeps_twValueWrite (h : Keeps s t) {a} : Keeps s (twValueWrite a t) := by
  unfold twValueWrite
  split <;> apply_rules [keeps_plainWrite, keeps_twBegin, Keeps.ite]

theorem keeps_twLapse (h : Keeps s t) {off} : Keeps s (twLapse off t) := keeps_twExpire h

theorem keeps_twRow (h : Keeps s t) {p a} : Keeps s (twRow p a t) := by
  unfold twRow
  split <;> apply_rules [keeps_plainWrite, keeps_twFinish, Keeps.ite]

theorem keeps_atuBwWrite (h : Keeps s t) {a} : Keeps s (atuBwWrite a t) := by
  unfold atuBwWrite
  apply_rules [keeps_registerWrite, Keeps.ite]

end Sys2Proof.Proofs
end

section
/-! PROOF. Host memory and the queue (V). Slots, bundles, commands and steps: O48, O50 and O51. -/

namespace Sys2Proof.Proofs

open Sys2Proof Sys2Proof.Machine Sys2Proof.Says Sys2Proof.Laws

variable {s t : State}

/-- Whatever a slot answers, the state that comes of it keeps the queue and the canonical form. -/
def KeepsRes (s : State) : SlotRes → Prop
  | .wait f | .fault f | .stop f => ∀ t, Keeps s t → Keeps s (f t)
  | .next t _ => Keeps s t

/-- A slot keeps them from every state so far, whatever state its bundle was presented to. -/
def KeepsSlot (x : SlotInfo) : Prop := ∀ s old cur, Keeps s cur → KeepsRes s (x.run old cur)

theorem KeepsRes.ite {b : Prop} [Decidable b] {x y : SlotRes} (hx : KeepsRes s x) (hy : KeepsRes s y) :
    KeepsRes s (if b then x else y) := by
  split
  · exact hx
  · exact hy

theorem keepsRes_waitId : KeepsRes s (.wait id) := fun _ h => h

theorem keepsRes_illegal {c reason slot} : KeepsRes s (illegal c reason slot) := fun _ h => keeps_seqFault h

theorem keepsRes_brdIllegal {c sl stage} : KeepsRes s (brdIllegal c sl stage) := fun _ h => keeps_brdFaultAt h

theorem keepsRes_vuIllegal {c} : KeepsRes s (vuIllegal c) := fun _ h => keeps_vuFault h

theorem keepsRes_seqFault {c code reason slot} : KeepsRes s (.fault (fun t => seqFault t c code reason slot)) :=
  fun _ h => keeps_seqFault h

theorem keepsRes_vuFault {c code reason} : KeepsRes s (.fault (fun t => vuFault t c code reason)) :=
  fun _ h => keeps_vuFault h

theorem keepsRes_pstoreRead (h : Keeps s t) {a sl stage f} (hf : ∀ u, Keeps s u → KeepsRes s (f u)) :
    KeepsRes s (pstoreRead a sl stage t f) := by
  unfold pstoreRead
  split
  · exact hf _ h
  · exact hf _ (keeps_pstoreSingle h)
  · exact fun _ h => keeps_brdFaultAt h

theorem keepsRes_vecEffect (h : Keeps s t) {a sim old f} (hf : ∀ u, Keeps s u → KeepsRes s (f u)) :
    KeepsRes s (vecEffect a sim old t f) := by
  unfold vecEffect
  split
  · exact fun _ h => keeps_vuFault h
  · exact .ite (fun _ h => keeps_vuHold h) (hf _ (keeps_vuFailures (keeps_updVu h)))

theorem keepsRes_waitTags (h : Keeps s t) {c k f tags} : KeepsRes s (waitTags c k f tags t) :=
  .ite h fun _ h => .ite (keeps_updMem h) h

/-! The control slot. -/

theorem keepsSlot_cr {a rd ra rb f} : KeepsSlot (slotCr a rd ra rb f) := fun _ _ _ h => keeps_setS h

theorem keepsSlot_ci {a rd ra imm f} : KeepsSlot (slotCi a rd ra imm f) := fun _ _ _ h => keeps_setS h

theorem keepsSlot_srd {a rd imm} : KeepsSlot (slotSrd a rd imm) := by
  intro s old cur h
  unfold slotSrd slotAt
  dsimp only
  split
  · exact keeps_setS h
  · exact keepsRes_illegal

theorem keepsSlot_wset {a w ra} : KeepsSlot (slotWset a w ra) := fun _ _ _ h => keeps_setW h

theorem keepsSlot_wadd {a w ra} : KeepsSlot (slotWadd a w ra) := fun _ _ _ h => keeps_setW h

theorem keepsSlot_wrd {a w rd} : KeepsSlot (slotWrd a w rd) := fun _ _ _ h => keeps_setS h

theorem keepsSlot_cb {a ra rb target f} : KeepsSlot (slotCb a ra rb target f) := fun _ _ _ h => h

theorem keepsSlot_jmp {a target} : KeepsSlot (slotJmp a target) := fun _ _ _ h => h

theorem keepsSlot_call {a target} : KeepsSlot (slotCall a target) :=
  fun _ _ _ h => .ite keepsRes_seqFault (keeps_updSeq h)

theorem keepsSlot_ret {a} : KeepsSlot (slotRet a) := by
  intro s old cur h
  unfold slotRet slotAt
  dsimp only
  split
  · exact keepsRes_seqFault
  · exact keeps_updSeq h

theorem keepsSlot_loopBy {a lc fin count} : KeepsSlot (slotLoopBy a lc fin count) :=
  fun _ _ _ h => .ite keepsRes_illegal (keeps_updSeq h)

theorem keepsSlot_end {a} : KeepsSlot (slotEnd a) := fun _ _ _ h => keeps_updSeq h

/-! The memory slot. -/

/-- The fault that a failed check names keeps them too. -/
def KeepsFault (o : Option (State → State)) : Prop := ∀ f, o = some f → ∀ s t, Keeps s t → Keeps s (f t)

theorem KeepsFault.ite {b : Prop} [Decidable b] {x y : Option (State → State)} (hx : KeepsFault x)
    (hy : KeepsFault y) : KeepsFault (if b then x else y) := by
  split
  · exact hx
  · exact hy

theorem keepsFault_none : KeepsFault none := nofun

theorem keepsFault_some {f : State → State} (hf : ∀ s t, Keeps s t → Keeps s (f t)) : KeepsFault (some f) :=
  fun _ h => Option.some.inj h ▸ hf

theorem keepsFault_streamFault {c o store absolute} : KeepsFault (streamFault t c o store absolute) := by
  have hmem : ∀ code reason, KeepsFault (some fun s => memFault s c code reason o.tag.toNat o.desc.toNat) :=
    fun _ _ => keepsFault_some fun _ _ h => keeps_memFault h
  exact .ite (hmem _ _) (.ite (hmem _ _) (.ite (hmem _ _) (.ite (hmem _ _) (.ite (hmem _ _) (.ite (hmem _ _)
    (.ite (hmem _ _) (.ite (keepsFault_some fun _ _ h => keeps_panFault h)
      (.ite (keepsFault_some fun _ _ h => keeps_seqFault h) keepsFault_none))))))))

theorem keepsFault_remoteFault {c o write} : KeepsFault (remoteFault t c o write) :=
  .ite (keepsFault_some fun _ _ h => keeps_panFault h) (.ite (keepsFault_some fun _ _ h => keeps_panFault h)
    (.ite (keepsFault_some fun _ _ h => keeps_seqFault h) keepsFault_none))

theorem keepsSlot_stream {a o store absolute} : KeepsSlot (slotStream a o store absolute) := by
  intro s old cur h
  unfold slotStream slotAt
  refine .ite keepsRes_waitId ?_
  split
  · next f hf => exact keepsFault_streamFault f hf s
  · exact keeps_postInc (keeps_startStream h)

theorem keepsSlot_remote {a o write} : KeepsSlot (slotRemote a o write) := by
  intro s old cur h
  unfold slotRemote slotAt
  refine .ite keepsRes_waitId ?_
  split
  · next f hf => exact keepsFault_remoteFault f hf s
  · exact keeps_postInc (keeps_startStream h)

theorem keepsSlot_flush {a tag all} : KeepsSlot (slotFlush a tag all) := fun _ _ _ h => keeps_updMem h

/-! The synchronisation slot. -/

theorem keepsSlot_waitAc {a ac count reg} : KeepsSlot (slotWaitAc a ac count reg) :=
  fun _ _ _ h => .ite keepsRes_illegal (.ite (fun _ h => keeps_panFault h) (.ite keepsRes_waitId (keeps_updPan h)))

theorem keepsSlot_waitT {a tag f} : KeepsSlot (slotWaitT a tag f) := fun _ _ _ h => keepsRes_waitTags h

theorem keepsSlot_waitTm {a rs f} : KeepsSlot (slotWaitTm a rs f) := fun _ _ _ h => keepsRes_waitTags h

theorem keepsSlot_acsig {a ac core count} : KeepsSlot (slotAcsig a ac core count) :=
  fun _ _ _ h => .ite keepsRes_illegal (keeps_updMem h)

theorem keepsSlot_yield {a} : KeepsSlot (slotYield a) := fun _ _ _ h => .ite (keeps_updSeq h) keepsRes_waitId

theorem keepsSlot_live {a ra rb} : KeepsSlot (slotLive a ra rb) :=
  fun _ _ _ h => .ite h (.ite keepsRes_illegal (.ite keepsRes_seqFault (keeps_updSeq h)))

theorem keepsSlot_liveClr {a} : KeepsSlot (slotLiveClr a) := fun _ _ _ h => keeps_updSeq h

theorem keepsSlot_fence {a mask} : KeepsSlot (slotFence a mask) := fun _ _ _ h => .ite h keepsRes_waitId

/-! The tensor slot. -/

theorem keepsSlot_bpld {a wp soff nm1} : KeepsSlot (slotBpld a wp soff nm1) :=
  fun _ _ _ h => .ite keepsRes_illegal (.ite keepsRes_seqFault (.ite keepsRes_waitId
    (.ite (fun _ h => keeps_readRows h fun _ h => h) (keeps_updCore (keeps_senseRows h)))))

theorem keepsSlot_bset {a slot doff} : KeepsSlot (slotBset a slot doff) := by
  refine fun s old cur h => .ite keepsRes_brdIllegal (keepsRes_pstoreRead h fun u hu => ?_)
  split
  · exact keepsRes_brdIllegal
  · exact .ite keepsRes_waitId (keeps_updCore hu)

theorem keepsSlot_barm {a slot} : KeepsSlot (slotBarm a slot) :=
  fun _ _ _ h => .ite keepsRes_waitId (.ite (fun _ h => keeps_brdFaultAt h) (keeps_updCore h))

theorem keepsSlot_brun {a o ecc} : KeepsSlot (slotBrun a o ecc) := by
  intro s old cur h
  unfold slotBrun slotAt
  dsimp only
  split
  · exact keepsRes_brdIllegal
  · split
    · exact keepsRes_brdIllegal
    · exact fun _ h => keeps_brdFaultAt h
    · exact .ite keepsRes_seqFault (.ite keepsRes_waitId (keepsRes_pstoreRead h fun _ h => keeps_updCore h))

theorem keepsSlot_bnorm {a slot} : KeepsSlot (slotBnorm a slot) := by
  intro s old cur h
  unfold slotBnorm slotAt
  dsimp only
  split
  · exact h
  · exact .ite keepsRes_seqFault (.ite keepsRes_waitId (.ite (fun _ h => keeps_readRows h fun _ h => h)
      (keepsRes_pstoreRead h fun _ hu => .ite (keeps_renormAll (keeps_senseRows hu))
        fun _ h => keeps_brdFaultAt (keeps_renormAll h))))

theorem keepsSlot_tmm {f a o} : KeepsSlot (slotTmm f a o) := by
  intro s old cur h
  unfold slotTmm slotAt
  refine .ite keepsRes_illegal (.ite keepsRes_illegal ?_)
  split
  · exact keepsRes_brdIllegal
  · refine .ite keepsRes_seqFault ?_
    split
    · exact fun _ h => keeps_brdFaultAt h
    · refine .ite keepsRes_seqFault (.ite keepsRes_waitId ?_)
      split
      · exact keepsRes_pstoreRead h fun _ h => keeps_issuePass h
      · exact keeps_issuePass h

theorem keepsSlot_tmmC {f a o} : KeepsSlot (slotTmmC f a o) := by
  intro s old cur h
  have hread : ∀ {out : Prop} [Decidable out] {c row} (t), Keeps s t → Keeps s (if out then t else readDesc t c row) :=
    fun _ h => .ite h (keeps_readDesc h)
  refine .ite keepsRes_illegal (.ite keepsRes_illegal ?_)
  split
  · exact keepsRes_brdIllegal
  · refine .ite (fun _ h => keeps_readDesc h) ?_
    split
    · exact fun _ h => keeps_cnvFault (hread _ h)
    · refine .ite keepsRes_seqFault ?_
      split
      · exact fun _ h => keeps_updCore (hread _ h)
      · refine .ite hread ?_
        split
        · exact keepsRes_pstoreRead h fun _ h => keeps_issuePass (keeps_updCore (hread _ h))
        · exact keeps_issuePass (keeps_updCore (hread _ h))

theorem keepsSlot_tlw {a tfmt wt wpi} : KeepsSlot (slotTlw a tfmt wt wpi) :=
  fun _ _ _ h => .ite keepsRes_illegal (.ite keepsRes_illegal (.ite keepsRes_seqFault
    (.ite keepsRes_waitId (keeps_postInc (keeps_updTa h)))))

theorem keepsSlot_tmode {a wale} : KeepsSlot (slotTmode a wale) :=
  fun _ _ _ h => .ite h (.ite keepsRes_waitId (keeps_updTa h))

theorem keepsSlot_taclr {a bank a0 nm1} : KeepsSlot (slotTaclr a bank a0 nm1) :=
  fun _ _ _ h => .ite keepsRes_illegal (.ite keepsRes_waitId (Keeps.foldl (fun _ _ hu => keeps_setBankRow hu) _ h))

theorem keepsSlot_rcall {a rs ac} : KeepsSlot (slotRcall a rs ac) := by
  refine fun s old cur h => .ite keepsRes_illegal (.ite keepsRes_waitId ?_)
  split
  · exact keepsRes_waitId
  · exact keeps_updSeq (keeps_with h)

theorem keepsSlot_sapp {a reg ws nm1 ac} : KeepsSlot (slotSapp a reg ws nm1 ac) :=
  fun _ _ _ h => .ite keepsRes_illegal (.ite keepsRes_seqFault (.ite keepsRes_waitId
    (.ite (fun _ h => keeps_readRows h fun _ h => h) (keeps_updSeq (keeps_nextSapp (keeps_senseRows h))))))

/-! The vector slot. -/

theorem keepsSlot_vecSlot {a writes fmt ok f} (hf : ∀ {s t k}, Keeps s t → Keeps s (f k t)) :
    KeepsSlot (vecSlot a writes fmt ok f) :=
  fun _ _ _ h => .ite keepsRes_illegal (.ite keepsRes_vuIllegal (keepsRes_vecEffect h fun _ hu => hf hu))

theorem keepsSlot_vecUn {a o ok f} : KeepsSlot (vecUn a o ok f) := keepsSlot_vecSlot fun h => keeps_writeLanes h

theorem keepsSlot_vecBin {a o ok f} : KeepsSlot (vecBin a o ok f) := keepsSlot_vecSlot fun h => keeps_writeLanes h

theorem keepsSlot_vbc {a fmt vd rs pr} : KeepsSlot (slotVbc a fmt vd rs pr) :=
  keepsSlot_vecSlot fun h => keeps_writeLanes h

theorem keepsSlot_vext {a fmt rd va lane} : KeepsSlot (slotVext a fmt rd va lane) :=
  keepsSlot_vecSlot fun h => keeps_setS h

theorem keepsSlot_vdot4 {a o} : KeepsSlot (slotVdot4 a o) := keepsSlot_vecSlot fun h => keeps_writeLanes h

theorem keepsSlot_vfma {a o vc} : KeepsSlot (slotVfma a o vc) := keepsSlot_vecSlot fun h => keeps_writeLanes h

theorem keepsSlot_vsel {a o} : KeepsSlot (slotVsel a o) := keepsSlot_vecSlot fun h => keeps_setV h

theorem keepsSlot_vperm {a o} : KeepsSlot (slotVperm a o) := keepsSlot_vecSlot fun h => keeps_writeLanes h

theorem keepsSlot_vecRed {a o lg arg f} : KeepsSlot (vecRed a o lg arg f) :=
  keepsSlot_vecSlot fun h => keeps_countEv (keeps_setV (keeps_with h))

theorem keepsSlot_vecLut {a w bytes vd va pr off f} : KeepsSlot (vecLut a w bytes vd va pr off f) :=
  fun _ _ _ h => .ite keepsRes_vuIllegal
    (keepsRes_vecEffect h fun _ h => keepsRes_pstoreRead h fun _ h => keeps_writeLanes h)

theorem keepsSlot_vcmp {a fmt fd va vb pr cond} : KeepsSlot (slotVcmp a fmt fd va vb pr cond) :=
  fun _ _ _ h => .ite keepsRes_illegal (.ite keepsRes_vuIllegal (keepsRes_vecEffect h fun _ h => keeps_setF h))

theorem keepsSlot_vcvt {a o src p} : KeepsSlot (slotVcvt a o src p) :=
  fun _ _ _ h => .ite keepsRes_illegal (.ite keepsRes_vuIllegal
    (keepsRes_vecEffect h fun _ h => .ite (keeps_writeLanes h) (keeps_writeLanes h)))

theorem keepsSlot_vld {a v w wpi ecc} : KeepsSlot (slotVld a v w wpi ecc) :=
  fun _ _ _ h => .ite keepsRes_vuFault (.ite (fun _ h => keeps_panFault (keeps_readRow h))
    (keepsRes_vecEffect h fun _ h => keeps_postInc (keeps_setV (keeps_readRow h))))

theorem keepsSlot_vst {a v w wpi} : KeepsSlot (slotVst a v w wpi) :=
  fun _ _ _ h => .ite keepsRes_vuFault (.ite keepsRes_seqFault (.ite keepsRes_waitId
    (keepsRes_vecEffect h fun _ h => keeps_postInc (keeps_setRelRow h))))

theorem keepsSlot_vlda {a v bank row ecc} : KeepsSlot (slotVlda a v bank row ecc) :=
  fun _ _ _ h => .ite keepsRes_waitId (.ite (fun _ h => keeps_coreFault (keeps_readBank (keeps_updTa h)))
    (keepsRes_vecEffect h fun _ h => keeps_setV (keeps_readBank (keeps_updTa h))))

theorem keepsSlot_vsta {a v bank row} : KeepsSlot (slotVsta a v bank row) :=
  fun _ _ _ h => .ite keepsRes_waitId (keepsRes_vecEffect h fun _ h => keeps_setBankRow h)

theorem keepsSlot_vqld {a w half q ecc} : KeepsSlot (slotVqld a w half q ecc) :=
  fun _ _ _ h => .ite keepsRes_vuFault (.ite (fun _ h => keeps_panFault (keeps_readRow h))
    (keepsRes_vecEffect h fun _ h => keeps_updVr (keeps_readRow h)))

theorem keepsSlot_vtkcfg {a nq k} : KeepsSlot (slotVtkcfg a nq k) :=
  fun _ _ _ h => .ite keepsRes_vuIllegal (keepsRes_vecEffect h fun _ h => keeps_updVr h)

theorem keepsSlot_vsimI8 {a va half rt} : KeepsSlot (slotVsimI8 a va half rt) :=
  fun _ _ _ h => .ite keepsRes_vuIllegal (keepsRes_vecEffect h fun _ h => keeps_updVr h)

theorem keepsSlot_vtkrd {a vd q r} : KeepsSlot (slotVtkrd a vd q r) := by
  intro s old cur h
  unfold slotVtkrd slotAt
  dsimp only
  refine keepsRes_vecEffect h ?_
  exact fun _ h => keeps_setV h

theorem keepsSlot_vdw {a o} : KeepsSlot (slotVdw a o) := by
  intro s old cur h
  have hread : ∀ {out : Prop} [Decidable out] {c : Nat} {rows : List Nat} (t), Keeps s t →
      Keeps s (if out then t else readRows t c rows id) := fun _ h => .ite h (keeps_readRows h fun _ h => h)
  rw [slotVdw, slotAt]
  refine .ite keepsRes_illegal (.ite (fun t h => hread t h) ?_)
  split
  · exact fun _ h => keeps_vdwFault (hread _ h)
  · refine .ite keepsRes_seqFault ?_
    dsimp only
    split
    · exact fun _ h => keeps_updVu h
    · exact .ite keepsRes_waitId (keepsRes_vecEffect h fun _ h => keeps_updCore (hread _ h))

theorem keepsSlot_reserved {c n w} : KeepsSlot (reservedSlot c n w) :=
  fun _ _ _ _ _ h => .ite (keeps_memFault h) (keeps_seqFault h)

/-! Bundles. -/

theorem keepsSlot_of_slotOf {i x} (hx : slotOf i = some x) : KeepsSlot x := by
  cases i with
  | add | sub | and | or | xor | shl | shr | sra | mul | divu | remu | min | max | slt | sltu =>
    exact Option.some.inj hx ▸ keepsSlot_cr
  | addi | subi | andi | ori | xori | shli | shri | srai | muli | divui | remui | mini | maxi | slti | sltui
  | lih => exact Option.some.inj hx ▸ keepsSlot_ci
  | srd => exact Option.some.inj hx ▸ keepsSlot_srd
  | wset => exact Option.some.inj hx ▸ keepsSlot_wset
  | wadd => exact Option.some.inj hx ▸ keepsSlot_wadd
  | wrd => exact Option.some.inj hx ▸ keepsSlot_wrd
  | beq | bne | blt | bge | bltu | bgeu => exact Option.some.inj hx ▸ keepsSlot_cb
  | jmp => exact Option.some.inj hx ▸ keepsSlot_jmp
  | call => exact Option.some.inj hx ▸ keepsSlot_call
  | ret => exact Option.some.inj hx ▸ keepsSlot_ret
  | loop | loopi => exact Option.some.inj hx ▸ keepsSlot_loopBy
  | weftEnd => exact Option.some.inj hx ▸ keepsSlot_end
  | mld | mst | mlda | msta => exact Option.some.inj hx ▸ keepsSlot_stream
  | flush => exact Option.some.inj hx ▸ keepsSlot_flush
  | rwr | rrd => exact Option.some.inj hx ▸ keepsSlot_remote
  | waitAc => exact Option.some.inj hx ▸ keepsSlot_waitAc
  | waitT => exact Option.some.inj hx ▸ keepsSlot_waitT
  | waitTm => exact Option.some.inj hx ▸ keepsSlot_waitTm
  | acsig => exact Option.some.inj hx ▸ keepsSlot_acsig
  | yield => exact Option.some.inj hx ▸ keepsSlot_yield
  | live => exact Option.some.inj hx ▸ keepsSlot_live
  | liveClr => exact Option.some.inj hx ▸ keepsSlot_liveClr
  | fence => exact Option.some.inj hx ▸ keepsSlot_fence
  | tmmI8 | tmmI4 | tmmL4 | tmmF8 | tmmBf16 | tmmF16 => exact Option.some.inj hx ▸ keepsSlot_tmm
  | tmmCI8 | tmmCI4 | tmmCL4 | tmmCF8 | tmmCBf16 | tmmCF16 => exact Option.some.inj hx ▸ keepsSlot_tmmC
  | tlw => exact Option.some.inj hx ▸ keepsSlot_tlw
  | tmodeN | tmodeW => exact Option.some.inj hx ▸ keepsSlot_tmode
  | taclr => exact Option.some.inj hx ▸ keepsSlot_taclr
  | bpld => exact Option.some.inj hx ▸ keepsSlot_bpld
  | bset => exact Option.some.inj hx ▸ keepsSlot_bset
  | barm => exact Option.some.inj hx ▸ keepsSlot_barm
  | brun => exact Option.some.inj hx ▸ keepsSlot_brun
  | bnorm => exact Option.some.inj hx ▸ keepsSlot_bnorm
  | rcall => exact Option.some.inj hx ▸ keepsSlot_rcall
  | sapp => exact Option.some.inj hx ▸ keepsSlot_sapp
  | vld => exact Option.some.inj hx ▸ keepsSlot_vld
  | vst => exact Option.some.inj hx ▸ keepsSlot_vst
  | vlda => exact Option.some.inj hx ▸ keepsSlot_vlda
  | vsta => exact Option.some.inj hx ▸ keepsSlot_vsta
  | vmov | vabs | vneg | vnot | vsqrt | vrcp | vrsqrt | vexp => exact Option.some.inj hx ▸ keepsSlot_vecUn
  | vbc => exact Option.some.inj hx ▸ keepsSlot_vbc
  | vext => exact Option.some.inj hx ▸ keepsSlot_vext
  | vadd | vsub | vmul | vmulh | vadds | vsubs | vmin | vmax | vshl | vshr | vand | vor | vxor | vdiv =>
    exact Option.some.inj hx ▸ keepsSlot_vecBin
  | vdot4 => exact Option.some.inj hx ▸ keepsSlot_vdot4
  | vfma => exact Option.some.inj hx ▸ keepsSlot_vfma
  | vcmp => exact Option.some.inj hx ▸ keepsSlot_vcmp
  | vsel => exact Option.some.inj hx ▸ keepsSlot_vsel
  | vcvt => exact Option.some.inj hx ▸ keepsSlot_vcvt
  | vrsum | vrmax | vrmin | vrargmax | vrargmin => exact Option.some.inj hx ▸ keepsSlot_vecRed
  | vlutB | vlutF32 => exact Option.some.inj hx ▸ keepsSlot_vecLut
  | vperm => exact Option.some.inj hx ▸ keepsSlot_vperm
  | vqld => exact Option.some.inj hx ▸ keepsSlot_vqld
  | vtkcfg => exact Option.some.inj hx ▸ keepsSlot_vtkcfg
  | vsimI8 => exact Option.some.inj hx ▸ keepsSlot_vsimI8
  | vtkrd => exact Option.some.inj hx ▸ keepsSlot_vtkrd
  | vdw => exact Option.some.inj hx ▸ keepsSlot_vdw
  | _ => cases hx

/-- Everything that the slots of a bundle have given so far keeps them. -/
structure KeepsSum (s : State) (x : SlotSum) : Prop where
  waits : ∀ f, x.waits = some f → ∀ t, Keeps s t → Keeps s (f t)
  fault : ∀ f, x.fault = some f → ∀ t, Keeps s t → Keeps s (f t)
  stop : ∀ f, x.stop = some f → ∀ t, Keeps s t → Keeps s (f t)
  cur : Keeps s x.cur

theorem of_or_some {P : (State → State) → Prop} {o : Option (State → State)} {f : State → State}
    (ho : ∀ g, o = some g → P g) (hf : P f) : ∀ g, o.or (some f) = some g → P g := by
  intro g hg
  cases o with
  | none => exact Option.some.inj hg ▸ hf
  | some _ => exact ho g hg

theorem KeepsSum.failBy {x : SlotSum} (h : KeepsSum s x) {f} (hf : ∀ t, Keeps s t → Keeps s (f t)) :
    KeepsSum s (x.failBy f) := { h with fault := of_or_some h.fault hf }

theorem KeepsSum.failIf {x : SlotSum} (h : KeepsSum s x) {b : Bool} {c code reason slot} :
    KeepsSum s (if b then x.failBy (fun s => seqFault s c code reason slot) else x) := by
  split
  · exact h.failBy fun _ ht => keeps_seqFault ht
  · exact h

theorem keepsSum_slotStep {x : SlotSum} {i : SlotInfo} (h : KeepsSum s x) (hi : KeepsSlot i) {old n seen} :
    KeepsSum s (slotStep old n seen i x) := by
  unfold slotStep
  extract_lets alone twice
  have htwice : KeepsSum s twice := h.failIf.failIf
  have hres := hi s old _ htwice.cur
  generalize i.run old twice.cur = r at hres
  cases r with
  | fault f => exact htwice.failBy hres
  | stop f => exact { htwice with stop := of_or_some htwice.stop hres }
  | wait f => exact { htwice with waits := of_or_some htwice.waits hres }
  | next t g => exact { htwice with cur := hres }

theorem keepsSum_sumSlots {old n l} (hl : ∀ i ∈ l, KeepsSlot i) {place seen x} (h : KeepsSum s x) :
    KeepsSum s (sumSlots old n l place seen x) := by
  induction l generalizing place seen x with
  | nil => exact h
  | cons i l ih =>
    unfold sumSlots
    split
    · exact { h with waits := fun f hf t ht => Option.some.inj hf ▸ ht }
    · exact ih (fun j hj => hl j (.tail _ hj)) (keepsSum_slotStep h (hl i (.head _)))

theorem keeps_runBundle (h : Keeps s t) {c l} (hl : ∀ i ∈ l, KeepsSlot i) : Keeps s (runBundle t c l) := by
  refine keeps_fetchBundle h fun u hu => ?_
  have hsum : KeepsSum s (sumSlots u l.length l 0 [] { cur := u }) := keepsSum_sumSlots hl ⟨nofun, nofun, nofun, hu⟩
  generalize hx : sumSlots u l.length l 0 [] { cur := u } = x at hsum
  unfold runSlots
  rw [hx]
  obtain ⟨_ | w, f, g, cur, target⟩ := x
  · obtain _ | f := f
    · obtain _ | g := g
      · exact keeps_issued hsum.cur
      · exact hsum.stop g rfl u hu
    · exact hsum.fault f rfl u hu
  · exact hsum.waits w rfl u hu

theorem keeps_issueBy (h : Keeps s t) {i} : Keeps s (issueBy slotOf i t) := by
  unfold issueBy
  split
  · exact h
  · refine .ite (.ite (keeps_setOpen h) (keeps_runBundle (keeps_setOpen h) fun j hj => ?_)) (keeps_setOpen h)
    obtain ⟨_, -, hj⟩ := List.mem_filterMap.mp hj
    exact keepsSlot_of_slotOf hj

theorem keeps_fetchOwn (h : Keeps s t) {c} : Keeps s (fetchOwn t c) := by
  refine .ite (keeps_runBundle h fun j hj => ?_) h
  obtain ⟨e, -, hj⟩ := List.mem_filterMap.mp hj
  split at hj
  · exact keepsSlot_of_slotOf hj
  · exact Option.some.inj hj ▸ keepsSlot_reserved

theorem keeps_clockTick (h : Keeps s t) : Keeps s (clockTick t) := by
  unfold clockTick
  extract_lets _ ticked ran
  have hran : Keeps s ran := Keeps.foldl (fun _ _ hu => keeps_fetchOwn hu) _
    (keeps_tickTasks (keeps_tickClocks (keeps_with h)))
  exact .ite (.ite (keeps_temperPump hran) hran) (keeps_with h)

/-! Commands and steps. -/

/-- Every command answers a next state, which keeps the queue and the canonical form. -/
theorem exec_keeps (c : Instr) (s : State) : ∃ t, exec c s = .next t ∧ Keeps s t := by
  have h := Keeps.rfl' s
  cases c with
  | registerWrite => exact ⟨_, rfl, keeps_registerWrite h⟩
  | scWrite => exact ⟨_, rfl, keeps_scWrite h⟩
  | crRead => exact ⟨_, rfl, keeps_crRead h⟩
  | mwWrite => exact ⟨_, rfl, keeps_mwWrite h⟩
  | loReadLatch => exact ⟨_, rfl, keeps_loReadLatch h⟩
  | twValueWrite => exact ⟨_, rfl, keeps_twValueWrite h⟩
  | twLapse => exact ⟨_, rfl, keeps_twLapse h⟩
  | tvScrub => exact ⟨_, rfl, keeps_tvScrub h⟩
  | frameHandle => exact ⟨_, rfl, keeps_frameHandle h⟩
  | frameRelease => exact ⟨_, rfl, keeps_frameRelease h⟩
  | releaseFailed => exact ⟨_, rfl, keeps_releaseFailed h⟩
  | frameStale => exact ⟨_, rfl, keeps_frameStale h⟩
  | regionAccept => exact ⟨_, rfl, keeps_regionAccept h⟩
  | crop => exact ⟨_, rfl, keeps_runPipe h fun _ _ hu => keeps_cropRun hu⟩
  | decode => exact ⟨_, rfl, keeps_runPipe h fun _ _ hu => keeps_decodeRun hu⟩
  | suppress => exact ⟨_, rfl, keeps_runPipe h fun _ _ hu => keeps_suppressRun hu⟩
  | iou => exact ⟨_, rfl, keeps_runPipe h fun _ _ hu => keeps_iouRun hu⟩
  | regionComplete => exact ⟨_, rfl, keeps_regionComplete h⟩
  | scrubVisit => exact ⟨_, rfl, keeps_scrubVisit h⟩
  | mapOut | spareSwitch | atuDisable | basketReset | linkReset | eraseArm | forceOff | temperCommit =>
    exact ⟨_, rfl, keeps_twRow h⟩
  | mapOutCopy => exact ⟨_, rfl, keeps_mapOutCopy h⟩
  | panGroupWrite => exact ⟨_, rfl, keeps_panGroupWrite h⟩
  | segmentSweep => exact ⟨_, rfl, keeps_segmentSweep h⟩
  | panWindowRead => exact ⟨_, rfl, keeps_panWindowRead h⟩
  | panWindowWrite => exact ⟨_, rfl, keeps_panWindowWrite h⟩
  | panWindowWritePerform => exact ⟨_, rfl, keeps_panWindowWritePerform h⟩
  | remoteRowArrival => exact ⟨_, rfl, keeps_remoteRowArrival h⟩
  | remoteReadServe => exact ⟨_, rfl, keeps_remoteReadServe h⟩
  | remoteReadRowReturn => exact ⟨_, rfl, keeps_remoteReadRowReturn h⟩
  | forgeRowRepair => exact ⟨_, rfl, keeps_forgeRowRepair h⟩
  | dispatch => exact ⟨_, rfl, keeps_dispatch h⟩
  | listBuild => exact ⟨_, rfl, keeps_listBuild h⟩
  | taskEnd => exact ⟨_, rfl, keeps_taskEnd h⟩
  | lineRequestIssue => exact ⟨_, rfl, keeps_lineRequestIssue h⟩
  | loadLineReturn => exact ⟨_, rfl, keeps_loadLineReturn h⟩
  | flushReadbackDone => exact ⟨_, rfl, keeps_flushReadbackDone h⟩
  | acsigDelivery => exact ⟨_, rfl, keeps_acsigDelivery h⟩
  | yieldBarrier => exact ⟨_, rfl, keeps_yieldBarrier h⟩
  | noYield => exact ⟨_, rfl, keeps_noYield h⟩
  | tlwLoadDone => exact ⟨_, rfl, keeps_tlwLoadDone h⟩
  | lineSlotFill => exact ⟨_, rfl, keeps_lineSlotFill h⟩
  | passVerdict => exact ⟨_, rfl, keeps_passVerdict h⟩
  | epilogueRowWrite => exact ⟨_, rfl, keeps_epilogueRowWrite h⟩
  | sappAccept => exact ⟨_, rfl, keeps_sappAccept h⟩
  | dwWindowFill => exact ⟨_, rfl, keeps_dwWindowFill h⟩
  | vdwCommit => exact ⟨_, rfl, keeps_vdwCommit h⟩
  | repairHoldRelease => exact ⟨_, rfl, keeps_repairHoldRelease h⟩
  | diagStart | calibrationStart => exact ⟨_, rfl, keeps_gated h (keeps_diagGo h)⟩
  | diagDone => exact ⟨_, rfl, keeps_diagDone h⟩
  | calibrationDone => exact ⟨_, rfl, keeps_calibrationDone h⟩
  | forgeRepair => exact ⟨_, rfl, keeps_forgeRepair h⟩
  | atuSpaceCommit => exact ⟨_, rfl, keeps_gated h (keeps_spaceCommit h)⟩
  | pteReadResponse => exact ⟨_, rfl, keeps_pteReadResponse h⟩
  | faultRetry | faultAbort => exact ⟨_, rfl, keeps_faultAnswer h⟩
  | faultTimeout => exact ⟨_, rfl, keeps_faultTimeout h⟩
  | memResponseTimeout | memErrorResponse => exact ⟨_, rfl, keeps_memFails h⟩
  | invalidation => exact ⟨_, rfl, keeps_invalidation h⟩
  | invalidationAck => exact ⟨_, rfl, keeps_invalidationAck h⟩
  | creditAdd => exact ⟨_, rfl, keeps_creditAdd h⟩
  | atuBwWrite => exact ⟨_, rfl, keeps_atuBwWrite h⟩
  | contextValidSet => exact ⟨_, rfl, keeps_gated h (keeps_bindCtx h)⟩
  | contextValidClear => exact ⟨_, rfl, keeps_gated h (keeps_clearValid h)⟩
  | stop => exact ⟨_, rfl, keeps_ctxCmd h (keeps_stopCtx h)⟩
  | start => exact ⟨_, rfl, keeps_ctxCmd h (keeps_startCtx h)⟩
  | teardown => exact ⟨_, rfl, keeps_ctxCmd h (keeps_cmdFault h)⟩
  | reset => exact ⟨_, rfl, keeps_ctxCmd h (keeps_resetCtx h)⟩
  | contextTeardown => exact ⟨_, rfl, keeps_cmdFault h⟩
  | doorbell => exact ⟨_, rfl, keeps_doorbell h⟩
  | commandFetch => exact ⟨_, rfl, keeps_commandFetch h⟩
  | cmdExec => exact ⟨_, rfl, keeps_startExec h⟩
  | copy => exact ⟨_, rfl, keeps_copyStart h⟩
  | fenceWait => exact ⟨_, rfl, keeps_fenceWaitStart h⟩
  | fenceSignal => exact ⟨_, rfl, keeps_fenceSignalStart h⟩
  | region => exact ⟨_, rfl, keeps_regionStart h⟩
  | store => exact ⟨_, rfl, keeps_storeCmd h⟩
  | barrier => exact ⟨_, rfl, keeps_barrierStart h⟩
  | commandComplete => exact ⟨_, rfl, keeps_commandComplete h⟩
  | barrierRelease => exact ⟨_, rfl, keeps_barrierRelease h⟩
  | barrierTimeout => exact ⟨_, rfl, keeps_barrierTimeout h⟩
  | fenceAtomicResponse => exact ⟨_, rfl, keeps_fenceAtomicResponse h⟩
  | fenceReadResponse => exact ⟨_, rfl, keeps_fenceReadResponse h⟩
  | fenceTimeout => exact ⟨_, rfl, keeps_fenceTimeout h⟩
  | watchPoll => exact ⟨_, rfl, keeps_watchPoll h⟩
  | fuNotify => exact ⟨_, rfl, keeps_fuNotify h⟩
  | vectorUnmask => exact ⟨_, rfl, keeps_vectorUnmask h⟩
  | msiWriteError => exact ⟨_, rfl, keeps_msiWriteError h⟩
  | geqRingWrite => exact ⟨_, rfl, keeps_geqRingWrite h⟩
  | geqWriteError => exact ⟨_, rfl, keeps_geqWriteError h⟩
  | geqEnable => exact ⟨_, rfl, keeps_gated h (keeps_geqEnableTo h)⟩
  | basketCreate => exact ⟨_, rfl, keeps_mbxOpRow h (keeps_basketCreate h)⟩
  | basketDestroy => exact ⟨_, rfl, keeps_mbxOpRow h (keeps_basketDestroy h)⟩
  | contextBind => exact ⟨_, rfl, keeps_mbxOpRow h (keeps_contextBind h)⟩
  | contextUnbind => exact ⟨_, rfl, keeps_mbxOpRow h (keeps_contextUnbind h)⟩
  | storeGrant => exact ⟨_, rfl, keeps_mbxRow h (keeps_storeGrantOf h)⟩
  | spaceFlags => exact ⟨_, rfl, keeps_mbxRow h (keeps_spaceFlagsOf h)⟩
  | adoptFresh => exact ⟨_, rfl, keeps_adoptRow h (keeps_adoptFresh h)⟩
  | adoptResume => exact ⟨_, rfl, keeps_adoptRow h (keeps_adoptResume h)⟩
  | adoptPlan => exact ⟨_, rfl, keeps_adoptRow h (keeps_adoptPlan h)⟩
  | fwUpdate => exact ⟨_, rfl, keeps_fwUpdate h⟩
  | coreReadmit => exact ⟨_, rfl, keeps_readmitRow h (keeps_coreReadmitReq h)⟩
  | coreRetire => exact ⟨_, rfl, keeps_readmitRow h (keeps_coreRetireReq h)⟩
  | query => exact ⟨_, rfl, keeps_mbxRow h (keeps_queryAnswer h)⟩
  | mbxUnsupportedOp => exact ⟨_, rfl, .ite (keeps_mbxReply h) h⟩
  | mbxRspAck => exact ⟨_, rfl, keeps_gated h (keeps_mbxAck h)⟩
  | basketValidate | basketFree | basketDrain | basketUndrain => exact ⟨_, rfl, keeps_bskCtlRow h⟩
  | drainDone => exact ⟨_, rfl, keeps_drainDone h⟩
  | sliceExpiry => exact ⟨_, rfl, keeps_sliceExpiry h⟩
  | hostReset => exact ⟨_, rfl, keeps_hostReset h⟩
  | quietLimitExpiry => exact ⟨_, rfl, keeps_quietLimitExpiry h⟩
  | hostQuiet => exact ⟨_, rfl, keeps_hostQuiet h⟩
  | forgeStart => exact ⟨_, rfl, keeps_forgeStart h⟩
  | standingRestart => exact ⟨_, rfl, keeps_standingRestart h⟩
  | sceneSample => exact ⟨_, rfl, keeps_sceneSample h⟩
  | timeTrigger => exact ⟨_, rfl, keeps_timeTrigger h⟩
  | ingotSwitch => exact ⟨_, rfl, keeps_ingotSwitch h⟩
  | linkEnable => exact ⟨_, rfl, keeps_linkEnableBy h⟩
  | linkDisable => exact ⟨_, rfl, keeps_linkDisableBy h⟩
  | linkRetrainRequest => exact ⟨_, rfl, keeps_linkRetrainBy h⟩
  | linkDetect => exact ⟨_, rfl, keeps_linkDetect h⟩
  | linkAlign => exact ⟨_, rfl, keeps_linkAlign h⟩
  | alignTimeout => exact ⟨_, rfl, keeps_alignTimeout h⟩
  | trainFrame => exact ⟨_, rfl, keeps_trainFrame h⟩
  | trainTimeout => exact ⟨_, rfl, keeps_trainTimeout h⟩
  | retrainTimeout => exact ⟨_, rfl, keeps_retrainTimeout h⟩
  | linkAutoRestart => exact ⟨_, rfl, keeps_linkAutoRestart h⟩
  | laneLockLoss => exact ⟨_, rfl, keeps_linkRetrain h⟩
  | flitReceive => exact ⟨_, rfl, keeps_flitReceive h⟩
  | retryRequestTimeout => exact ⟨_, rfl, keeps_retryRequestTimeout h⟩
  | ackStallTimeout => exact ⟨_, rfl, keeps_ackStallTimeout h⟩
  | apertureLine => exact ⟨_, rfl, keeps_apertureLine h⟩
  | runTimeout => exact ⟨_, rfl, keeps_runTimeout h⟩
  | winWrite => exact ⟨_, rfl, keeps_winWrite h⟩
  | winRead => exact ⟨_, rfl, keeps_winRead h⟩
  | fenceSig => exact ⟨_, rfl, keeps_fenceSig h⟩
  | msg => exact ⟨_, rfl, keeps_msg h⟩
  | completion => exact ⟨_, rfl, keeps_completion h⟩
  | transactionTimeout => exact ⟨_, rfl, keeps_transactionTimeout h⟩
  | pltMsgGo => exact ⟨_, rfl, keeps_pltMsgGo h⟩
  | windowOpen => exact ⟨_, rfl, keeps_windowOpen h⟩
  | windowClose => exact ⟨_, rfl, keeps_windowClose h⟩
  | xtCommit => exact ⟨_, rfl, keeps_xtCommit h⟩
  | storeMount => exact ⟨_, rfl, keeps_gated h (keeps_storeMount h)⟩
  | storeUnmount => exact ⟨_, rfl, keeps_gated h (keeps_storeUnmount h)⟩
  | statusPoll => exact ⟨_, rfl, keeps_statusPoll h⟩
  | nandOpTimeout => exact ⟨_, rfl, keeps_nandOpTimeout h⟩
  | nandOpComplete ch ce lun fail =>
    refine ⟨_, rfl, ?_⟩
    split
    · exact keeps_nandDone h
    · exact h
  | zqCalibrationTimer => exact ⟨_, rfl, keeps_zqTimer h⟩
  | journalCommit => exact ⟨_, rfl, keeps_journalCommit h⟩
  | journalAppend => exact ⟨_, rfl, keeps_journalAppend h⟩
  | galleryAppend => exact ⟨_, rfl, keeps_galleryAppend h⟩
  | journalRead => exact ⟨_, rfl, keeps_journalRead h⟩
  | galleryRead => exact ⟨_, rfl, keeps_galleryRead h⟩
  | search => exact ⟨_, rfl, keeps_search h⟩
  | commit => exact ⟨_, rfl, keeps_mountedRow h fun _ _ _ hu => keeps_commitSub hu⟩
  | ingotWrite => exact ⟨_, rfl, keeps_ingotWrite h⟩
  | ingotRead => exact ⟨_, rfl, keeps_ingotRead h⟩
  | ingotDelete => exact ⟨_, rfl, keeps_ingotDelete h⟩
  | planWrite => exact ⟨_, rfl, keeps_planWrite h⟩
  | format => exact ⟨_, rfl, keeps_format h⟩
  | moduleOut => exact ⟨_, rfl, keeps_moduleOut h⟩
  | moduleIn => exact ⟨_, rfl, keeps_moduleIn h⟩
  | mirrorRebuilt => exact ⟨_, rfl, keeps_mirrorRebuilt h⟩
  | eraseArmExpiry => exact ⟨_, rfl, keeps_eraseArmExpiry h⟩
  | storeRefresh => exact ⟨_, rfl, keeps_storeRefresh h⟩
  | storeHoursTick => exact ⟨_, rfl, keeps_storeHoursTick h⟩
  | vdiagStart => exact ⟨_, rfl, keeps_gated h (keeps_vdiagGo h)⟩
  | vdiagDone => exact ⟨_, rfl, keeps_vdiagDone h⟩
  | packetResend => exact ⟨_, rfl, keeps_packetResend h⟩
  | svcWdog => exact ⟨_, rfl, keeps_svcWdog h⟩
  | forgeWatchdogExpiry => exact ⟨_, rfl, keeps_forgeWatchdogExpiry h⟩
  | forgeRecovered => exact ⟨_, rfl, keeps_forgeRecovered h⟩
  | handoverReady => exact ⟨_, rfl, keeps_handoverReady h⟩
  | handoverTimeout => exact ⟨_, rfl, keeps_handoverTimeout h⟩
  | replaceReminder => exact ⟨_, rfl, keeps_replaceReminder h⟩
  | domainOn => exact ⟨_, rfl, keeps_domainOn h⟩
  | powerAck => exact ⟨_, rfl, keeps_powerAck h⟩
  | pwrSeqTimeout => exact ⟨_, rfl, keeps_pwrSeqTimeout h⟩
  | powerPeriod => exact ⟨_, rfl, keeps_powerPeriod h⟩
  | pwrBudgetWrite => exact ⟨_, rfl, keeps_budgetWrite h⟩
  | thermalSample => exact ⟨_, rfl, keeps_thermalSample h⟩
  | pllUnlock => exact ⟨_, rfl, keeps_pllUnlock h⟩
  | pllRelock => exact ⟨_, rfl, keeps_pllRelock h⟩
  | pllUnlockTimeout => exact ⟨_, rfl, keeps_pllUnlockTimeout h⟩
  | blockColdReset => exact ⟨_, rfl, keeps_blockColdReset h⟩
  | blockWarmReset => exact ⟨_, rfl, keeps_blockWarmReset h⟩
  | coreReset => exact ⟨_, rfl, keeps_gated h (keeps_coreResetReq h)⟩
  | storeReset => exact ⟨_, rfl, keeps_gated h (keeps_storeResetReq h)⟩
  | temperCommitDone => exact ⟨_, rfl, .ite (keeps_temperCommitDone h) h⟩
  | snapshotArm => exact ⟨_, rfl, keeps_snapshotArm h⟩
  | snapshot => exact ⟨_, rfl, keeps_snapshot h⟩
  | traceEnable => exact ⟨_, rfl, keeps_traceEnable h⟩
  | traceLineTimeout => exact ⟨_, rfl, keeps_traceLineTimeout h⟩
  | traceLineWrite => exact ⟨_, rfl, keeps_traceLineWrite h⟩
  | powerLoss => exact ⟨_, rfl, keeps_powerLoss h⟩
  | quiescenceTimeout => exact ⟨_, rfl, keeps_quiescenceTimeout h⟩
  | _ => exact ⟨_, rfl, keeps_issueBy h⟩

theorem step_idle (h : s.pending = []) : step s = .next (clockTick s) := by
  rw [step, h]

theorem step_front {c : Instr} {rest : List Instr} (h : s.pending = c :: rest) :
    step s = exec c { s with pending := rest } := by
  rw [step, h]

/-- Settles O48: it is the second arm of `step`. -/
theorem stepRunsFront : Obligations.StepRunsFront := by
  unfold Obligations.StepRunsFront
  exact fun _ _ _ h => step_front h

/-- Settles O50: every arm of the dispatch is `.next` of a function that keeps the queue. -/
theorem execKeepsQueue : Obligations.ExecKeepsQueue := by
  unfold Obligations.ExecKeepsQueue
  intro c s
  obtain ⟨t, hexec, hkeeps⟩ := exec_keeps c s
  exact ⟨t, hexec, hkeeps.queue⟩

/-- Settles O51: a step is one clock tick or one command, and both keep the canonical form. -/
theorem stepKeepsMemory : Obligations.StepKeepsMemory := by
  unfold Obligations.StepKeepsMemory
  intro s t hcanonical hstep
  cases hpending : s.pending with
  | nil =>
    rw [step_idle hpending] at hstep
    cases hstep
    exact (keeps_clockTick (.rfl' s)).mem hcanonical
  | cons c rest =>
    obtain ⟨u, hexec, hkeeps⟩ := exec_keeps c { s with pending := rest }
    rw [step_front hpending, hexec] at hstep
    cases hstep
    exact hkeeps.mem hcanonical

end Sys2Proof.Proofs
end

section
/-! PROOF. The control slot (R252 to R258): O1, O2, O3, and what its instructions leave unchanged: O58. -/

namespace Sys2Proof.Proofs

open Sys2Proof Sys2Proof.Machine Sys2Proof.Says Sys2Proof.Laws

-- ---------------------------------------------------------------- a slot presented alone

/-- The slot of an instruction, as `slotOf` reads it, is one of the core and the bundle of `a`. -/
structure SlotOf (i : Instr) (a : At) (x : SlotInfo) : Prop where
  exec : ∀ s, exec i s = .next (issueBy slotOf i s)
  slot : slotOf i = some x
  core : x.core = a.core.toNat
  more : x.more = a.more
  ecc : x.ecc = a.ecc

variable {s : State} {a : At}

theorem issues_of_next {i : Instr} {x : SlotInfo} (hx : SlotOf i a x) (hno : x.no ≠ slotVec) (h : Solo s a)
    {t : State} {g : Option Nat} (hrun : x.run (shut s a) (shut s a) = .next t g) : Issues i s a t g := by
  rw [Issues, Goes, hx.exec, issue_next h hx.slot hx.core hx.more hx.ecc hrun, decide_eq_false hno]

theorem vissues_of_next {i : Instr} {x : SlotInfo} (hx : SlotOf i a x) (hno : x.no = slotVec) (h : Solo s a)
    {t : State} {g : Option Nat} (hrun : x.run (shut s a) (shut s a) = .next t g) : Goes i s (after a true t g) := by
  rw [Goes, hx.exec, issue_next h hx.slot hx.core hx.more hx.ecc hrun, decide_eq_true hno]

theorem goes_of_fault {i : Instr} {x : SlotInfo} (hx : SlotOf i a x) (h : Solo s a) {f : State → State}
    (hrun : x.run (shut s a) (shut s a) = .fault f) : Goes i s (f (shut s a)) := by
  rw [Goes, hx.exec, issue_stop h hx.slot hx.core hx.more hx.ecc (.inl hrun)]

theorem goes_of_seqFault {i : Instr} {x : SlotInfo} (hx : SlotOf i a x) (h : Solo s a) {c code reason slot}
    (hrun : x.run (shut s a) (shut s a) = .fault (fun s => seqFault s c code reason slot)) :
    Goes i s (seqFault (shut s a) c code reason slot) := goes_of_fault hx h hrun

theorem goes_of_stop {i : Instr} {x : SlotInfo} (hx : SlotOf i a x) (h : Solo s a) {f : State → State}
    (hrun : x.run (shut s a) (shut s a) = .stop f) : Goes i s (f (shut s a)) := by
  rw [Goes, hx.exec, issue_stop h hx.slot hx.core hx.more hx.ecc (.inr (.inl hrun))]

-- ---------------------------------------------------------------- arithmetic (R253)

/-- An instruction of register form has the result `p.2` of RA and RB. -/
def RegisterForm (p : (At → SReg → SReg → SReg → Instr) × (DWord → DWord → DWord)) : Prop :=
  ∀ (s : State) (a : At) (rd ra rb : SReg), Solo s a →
    Issues (p.1 a rd ra rb) s a
      (setS (shut s a) a.core.toNat rd (p.2 (sReg (co s a) ra) (sReg (co s a) rb))) none

/-- An instruction of immediate form has the result `p.2` of RA and its immediate. -/
def ImmediateForm (p : (At → SReg → SReg → BitVec 30 → Instr) × (DWord → DWord → DWord)) : Prop :=
  ∀ (s : State) (a : At) (rd ra : SReg) (imm : BitVec 30), Solo s a →
    Issues (p.1 a rd ra imm) s a
      (setS (shut s a) a.core.toNat rd (p.2 (sReg (co s a) ra) (imm.signExtend 64))) none

theorem registerForm_of_slotCr {i : At → SReg → SReg → SReg → Instr} {f : DWord → DWord → DWord}
    (hx : ∀ a rd ra rb, SlotOf (i a rd ra rb) a (slotCr a rd ra rb f)) : RegisterForm (i, f) :=
  fun _ a rd ra rb h => issues_of_next (hx a rd ra rb) (show slotCtl ≠ slotVec by decide) h rfl

theorem immediateForm_of_slotCi {i : At → SReg → SReg → BitVec 30 → Instr} {f : DWord → DWord → DWord}
    (hx : ∀ a rd ra imm, SlotOf (i a rd ra imm) a (slotCi a rd ra imm f)) : ImmediateForm (i, f) :=
  fun _ a rd ra imm h => issues_of_next (hx a rd ra imm) (show slotCtl ≠ slotVec by decide) h rfl

theorem scalarRegisterForms : Says.ScalarRegisterForms := by
  show ∀ p ∈ _, RegisterForm p
  simp only [List.forall_mem_cons]
  refine ⟨?_, ?_, ?_, ?_, ?_, ?_, ?_, ?_, ?_, ?_, ?_, ?_, ?_, ?_, ?_, nofun⟩ <;>
    exact registerForm_of_slotCr fun _ _ _ _ => ⟨fun _ => rfl, rfl, rfl, rfl, rfl⟩

theorem scalarImmediateForms : Says.ScalarImmediateForms := by
  show ∀ p ∈ _, ImmediateForm p
  simp only [List.forall_mem_cons]
  refine ⟨?_, ?_, ?_, ?_, ?_, ?_, ?_, ?_, ?_, ?_, ?_, ?_, ?_, ?_, ?_, ?_, nofun⟩ <;>
    exact immediateForm_of_slotCi fun _ _ _ _ => ⟨fun _ => rfl, rfl, rfl, rfl, rfl⟩

/-- Settles O1: every form is `slotCr` or `slotCi` of its function. -/
theorem scalarArithmetic : Obligations.ScalarArithmetic := by
  unfold Obligations.ScalarArithmetic
  exact ⟨scalarRegisterForms, scalarImmediateForms⟩

-- ---------------------------------------------------------------- special values and w registers

/-- Settles O2, slot by slot. -/
theorem specialAndRowRegisters : Obligations.SpecialAndRowRegisters := by
  unfold Obligations.SpecialAndRowRegisters
  have hctl : slotCtl ≠ slotVec := by decide
  intro s a h
  refine ⟨fun rd imm v hv => ?srd, fun w ra => ?wset, fun w ra => ?wadd, fun w rd => ?wrd⟩
  case srd =>
    refine issues_of_next (x := slotSrd a rd imm) ⟨fun _ => rfl, rfl, rfl, rfl, rfl⟩ hctl h ?_
    simp only [slotSrd, slotAt, hv]
  case wset => exact issues_of_next (x := slotWset a w ra) ⟨fun _ => rfl, rfl, rfl, rfl, rfl⟩ hctl h rfl
  case wadd => exact issues_of_next (x := slotWadd a w ra) ⟨fun _ => rfl, rfl, rfl, rfl, rfl⟩ hctl h rfl
  case wrd => exact issues_of_next (x := slotWrd a w rd) ⟨fun _ => rfl, rfl, rfl, rfl, rfl⟩ hctl h rfl

-- ---------------------------------------------------------------- control flow (R254 to R258)

/-- An instruction branches where `p.2` holds of RA and RB. -/
def BranchForm (p : (At → SReg → SReg → BitVec 13 → Instr) × (DWord → DWord → Bool)) : Prop :=
  ∀ (s : State) (a : At) (ra rb : SReg) (target : BitVec 13), Solo s a →
    Issues (p.1 a ra rb target) s a (shut s a)
      (if p.2 (sReg (co s a) ra) (sReg (co s a) rb) then some target.toNat else none)

theorem branchForm_of_slotCb {i : At → SReg → SReg → BitVec 13 → Instr} {f g : DWord → DWord → Bool}
    (hx : ∀ a ra rb target, SlotOf (i a ra rb target) a (slotCb a ra rb target f)) (hfg : ∀ x y, f x y = g x y) :
    BranchForm (i, g) := by
  obtain rfl : f = g := funext fun x => funext (hfg x)
  exact fun _ a ra rb target h => issues_of_next (hx a ra rb target) (show slotCtl ≠ slotVec by decide) h rfl

theorem branches : Says.Branches := by
  show ∀ p ∈ _, BranchForm p
  simp only [List.forall_mem_cons]
  refine ⟨branchForm_of_slotCb (fun _ _ _ _ => ⟨fun _ => rfl, rfl, rfl, rfl, rfl⟩) ?beq,
    branchForm_of_slotCb (fun _ _ _ _ => ⟨fun _ => rfl, rfl, rfl, rfl, rfl⟩) ?bne,
    branchForm_of_slotCb (fun _ _ _ _ => ⟨fun _ => rfl, rfl, rfl, rfl, rfl⟩) ?blt,
    branchForm_of_slotCb (fun _ _ _ _ => ⟨fun _ => rfl, rfl, rfl, rfl, rfl⟩) ?bge,
    branchForm_of_slotCb (fun _ _ _ _ => ⟨fun _ => rfl, rfl, rfl, rfl, rfl⟩) ?bltu,
    branchForm_of_slotCb (fun _ _ _ _ => ⟨fun _ => rfl, rfl, rfl, rfl, rfl⟩) ?bgeu, nofun⟩
  case beq => exact fun _ _ => beq_eq_decide ..
  case bne => exact fun _ _ => by simp [bne, beq_eq_decide]
  case blt => exact fun _ _ => rfl
  case bge => exact fun _ _ => by simp [BitVec.slt, ← decide_not]
  case bltu => exact fun _ _ => rfl
  case bgeu => exact fun _ _ => by simp [BitVec.ult, ← decide_not]

theorem callsAndReturns : Says.CallsAndReturns := by
  have hctl : slotCtl ≠ slotVec := by decide
  intro s a h
  have hcall (target) : SlotOf (.call a target) a (slotCall a target) := ⟨fun _ => rfl, rfl, rfl, rfl, rfl⟩
  have hret : SlotOf (.ret a) a (slotRet a) := ⟨fun _ => rfl, rfl, rfl, rfl, rfl⟩
  refine ⟨fun target => ?jmp, fun target hroom => ?call, fun target hfull => ?overflow, fun t ht => ?ret, fun hnil => ?empty⟩
  case jmp => exact issues_of_next (x := slotJmp a target) ⟨fun _ => rfl, rfl, rfl, rfl, rfl⟩ hctl h rfl
  case call => exact issues_of_next (hcall target) hctl h (if_neg (Nat.not_le.mpr hroom))
  case overflow => exact goes_of_fault (hcall target) h (if_pos hfull)
  case ret =>
    refine issues_of_next hret hctl h ?_
    simp only [slotRet, slotAt, co_shut, ht]
  case empty =>
    refine goes_of_seqFault hret h ?_
    simp only [slotRet, slotAt, co_shut, hnil, List.getLast?_nil]

/-- A loop of either form, by its count. -/
theorem loop_of_slotLoopBy {s : State} {a : At} (h : Solo s a) {i : Instr} {lc : BitVec 2} {fin : BitVec 13}
    {count : Core → Word} (hx : SlotOf i a (slotLoopBy a lc fin count)) :
    (loopBad (co s a).seq fin = false →
      Issues i s a (updSeq (shut s a) a.core.toNat (fun q =>
        let l := q.loops.filter (fun x => decide (x.lc ≠ lc))
        { q with loops := if count (co s a) = 0 then l
          else l ++ [{ lc := lc, first := q.pc + 1, fin := fin, count := count (co s a) }] }))
        (if count (co s a) = 0 then some (fin.toNat + 1) else none)) ∧
    (loopBad (co s a).seq fin = true →
      Goes i s (seqFault (shut s a) a.core.toNat tfIllegal 4 slotCtl)) := by
  constructor <;> intro hbad
  · refine issues_of_next hx (show slotCtl ≠ slotVec by decide) h ?_
    simp only [slotLoopBy, slotAt, co_shut, hbad]
    rfl
  · refine goes_of_seqFault hx h ?_
    simp only [slotLoopBy, slotAt, co_shut, hbad]
    rfl

theorem loopsAndEnd : Says.LoopsAndEnd := by
  intro s a h
  refine ⟨?_, issues_of_next (x := slotEnd a) ⟨fun _ => rfl, rfl, rfl, rfl, rfl⟩ (show slotCtl ≠ slotVec by decide) h rfl⟩
  simp only [List.forall_mem_cons]
  refine ⟨fun lc fin r n => ?loop, fun lc fin r n => ?loopi, nofun⟩
  case loop =>
    exact loop_of_slotLoopBy h (count := fun k => (sReg k r).setWidth 32) ⟨fun _ => rfl, rfl, rfl, rfl, rfl⟩
  case loopi => exact loop_of_slotLoopBy h (count := fun _ => n.setWidth 32) ⟨fun _ => rfl, rfl, rfl, rfl, rfl⟩

/-- Settles O3, by the three kinds of control flow. -/
theorem controlFlow : Obligations.ControlFlow := by
  unfold Obligations.ControlFlow
  exact ⟨branches, callsAndReturns, loopsAndEnd⟩

-- ---------------------------------------------------------------- what the control slot leaves unchanged

theorem onlySequencer_trans {c : Nat} {s t u : State} (h : OnlySequencer c s t) (k : OnlySequencer c t u) :
    OnlySequencer c s u where
  rest := by
    have hrest := congrArg (fun v : State => { v with cores := s.cores, tel := s.tel, bundles := s.bundles }) k.rest
    exact hrest.trans h.rest
  others d hd := (k.others d hd).trans (h.others d hd)
  own := by
    have hown := congrArg (fun v : Core => { v with seq := (coreOf s c).seq }) k.own
    exact hown.trans h.own
  predicates f := (k.predicates f).trans (h.predicates f)

theorem onlySequencer_setOpen (s : State) (c : Nat) (l : List Instr) : OnlySequencer c s (setOpen s c l) :=
  ⟨rfl, fun _ _ => rfl, rfl, fun _ => rfl⟩

theorem onlySequencer_count (s : State) (c i n : Nat) : OnlySequencer c s (count s i n) := by
  unfold count
  split <;> exact ⟨rfl, fun _ _ => rfl, rfl, fun _ => rfl⟩

theorem onlySequencer_updSeq (s : State) (c : Nat) {f : Seq → Seq} (hf : ∀ q, (f q).f = q.f) :
    OnlySequencer c s (updSeq s c f) where
  rest := rfl
  others d hd := (coreOf_updCore s c d _).trans (if_neg (Ne.symm hd))
  own := by simp [updSeq]
  predicates p := by simp [updSeq, fReg, hf]

/-- Beside the sequencer of core `c`, the scalar registers in `P` and the w registers in `Q` are as they were. -/
structure SlotFrame (c : Nat) (P : SReg → Prop) (Q : WReg → Prop) (s t : State) : Prop where
  only : OnlySequencer c s t
  scalars : ∀ r, P r → sReg (coreOf t c) r = sReg (coreOf s c) r
  rows : ∀ w, Q w → wReg (coreOf t c) w = wReg (coreOf s c) w

variable {c : Nat} {P : SReg → Prop} {Q : WReg → Prop} {t u : State}

theorem SlotFrame.rfl' (s : State) : SlotFrame c P Q s s :=
  ⟨⟨rfl, fun _ _ => rfl, rfl, fun _ => rfl⟩, fun _ _ => rfl, fun _ _ => rfl⟩

theorem SlotFrame.trans (h : SlotFrame c P Q s t) (k : SlotFrame c P Q t u) : SlotFrame c P Q s u :=
  ⟨onlySequencer_trans h.only k.only, fun r hr => (k.scalars r hr).trans (h.scalars r hr),
    fun w hw => (k.rows w hw).trans (h.rows w hw)⟩

theorem slotFrame_setOpen (s : State) (l : List Instr) : SlotFrame c P Q s (setOpen s c l) :=
  ⟨onlySequencer_setOpen s c l, fun _ _ => rfl, fun _ _ => rfl⟩

theorem slotFrame_count (s : State) (i n : Nat) : SlotFrame c P Q s (count s i n) := by
  refine ⟨onlySequencer_count s c i n, ?_, ?_⟩ <;> intro r _ <;> unfold count <;> split <;> rfl

/-- A change of the sequencer that leaves the three register files alone. -/
theorem slotFrame_updSeq (s : State) {f : Seq → Seq} (hs : ∀ q, (f q).s = q.s) (hw : ∀ q, (f q).w = q.w)
    (hf : ∀ q, (f q).f = q.f) : SlotFrame c P Q s (updSeq s c f) :=
  ⟨onlySequencer_updSeq s c hf, fun r _ => by simp [updSeq, sReg, hs], fun w _ => by simp [updSeq, wReg, hw]⟩

theorem sReg_setS (s : State) (c : Nat) (rd r : SReg) (v : DWord) (hr : r ≠ rd) :
    sReg (coreOf (setS s c rd v) c) r = sReg (coreOf s c) r := by
  unfold setS
  split
  · rfl
  · simp [updSeq, sReg, mget_mset, BitVec.toNat_inj, Ne.symm hr]

theorem slotFrame_setS (s : State) (rd : SReg) (v : DWord) :
    SlotFrame c (· ≠ rd) Q s (setS s c rd v) := by
  refine ⟨?_, fun r hr => sReg_setS s c rd r v hr, fun w _ => ?_⟩ <;> unfold setS <;> split
  · exact (SlotFrame.rfl' (P := fun _ => True) (Q := fun _ => True) s).only
  · exact onlySequencer_updSeq s c fun _ => rfl
  · rfl
  · simp [updSeq, wReg]

theorem slotFrame_setW (s : State) (w : WReg) (v : WVal) : SlotFrame c P (· ≠ w) s (setW s c w v) :=
  ⟨onlySequencer_updSeq s c fun _ => rfl, fun r _ => by simp [setW, updSeq, sReg],
    fun x hx => by simp [setW, updSeq, wReg, mget_mset, BitVec.toNat_inj, Ne.symm hx]⟩

theorem slotFrame_shut (s : State) (a : At) : SlotFrame a.core.toNat P Q s (shut s a) :=
  (slotFrame_setOpen s []).trans (slotFrame_updSeq _ (fun _ => rfl) (fun _ => rfl) fun _ => rfl)

theorem advance_registers (q : Seq) (g : Option Nat) :
    (advance q g).s = q.s ∧ (advance q g).w = q.w ∧ (advance q g).f = q.f := by
  cases g <;> exact ⟨rfl, rfl, rfl⟩

theorem slotFrame_after (t : State) (a : At) (g : Option Nat) :
    SlotFrame a.core.toNat P Q t (after a false t g) :=
  (slotFrame_updSeq t (fun q => (advance_registers q g).1) (fun q => (advance_registers q g).2.1)
    fun q => (advance_registers q g).2.2).trans (slotFrame_count _ _ _)

/-- A slot whose effect stays within a frame stays within it with its bundle. -/
theorem slotFrame_of_effect {g : Option Nat} (h : SlotFrame a.core.toNat P Q (shut s a) t) :
    SlotFrame a.core.toNat P Q s (after a false t g) :=
  ((slotFrame_shut s a).trans h).trans (slotFrame_after t a g)

theorem frame_of_setS {i : Instr} {rd : SReg} {v : DWord} {g : Option Nat}
    (hi : Issues i s a (setS (shut s a) a.core.toNat rd v) g) :
    ∃ t, Goes i s t ∧ OnlySequencer a.core.toNat s t ∧
      (∀ r, r ≠ rd → sReg (coreOf t a.core.toNat) r = sReg (coreOf s a.core.toNat) r) ∧
      (∀ w, wReg (coreOf t a.core.toNat) w = wReg (coreOf s a.core.toNat) w) := by
  obtain ⟨honly, hscalars, hrows⟩ := slotFrame_of_effect (g := g) (slotFrame_setS (Q := fun _ => True) (shut s a) rd v)
  exact ⟨_, hi, honly, hscalars, fun w => hrows w trivial⟩

theorem frame_of_setW {i : Instr} {w : WReg} {v : WVal} {g : Option Nat}
    (hi : Issues i s a (setW (shut s a) a.core.toNat w v) g) :
    ∃ t, Goes i s t ∧ OnlySequencer a.core.toNat s t ∧
      (∀ r, sReg (coreOf t a.core.toNat) r = sReg (coreOf s a.core.toNat) r) ∧
      (∀ x, x ≠ w → wReg (coreOf t a.core.toNat) x = wReg (coreOf s a.core.toNat) x) := by
  obtain ⟨honly, hscalars, hrows⟩ := slotFrame_of_effect (g := g) (slotFrame_setW (P := fun _ => True) (shut s a) w v)
  exact ⟨_, hi, honly, fun r => hscalars r trivial, hrows⟩

theorem frame_of_shut {i : Instr} {g : Option Nat} (hi : Issues i s a (shut s a) g) :
    ∃ t, Goes i s t ∧ OnlySequencer a.core.toNat s t ∧
      (∀ r, sReg (coreOf t a.core.toNat) r = sReg (coreOf s a.core.toNat) r) ∧
      (∀ w, wReg (coreOf t a.core.toNat) w = wReg (coreOf s a.core.toNat) w) := by
  obtain ⟨honly, hscalars, hrows⟩ :=
    slotFrame_of_effect (g := g) (SlotFrame.rfl' (P := fun _ => True) (Q := fun _ => True) (shut s a))
  exact ⟨_, hi, honly, fun r => hscalars r trivial, fun w => hrows w trivial⟩

/-- Settles O58: the effect of each slot (R253, R254) and the frame of its kind of effect. -/
theorem registerSlotFrames : Obligations.RegisterSlotFrames := by
  unfold Obligations.RegisterSlotFrames
  have hctl : slotCtl ≠ slotVec := by decide
  refine ⟨fun s a rd i h hi => ?scalar, fun s a w ra i h hi => ?row, fun s a ra rb target i h hi => ?branch,
    fun s c v f => ⟨if_pos rfl, if_pos rfl, if_pos rfl, if_pos rfl⟩⟩
  case scalar =>
    obtain ⟨ra, rb, hi⟩ | ⟨ra, imm, hi⟩ | ⟨w, rfl⟩ := hi
    · simp only [List.mem_cons, List.not_mem_nil, or_false] at hi
      rcases hi with rfl | rfl | rfl | rfl | rfl | rfl | rfl | rfl | rfl | rfl | rfl | rfl | rfl | rfl | rfl <;>
        exact frame_of_setS (issues_of_next (x := slotCr a rd ra rb _) ⟨fun _ => rfl, rfl, rfl, rfl, rfl⟩ hctl h rfl)
    · simp only [List.mem_cons, List.not_mem_nil, or_false] at hi
      rcases hi with rfl | rfl | rfl | rfl | rfl | rfl | rfl | rfl | rfl | rfl | rfl | rfl | rfl | rfl | rfl | rfl <;>
        exact frame_of_setS (issues_of_next (x := slotCi a rd ra imm _) ⟨fun _ => rfl, rfl, rfl, rfl, rfl⟩ hctl h rfl)
    · obtain ⟨-, -, -, hwrd⟩ := specialAndRowRegisters s a h
      exact frame_of_setS (hwrd w rd)
  case row =>
    obtain ⟨-, hwset, hwadd, -⟩ := specialAndRowRegisters s a h
    simp only [List.mem_cons, List.not_mem_nil, or_false] at hi
    rcases hi with rfl | rfl
    · exact frame_of_setW (hwset w ra)
    · exact frame_of_setW (hwadd w ra)
  case branch =>
    simp only [List.mem_cons, List.not_mem_nil, or_false] at hi
    rcases hi with rfl | rfl | rfl | rfl | rfl | rfl | rfl
    case inr.inr.inr.inr.inr.inr => exact frame_of_shut ((callsAndReturns s a h).1 target)
    all_goals
      exact frame_of_shut (issues_of_next (x := slotCb a ra rb target _) ⟨fun _ => rfl, rfl, rfl, rfl, rfl⟩ hctl h rfl)

end Sys2Proof.Proofs
end

section
/-! PROOF. The state after reset and the passing of a tick: O49, O52, O53. -/

namespace Sys2Proof.Proofs

open Sys2Proof Sys2Proof.Machine Sys2Proof.Says Sys2Proof.Laws

-- ---------------------------------------------------------------- reset

/-- Settles O52: memory after reset is the empty list. -/
theorem resetCanonical : Obligations.ResetCanonical := by
  unfold Obligations.ResetCanonical
  exact ⟨rfl, rfl, rfl⟩

theorem domOn_reset (d : Nat) : domOn State.reset d = decide (d = 209) := by
  have hon : State.reset.pwr.on = 1#224 <<< 209 := by decide
  rw [domOn, hon, BitVec.getLsbD_shiftLeft, BitVec.getLsbD_one]
  by_cases hd : d = 209
  · subst hd
    decide
  · rw [decide_eq_false hd]
    by_cases hlt : d < 209
    · simp [hlt]
    · simp [show d - 209 ≠ 0 by omega]

/-- Settles O53: the registers one by one, and the parts of the state that are empty. -/
theorem resetHolds : Obligations.ResetHolds := by
  unfold Obligations.ResetHolds
  refine ⟨by decide, domOn_reset, ?_⟩
  exact ⟨fun _ => ⟨rfl, rfl, rfl⟩, fun _ => rfl, fun _ => rfl, fun _ => rfl, rfl, rfl, rfl, rfl⟩

-- ---------------------------------------------------------------- the passing of a tick

theorem mget_map {α : Type} (d : α) (g : α → α) (hg : g d = d) (m : SMap α) (k : Nat) :
    mget d (m.map (fun e => (e.1, g e.2))) k = g (mget d m k) := by
  induction m with
  | nil => exact hg.symm
  | cons e m ih =>
    simp only [List.map_cons, mget]
    split
    · rfl
    · exact ih

/-- What the clocks of a tick leave alone: memory, the queue, the clocks' counts, and which cores fetch a bundle
of their own. -/
structure TickFrame (s t : State) : Prop where
  mem : t.mem = s.mem
  clk : t.clk = s.clk
  fetch : ∀ c, ownFetch t c = ownFetch s c

variable {s t u : State}

theorem TickFrame.rfl' (s : State) : TickFrame s s := ⟨rfl, rfl, fun _ => rfl⟩

theorem TickFrame.trans (h : TickFrame s t) (k : TickFrame t u) : TickFrame s u :=
  ⟨k.mem.trans h.mem, k.clk.trans h.clk, fun c => (k.fetch c).trans (h.fetch c)⟩

theorem tickFrame_count (s : State) (i n : Nat) : TickFrame s (count s i n) := by
  unfold count
  split <;> exact ⟨rfl, rfl, fun _ => rfl⟩

/-- Whether a core fetches on its own depends on its sequencer, its hold, its task and its open slots alone. -/
theorem ownFetch_congr {c : Nat} (hbundles : t.bundles = s.bundles)
    (hseq : ∃ w, (coreOf t c).seq = { (coreOf s c).seq with watchdog := w })
    (hhold : (coreOf t c).ta.repairHold = (coreOf s c).ta.repairHold)
    (htask : (taskOf t c).isSome = (taskOf s c).isSome) : ownFetch t c = ownFetch s c := by
  obtain ⟨w, hseq⟩ := hseq
  simp only [ownFetch, canIssue, pastImage, nextSlots, hbundles, hseq, hhold, htask]

theorem tickFrame_watchdog (s : State) (c : Nat) :
    TickFrame s (updSeq s c (fun q => { q with watchdog := q.watchdog + 1 })) := by
  refine ⟨rfl, rfl, fun j => ?_⟩
  by_cases hj : c = j
  · subst hj
    exact ownFetch_congr rfl ⟨(coreOf s c).seq.watchdog + 1, by simp [updSeq]⟩ (by simp [updSeq]) (by simp [updSeq, taskOf, ctxOf])
  · have hcore : coreOf (updSeq s c (fun q => { q with watchdog := q.watchdog + 1 })) j = coreOf s j :=
      (coreOf_updCore s c j _).trans (if_neg hj)
    exact ownFetch_congr rfl ⟨_, by rw [hcore]⟩ (by rw [hcore]) (by simp [taskOf, ctxOf, hcore])

theorem tickFrame_ite {b : Prop} [Decidable b] (h : TickFrame s t) (k : TickFrame s u) :
    TickFrame s (if b then t else u) := by
  split
  · exact h
  · exact k

theorem tickFrame_tickCore (n gated : Nat) (s : State) (c : Nat) : TickFrame s (tickCore n gated s c) := by
  have hcount : ∀ {t} i n, TickFrame s t → TickFrame s (countCore t c i n) :=
    fun i n h => h.trans (tickFrame_count _ _ n)
  unfold tickCore
  extract_lets k cycles stopped waited
  have hstopped : TickFrame s stopped :=
    tickFrame_ite (hcount 0 n (.rfl' s)) (hcount 2 gated (hcount 0 n (.rfl' s)))
  have hwaited : TickFrame s waited := tickFrame_ite (hcount 15 n hstopped) hstopped
  exact tickFrame_ite (tickFrame_ite (hwaited.trans (tickFrame_watchdog _ c)) hwaited) (.rfl' s)

theorem tickTask_task (s : State) (k : Ctx) : (tickTask s k).task.isSome = k.task.isSome := by
  unfold tickTask
  split
  · split <;> simp [*]
  · rfl

theorem tickFrame_tickTasks (s : State) : TickFrame s (tickTasks s) := by
  refine ⟨rfl, rfl, fun c => ownFetch_congr rfl ⟨_, rfl⟩ rfl ?_⟩
  have hctx : ∀ x, ctxOf (tickTasks s) x = tickTask s (ctxOf s x) :=
    fun x => mget_map ({} : Ctx) (tickTask s) rfl s.cp.ctxs x
  have hcore : coreOf (tickTasks s) c = coreOf s c := rfl
  simp only [taskOf, hctx, hcore]
  split
  · simp [tickTask_task]
  · rfl

theorem tickFrame_foldl {f : State → Nat → State} (hf : ∀ s c, TickFrame s (f s c)) (l : List Nat) (s : State) :
    TickFrame s (l.foldl f s) := by
  induction l generalizing s with
  | nil => exact .rfl' s
  | cons c l ih => exact (hf s c).trans (ih _)

/-- The state in which the derived clocks have counted a tick (R5, R6). -/
def counted (s : State) : State :=
  { s with clk := { s.clk with
      coreCyc := s.clk.coreCyc + (s.clk.coreRem + 88) / coreDivisor s.pwr.div
      coreRem := (s.clk.coreRem + 88) % coreDivisor s.pwr.div
      fabCyc := s.clk.fabCyc + (s.clk.fabRem + 88) / 6, fabRem := (s.clk.fabRem + 88) % 6 } }

theorem tickFrame_tickClocks (s : State) : TickFrame (counted s) (tickClocks s) :=
  tickFrame_foldl (tickFrame_tickCore _ _) _ _

theorem foldl_eq_self {α β : Type} {f : α → β → α} {x : α} {l : List β} (h : ∀ y ∈ l, f x y = x) : l.foldl f x = x := by
  induction l with
  | nil => rfl
  | cons y l ih =>
    rw [List.foldl_cons, h y (.head _)]
    exact ih fun z hz => h z (.tail _ hz)

theorem foldl_fetchOwn_of_none (h : ∀ c < 16, ownFetch s c = false) : (List.range 16).foldl fetchOwn s = s :=
  foldl_eq_self fun c hc => by simp [fetchOwn, h c (List.mem_range.mp hc)]

theorem temperPump_frame (s : State) : (temperPump s).mem = s.mem ∧ (temperPump s).clk = s.clk := by
  unfold temperPump
  split
  · exact ⟨rfl, rfl⟩
  · split <;> exact ⟨rfl, rfl⟩

/-- While the root clock is lost, a tick counts the timebase and nothing else. -/
theorem clockTick_of_lost (h : s.pwr.lostSince ≠ none) :
    clockTick s = { s with clk := { s.clk with tb := s.clk.tb + 1 } } := by
  obtain ⟨since, hsince⟩ := Option.ne_none_iff_exists'.mp h
  simp [clockTick, hsince]

/-- While it runs and no core fetches on its own, a tick counts the clocks and leaves memory as it was. -/
theorem clockTick_of_running (h : s.pwr.lostSince = none) (hfetch : ∀ c < 16, ownFetch s c = false) :
    (clockTick s).mem = s.mem ∧
      (clockTick s).clk = (counted { s with clk := { s.clk with tb := s.clk.tb + 1 } }).clk := by
  unfold clockTick
  extract_lets _ ticked ran
  have hframe : TickFrame (counted ticked) (tickTasks (tickClocks ticked)) :=
    (tickFrame_tickClocks ticked).trans (tickFrame_tickTasks _)
  have hran : ran = tickTasks (tickClocks ticked) :=
    foldl_fetchOwn_of_none fun c hc => (hframe.fetch c).trans (hfetch c hc)
  have hpumped := temperPump_frame ran
  rw [if_pos (show ticked.pwr.lostSince.isNone = true by simp [ticked, h])]
  split
  · exact ⟨hpumped.1.trans (hran ▸ hframe.mem), hpumped.2.trans (hran ▸ hframe.clk)⟩
  · exact ⟨hran ▸ hframe.mem, hran ▸ hframe.clk⟩

theorem coreDivisor_of_getElem? {v : BitVec 2} {d : Nat} (h : [8, 10, 12, 16][v.toNat]? = some d) :
    coreDivisor v = d := by
  rw [coreDivisor, List.getD_eq_getElem?_getD, h, Option.getD_some]

/-- Settles O49: with the root clock lost nothing but the timebase moves; else the parts of a tick one by one. -/
theorem idleTick : Obligations.IdleTick := by
  unfold Obligations.IdleTick
  intro s hidle
  refine ⟨clockTick s, step_idle hidle, (keeps_clockTick (.rfl' s)).queue.trans hidle, fun hfetch => ?_,
    clockTick_of_lost⟩
  by_cases hlost : s.pwr.lostSince = none
  · obtain ⟨hmem, hclk⟩ := clockTick_of_running hlost hfetch
    rw [hclk]
    refine ⟨rfl, hmem, fun _ => ⟨fun d hd => ?_, rfl, rfl⟩⟩
    rw [← coreDivisor_of_getElem? hd]
    exact ⟨rfl, rfl⟩
  · rw [clockTick_of_lost hlost]
    exact ⟨rfl, rfl, fun h => absurd h hlost⟩

end Sys2Proof.Proofs
end

section
/-! PROOF. The life of a context (R335 to R338, R351): O18. -/

namespace Sys2Proof.Proofs

open Sys2Proof Sys2Proof.Machine Sys2Proof.Says Sys2Proof.Laws

-- ---------------------------------------------------------------- what an entry, a count and a record change

/-- An entry changes the GEQ, or the event log that the Forge keeps in memory. -/
theorem geqPut_eq (s : State) (e : GeqEntry) : ∃ g m b, geqPut s e = { s with geq := g, mem := m, sb := b } := by
  unfold geqPut
  split
  · exact ⟨_, _, _, rfl⟩
  · split <;> exact ⟨_, _, _, rfl⟩

theorem post_eq (s : State) (code source : Nat) (ctx : Option Nat) (obj detail : DWord) :
    ∃ g m b, post s code source ctx obj detail = { s with geq := g, mem := m, sb := b } :=
  geqPut_eq s _

theorem count_eq (s : State) (i n : Nat) : ∃ x, count s i n = { s with tel := x } := by
  unfold count
  split <;> exact ⟨_, rfl⟩

theorem trace_eq (s : State) (type source : Nat) (ctx : Option Nat) (mask : BitVec 16) (payload : BitVec 128) :
    ∃ x, trace s type source ctx mask payload = { s with tel := x } := by
  unfold trace
  split
  · split <;> exact ⟨_, rfl⟩
  · exact ⟨_, rfl⟩

-- ---------------------------------------------------------------- the states of a context (R335 to R338)

/-- A command row that its gate admits. -/
theorem goes_of_gated {x : Instr} {s t : State} {o : Nat} {v : Word} {i : Initiator} {ok : Bool} {dom : Nat}
    {f : State → State} (hexec : exec x s = .next (gated s o v i ok dom f)) (hok : ok = true)
    (hon : domOn s dom = true) (hf : f s = t) : Goes x s t := by
  rw [Goes, hexec, gated_of_allowed hok hon, hf]

theorem stopCtx_of_settled {s : State} {c : Nat}
    (h : (ctxOf s c).state = .ready ∨ (ctxOf s c).state = .idle ∨ (ctxOf s c).state = .saved) :
    stopCtx s c = setState s c .stopped := by
  rcases h with h | h | h <;> simp only [stopCtx, h]

theorem stopCtx_of_busy {s : State} {c : Nat}
    (h : (ctxOf s c).state = .running ∨ (ctxOf s c).state = .faultWait ∨ (ctxOf s c).state = .faultPending) :
    stopCtx s c = setCtx s c { ctxOf s c with stopPend := true } := by
  rcases h with h | h | h <;> simp only [stopCtx, h]

theorem clearValid_of_stopped {s : State} {i : Initiator} {c : Nat}
    (h : (ctxOf s c).state = .stopped ∨ (ctxOf s c).state = .error) : clearValid s i c = freeCtx s c := by
  rcases h with h | h <;> simp only [clearValid, h]

theorem doorbell_of_ok {s : State} {i : Initiator} {ctx : CtxId} {wr : Word} {outside : List Host.Cell}
    (hwriter : ctxWriter ctx.toNat i = true) (hfree : (ctxOf s ctx.toNat).state ≠ .free)
    (htear : (ctxOf s ctx.toNat).state ≠ .teardown) (herror : (ctxOf s ctx.toNat).state ≠ .error)
    (hok : doorbellOk (ctxOf s ctx.toNat) wr = true) :
    doorbell i ctx wr outside s = ringTo { s with mem := wrCells s.mem outside } ctx.toNat wr := by
  have hctx : ctxOf { s with mem := wrCells s.mem outside } ctx.toNat = ctxOf s ctx.toNat := rfl
  simp [doorbell, hctx, hwriter, hfree, htear, herror, hok]

theorem doorbell_of_bad {s : State} {i : Initiator} {ctx : CtxId} {wr : Word} {outside : List Host.Cell}
    (h : doorbellOk (ctxOf s ctx.toNat) wr = false ∨ ctxWriter ctx.toNat i = false) :
    doorbell i ctx wr outside s = doorbellRefused { s with mem := wrCells s.mem outside } ctx.toNat wr := by
  have hctx : ctxOf { s with mem := wrCells s.mem outside } ctx.toNat = ctxOf s ctx.toNat := rfl
  rcases h with h | h <;> simp [doorbell, hctx, h]

theorem contextStates : Says.ContextStates := by
  intro s ctx i c k hon
  have hctx : ctxOf s ctx.toNat = k := rfl
  refine ⟨fun b prio grant => ?bind, fun hst => ?unbind, fun hwriter => ?commands, fun _ _ => rfl,
    fun wr outside => ⟨fun hwriter hfree htear herror hok => ?ring, fun hbad => ?ringRefused⟩⟩
  case bind =>
    refine goes_of_gated rfl rfl hon ?_
    simp [bindCtx, updCtx, hctx, c]
  case unbind => exact goes_of_gated rfl rfl hon (clearValid_of_stopped hst)
  case commands =>
    have hcommand : ∀ {x : Instr} {op : Nat} {f : State → State} {t : State},
        exec x s = .next (ctxCmd s i c op f) → f s = t → Goes x s t := fun hexec => goes_of_gated hexec hwriter hon
    refine ⟨fun hst => hcommand rfl (stopCtx_of_settled hst), fun hst => hcommand rfl ?waiting,
      fun hst => hcommand rfl (stopCtx_of_busy hst), fun hst htask => hcommand rfl ?start,
      fun t hst htask hphase => hcommand rfl ?resume, fun hst => hcommand rfl ?startRefused,
      fun hst => hcommand rfl ?reset, fun hst => hcommand rfl ?resetRefused, hcommand rfl rfl⟩
    case waiting => simp only [stopCtx, hctx, hst, c]
    case start => simp [startCtx, hctx, hst, htask, c]
    case resume => simp [startCtx, hctx, hst, htask, hphase, c]
    case startRefused => simp [startCtx, hctx, hst, c]
    case reset => simp [resetCtx, hctx, hst, c]
    case resetRefused => simp [resetCtx, hctx, hst, c]
  case ring =>
    refine congrArg _ ((doorbell_of_ok hwriter hfree htear herror hok).trans ?_)
    have hopened : ctxOf { s with mem := wrCells s.mem outside } c = k := rfl
    simp [ringTo, updCtx, hopened, c]
  case ringRefused => exact congrArg _ (doorbell_of_bad hbad)

-- ---------------------------------------------------------------- what a teardown leaves (R351)

/-- The end of a teardown, while signals are to be made and once they have been. -/
theorem endTeardown_of_signals {s : State} {c : Nat} (h : tearSignals s c = true) : endTeardown s c = s := by
  unfold endTeardown
  split
  · rfl
  · exact if_pos h

theorem endTeardown_of_none {s : State} {c code reason : Nat} {core : Option Nat} {detail : DWord}
    (hending : (ctxOf s c).ending = some (code, reason, core, detail)) (h : tearSignals s c = false) :
    ∃ g m b x lost, endTeardown s c = updCtx { s with geq := g, mem := m, sb := b, tel := x } c (fun k => { k with
      state := .error, code := BitVec.ofNat 8 code, reason := BitVec.ofNat 8 reason
      faultLost := k.faultLost || lost, faultRd := k.rd, ending := none }) := by
  obtain ⟨g, m, b, hpost⟩ := post_eq s code srcCp (some c) (faultObj (ctxOf s c) reason core) detail
  obtain ⟨x, hcount⟩ := count_eq { s with geq := g, mem := m, sb := b } 258 1
  obtain ⟨y, htrace⟩ := trace_eq { s with geq := g, mem := m, sb := b, tel := x } 5 srcCp (some c) 0
    (BitVec.ofNat 128 (code + reason * 2 ^ 16))
  refine ⟨g, m, b, y, geqFull s, ?_⟩
  simp only [endTeardown, hending, h, hpost, hcount, htrace]
  rfl

theorem mget_filter_ne {m : SMap Nat} {n : Nat} (hn : n ≠ 0) (k : Nat) :
    mget 0 (m.filter (fun e => decide (e.2 ≠ n))) k ≠ n := by
  induction m with
  | nil => exact hn.symm
  | cons e m ih =>
    rw [List.filter_cons]
    split
    · next he =>
      simp only [mget]
      split
      · exact of_decide_eq_true he
      · exact ih
    · exact ih

/-- What the steps of a teardown leave alone: memory, and of the command processor all but the lane tables. -/
structure TearFrame (s t : State) : Prop where
  mem : t.mem = s.mem
  cp : t.cp = s.cp

theorem TearFrame.foldl {β : Type} {f : State → β → State} (hf : ∀ s x, TearFrame s (f s x)) (l : List β) (s : State) :
    TearFrame s (l.foldl f s) := by
  induction l generalizing s with
  | nil => exact ⟨rfl, rfl⟩
  | cons x l ih => exact ⟨(ih _).mem.trans (hf s x).mem, (ih _).cp.trans (hf s x).cp⟩

theorem tearFrame_releaseCores (s : State) (l : List Nat) : TearFrame s (releaseCores s l) :=
  TearFrame.foldl (f := fun s c => updCore s c coreRelease) (fun _ _ => ⟨rfl, rfl⟩) l s

theorem tearFrame_dropRef (s : State) (b : BitVec 512) : TearFrame s (dropRef s b) := by
  unfold dropRef
  split <;> exact ⟨rfl, rfl⟩

theorem tearFrame_dropRegion (s : State) (c : Nat) : TearFrame s (dropRegion s c) := by
  have hdropped := TearFrame.foldl (f := fun s e => dropRef (dropRef s e.2.block) e.2.block2)
    (fun s e => ⟨(tearFrame_dropRef _ _).mem.trans (tearFrame_dropRef s _).mem,
      (tearFrame_dropRef _ _).cp.trans (tearFrame_dropRef s _).cp⟩)
    (s.ru.queue.filter (fun e => decide (e.2.ctx = c))) s
  exact ⟨hdropped.mem, hdropped.cp⟩

@[simp] theorem dropped_mem (s : State) (l : List Nat) (c : Nat) :
    (dropRegion (dropStoreReq (releaseCores (dropBundles s l) l) c) c).mem = s.mem :=
  (tearFrame_dropRegion (dropStoreReq (releaseCores (dropBundles s l) l) c) c).mem.trans
    (tearFrame_releaseCores (dropBundles s l) l).mem

@[simp] theorem dropped_cp (s : State) (l : List Nat) (c : Nat) :
    (dropRegion (dropStoreReq (releaseCores (dropBundles s l) l) c) c).cp = s.cp :=
  (tearFrame_dropRegion (dropStoreReq (releaseCores (dropBundles s l) l) c) c).cp.trans
    (tearFrame_releaseCores (dropBundles s l) l).cp

/-- The steps between: they touch the links, the lane tables, the frames and the fault records. -/
@[simp] theorem closed_mem (s : State) (c : Nat) :
    (closeWindows (dropOcc (armFrames (dropFaults s c) c) c) c).mem = s.mem := rfl

@[simp] theorem closed_cp (s : State) (c : Nat) : (closeWindows (dropOcc (armFrames (dropFaults s c) c) c) c).cp =
    { s.cp with occ := s.cp.occ.filter (fun e => decide (e.2 ≠ c + 1)) } := rfl

/-- What a teardown makes of its context before its end (R351). -/
def tornCtx (code reason : Nat) (core : Option Nat) (detail : DWord) (k : Ctx) : Ctx := { k with
  state := .teardown, faultLost := false, stopPend := false, trail := false, cur := none
  started := false, finished := false, task := none, unread := [], acLate := [], lateCalls := []
  sappPair := none, lastFault := none, faultReps := 0, withdrawn := false
  ending := some (code, reason, core, detail) }

/-- A teardown is its end, from a state with the same memory and no lane table of this context. -/
theorem tearDown_eq {s : State} {c code reason : Nat} {core : Option Nat} {detail : DWord}
    (h : canTear (ctxOf s c) = true) :
    ∃ u : State, u.mem = s.mem ∧ u.cp = { s.cp with occ := s.cp.occ.filter (fun e => decide (e.2 ≠ c + 1)) } ∧
      tearDown s c code reason core detail = endTeardown (updCtx u c (tornCtx code reason core detail)) c := by
  refine ⟨_, ?_, ?_, if_pos h⟩
  · show (closeWindows (dropOcc (armFrames (dropFaults (dropRegion _ c) c) c) c) c).mem = s.mem
    rw [closed_mem, dropped_mem]
  · show (closeWindows (dropOcc (armFrames (dropFaults (dropRegion _ c) c) c) c) c).cp = _
    rw [closed_cp, dropped_cp]

theorem occOf_ne_of_filter {s : State} {c : Nat} {m : SMap Nat}
    (h : s.cp.occ = m.filter (fun e => decide (e.2 ≠ c + 1))) (d r : Nat) : occOf s d r ≠ some c := by
  have hne := mget_filter_ne (m := m) (Nat.succ_ne_zero c) (occKey d r)
  rw [occOf, h]
  split
  · nofun
  · next n hn => exact fun heq => hne (hn.trans (by rw [Option.some.inj heq]))

theorem teardownLeaves : Says.TeardownLeaves := by
  intro s c code reason core detail hcan t k
  obtain ⟨u, -, hcp, htear⟩ := tearDown_eq (code := code) (reason := reason) (core := core) (detail := detail) hcan
  have hvalid : (ctxOf s c).valid = true := by
    simp only [canTear, Bool.and_eq_true] at hcan
    exact hcan.1
  have hctx : ctxOf u c = ctxOf s c := by rw [ctxOf, ctxOf, hcp]
  obtain ⟨v, hv⟩ : ∃ v, v = updCtx u c (tornCtx code reason core detail) := ⟨_, rfl⟩
  have hvctx : ctxOf v c = tornCtx code reason core detail (ctxOf s c) := by rw [hv, ctxOf_updCtx_same, hctx]
  have hvocc : v.cp.occ = s.cp.occ.filter (fun e => decide (e.2 ≠ c + 1)) := by
    rw [hv]
    exact congrArg Cp.occ hcp
  have ht : t = endTeardown v c := by rw [hv]; exact htear
  cases hsig : tearSignals v c with
  | true =>
    have ht : t = v := ht.trans (endTeardown_of_signals hsig)
    have hk : k = ctxOf v c := by rw [← ht]
    rw [hk, hvctx, ht]
    exact ⟨fun _ => ⟨rfl, rfl⟩, fun h => absurd h (by simp [hsig]), rfl, rfl, rfl, rfl, hvalid, occOf_ne_of_filter hvocc⟩
  | false =>
    obtain ⟨g, m, b, x, lost, hend⟩ := endTeardown_of_none (congrArg Ctx.ending hvctx) hsig
    have ht := ht.trans hend
    have hk : k = ctxOf t c := rfl
    have hsame : tearSignals t c = false := by rw [ht]; exact hsig
    have hclosed : ctxOf { v with geq := g, mem := m, sb := b, tel := x } c = ctxOf v c := rfl
    rw [hk, hsame, ht, ctxOf_updCtx_same, hclosed, hvctx]
    exact ⟨nofun, fun _ => ⟨rfl, rfl, rfl, rfl⟩, rfl, rfl, rfl, rfl, hvalid, occOf_ne_of_filter hvocc⟩

/-- Settles O18: the two halves, command by command and by whether signals are left. -/
theorem contextLife : Obligations.ContextLife := by
  unfold Obligations.ContextLife
  exact ⟨contextStates, teardownLeaves⟩

end Sys2Proof.Proofs
end

section
/-! PROOF. Twin writes (R11, R531): O29. -/

namespace Sys2Proof.Proofs

open Sys2Proof Sys2Proof.Machine Sys2Proof.Says Sys2Proof.Laws

-- ---------------------------------------------------------------- the twin-write registers and their addresses

/-- Each twin-write register is found at its own address and at that of its complement, both within the window. -/
theorem twAt_twOff : ∀ r ∈ allTw, twAt (twOff r) = some r ∧ twComplAt (twOff r + 8) = some r ∧
    twOff r + 8 < 2 ^ 25 ∧ twOff r % 4 = 0 := by
  decide

theorem toNat_ofNat_off {o : Nat} (h : o < 2 ^ 25) : (BitVec.ofNat 25 o : RegOff).toNat = o :=
  Nat.mod_eq_of_lt h

theorem wordOff_ofNat {o : Nat} (h : o < 2 ^ 25) (halign : o % 4 = 0) : wordOff (BitVec.ofNat 25 o) = o := by
  rw [wordOff, toNat_ofNat_off h]
  omega

/-- A command's next state, rewritten. -/
theorem goes_of_eq {x : Instr} {s t u : State} (hexec : exec x s = .next u) (h : u = t) : Goes x s t :=
  hexec.trans (congrArg _ h)

variable {s : State} {r : TwReg} {i : Initiator} {v : Word}

/-- The value write of a twin-write register that its gate admits (R11). -/
theorem twValueWrite_goes (hr : r ∈ allTw) (hwrite : mayWrite i (twOff r) = true)
    (hon : domOn s (regDom (twOff r)) = true) :
    Goes (.twValueWrite { init := i, off := BitVec.ofNat 25 (twOff r), size := 4, value := v }) s
      (twValue (twExpire s (twOff r)) (twOff r) i v s.temper.data) := by
  obtain ⟨hat, -, hlt, halign⟩ := twAt_twOff r hr
  have hlt : twOff r < 2 ^ 25 := by omega
  have hoff := toNat_ofNat_off hlt
  refine goes_of_eq rfl ?_
  simp only [twValueWrite, wordOff_ofNat hlt halign, hat]
  rw [plainWrite_of_aligned (by rw [hoff, halign])]
  exact gated_of_allowed hwrite hon

/-- The write at the complement address of a twin-write register that its gate admits (R11). -/
theorem twRow_goes {x : Access → Instr} {p : TwReg → Bool} (hexec : ∀ a, exec (x a) s = .next (twRow p a s))
    (hp : p r = true) (hr : r ∈ allTw) (hwrite : mayWrite i (twOff r) = true)
    (hon : domOn s (regDom (twOff r)) = true) :
    Goes (x { init := i, off := BitVec.ofNat 25 (twOff r + 8), size := 4, value := v }) s
      (match twComplement s (twOff r) i v with
        | (some p, s) => twDone r s i p
        | (none, s) => s) := by
  obtain ⟨-, hcompl, hlt, halign⟩ := twAt_twOff r hr
  have halign : (twOff r + 8) % 4 = 0 := by omega
  have hoff := toNat_ofNat_off hlt
  rw [Goes, hexec]
  simp only [twRow, wordOff_ofNat hlt halign, hcompl, hp, if_true]
  rw [plainWrite_of_aligned (by rw [hoff, halign])]
  exact congrArg _ (gated_of_allowed hwrite hon)

theorem twExpire_of_none {o : Nat} (h : twinOf s o = none) : twExpire s o = s := by
  rw [twExpire, h]

theorem twExpire_of_pending {o : Nat} {p : Twin} (h : twinOf s o = some p) (hp : twLapsed s p = false) :
    twExpire s o = s := by
  simp [twExpire, h, hp]

theorem twExpire_of_lapsed {o : Nat} {p : Twin} (h : twinOf s o = some p) (hp : twLapsed s p = true) :
    twExpire s o = setTwin (twAbort s o p.value p.init) o none := by
  simp [twExpire, h, hp]

theorem twinWrites : Says.TwinWrites := by
  intro s i r v hr hwrite hon o a fresh
  have hgoes := twValueWrite_goes (v := v) hr hwrite hon
  refine ⟨fun hnone => ?first, fun p hp hlapsed => ⟨fun hinit => ?next, fun hinit => ?refused⟩, fun p hp hlapsed => ?lapse⟩
  case first =>
    rw [twExpire_of_none hnone] at hgoes
    exact hgoes.trans (by simp only [twValue, show twinOf s (twOff r) = none from hnone]; rfl)
  case next =>
    rw [twExpire_of_pending hp hlapsed] at hgoes
    exact hgoes.trans (by simp only [twValue, show twinOf s (twOff r) = some p from hp, hinit, if_true]; rfl)
  case refused =>
    rw [twExpire_of_pending hp hlapsed] at hgoes
    exact hgoes.trans (by simp only [twValue, show twinOf s (twOff r) = some p from hp, hinit, if_false]; rfl)
  case lapse =>
    obtain ⟨-, -, hlt, -⟩ := twAt_twOff r hr
    have hoff : (BitVec.ofNat 25 o : RegOff).toNat = o := toNat_ofNat_off (by omega)
    refine goes_of_eq rfl ?_
    rw [twLapse, hoff, twExpire_of_lapsed hp hlapsed]

-- ---------------------------------------------------------------- the effects

theorem twComplement_of_match {o : Nat} {p : Twin} (h : twinOf s o = some p) (hp : twLapsed s p = false)
    (hinit : p.init = i) (hv : v = ~~~p.value) : twComplement s o i v = (some p, setTwin s o none) := by
  simp [twComplement, twExpire_of_pending h hp, h, hinit, hv]

theorem twComplement_of_mismatch {o : Nat} {p : Twin} (h : twinOf s o = some p) (hp : twLapsed s p = false)
    (hinit : p.init = i) (hv : v ≠ ~~~p.value) :
    twComplement s o i v = (none, setTwin (twAbort s o p.value i) o none) := by
  simp [twComplement, twExpire_of_pending h hp, h, hinit, hv]

/-- The effect of register `r` behind its complement write: the pending write that it matches, or its end. -/
def TwinEffect (x : Access → Instr) (r : TwReg) : Prop :=
  ∀ (s : State) (i : Initiator) (p : Twin) (v : Word), mayWrite i (twOff r) = true →
    domOn s (regDom (twOff r)) = true → twinOf s (twOff r) = some p → twLapsed s p = false → p.init = i →
    let a : Access := { init := i, off := BitVec.ofNat 25 (twOff r + 8), size := 4, value := v }
    let u := setTwin s (twOff r) none
    (v = ~~~p.value → Goes (x a) s (twDone r u i p)) ∧
    (v ≠ ~~~p.value → Goes (x a) s (setTwin (twAbort s (twOff r) p.value i) (twOff r) none))

theorem twinEffect_of_twRow {x : Access → Instr} {q : TwReg → Bool}
    (hexec : ∀ a s, exec (x a) s = .next (twRow q a s)) (hq : q r = true) (hr : r ∈ allTw) : TwinEffect x r := by
  intro s i p v hwrite hon hp hlapsed hinit a u
  have hgoes := twRow_goes (v := v) (fun a => hexec a s) hq hr hwrite hon
  constructor <;> intro hv
  · rwa [twComplement_of_match hp hlapsed hinit hv] at hgoes
  · rwa [twComplement_of_mismatch hp hlapsed hinit hv] at hgoes

theorem mem_allTw_of_family {f : Nat → TwReg} (hf : f = .spare ∨ f = .mapCtl ∨ f = .bskReset) {n : Nat}
    (hn : n ∈ List.range 16) : f n ∈ allTw := by
  refine List.mem_append_right _ (List.mem_flatMap.mpr ⟨n, hn, ?_⟩)
  rcases hf with rfl | rfl | rfl <;> simp

theorem twinEffects : Says.TwinEffects := by
  have hsingle : ∀ r ∈ [TwReg.atuCtl, .eraseArm, .forceOff, .commit, .lnkReset 0, .lnkReset 1], r ∈ allTw :=
    fun r hr => List.mem_append_left _ hr
  intro e he
  have heffect : TwinEffect e.1 e.2 := by
    revert e
    simp only [List.forall_mem_append, List.forall_mem_map, List.forall_mem_cons]
    refine ⟨⟨⟨fun n hn => ?_, fun n hn => ?_⟩, fun n hn => ?_⟩, ?_, ?_, ?_, ?_, ?_, ?_, nofun⟩
    · exact twinEffect_of_twRow (fun _ _ => rfl) rfl (mem_allTw_of_family (.inl rfl) hn)
    · exact twinEffect_of_twRow (fun _ _ => rfl) rfl (mem_allTw_of_family (.inr (.inl rfl)) hn)
    · exact twinEffect_of_twRow (fun _ _ => rfl) rfl (mem_allTw_of_family (.inr (.inr rfl)) hn)
    all_goals exact twinEffect_of_twRow (fun _ _ => rfl) rfl (hsingle _ (by simp))
  intro s i p v hwrite hon hp hlapsed hinit a u
  obtain ⟨hmatch, hmismatch⟩ := heffect s i p v hwrite hon hp hlapsed hinit
  refine ⟨fun hv => (hmatch hv).trans ?_, hmismatch⟩
  obtain ⟨x, r⟩ := e
  cases r <;> rfl

/-- Settles O29: the value writes, and the complement writes by whether they match. -/
theorem twinWriteRules : Obligations.TwinWriteRules := by
  unfold Obligations.TwinWriteRules
  exact ⟨twinWrites, twinEffects⟩

end Sys2Proof.Proofs
end

section
/-! PROOF. Where the engine stores (O60): a line of a store, a fence's maximum, a frame's release word. -/

namespace Sys2Proof.Proofs

open Sys2Proof Sys2Proof.Machine Sys2Proof.Says Sys2Proof.Laws

-- ---------------------------------------------------------------- what a translation and a sensed row leave alone

/-- Nothing leaves the engine: memory and the links are as they were. -/
structure Inward (s t : State) : Prop where
  mem : t.mem = s.mem
  links : t.links = s.links

variable {s t u : State}

theorem Inward.rfl' (s : State) : Inward s s := ⟨rfl, rfl⟩

theorem Inward.trans (h : Inward s t) (k : Inward t u) : Inward s u := ⟨k.mem.trans h.mem, k.links.trans h.links⟩

theorem Inward.ite {b : Prop} [Decidable b] (h : Inward s t) (k : Inward s u) : Inward s (if b then t else u) := by
  split
  · exact h
  · exact k

theorem apertureOf_congr (h : t.links = s.links) (pa : Nat) : apertureOf t pa = apertureOf s pa := by
  unfold apertureOf linkOf
  rw [h]

/-- A change of neither. -/
theorem inward_with (h : Inward s t)
    {pending clk port twins cores bundles cp geq mbx fu baskets atu fp ru store sb svc pwr temper tel freeCount} :
    Inward s ⟨pending, t.mem, clk, port, twins, cores, bundles, cp, geq, mbx, fu, baskets, atu, fp, ru, t.links, store,
      sb, svc, pwr, temper, tel, freeCount⟩ := h.trans ⟨rfl, rfl⟩

theorem inward_count (h : Inward s t) (i n : Nat) : Inward s (count t i n) := by
  obtain ⟨x, hx⟩ := count_eq t i n
  rw [hx]
  exact inward_with h

theorem inward_freeWalker (h : Inward s t) (i : Nat) : Inward s (freeWalker t i) := by
  unfold freeWalker
  split <;> exact inward_with h

theorem inward_stlbMiss (h : Inward s t) : Inward s (stlbMiss t) := inward_count (inward_with h) _ _

theorem inward_walkDone (h : Inward s t) : Inward s (walkDone t) := inward_count (inward_with h) _ _

theorem inward_walkNow (h : Inward s t) (b slot va : Nat) : Inward s (walkNow t b slot va).2 := by
  unfold walkNow
  extract_lets k w r freed counted
  have hfreed : Inward s freed := by
    unfold freed
    generalize w = o
    split
    · exact inward_freeWalker h _
    · exact h
  have hcounted : Inward s counted := inward_walkDone (inward_with hfreed)
  split
  · exact inward_with hcounted
  · exact hcounted

theorem inward_lookupLeaf (h : Inward s t) (b : Nat) (slot : Option Nat) (va : Nat) (fits : DWord → Bool) :
    Inward s (lookupLeaf t b slot va fits).2 := by
  unfold lookupLeaf
  split
  · exact h
  · split
    · exact h
    · split
      · exact h
      · split
        · split
          · exact inward_with h
          · exact inward_walkNow h _ _ _
        · exact inward_walkNow (inward_stlbMiss h) _ _ _

theorem inward_buildList (b : Nat) (slot : Option Nat) (lost : List DWord) (base length n budget : Nat) (l : TList)
    (h : Inward s t) : Inward s (buildList b slot lost base length n budget l t).2.2 := by
  induction n generalizing budget l t with
  | zero => exact h
  | succ n ih =>
    unfold buildList
    split
    · exact h
    · dsimp only
      split
      · exact inward_lookupLeaf h _ _ _ _
      · exact ih _ _ (inward_lookupLeaf h _ _ _ _)

theorem inward_startWalk (h : Inward s t) (slot va : Nat) (store : Bool) (f : WalkFor) :
    Inward s (startWalk t slot va store f) := by
  unfold startWalk
  dsimp only
  split
  · exact inward_with h
  · split
    · exact inward_with h
    · split <;> exact inward_with h

theorem inward_sharedXlat (h : Inward s t) (slot va : Nat) (store : Bool) (f : WalkFor) (micro : Option Nat) :
    Inward s (sharedXlat t slot va store f micro).2 := by
  unfold sharedXlat
  split
  · split
    · extract_lets _ hit entered
      have hentered : Inward s entered := by
        unfold entered
        split <;> exact inward_with h
      split <;> exact hentered
    · exact inward_startWalk h _ _ _ _
  · exact .ite (inward_startWalk h _ _ _ _) (inward_stlbMiss (inward_startWalk h _ _ _ _))

theorem inward_lineXlat (h : Inward s t) (c tg n : Nat) (q : Tag) (x : Nat) (k : Task) :
    Inward s (lineXlat t c tg n q x k).2 := by
  unfold lineXlat
  extract_lets va store f
  split
  · exact h
  · split
    · exact h
    · split
      · exact h
      · split
        · extract_lets l e b r
          have hlist : Inward s r.2 := by
            unfold r
            split
            · exact inward_with (inward_buildList _ _ _ _ _ _ _ _ h)
            · exact h
          split
          · exact hlist
          · exact inward_sharedXlat hlist _ _ _ _ _
        · split
          · split
            · extract_lets hit
              have hhit : Inward s hit := inward_with h
              split <;> exact hhit
            · exact inward_startWalk h _ _ _ _
          · exact inward_sharedXlat h _ _ _ _ _

theorem inward_readRow (h : Inward s t) (c a : Nat) (e : RowEcc) : Inward s (readRow t c a e).2.2 :=
  .ite (inward_count (inward_with h) _ _) (inward_with h)

/-- A row sensed for a line of a store, where its words can be corrected. -/
theorem inward_storeRow {c tg i : Nat} {ecc : RowEcc} (h : Inward s t) (hrow : storeRow t c tg i ecc = (true, u)) :
    Inward s u := by
  unfold storeRow at hrow
  dsimp only at hrow
  split at hrow
  · cases hrow
    exact h
  · split at hrow
    · cases hrow
    · cases hrow
      unfold tagCount
      split
      · exact inward_with (inward_readRow h _ _ _)
      · exact inward_with (inward_readRow h _ _ _)

-- ---------------------------------------------------------------- a line of a store

theorem inward_lineLeft (h : Inward s t) (c tg n : Nat) (q : Tag) : Inward s (lineLeft t c tg n q) :=
  inward_count (inward_with (inward_with h)) _ _

theorem sentCheck_mem (s : State) (c tg : Nat) : (sentCheck s c tg).mem = s.mem := by
  unfold sentCheck
  dsimp only
  split <;> rfl

theorem lineLeft_mem (s : State) (c tg n : Nat) (q : Tag) : (lineLeft s c tg n q).mem = s.mem :=
  (inward_lineLeft (.rfl' s) c tg n q).mem

/-- What a line of a store to `pa` leaves of memory `m`: all of it where the address lies in an aperture, all but its
128 bytes else. -/
def LineStored (s : State) (pa : Nat) (m : List Host.Cell) : Prop :=
  (apertureOf s pa ≠ none ∧ m = s.mem) ∨ (apertureOf s pa = none ∧ ∃ d, m = wrLine s.mem pa d)

theorem lineStored_sentCheck {pa : Nat} (h : LineStored s pa u.mem) (c tg : Nat) :
    LineStored s pa (sentCheck u c tg).mem := (sentCheck_mem u c tg).symm ▸ h

theorem lineStored_sendStore (s : State) (c tg n : Nat) (q : Tag) (x pa : Nat) :
    LineStored s pa (sendStore s c tg n q x pa).mem := by
  refine lineStored_sentCheck ?_ c tg
  split
  · next l o hap => exact .inl ⟨hap ▸ Option.some_ne_none _, lineLeft_mem s c tg n _⟩
  · next hap => exact .inr ⟨hap, _, congrArg (wrLine · pa _) (lineLeft_mem s c tg n _)⟩

theorem rdByte_wrLine_other (m : List Host.Cell) {a b : Nat} (d : BitVec 1024) (h : b < a ∨ a + 128 ≤ b) :
    rdByte (wrLine m a d) b = rdByte m b := rdByte_wrNat_other m a 128 d.toNat b h

-- ---------------------------------------------------------------- an entry and memory (R401)

/-- An entry reaches memory only for a context of the Forge while the host is gone. -/
theorem post_mem {code source : Nat} {ctx : Option Nat} {obj detail : DWord}
    (h : s.cp.detached = true → ∀ x, ctx = some x → ctxForge s x = false) :
    (post s code source ctx obj detail).mem = s.mem := by
  have hkept : (s.cp.detached && (geqEntry s code source ctx obj detail false false).forge) = false := by
    cases hdetached : s.cp.detached with
    | false => rfl
    | true =>
      cases ctx with
      | none => rfl
      | some x => exact h hdetached x rfl
  unfold post geqPut
  rw [hkept, Bool.false_and, if_neg Bool.false_ne_true]
  split <;> rfl

theorem post_cp (s : State) (code source : Nat) (ctx : Option Nat) (obj detail : DWord) :
    (post s code source ctx obj detail).cp = s.cp := by
  obtain ⟨g, m, b, h⟩ := post_eq s code source ctx obj detail
  rw [h]

theorem tableEcc_links (s : State) (source : Nat) (ctx : Option Nat) (ecc : Ecc) :
    (tableEcc s source ctx ecc).links = s.links := by
  unfold tableEcc
  split
  · rfl
  · rfl
  · obtain ⟨g, m, b, h⟩ := post_eq s 0x1D7 source ctx 0 0
    rw [h]

theorem tableEcc_fp (s : State) (source : Nat) (ctx : Option Nat) (ecc : Ecc) :
    (tableEcc s source ctx ecc).fp = s.fp := by
  unfold tableEcc
  split
  · rfl
  · rfl
  · obtain ⟨g, m, b, h⟩ := post_eq s 0x1D7 source ctx 0 0
    rw [h]

theorem tableEcc_mem {source : Nat} {ctx : Option Nat} {ecc : Ecc}
    (h : ecc = .double → s.cp.detached = true → ∀ x, ctx = some x → ctxForge s x = false) :
    (tableEcc s source ctx ecc).mem = s.mem := by
  unfold tableEcc
  split
  · rfl
  · rfl
  · exact post_mem (h rfl)

theorem inward_lineTables (s : State) (c x : Nat) (q : Tag) (va : Nat) (tecc : Ecc) :
    Inward (tableEcc s srcAtu (some x) tecc) (lineTables s c x q va tecc) := by
  unfold lineTables purgeLine
  dsimp only
  split
  · split <;> exact ⟨rfl, rfl⟩
  · exact .rfl' _

-- ---------------------------------------------------------------- waits that a fence releases

/-- With the host present a teardown writes no memory. -/
theorem endTeardown_mem {c : Nat} (h : s.cp.detached = false) :
    (endTeardown s c).mem = s.mem ∧ (endTeardown s c).cp.detached = false := by
  unfold endTeardown
  split
  · exact ⟨rfl, h⟩
  · next code reason core detail _ =>
    split
    · exact ⟨rfl, h⟩
    · extract_lets lost posted traced
      have hposted : posted.mem = s.mem := post_mem fun hd => absurd hd (by simp [h])
      have hcp : posted.cp = s.cp := post_cp ..
      obtain ⟨x, hx⟩ := count_eq posted 258 1
      obtain ⟨y, hy⟩ := trace_eq (count posted 258 1) 5 srcCp (some c) 0 (BitVec.ofNat 128 (code + reason * 2 ^ 16))
      have htraced : traced = { posted with tel := y } := hy.trans (by rw [hx])
      rw [htraced]
      exact ⟨hposted, (congrArg Cp.detached hcp).trans h⟩

theorem tearDown_mem {c code reason : Nat} {core : Option Nat} {detail : DWord} (h : s.cp.detached = false) :
    (tearDown s c code reason core detail).mem = s.mem ∧ (tearDown s c code reason core detail).cp.detached = false := by
  cases hcan : canTear (ctxOf s c) with
  | false =>
    have hsame : tearDown s c code reason core detail = s := if_neg (by simp [hcan])
    rw [hsame]
    exact ⟨rfl, h⟩
  | true =>
    obtain ⟨u, hmem, hcp, htear⟩ := tearDown_eq (code := code) (reason := reason) (core := core) (detail := detail) hcan
    have hend := endTeardown_mem (s := updCtx u c (tornCtx code reason core detail)) (c := c)
      ((congrArg Cp.detached hcp).trans h)
    rw [htear]
    exact ⟨hend.1.trans hmem, hend.2⟩

theorem releaseWait_mem {word : DWord} {w : FWait} (h : s.cp.detached = false) :
    (releaseWait word s w).mem = s.mem ∧ (releaseWait word s w).cp.detached = false := by
  unfold releaseWait
  split
  · exact tearDown_mem h
  · exact ⟨rfl, h⟩
  · exact ⟨rfl, h⟩

theorem foldl_releaseWait_mem {word : DWord} (l : List FWait) (h : s.cp.detached = false) :
    (l.foldl (releaseWait word) s).mem = s.mem := by
  induction l generalizing s with
  | nil => rfl
  | cons w l ih =>
    obtain ⟨hmem, hdetached⟩ := releaseWait_mem (word := word) (w := w) h
    exact (ih hdetached).trans hmem

theorem testFence_mem {a word : DWord} (h : s.cp.detached = true → waitsOn s.fu a = []) :
    (testFence s a word).mem = s.mem := by
  cases hdetached : s.cp.detached with
  | false => exact foldl_releaseWait_mem _ hdetached
  | true =>
    unfold testFence
    rw [h hdetached]
    rfl

/-- A fence's maximum stands at its 8 bytes (R347). -/
theorem fenceRaise_mem {c : Option Nat} {a w : DWord} (h : s.cp.detached = true → waitsOn s.fu a = [] ∧
    (w < rd64 s.mem a.toNat → ∀ x, c = some x → ctxForge s x = false)) :
    ∃ v, (fenceRaise s c a w).2.mem = wr64 s.mem a.toNat v := by
  unfold fenceRaise
  extract_lets old new raised _ noted
  have hnoted : noted.mem = raised.mem ∧ noted.cp = s.cp ∧ waitsOn noted.fu a = waitsOn s.fu a := by
    unfold noted
    split
    · next hlate =>
      refine ⟨post_mem fun hd => (h hd).2 hlate, post_cp .., ?_⟩
      obtain ⟨g, m, b, hpost⟩ := post_eq { raised with fu := { raised.fu with staleCnt := satAdd raised.fu.staleCnt 1 } }
        0x150 srcFu c a 0
      rw [hpost]
      rfl
    · exact ⟨rfl, rfl, rfl⟩
  obtain ⟨hmem, hcp, hwaits⟩ := hnoted
  clear_value noted
  exact ⟨new, (testFence_mem fun hd => hwaits.trans (h (hcp ▸ hd)).1).trans hmem⟩

-- ---------------------------------------------------------------- the commands

/-- A line of a store that has credit, a translation and its row leaves (R264). -/
theorem lineRequestIssue_of_store {core : CoreId} {tag : TagId} {ecc : RowEcc} {tecc : Ecc} {x a : Nat} {k : Machine.Task}
    {q v : State}
    (hq : q = lineTables s core.toNat x (tagOf s core.toNat tag.toNat)
      (tagVa (tagOf s core.toNat tag.toNat) (tagOf s core.toNat tag.toNat).issued) tecc)
    (htask : taskOf s core.toNat = some (x, k)) (hst : (tagOf s core.toNat tag.toNat).st = .active)
    (hkind : (tagOf s core.toNat tag.toNat).kind = .store)
    (hissued : (tagOf s core.toNat tag.toNat).issued < 4 * (tagOf s core.toNat tag.toNat).rows)
    (hflight : inFlight (coreOf s core.toNat).mem < 256)
    (hblocked : lineBlocked (coreOf s core.toNat).mem (tagOf s core.toNat tag.toNat)
      (tagVa (tagOf s core.toNat tag.toNat) (tagOf s core.toNat tag.toNat).issued) = false)
    (hgranted : (coreOf s core.toNat).mem.granted = true)
    (hxlat : lineXlat q core.toNat tag.toNat (tagOf s core.toNat tag.toNat).issued (tagOf s core.toNat tag.toNat) x
      ((ctxOf q x).task.getD k) = (.pa a, u))
    (hrow : storeRow u core.toNat tag.toNat ((tagOf s core.toNat tag.toNat).issued / 4) ecc = (true, v)) :
    lineRequestIssue core tag ecc tecc s = sendStore v core.toNat tag.toNat (tagOf s core.toNat tag.toNat).issued
      (tagOf v core.toNat tag.toNat) x a := by
  have hcredit : ∀ b, lineCredit s core.toNat b = s := fun b => if_pos hgranted
  have hstore : isStore (tagOf s core.toNat tag.toNat) = true := by simp [isStore, hkind]
  subst hq
  unfold lineRequestIssue
  simp only [htask, hst, hstore, hissued, hflight, hblocked, hcredit, hgranted, hxlat, hrow, Bool.or_true, Bool.not_false,
    beq_self_eq_true, decide_true, Bool.and_self, if_true]

/-- A release writes its word where the engine is last owner, and nothing else (R193). -/
theorem frameRelease_mem {h : Word} {ecc : Ecc} {e : FrameEntry} (he : frameOf s h = some e) (harmed : e.armed = true)
    (hrefs : e.refs = 0) : (frameRelease h ecc s).mem = s.mem ∨
      (entryOwned e = true ∧ (frameRelease h ecc s).mem = wr32 s.mem s.fp.releaseAddr.toNat h) := by
  have htable : (tableEcc s srcFp none ecc).mem = s.mem := tableEcc_mem fun _ _ _ hx => nomatch hx
  unfold frameRelease
  rw [he]
  have hsignalled : ∀ t : State, (frameSignal t e.fence).mem = t.mem ∧ (frameSignal t e.fence).fp = t.fp := by
    intro t
    unfold frameSignal
    split <;> exact ⟨rfl, rfl⟩
  obtain ⟨hmem, hfp⟩ := hsignalled (tableEcc s srcFp none ecc)
  dsimp only
  split
  · exact .inl htable
  · rw [if_pos (by simp [harmed, hrefs])]
    split
    · next howned =>
      exact .inr ⟨howned, by simp only [frameFree, releaseWrite, hmem, hfp, htable, tableEcc_fp]⟩
    · split
      · exact .inl ((post_mem fun _ x (hx : none = some x) => nomatch hx).trans (hmem.trans htable))
      · exact .inl (hmem.trans htable)

/-- Settles O60: each store's bytes by the lemma about it, and every step before it leaves memory alone. -/
theorem storesStayPut : Obligations.StoresStayPut := by
  unfold Obligations.StoresStayPut
  refine ⟨?line, ?fence, ?release⟩
  case line =>
    intro s v u core tag ecc tecc x k a b c tg t m q htask hst hkind hissued hflight hblocked hgranted hxlat hrow
    have htables : Inward (tableEcc s srcAtu (some x) tecc) q := inward_lineTables s c x t _ tecc
    have hqu : Inward q u := by
      have hinward := inward_lineXlat (.rfl' q) c tg t.issued t x ((ctxOf q x).task.getD k)
      rwa [hxlat] at hinward
    have hqv : Inward q v := inward_storeRow hqu hrow
    have hstored := lineStored_sendStore v c tg t.issued (tagOf v c tg) x a
    refine ⟨_, goes_of_eq rfl (lineRequestIssue_of_store rfl htask hst hkind hissued hflight hblocked hgranted hxlat hrow),
      fun hb => ?_, fun hap => ?_, fun hforge => ?_⟩
    · rw [← hqv.mem]
      obtain ⟨-, hmem⟩ | ⟨-, d, hmem⟩ := hstored
      · rw [hmem]
      · rw [hmem, rdByte_wrLine_other _ d hb]
    · have hlinks : v.links = s.links := hqv.links.trans (htables.links.trans (tableEcc_links ..))
      obtain ⟨-, hmem⟩ | ⟨hnone, -⟩ := hstored
      · exact hmem.trans hqv.mem
      · rw [apertureOf_congr hlinks] at hnone
        exact absurd hnone hap
    · refine htables.mem.trans (tableEcc_mem fun hdouble hdetached y hy => ?_)
      cases hy
      cases hforged : ctxForge s x with
      | false => rfl
      | true => exact absurd (hforge hdouble hforged) (by simp [hdetached])
  case fence =>
    intro s c a w b h hb
    obtain ⟨v, hv⟩ := fenceRaise_mem h
    rw [hv]
    exact rdByte_wrNat_other _ _ _ _ _ hb
  case release =>
    intro s h ecc e b he harmed hrefs
    obtain hmem | ⟨howned, hmem⟩ := frameRelease_mem (ecc := ecc) he harmed hrefs
    · exact ⟨_, rfl, fun _ => by rw [hmem], fun _ => hmem⟩
    · refine ⟨_, rfl, fun hb => ?_, fun hnot => absurd howned (by simp [hnot])⟩
      rw [hmem]
      exact rdByte_wrNat_other _ _ _ _ _ hb

end Sys2Proof.Proofs
end

section
/-! PROOF. The memory and synchronisation slots (R259 to R278): O4 and O5. -/

namespace Sys2Proof.Proofs

open Sys2Proof Sys2Proof.Machine Sys2Proof.Says Sys2Proof.Laws

-- ---------------------------------------------------------------- streams

/-- A stream whose checks pass and whose tag is free starts, and its w register advances (R262). -/
theorem issues_of_slotStream {s : State} {a : At} {i : Instr} {o : StreamOp} {store absolute : Bool}
    (hx : SlotOf i a (slotStream a o store absolute)) (h : Solo s a)
    (hfree : (tagOf (shut s a) a.core.toNat o.tag.toNat).st ≠ .active)
    (hpass : streamFault (shut s a) a.core.toNat o store absolute = none) :
    Issues i s a
      (postInc (startStream (shut s a) a.core.toNat o.tag.toNat (streamTag (co s a) o store absolute)) a.core.toNat o.w
        (wReg (co s a) o.w) o.wpi ((o.nr.toNat + 1 : Nat) * (wReg (co s a) o.w).stride.toInt)) none := by
  refine issues_of_next hx (show slotMem ≠ slotVec by decide) h ?_
  simp only [slotStream, slotAt, beq_eq_false_iff_ne.mpr hfree, hpass, Bool.false_eq_true, if_false]

/-- The checks that every stream makes of its addresses, its span and its rows (R262, R274). -/
structure StreamFits (s : State) (c : Nat) (o : StreamOp) (store : Bool) (t : Tag) : Prop where
  start : t.a0.toNat % 128 = 0
  step : o.nr.toNat = 0 ∨ t.astep.toNat % 128 = 0
  span : spanIn (boundOf s c) t.p0 t.pstep (o.nr.toNat + 1) = true
  rows : store = false → ∀ i ≤ o.nr.toNat, protectedRow (coreOf s c) (tagRow t i) = false

/-- Without a fault of its descriptor, a stream that fits has none. -/
theorem StreamFits.checks {s : State} {c : Nat} {o : StreamOp} {store : Bool} {t : Tag} (h : StreamFits s c o store t)
    {align bound live : Option (State → State)} :
    (if decide (t.a0.toNat % 128 ≠ 0 ∨ (o.nr.toNat ≠ 0 ∧ t.astep.toNat % 128 ≠ 0)) then align
      else if !spanIn (boundOf s c) t.p0 t.pstep (o.nr.toNat + 1) then bound
      else if !store && (List.range (o.nr.toNat + 1)).any (fun i => protectedRow (coreOf s c) (tagRow t i)) then live
      else none) = none := by
  obtain ⟨hstart, hstep, hspan, hrows⟩ := h
  refine (if_neg ?align).trans ((if_neg ?span).trans (if_neg ?rows))
  case align =>
    simp only [hstart, decide_eq_true_eq]
    tauto
  case span => simp [hspan]
  case rows =>
    cases store with
    | true => simp
    | false => simpa [Nat.lt_succ_iff] using hrows rfl

theorem streamFault_descriptor {s : State} {c : Nat} {o : StreamOp} {store : Bool}
    (hfits : StreamFits s c o store (streamTag (coreOf s c) o store false))
    (hdesc : o.desc.toNat < (coreOf s c).mem.ndesc)
    (hbase : descBaseOk (mget {} (coreOf s c).mem.descs o.desc.toNat) = true)
    (hperm : (if store then (mget {} (coreOf s c).mem.descs o.desc.toNat).write
      else (mget {} (coreOf s c).mem.descs o.desc.toNat).read) = true)
    (hlow : 0 ≤ ((sReg (coreOf s c) o.ro).toNat : Int) + o.nr.toNat * (streamStep (coreOf s c) o.rs).toInt)
    (hfirst : (sReg (coreOf s c) o.ro).toNat + 512 ≤ (mget {} (coreOf s c).mem.descs o.desc.toNat).length.toNat)
    (hlast : ((sReg (coreOf s c) o.ro).toNat : Int) + o.nr.toNat * (streamStep (coreOf s c) o.rs).toInt + 512 ≤
      (mget {} (coreOf s c).mem.descs o.desc.toNat).length.toNat) :
    streamFault s c o store false = none := by
  have hrange : ((sReg (coreOf s c) o.ro).toNat : Int) + 512 ≤
      (mget {} (coreOf s c).mem.descs o.desc.toNat).length.toNat := by exact_mod_cast hfirst
  refine (if_neg ?desc).trans ((if_neg ?base).trans ((if_neg ?load).trans
    ((if_neg ?store).trans ((if_neg ?range).trans hfits.checks))))
  case desc => simp [hdesc]
  case base =>
    rw [hbase]
    decide
  case load => cases store <;> simp_all
  case store => cases store <;> simp_all
  case range =>
    rw [decide_eq_true (show _ ∧ _ ∧ _ from ⟨hlow, hrange, hlast⟩)]
    decide

theorem streamFault_absolute {s : State} {c : Nat} {o : StreamOp} {store : Bool}
    (hfits : StreamFits s c o store (streamTag (coreOf s c) o store true)) (hdesc : o.desc = 0) :
    streamFault s c o store true = none := by
  exact (if_neg (by simp [hdesc])).trans hfits.checks

theorem descriptorStreams : Says.DescriptorStreams := by
  unfold Says.DescriptorStreams
  simp only [List.forall_mem_cons]
  refine ⟨?_, ?_, nofun⟩ <;>
    exact fun s a o h hdesc hbase hperm hlow hfirst hlast hstart hstep hspan hrows hfree =>
      issues_of_slotStream ⟨fun _ => rfl, rfl, rfl, rfl, rfl⟩ h hfree
        (streamFault_descriptor ⟨hstart, hstep, hspan, fun e => hrows (by cases e <;> trivial)⟩ hdesc hbase hperm hlow hfirst hlast)

theorem absoluteStreams : Says.AbsoluteStreams := by
  unfold Says.AbsoluteStreams
  simp only [List.forall_mem_cons]
  refine ⟨?_, ?_, nofun⟩ <;>
    exact fun s a o h hdesc hstart hstep hspan hrows hfree =>
      issues_of_slotStream ⟨fun _ => rfl, rfl, rfl, rfl, rfl⟩ h hfree
        (streamFault_absolute ⟨hstart, hstep, hspan, fun e => hrows (by cases e <;> trivial)⟩ hdesc)

theorem remoteFault_eq_none {s : State} {c : Nat} {o : RemoteOp} {write : Bool}
    (hcore : o.core.toNat < (taskCores s c).length)
    (hspan : spanIn (boundOf s c) (remoteTag (coreOf s c) o write).p0 (remoteTag (coreOf s c) o write).pstep
      (remoteTag (coreOf s c) o write).rows = true)
    (hremote : (remoteTag (coreOf s c) o write).rrow + (remoteTag (coreOf s c) o write).rows ≤ boundOf s c)
    (hrows : write = false → ∀ i < (remoteTag (coreOf s c) o write).rows,
      protectedRow (coreOf s c) (tagRow (remoteTag (coreOf s c) o write) i) = false) :
    remoteFault s c o write = none := by
  refine (if_neg ?core).trans ((if_neg ?span).trans (if_neg ?rows))
  case core => simp [hcore]
  case span => simp [hspan, hremote]
  case rows =>
    cases write with
    | true => simp
    | false => simpa using hrows rfl

theorem issues_of_slotRemote {s : State} {a : At} {i : Instr} {o : RemoteOp} {write : Bool}
    (hx : SlotOf i a (slotRemote a o write)) (h : Solo s a)
    (hfree : (tagOf (shut s a) a.core.toNat o.tag.toNat).st ≠ .active)
    (hpass : remoteFault (shut s a) a.core.toNat o write = none) :
    Issues i s a
      (postInc (startStream (shut s a) a.core.toNat o.tag.toNat (remoteTag (co s a) o write)) a.core.toNat o.w
        (wReg (co s a) o.w) o.wpi ((o.nr.toNat + 1 : Nat) * (wReg (co s a) o.w).stride.toInt)) none := by
  refine issues_of_next hx (show slotMem ≠ slotVec by decide) h ?_
  simp only [slotRemote, slotAt, beq_eq_false_iff_ne.mpr hfree, hpass, Bool.false_eq_true, if_false]

theorem remoteStreamsAndFlush : Says.RemoteStreamsAndFlush := by
  refine ⟨?_, fun s a tag all h => issues_of_next (x := slotFlush a tag all) ⟨fun _ => rfl, rfl, rfl, rfl, rfl⟩
    (show slotMem ≠ slotVec by decide) h rfl⟩
  simp only [List.forall_mem_cons]
  refine ⟨?_, ?_, nofun⟩ <;>
    exact fun s a o h hcore hspan hremote hrows hfree =>
      issues_of_slotRemote ⟨fun _ => rfl, rfl, rfl, rfl, rfl⟩ h hfree
        (remoteFault_eq_none hcore hspan hremote fun e => hrows (by cases e <;> trivial))

/-- Settles O4, by the three kinds of stream. -/
theorem streamSlots : Obligations.StreamSlots := by
  unfold Obligations.StreamSlots
  exact ⟨descriptorStreams, absoluteStreams, remoteStreamsAndFlush⟩

-- ---------------------------------------------------------------- synchronisation

theorem waitTags_of_passing {c : Nat} {k : Core} {f : Bool} {tags : List Nat} {cur : State}
    (h : ∀ i ∈ tags, tagPasses k.mem f i = true) : waitTags c k f tags cur = .next cur none :=
  if_pos (List.all_eq_true.mpr h)

theorem waitsProceed : Says.WaitsProceed := by
  have hsyn : slotSyn ≠ slotVec := by decide
  intro s a h c k
  refine ⟨fun ac count reg n hreg hn hovf hcount => ?ac, fun tag f hpass => ?tag, fun rs f hpass => ?tags,
    fun mask hquiet => ?fence, fun hquiet => ?yield⟩
  case ac =>
    refine issues_of_next (x := slotWaitAc a ac count reg) ⟨fun _ => rfl, rfl, rfl, rfl, rfl⟩ hsyn h ?_
    subst hn
    refine (if_neg ?register).trans ((if_neg ?overflow).trans (if_neg (Nat.not_lt.mpr hcount)))
    case register => cases reg <;> simp_all
    case overflow => exact ne_true_of_eq_false hovf
  case tag =>
    exact issues_of_next (x := slotWaitT a tag f) ⟨fun _ => rfl, rfl, rfl, rfl, rfl⟩ hsyn h
      (waitTags_of_passing (by simpa using hpass))
  case tags =>
    exact issues_of_next (x := slotWaitTm a rs f) ⟨fun _ => rfl, rfl, rfl, rfl, rfl⟩ hsyn h
      (waitTags_of_passing (by simpa using hpass))
  case fence =>
    exact issues_of_next (x := slotFence a mask) ⟨fun _ => rfl, rfl, rfl, rfl, rfl⟩ hsyn h (if_pos hquiet)
  case yield =>
    exact issues_of_next (x := slotYield a) ⟨fun _ => rfl, rfl, rfl, rfl, rfl⟩ hsyn h (if_pos hquiet)

theorem signalsAndLive : Says.SignalsAndLive := by
  have hsyn : slotSyn ≠ slotVec := by decide
  intro s a h c k
  have hlive : ∀ ra rb, SlotOf (.live a ra rb) a (slotLive a ra rb) := fun _ _ => ⟨fun _ => rfl, rfl, rfl, rfl, rfl⟩
  refine ⟨fun ac core count hcount hcore => ?acsig, fun ra rb hrange hroom hbound => ?live, fun ra rb hempty => ?empty,
    ?clear⟩
  case acsig =>
    refine issues_of_next (x := slotAcsig a ac core count) ⟨fun _ => rfl, rfl, rfl, rfl, rfl⟩ hsyn h ?_
    exact if_neg (not_or.mpr ⟨hcount, not_le.mpr hcore⟩)
  case live =>
    refine issues_of_next (hlive ra rb) hsyn h ?_
    exact (if_neg hrange).trans ((if_neg (Nat.not_le.mpr hroom)).trans (if_neg (Nat.not_lt.mpr hbound)))
  case empty => exact issues_of_next (hlive ra rb) hsyn h (if_pos hempty)
  case clear =>
    exact issues_of_next (x := slotLiveClr a) ⟨fun _ => rfl, rfl, rfl, rfl, rfl⟩ hsyn h rfl

/-- Settles O5: the instructions that wait, then those that only queue. -/
theorem syncSlots : Obligations.SyncSlots := by
  unfold Obligations.SyncSlots
  exact ⟨waitsProceed, signalsAndLive⟩

end Sys2Proof.Proofs
end

section
/-! PROOF. The tensor slot (R283 to R299): O6, O7 and O8. -/

namespace Sys2Proof.Proofs

open Sys2Proof Sys2Proof.Machine Sys2Proof.Says Sys2Proof.Laws

-- ---------------------------------------------------------------- passes

theorem plainSlots : ∀ p ∈ ([(Instr.tmmI8, .i8), (Instr.tmmI4, .i4), (Instr.tmmL4, .l4), (Instr.tmmF8, .f8),
      (Instr.tmmBf16, .bf16), (Instr.tmmF16, .f16)] : List ((At → TmmOp → Instr) × PassFmt)),
    ∀ a o, SlotOf (p.1 a o) a (slotTmm p.2 a o) := by
  simp only [List.forall_mem_cons]
  refine ⟨?_, ?_, ?_, ?_, ?_, ?_, nofun⟩ <;> exact fun _ _ => ⟨fun _ => rfl, rfl, rfl, rfl, rfl⟩

theorem convolutionSlots : ∀ p ∈ ([(Instr.tmmCI8, .i8), (Instr.tmmCI4, .i4), (Instr.tmmCL4, .l4),
      (Instr.tmmCF8, .f8), (Instr.tmmCBf16, .bf16), (Instr.tmmCF16, .f16)] :
      List ((At → TmmCOp → Instr) × PassFmt)),
    ∀ a o, SlotOf (p.1 a o) a (slotTmmC p.2 a o) := by
  simp only [List.forall_mem_cons]
  refine ⟨?_, ?_, ?_, ?_, ?_, ?_, nofun⟩ <;> exact fun _ _ => ⟨fun _ => rfl, rfl, rfl, rfl, rfl⟩

/-- A slot whose word of the parameter store can be read goes on, its word corrected (R101). -/
theorem pstoreRead_of_ne_double {a : At} {sl stage : Nat} {cur : State} {f : State → SlotRes} (h : a.pecc ≠ .double) :
    pstoreRead a sl stage cur f = f (corrected cur a true) := by
  unfold pstoreRead corrected
  cases hecc : a.pecc with
  | clean => simp
  | single => simp
  | double => exact absurd hecc h

theorem corrected_of_not_read (s : State) (a : At) : corrected s a false = s := if_neg (by simp)

theorem tmm_last_needs_chain {wale : Bool} {f : PassFmt} {o : TmmOp} {tile : Tile} (h : tmmFlagsBad wale f o tile = false)
    (hchen : o.chen = false) : o.last = false := by
  cases hlast : o.last with
  | false => rfl
  | true => simp [tmmFlagsBad, hchen, hlast] at h

theorem spanProtected_nil (k : Core) : spanProtected k [] = false := rfl

theorem plainPasses : Says.PlainPasses := by
  intro p hp s a o h
  dsimp only
  intro hfmt hflags hchain hlinked hspan hwait
  refine issues_of_next (plainSlots p hp a o) (show slotTen ≠ slotVec by decide) h ?_
  cases hchen : o.chen with
  | false =>
    have hlast := tmm_last_needs_chain hflags hchen
    simp only [hchen, Bool.false_eq_true, if_false] at hspan
    cases hl : o.linked with
    | false =>
      simp only [slotTmm, slotAt, co_shut, hchen, hlast, hl, hfmt, hflags, hspan, hwait, faultIf, spanProtected_nil,
        corrected_of_not_read, Bool.false_eq_true, Bool.or_false, Bool.false_and, if_false]
    | true =>
      obtain ⟨hint, ch, hch, hlink⟩ := hlinked hl
      simp only [slotTmm, slotAt, co_shut, hchen, hlast, hl, hint, hch, hlink, hfmt, hflags, hspan, hwait, faultIf,
        spanProtected_nil, corrected_of_not_read, Bool.false_eq_true, Bool.not_true, Bool.or_false, Bool.and_false, if_false]
  | true =>
    obtain ⟨hecc, ch, hch, hfault, hlast⟩ := hchain hchen
    simp only [hchen, if_true] at hspan hch
    simp only [hch] at hspan
    cases hl : o.last with
    | false =>
      simp only [hl] at hfault
      simp only [slotTmm, slotAt, co_shut, hchen, hl, hfmt, hflags, hspan, hwait, hch, hfault, spanProtected_nil,
        pstoreRead_of_ne_double hecc, Bool.false_eq_true, if_false, if_true]
    | true =>
      obtain ⟨hbound, hprot⟩ := hlast hl
      simp only [hl] at hfault
      simp only [slotTmm, slotAt, co_shut, hchen, hl, hfmt, hflags, hspan, hwait, hch, hfault, hbound, hprot,
        pstoreRead_of_ne_double hecc, Bool.false_eq_true, if_false, if_true]

theorem convolutionPasses : Says.ConvolutionPasses := by
  intro p hp s a o x h
  dsimp only
  intro hfmt hpad hwale hspan hact htile hrow hlast hchain hlost hfault hlive hslot hwait
  refine issues_of_next (convolutionSlots p hp a o) (show slotTen ≠ slotVec by decide) h ?_
  have hpad' : decide (bits (sReg (co s a) o.rp) 57 7 ≠ 0) = false := by simpa using hpad
  have hspan' : decide ((bits (sReg (co s a) o.rp) 48 9).toNat + (o.mm1.toNat + 1) > 512) = false := by simpa using hspan
  have hrow' := Nat.not_le.mpr hrow
  cases hchen : o.chen with
  | false =>
    have hl : o.last = false := by
      cases hl : o.last with
      | false => rfl
      | true => exact absurd (hlast hl) (by simp [hchen])
    simp only [hchen, hl, Bool.false_eq_true, if_false, Option.bind_none] at hfault
    simp only [slotTmmC, slotAt, co_shut, hchen, hl, hfmt, hpad', hspan', hwale, hact, htile, hrow', hlost, hfault,
      hslot, hwait, faultIf, corrected_of_not_read, ge_iff_le, Bool.false_eq_true, Bool.not_true, Bool.false_and,
      Bool.and_false, Bool.or_self, if_false, Option.bind_none, List.any_nil]
  | true =>
    obtain ⟨hecc, ch, hch, hchainOk, hkinds⟩ := hchain hchen
    simp only [hchen, if_true] at hfault hlive hch
    simp only [hch, Option.bind_some] at hfault hlive
    simp only [slotTmmC, slotAt, co_shut, hchen, hfmt, hpad', hspan', hwale, hact, htile, hrow', hlost, hfault, hch,
      hchainOk, hkinds, hslot, hwait, pstoreRead_of_ne_double hecc, ge_iff_le, Bool.false_eq_true, Bool.not_true,
      Bool.false_and, Bool.and_false, Bool.or_self, if_false, if_true, Option.bind_some]
    refine if_neg (ne_true_of_eq_false ?live)
    split
    next e he =>
      split
      next hl => exact hlive e hl he
      next => rfl
    next => rfl

theorem tilesModesAndClears : Says.TilesModesAndClears := by
  have hten : slotTen ≠ slotVec := by decide
  intro s a h
  dsimp only
  refine ⟨fun tfmt wt wpi hfmt hok hrows hready => ?tlw, ?tmode, fun bank a0 nm1 hrange hfree => ?taclr⟩
  case tlw =>
    refine issues_of_next (x := slotTlw a tfmt wt wpi) ⟨fun _ => rfl, rfl, rfl, rfl, rfl⟩ hten h ?_
    simp only [slotTlw, slotAt, co_shut, hfmt, hok, Bool.false_eq_true, Bool.not_true, if_false,
      if_neg (Nat.not_lt.mpr hrows), gt_iff_lt]
    refine if_neg ?shadow
    split
    next x hx => simp [hready x hx]
    next => simp
  case tmode =>
    simp only [List.forall_mem_cons]
    refine ⟨⟨?_, ?_⟩, ⟨?_, ?_⟩, fun _ hx => absurd hx List.not_mem_nil⟩
    · exact fun hsame => issues_of_next (x := slotTmode a false) ⟨fun _ => rfl, rfl, rfl, rfl, rfl⟩ hten h (if_pos hsame)
    · exact fun hother hnone => issues_of_next (x := slotTmode a false) ⟨fun _ => rfl, rfl, rfl, rfl, rfl⟩ hten h
        ((if_neg hother).trans (if_neg (by simp [hnone])))
    · exact fun hsame => issues_of_next (x := slotTmode a true) ⟨fun _ => rfl, rfl, rfl, rfl, rfl⟩ hten h (if_pos hsame)
    · exact fun hother hnone => issues_of_next (x := slotTmode a true) ⟨fun _ => rfl, rfl, rfl, rfl, rfl⟩ hten h
        ((if_neg hother).trans (if_neg (by simp [hnone])))
  case taclr =>
    refine issues_of_next (x := slotTaclr a bank a0 nm1) ⟨fun _ => rfl, rfl, rfl, rfl, rfl⟩ hten h ?_
    simp only [slotTaclr, slotAt, co_shut, hfree, gt_iff_lt, Nat.not_lt.mpr hrange, Bool.false_eq_true, if_false]

/-- Settles O6: plain passes, convolution passes, and the tiles, modes and clears between them. -/
theorem arrayPasses : Obligations.ArrayPasses := by
  unfold Obligations.ArrayPasses
  exact ⟨plainPasses, convolutionPasses, tilesModesAndClears⟩

-- ---------------------------------------------------------------- Braid slots

section
variable (a : At)

theorem slotOf_bset (slot : BitVec 2) (doff : BitVec 12) : SlotOf (.bset a slot doff) a (slotBset a slot doff) :=
  ⟨fun _ => rfl, rfl, rfl, rfl, rfl⟩

theorem slotOf_bnorm (slot : BitVec 2) : SlotOf (.bnorm a slot) a (slotBnorm a slot) :=
  ⟨fun _ => rfl, rfl, rfl, rfl, rfl⟩

end

theorem pstoreRead_of_double {a : At} {sl stage : Nat} {cur : State} {f : State → SlotRes} (h : a.pecc = .double) :
    pstoreRead a sl stage cur f = .stop (fun s => brdFaultAt s a.core.toNat tfBraidEcc 1 sl stage) := by
  rw [pstoreRead, h]

theorem any_heldRow_eq_false {k : Core} {l : List Int} (h : ∀ r ∈ l, heldRow k r.toNat = false) :
    l.any (fun r => heldRow k r.toNat) = false := by
  simpa using h

theorem braidEffects : Says.BraidEffects := by
  have hten : slotTen ≠ slotVec := by decide
  intro s a h
  dsimp only
  refine ⟨fun wp soff nm1 hrange hspan hidle hread => ?bpld, fun slot doff hrange hecc hok hfree => ?bset,
    fun slot hfree hnone => ?barm,
    fun o ecc ch hwide hrange hecc hchain hok hbound hlive hbank hfree => ?brun, fun slot hnone => ?bnormNone,
    fun slot ch t hchain hecc hlive hfree hheld hread hall => ?bnorm⟩
  case bpld =>
    refine issues_of_next (x := slotBpld a wp soff nm1) ⟨fun _ => rfl, rfl, rfl, rfl, rfl⟩ hten h ?_
    simp only [slotBpld, slotAt, co_shut, hspan, hidle, hread, ← Nat.add_assoc, if_neg (Nat.not_lt.mpr hrange), gt_iff_lt,
      Bool.false_eq_true, if_false]
  case bset =>
    refine issues_of_next (slotOf_bset a slot doff) hten h ?_
    simp only [slotBset, slotAt, co_shut, hok, hfree, pstoreRead_of_ne_double hecc, if_neg (Nat.not_lt.mpr hrange),
      gt_iff_lt, Bool.false_eq_true, if_false]
  case barm =>
    refine issues_of_next (x := slotBarm a slot) ⟨fun _ => rfl, rfl, rfl, rfl, rfl⟩ hten h ?_
    simp only [slotBarm, slotAt, co_shut, hfree, hnone, List.isEmpty_nil, Bool.not_true, Bool.false_eq_true, if_false]
  case brun =>
    refine issues_of_next (x := slotBrun a o ecc) ⟨fun _ => rfl, rfl, rfl, rfl, rfl⟩ hten h ?_
    have hflags : faultIf ((o.wl && decide (o.mm1.toNat + 1 > 128)) ||
        decide (o.a0.toNat + (if o.wl then 4 * (o.mm1.toNat + 1) else o.mm1.toNat + 1) > 512)) 0 = none := by
      rw [decide_eq_false (Nat.not_lt.mpr hrange)]
      cases hwl : o.wl with
      | false => rfl
      | true => simpa [faultIf] using hwide hwl
    simp only [slotBrun, slotAt, co_shut, hchain, hok, hflags, hbound, hlive, hbank, hfree,
      pstoreRead_of_ne_double hecc, Option.none_or, Bool.or_self, Bool.false_eq_true, if_false]
  case bnormNone =>
    refine issues_of_next (slotOf_bnorm a slot) hten h ?_
    simp only [slotBnorm, slotAt, co_shut, hnone]
  case bnorm =>
    refine issues_of_next (slotOf_bnorm a slot) hten h ?_
    simp only [slotBnorm, slotAt, co_shut, hchain, hlive, hfree, any_heldRow_eq_false hheld, hread, hall,
      pstoreRead_of_ne_double hecc, Bool.or_self, Bool.false_eq_true, if_false, if_true]

theorem goes_of_brdStop {s : State} {a : At} {i : Instr} {x : SlotInfo} (hx : SlotOf i a x) (h : Solo s a)
    {c code reason sl stage : Nat}
    (hrun : x.run (shut s a) (shut s a) = .stop (fun s => brdFaultAt s c code reason sl stage)) :
    Goes i s (brdFaultAt (shut s a) c code reason sl stage) := goes_of_stop hx h hrun

theorem storeWordsThatAreLost : Says.StoreWordsThatAreLost := by
  intro s a h hecc
  dsimp only
  refine ⟨fun slot doff hrange => goes_of_brdStop (slotOf_bset a slot doff) h ?bset,
    fun slot ch hchain hlive hfree hheld hread => goes_of_brdStop (slotOf_bnorm a slot) h ?bnorm⟩
  case bset =>
    exact (if_neg (Nat.not_lt.mpr hrange)).trans (pstoreRead_of_double hecc)
  case bnorm =>
    simp only [slotBnorm, slotAt, co_shut, hchain, hlive, hfree, any_heldRow_eq_false hheld, hread,
      pstoreRead_of_double hecc, Bool.or_self, Bool.false_eq_true, if_false]

/-- Settles O7: what the Braid's instructions do, and where a word of the parameter store is lost. -/
theorem braidSlots : Obligations.BraidSlots := by
  unfold Obligations.BraidSlots
  exact ⟨braidEffects, storeWordsThatAreLost⟩

-- ---------------------------------------------------------------- calls

/-- Settles O8: each call is handed over on its grounds, and refused without them. -/
theorem callsThatLeaveTheCore : Obligations.CallsThatLeaveTheCore := by
  unfold Obligations.CallsThatLeaveTheCore
  have hten : slotTen ≠ slotVec := by decide
  intro s a h
  dsimp only
  have hrcall (rs ac) : SlotOf (.rcall a rs ac) a (slotRcall a rs ac) := ⟨fun _ => rfl, rfl, rfl, rfl, rfl⟩
  have hsapp (reg ws nm1 ac) : SlotOf (.sapp a reg ws nm1 ac) a (slotSapp a reg ws nm1 ac) :=
    ⟨fun _ => rfl, rfl, rfl, rfl, rfl⟩
  refine ⟨fun rs ac x t halign hroom htask => issues_of_next (hrcall rs ac) hten h ?rcall,
    fun rs ac halign => goes_of_seqFault (hrcall rs ac) h (if_pos halign), fun reg ws nm1 ac x t htask =>
    ⟨fun hgrant hspan hroom hread => issues_of_next (hsapp reg ws nm1 ac) hten h ?sapp,
      fun hgrant => goes_of_seqFault (hsapp reg ws nm1 ac) h ?refused⟩⟩
  case rcall =>
    simp only [slotRcall, slotAt, co_shut, htask, halign, ne_eq, not_true_eq_false, if_false, ge_iff_le,
      if_neg (Nat.not_le.mpr hroom)]
  case sapp =>
    simp only [slotSapp, slotAt, co_shut, htask, hgrant, hspan, hread, Bool.not_true, Bool.false_eq_true, if_false,
      ge_iff_le, if_neg (Nat.not_le.mpr hroom)]
  case refused =>
    simp only [slotSapp, slotAt, co_shut, htask, hgrant, Bool.not_false, if_true, illegal]

end Sys2Proof.Proofs
end

section
/-! PROOF. The vector slot (R160 to R185, R301 to R304): O9 and O10. -/

namespace Sys2Proof.Proofs

open Sys2Proof Sys2Proof.Machine Sys2Proof.Says Sys2Proof.Laws

-- ---------------------------------------------------------------- the slot

section
variable {s : State} {a : VAt} {i : Instr}

/-- The slot of a vector instruction whose words are whole and whose attempts do not reach the limit has its
effect after them (R162, R174). -/
theorem vecEffect_of_solo (h : VSolo s a) (sim : Bool) (f : State → SlotRes) :
    vecEffect a sim (shut s a.slot) (shut s a.slot) f = f (tried s a) := by
  obtain ⟨-, hwords, hattempts⟩ := h
  simp only [vecEffect, hwords, tried, co_shut]
  exact if_neg (Nat.not_le.mpr hattempts)

theorem vissues_of_vecSlot {w : List (Nat × Nat)} {fmt : Fmt} {ok : Bool} {f : Core → State → State} {t : State}
    (hx : SlotOf i a.slot (vecSlot a w fmt ok f)) (h : VSolo s a) (hfmt : fmtReserved fmt = false) (hok : ok = true)
    (ht : f (co s a.slot) (tried s a) = t) : VIssues i s a t := by
  subst ht
  refine vissues_of_next hx rfl h.solo ?_
  simp only [vecSlot, slotAt, co_shut, hfmt, hok, vecEffect_of_solo h, Bool.not_true, Bool.false_eq_true, if_false]

theorem vissues_of_vecLut {w bytes : Nat} {vd va : VReg} {pr : FReg} {off : BitVec 12} {f : Braid → Nat → Nat} {t : State}
    (hx : SlotOf i a.slot (vecLut a w bytes vd va pr off f)) (h : VSolo s a) (hecc : a.slot.pecc ≠ .double)
    (hrange : 16 * off.toNat + bytes ≤ 65536)
    (ht : writeLanes (corrected (tried s a) a.slot true) a.slot.core.toNat (co s a.slot) w pr vd
      (fun i => pure0 (f (co s a.slot).brd (elem (vReg (co s a.slot) va) w i))) = t) : VIssues i s a t := by
  subst ht
  refine vissues_of_next hx rfl h.solo ?_
  simp only [vecLut, slotAt, co_shut, gt_iff_lt, if_neg (Nat.not_lt.mpr hrange), vecEffect_of_solo h,
    pstoreRead_of_ne_double hecc]

end

theorem fmtReserved_of_vecAny {f : Fmt} (h : vecAny f = true) : fmtReserved f = false := by
  simp only [vecAny, Bool.and_eq_true, Bool.not_eq_true'] at h
  exact h.1

theorem fmtReserved_of_vecArith : ∀ f : Fmt, vecArith f = true → fmtReserved f = false := by decide

theorem fmtReserved_of_vecFloat {f : Fmt} (h : vecFloat f = true) : fmtReserved f = false :=
  fmtReserved_of_vecArith f (by simp [vecArith, h])

theorem fmtReserved_of_vecDot : ∀ f : Fmt, vecDot f = true → fmtReserved f = false := by decide

-- ---------------------------------------------------------------- lane by lane (R163 to R169)

/-- An instruction of two sources writes its lanes with its function of a format. -/
def TwoSourceForm (p : (VAt → VBin → Instr) × (Fmt → Bool) × (Fmt → Nat → Nat → Nat × NumEv)) : Prop :=
  ∀ (s : State) (a : VAt) (o : VBin), VSolo s a → fmtReserved o.fmt = false → p.2.1 o.fmt = true →
    VIssues (p.1 a o) s a (writeLanes (tried s a) a.slot.core.toNat (co s a.slot) (fmtBits o.fmt) o.pr o.vd
      (fun i => p.2.2 o.fmt (elem (vReg (co s a.slot) o.va) (fmtBits o.fmt) i)
        (elem (vReg (co s a.slot) o.vb) (fmtBits o.fmt) i)))

/-- An instruction of one source writes its lanes with its function of a format. -/
def OneSourceForm (p : (VAt → VUn → Instr) × (Fmt → Bool) × (Fmt → Nat → Nat × NumEv)) : Prop :=
  ∀ (s : State) (a : VAt) (o : VUn), VSolo s a → fmtReserved o.fmt = false → p.2.1 o.fmt = true →
    VIssues (p.1 a o) s a (writeLanes (tried s a) a.slot.core.toNat (co s a.slot) (fmtBits o.fmt) o.pr o.vd
      (fun i => p.2.2 o.fmt (elem (vReg (co s a.slot) o.va) (fmtBits o.fmt) i)))

theorem twoSourceForm_of_vecBin {p : (VAt → VBin → Instr) × (Fmt → Bool) × (Fmt → Nat → Nat → Nat × NumEv)}
    (hx : ∀ a o, SlotOf (p.1 a o) a.slot (vecBin a o (p.2.1 o.fmt) (p.2.2 o.fmt))) : TwoSourceForm p :=
  fun _ a o h hfmt hok => vissues_of_vecSlot (hx a o) h hfmt hok rfl

theorem oneSourceForm_of_vecUn {p : (VAt → VUn → Instr) × (Fmt → Bool) × (Fmt → Nat → Nat × NumEv)}
    (hx : ∀ a o, SlotOf (p.1 a o) a.slot (vecUn a o (p.2.1 o.fmt) (p.2.2 o.fmt))) : OneSourceForm p :=
  fun _ a o h hfmt hok => vissues_of_vecSlot (hx a o) h hfmt hok rfl

theorem vectorTwoSources : Says.VectorTwoSources := by
  show ∀ p ∈ _, TwoSourceForm p
  simp only [List.forall_mem_cons]
  refine ⟨?_, ?_, ?_, ?_, ?_, ?_, ?_, ?_, ?_, ?_, ?_, ?_, ?_, ?_, nofun⟩ <;>
    exact twoSourceForm_of_vecBin fun _ _ => ⟨fun _ => rfl, rfl, rfl, rfl, rfl⟩

theorem vectorOneSource : Says.VectorOneSource := by
  show ∀ p ∈ _, OneSourceForm p
  simp only [List.forall_mem_cons]
  refine ⟨?_, ?_, ?_, ?_, ?_, ?_, ?_, ?_, nofun⟩ <;>
    exact oneSourceForm_of_vecUn fun _ _ => ⟨fun _ => rfl, rfl, rfl, rfl, rfl⟩

theorem vectorOtherShapes : Says.VectorOtherShapes := by
  intro s a h
  dsimp only
  refine ⟨fun fmt vd rs pr hany => ?vbc, fun fmt rd va lane hany hlane => ?vext, fun o hdot => ?vdot4,
    fun o vc hflt => ?vfma, fun fmt fd va vb pr cond harith hcond => ?vcmp, fun o harith => ?vsel,
    fun o hany => ?vperm, fun o src p hfmt hsrc hpair hpart => ?vcvt⟩
  case vbc =>
    have hx : SlotOf (.vbc a fmt vd rs pr) a.slot (slotVbc a fmt vd rs pr) := ⟨fun _ => rfl, rfl, rfl, rfl, rfl⟩
    exact vissues_of_vecSlot hx h (fmtReserved_of_vecAny hany) hany rfl
  case vext =>
    have hx : SlotOf (.vext a fmt rd va lane) a.slot (slotVext a fmt rd va lane) := ⟨fun _ => rfl, rfl, rfl, rfl, rfl⟩
    exact vissues_of_vecSlot hx h (fmtReserved_of_vecAny hany) (by rw [hany, decide_eq_true hlane]; rfl) rfl
  case vdot4 =>
    have hx : SlotOf (.vdot4 a o) a.slot (slotVdot4 a o) := ⟨fun _ => rfl, rfl, rfl, rfl, rfl⟩
    exact vissues_of_vecSlot hx h (fmtReserved_of_vecDot _ hdot) hdot rfl
  case vfma =>
    have hx : SlotOf (.vfma a o vc) a.slot (slotVfma a o vc) := ⟨fun _ => rfl, rfl, rfl, rfl, rfl⟩
    exact vissues_of_vecSlot hx h (fmtReserved_of_vecFloat hflt) hflt rfl
  case vcmp =>
    refine vissues_of_next (x := slotVcmp a fmt fd va vb pr cond) ⟨fun _ => rfl, rfl, rfl, rfl, rfl⟩ rfl h.solo ?_
    simp only [slotVcmp, slotAt, co_shut, fmtReserved_of_vecArith _ harith, harith, decide_eq_false (Nat.not_le.mpr hcond),
      ge_iff_le, vecEffect_of_solo h, Bool.not_true, Bool.or_self, Bool.false_eq_true, if_false]
  case vsel =>
    have hx : SlotOf (.vsel a o) a.slot (slotVsel a o) := ⟨fun _ => rfl, rfl, rfl, rfl, rfl⟩
    exact vissues_of_vecSlot hx h (fmtReserved_of_vecArith _ harith) harith rfl
  case vperm =>
    have hx : SlotOf (.vperm a o) a.slot (slotVperm a o) := ⟨fun _ => rfl, rfl, rfl, rfl, rfl⟩
    exact vissues_of_vecSlot hx h (fmtReserved_of_vecAny hany) hany rfl
  case vcvt =>
    refine vissues_of_next (x := slotVcvt a o src p) ⟨fun _ => rfl, rfl, rfl, rfl, rfl⟩ rfl h.solo ?_
    simp only [slotVcvt, slotAt, co_shut, hfmt, hsrc, hpair, decide_eq_false (Nat.not_le.mpr hpart), ge_iff_le,
      vecEffect_of_solo h, Bool.not_true, Bool.or_self, Bool.false_eq_true, if_false]
    split
    · rfl
    · rfl

/-- Settles O9, by the number of sources. -/
theorem vectorArithmetic : Obligations.VectorArithmetic := by
  unfold Obligations.VectorArithmetic
  exact ⟨vectorTwoSources, vectorOneSource, vectorOtherShapes⟩

-- ---------------------------------------------------------------- reductions and lookups (R169, R170)

/-- A reduction writes its groups' results with its function of a format. -/
def ReductionForm (p : (VAt → VUn → BitVec 4 → Instr) × Bool × (Fmt → Nat → List (Nat × Nat) → List (Nat × NumEv))) :
    Prop :=
  ∀ (s : State) (a : VAt) (o : VUn) (lg : BitVec 4), VSolo s a → fmtReserved o.fmt = false →
    redOk o.fmt p.2.1 lg = true →
    let c := a.slot.core.toNat
    let k := co s a.slot
    let w := fmtBits o.fmt
    let g := 2 ^ lg.toNat
    let n := (tried s a).freeCount
    let r := addEv ((List.range (4096 / w / g)).flatMap (fun j =>
      p.2.2 o.fmt (128 * n + j) (groupElems (fReg k o.pr) w g (vReg k o.va) j)))
    VIssues (p.1 a o lg) s a (countEv (setV { tried s a with freeCount := n + 1 } c o.vd (packRow 32 r.1)) c r.2)

theorem reductionForm_of_vecRed
    {p : (VAt → VUn → BitVec 4 → Instr) × Bool × (Fmt → Nat → List (Nat × Nat) → List (Nat × NumEv))}
    (hx : ∀ a o lg, SlotOf (p.1 a o lg) a.slot (vecRed a o lg p.2.1 (p.2.2 o.fmt))) : ReductionForm p :=
  fun _ a o lg h hfmt hok => vissues_of_vecSlot (hx a o lg) h hfmt hok rfl

theorem vectorReductionsAndLookups : Says.VectorReductionsAndLookups := by
  refine ⟨?reductions, fun s a vd va pr off h hecc => ⟨fun hrange => ?bytes, fun hrange => ?words⟩⟩
  case reductions =>
    show ∀ p ∈ _, ReductionForm p
    simp only [List.forall_mem_cons]
    refine ⟨?_, ?_, ?_, ?_, ?_, nofun⟩ <;>
      exact reductionForm_of_vecRed fun _ _ _ => ⟨fun _ => rfl, rfl, rfl, rfl, rfl⟩
  case bytes =>
    have hx : SlotOf (.vlutB a vd va pr off) a.slot (slotVlutB a vd va pr off) := ⟨fun _ => rfl, rfl, rfl, rfl, rfl⟩
    exact vissues_of_vecLut hx h hecc hrange rfl
  case words =>
    have hx : SlotOf (.vlutF32 a vd va pr off) a.slot (slotVlutF32 a vd va pr off) := ⟨fun _ => rfl, rfl, rfl, rfl, rfl⟩
    exact vissues_of_vecLut hx h hecc hrange rfl

-- ---------------------------------------------------------------- rows (R172)

theorem rowOut_eq_false {s : State} {c row : Nat} (h : row < boundOf s c) : rowOut s c row = false :=
  decide_eq_false (Nat.not_le.mpr h)

theorem vectorLoadsAndStores : Says.VectorLoadsAndStores := by
  intro s a h
  dsimp only
  refine ⟨fun v w wpi ecc hrow hread => ?vld, fun v w wpi hrow hlive hheld => ?vst,
    fun v bank row ecc hfree hread => ?vlda, fun v bank row hfree => ?vsta⟩
  case vld =>
    refine vissues_of_next (x := slotVld a v w wpi ecc) ⟨fun _ => rfl, rfl, rfl, rfl, rfl⟩ rfl h.solo ?_
    simp only [slotVld, slotAt, co_shut, rowOut_eq_false hrow, hread, vecEffect_of_solo h, Bool.false_eq_true, if_false]
  case vst =>
    refine vissues_of_next (x := slotVst a v w wpi) ⟨fun _ => rfl, rfl, rfl, rfl, rfl⟩ rfl h.solo ?_
    simp only [slotVst, slotAt, co_shut, rowOut_eq_false hrow, hlive, hheld, vecEffect_of_solo h, Bool.false_eq_true,
      if_false]
  case vlda =>
    refine vissues_of_next (x := slotVlda a v bank row ecc) ⟨fun _ => rfl, rfl, rfl, rfl, rfl⟩ rfl h.solo ?_
    simp only [slotVlda, slotAt, co_shut, hfree, hread, vecEffect_of_solo h, Bool.false_eq_true, if_false]
  case vsta =>
    refine vissues_of_next (x := slotVsta a v bank row) ⟨fun _ => rfl, rfl, rfl, rfl, rfl⟩ rfl h.solo ?_
    simp only [slotVsta, slotAt, co_shut, hfree, vecEffect_of_solo h, Bool.false_eq_true, if_false]

-- ---------------------------------------------------------------- similarity and depthwise (R175, R182 to R185)

theorem find?_isNone_eq_none {α β : Type} {f : α → Option β} {l : List α} (h : ∀ x ∈ l, (f x).isSome = true) :
    l.find? (fun x => (f x).isNone) = none :=
  List.find?_eq_none.mpr fun x hx => by simpa using Option.isSome_iff_ne_none.mp (h x hx)

theorem vectorSimilarityAndDepthwise : Says.VectorSimilarityAndDepthwise := by
  intro s a h
  dsimp only
  refine ⟨fun w half q ecc hrow hread => ?vqld, fun nq n hnq hnqMax hn hnMax => ?vtkcfg,
    fun va half rt harmed => ?vsim, fun vd q r => ?vtkrd,
    fun o hfmt hpad hrow hread hfault hlive hslots hroom => ?vdw⟩
  case vqld =>
    refine vissues_of_next (x := slotVqld a w half q ecc) ⟨fun _ => rfl, rfl, rfl, rfl, rfl⟩ rfl h.solo ?_
    simp only [slotVqld, slotAt, co_shut, rowOut_eq_false hrow, hread, vecEffect_of_solo h, Bool.false_eq_true, if_false,
      bits]
  case vtkcfg =>
    refine vissues_of_next (x := slotVtkcfg a nq n) ⟨fun _ => rfl, rfl, rfl, rfl, rfl⟩ rfl h.solo ?_
    simp only [slotVtkcfg, slotAt, hnq, hn, gt_iff_lt, Nat.not_lt.mpr hnqMax, Nat.not_lt.mpr hnMax, or_self, if_false,
      vecEffect_of_solo h]
  case vsim =>
    refine vissues_of_next (x := slotVsimI8 a va half rt) ⟨fun _ => rfl, rfl, rfl, rfl, rfl⟩ rfl h.solo ?_
    simp only [slotVsimI8, slotAt, co_shut, harmed, vecEffect_of_solo h, Bool.not_true, Bool.false_eq_true, if_false,
      bits]
  case vtkrd =>
    refine vissues_of_next (x := slotVtkrd a vd q r) ⟨fun _ => rfl, rfl, rfl, rfl, rfl⟩ rfl h.solo ?_
    simp only [slotVtkrd, slotAt, co_shut, vecEffect_of_solo h]
  case vdw =>
    refine vissues_of_next (x := slotVdw a o) ⟨fun _ => rfl, rfl, rfl, rfl, rfl⟩ rfl h.solo ?_
    have hfind := find?_isNone_eq_none hslots
    simp only [slotVdw, slotAt, co_shut, bits, hfmt, hpad, hread, ge_iff_le, if_neg (Nat.not_le.mpr hrow), hfault,
      hfind, if_neg (Nat.not_le.mpr hroom), vecEffect_of_solo h, Bool.and_false, Bool.false_eq_true, if_false, ne_eq,
      not_true_eq_false, decide_false, Bool.or_self]
    refine if_neg (ne_true_of_eq_false ?live)
    split
    next e he =>
      split
      next hl => exact hlive e hl he
      next => rfl
    next => rfl

/-- Settles O10: reductions and lookups, loads and stores, similarity and depthwise. -/
theorem vectorUnit : Obligations.VectorUnit := by
  unfold Obligations.VectorUnit
  exact ⟨vectorReductionsAndLookups, vectorLoadsAndStores, vectorSimilarityAndDepthwise⟩

end Sys2Proof.Proofs
end

section
/-! PROOF. What completes on a core: streams, signals and tiles (O11), array, Braid and depthwise (O12). -/

namespace Sys2Proof.Proofs

open Sys2Proof Sys2Proof.Machine Sys2Proof.Says Sys2Proof.Laws

-- ---------------------------------------------------------------- lines (R263, R264)

/-- Rows that are sensed without an uncorrectable one have their effect after the sensing (R236). -/
theorem readRows_of_clean {s u : State} {c : Nat} {rows : List Nat} {f : State → State}
    (h : senseRows s c rows = (false, u)) : readRows s c rows f = f u := by
  simp only [readRows, h, Bool.false_eq_true, if_false]

theorem streamLines : Says.StreamLines := by
  intro s core tag
  dsimp only
  refine ⟨fun ecc tecc x k u htask hst hkind hissued hflight hblocked hgranted => ?request,
    fun line l hline haperture => ?back, fun horphans hkind hst hflush haperture => ?flush⟩
  case request =>
    have hcredit : ∀ b, lineCredit s core.toNat b = s := fun b => if_pos hgranted
    have hstream : (isLoad (tagOf s core.toNat tag.toNat) || isStore (tagOf s core.toNat tag.toNat)) = true := by
      simpa [isLoad, isStore] using hkind
    have hrun : exec (.lineRequestIssue core tag ecc tecc) s = .next (lineRequestIssue core tag ecc tecc s) := rfl
    simp only [lineRequestIssue, htask, hst, hstream, hissued, hflight, hblocked, hcredit, hgranted, beq_self_eq_true,
      decide_true, Bool.not_false, Bool.and_self, if_true] at hrun
    refine ⟨fun a hxlat => ⟨fun hload => ?load, fun v hstore hrow => ?store⟩, fun hxlat => ?wait, fun z hxlat => ?fault⟩
    case load => exact goes_of_eq hrun (by simp [hxlat, isStore, hload])
    case store => exact goes_of_eq hrun (by simp [hxlat, isStore, hstore, hrow])
    case wait => exact goes_of_eq hrun (by simp only [hxlat])
    case fault => exact goes_of_eq hrun (by simp only [hxlat])
  case back =>
    refine ⟨fun hlive hheld => goes_of_eq rfl ?_, fun hdead => goes_of_eq rfl ?_⟩
    · simp only [loadLineReturn, hline, haperture, hlive, hheld, Option.isSome_none, Bool.false_eq_true, if_false]
    · simp only [loadLineReturn, hline, haperture, hdead, Option.isSome_none, Bool.false_eq_true, if_false, if_true]
  case flush =>
    refine goes_of_eq rfl ?_
    have hnone : (coreOf s core.toNat).mem.orphans.find? (fun o => decide (o.tag = tag.toNat) && o.flushPend) = none :=
      List.find?_eq_none.mpr fun o ho => by simpa [imp_iff_not_or] using horphans o ho
    simp only [flushReadbackDone, hnone, isStore, hkind, hst, hflush, haperture, beq_self_eq_true, List.isEmpty_nil,
      Bool.and_self, if_true]

-- ---------------------------------------------------------------- remote rows (R230)

theorem rwrRead_of_landed {s : State} {c tg i : Nat} (h : i ∈ (tagOf s c tg).landed) :
    rwrRead s c tg i = (true, s) :=
  if_pos (List.contains_iff_mem.mpr h)

theorem rwrRead_of_not_landed {s : State} {c tg i : Nat} (h : i ∉ (tagOf s c tg).landed)
    (hread : (readRow s c (baseOf s c + tagRow (tagOf s c tg) i) .clean).2.1 ≠ .double) :
    rwrRead s c tg i = (true, setTag (readRow s c (baseOf s c + tagRow (tagOf s c tg) i) .clean).2.2 c tg
      { tagOf s c tg with
        landed := i :: (tagOf s c tg).landed
        buf := mset 0 (tagOf s c tg).buf i (readRow s c (baseOf s c + tagRow (tagOf s c tg) i) .clean).1 }) :=
  (if_neg (mt List.contains_iff_mem.mp h)).trans (if_neg hread)

theorem remoteRows : Says.RemoteRows := by
  intro s core tag d
  dsimp only
  intro hcore hst
  refine ⟨fun hkind hissued hbehind hlive => ⟨fun hheld hlanded => ?landed, fun hheld hlanded hread => ?read,
    fun u hheld hmore hread => ?ahead⟩, fun ecc hkind hissued horder hbehind hread => ?serve,
    fun hkind hlanded hbehind hheld => ?back⟩
  case landed =>
    refine goes_of_eq rfl ?_
    simp only [remoteRowArrival, hcore, hst, hkind, hissued, hbehind, hlive, hheld, rwrRead_of_landed hlanded,
      beq_self_eq_true, decide_true, Bool.and_self, if_true, Bool.or_self, Bool.false_and, Bool.false_eq_true, if_false,
      ge_iff_le, Nat.not_le.mpr hissued, Bool.not_true]
  case read =>
    refine goes_of_eq rfl ?_
    simp only [remoteRowArrival, hcore, hst, hkind, hissued, hbehind, hlive, hheld, rwrRead_of_not_landed hlanded hread,
      beq_self_eq_true, decide_true, Bool.and_self, if_true, Bool.or_self, Bool.false_and, Bool.false_eq_true, if_false,
      ge_iff_le, Nat.not_le.mpr hissued, Bool.not_true]
  case ahead =>
    refine goes_of_eq rfl ?_
    simp only [remoteRowArrival, hcore, hst, hkind, hissued, hbehind, hlive, hheld, hread,
      beq_self_eq_true, decide_true, Bool.and_self, if_true, Bool.false_or, Bool.false_and, Bool.false_eq_true, if_false,
      ge_iff_le, Nat.not_le.mpr hmore, Bool.not_true]
  case serve =>
    refine goes_of_eq rfl ?_
    have hserved : ((coreOf s core.toNat).mem.tags.any fun e => e.2.st == .active && e.2.kind == .rread &&
        decide (e.2.rcore = (tagOf s core.toNat tag.toNat).rcore ∧ e.2.order < (tagOf s core.toNat tag.toNat).order ∧
          e.2.issued < e.2.rows)) = false := by
      simpa using horder
    simp only [remoteReadServe, hcore, hst, hkind, hissued, hserved, hbehind, beq_self_eq_true, decide_true,
      Bool.not_false, Bool.and_self, if_true, if_neg hread]
  case back =>
    refine goes_of_eq rfl ?_
    simp only [remoteReadRowReturn, hst, hkind, hlanded, hbehind, hheld, beq_self_eq_true, decide_true, Bool.not_false,
      Bool.and_self, if_true]

theorem signalsWatchdogsAndTiles : Says.SignalsWatchdogsAndTiles := by
  intro s core
  dsimp only
  refine ⟨fun g hg => goes_of_eq rfl ?signal, fun hrun hticks hhold => goes_of_eq rfl ?watchdog,
    fun h hshadow hready hread => goes_of_eq rfl ?tile⟩
  case signal => simp only [acsigDelivery, hg]
  case watchdog =>
    simp only [noYield, hrun, hhold, ge_iff_le, hticks, decide_true, Option.isNone_none, Bool.and_self, if_true]
  case tile =>
    simp only [tlwLoadDone, hshadow, hready, Bool.false_eq_true, if_false]
    exact readRows_of_clean (Prod.ext hread rfl)

/-- Settles O11: lines, remote rows, and what else a core waits for beside its compute units. -/
theorem streamEvents : Obligations.StreamEvents := by
  unfold Obligations.StreamEvents
  exact ⟨streamLines, remoteRows, signalsWatchdogsAndTiles⟩

-- ---------------------------------------------------------------- passes (R72, R73, R81)

/-- A pass whose line slot still holds its line is tried on the state as it is. -/
theorem withSlot_of_held {s : State} {c : Nat} {p : Pass} {f : State → Pass → State}
    (h : ∀ v, p.src = .conv v → ∃ x, p.slot = some x ∧ (coreOf s c).cnv.slots.contains x = true) :
    withSlot s c p f = f s p := by
  unfold withSlot
  cases hsrc : p.src with
  | plain pl => rfl
  | conv v =>
    obtain ⟨x, hslot, hheld⟩ := h v hsrc
    simp only [hslot, hheld, if_true]

theorem passVerdicts : Says.PassVerdicts := by
  intro s q core faults ecc p l
  dsimp only
  intro hhold hpasses hwrites hreads hslot hread
  have hrun : exec (.passVerdict core faults ecc) s = .next (passVerdict core faults ecc s) := rfl
  simp only [passVerdict, hhold, hpasses, hwrites, hreads, Bool.or_self, Bool.false_eq_true, if_false,
    withSlot_of_held hslot, readRows_of_clean hread] at hrun
  refine ⟨fun hok hclr => goes_of_eq hrun ?clear, fun w hok hclr hbank => goes_of_eq hrun ?sums,
    fun w hok hclr hbank => goes_of_eq hrun ?lost, fun hfail => goes_of_eq hrun ?failed⟩
  case clear => simp only [hok, hclr, Bool.false_eq_true, if_true, if_false]
  case sums => simp only [hok, hclr, hbank, Bool.false_eq_true, if_true, if_false]
  case lost => simp only [hok, hclr, hbank, Bool.false_eq_true, if_true, if_false]
  case failed => simp only [hfail, Bool.false_eq_true, if_false]

-- ---------------------------------------------------------------- epilogues (R99 to R101, R118, R123)

theorem writeInvRow_of_taken {s v : State} {c : Nat} {ch : Chain} {i0 i j : Invocation}
    (hheld : heldRow (coreOf s c) ((invPlan ch i).addr i.written) = false)
    (htake : takeRows c ch ((invPlan ch i).need i.written) i.rows.length i s = (some j, v)) :
    writeInvRow s c ch i0 i =
      if (invPlan ch i).count ≤ i.written + 1 then
        dropInv (setRelRow v c ((invPlan ch i).addr i.written) ((invPlan ch i).data i.written j.results)) c i0
      else
        setInv (setRelRow v c ((invPlan ch i).addr i.written) ((invPlan ch i).data i.written j.results)) c i0
          { j with written := i.written + 1 } := by
  simp only [writeInvRow, hheld, htake, Bool.false_eq_true, if_false, ge_iff_le]

theorem epilogueRows : Says.EpilogueRows := by
  intro s core slot ecc i
  dsimp only
  intro hfirst hlast
  refine ⟨fun hnone => goes_of_eq rfl ?none, fun ch hch => ⟨fun hecc => goes_of_eq rfl ?lost,
    fun hecc => ⟨fun j v hran hheld htake => goes_of_eq rfl ?row, fun d hran hplan => goes_of_eq rfl ?start⟩⟩⟩
  case none => simp only [epilogueRowWrite, hfirst, hlast, hnone, Bool.false_eq_true, if_false]
  case lost => simp only [epilogueRowWrite, hfirst, hlast, hch, hecc, Bool.false_eq_true, if_false, if_true]
  case row =>
    simp only [epilogueRowWrite, hfirst, hlast, hch, hecc, hran, Bool.false_eq_true, if_false, if_true]
    exact writeInvRow_of_taken hheld htake
  case start =>
    simp only [epilogueRowWrite, hfirst, hlast, hch, hecc, hran, hplan, Bool.false_eq_true, if_false]
    cases d with
    | false => rfl
    | true => rfl

-- ---------------------------------------------------------------- lines and depthwise commits (R148, R179, R180)

theorem linesAndDepthwiseCommit : Says.LinesAndDepthwiseCommit := by
  intro s core
  dsimp only
  refine ⟨fun n l u hwanted hfill hread => goes_of_eq rfl ?feeder, fun n l u hwanted hfill hread => goes_of_eq rfl ?window,
    fun fails ecc p l u hhold hpasses hwrites hreads hread hfails => ?commit⟩
  case feeder => simp only [lineSlotFill, hwanted, hfill, readRows_of_clean hread]
  case window => simp only [dwWindowFill, hwanted, hfill, readRows_of_clean hread]
  case commit =>
    have hrun : exec (.vdwCommit core fails ecc) s = .next (vdwCommit core fails ecc s) := rfl
    simp only [vdwCommit, hhold, hpasses, hwrites, hreads, Bool.or_self, Bool.false_eq_true, if_false,
      readRows_of_clean hread, ge_iff_le, Nat.not_le.mpr hfails] at hrun
    refine ⟨fun hclr => goes_of_eq hrun ?_, fun x hclr hbank => goes_of_eq hrun ?_⟩
    · simp only [hclr, Bool.false_eq_true, if_true, if_false]
    · simp only [hclr, hbank, Bool.false_eq_true, if_false]

/-- Settles O12: passes, epilogues, lines and depthwise commits. -/
theorem computeEvents : Obligations.ComputeEvents := by
  unfold Obligations.ComputeEvents
  exact ⟨passVerdicts, epilogueRows, linesAndDepthwiseCommit⟩

end Sys2Proof.Proofs
end

section
/-! PROOF. The Frame Port and the Region Unit (07: O13, O14, O15). -/

namespace Sys2Proof.Proofs

open Sys2Proof Sys2Proof.Machine Sys2Proof.Says Sys2Proof.Laws

-- ---------------------------------------------------------------- frames (R188 to R196)

theorem trace_fp (s : State) (type source : Nat) (ctx : Option Nat) (mask : BitVec 16) (payload : BitVec 128) :
    (trace s type source ctx mask payload).fp = s.fp := by
  obtain ⟨x, hx⟩ := trace_eq s type source ctx mask payload
  rw [hx]

theorem count_fp (s : State) (i n : Nat) : (count s i n).fp = s.fp := by
  obtain ⟨x, hx⟩ := count_eq s i n
  rw [hx]

theorem frameHandles : Says.FrameHandles := by
  intro s h outside
  dsimp only
  have hrun : exec (.frameHandle h outside) s = .next (frameHandle h outside s) := rfl
  refine ⟨fun hnew => ?new, fun hheld => ?held⟩
  case new =>
    simp only [frameHandle, hnew, Option.isSome_none, Bool.false_eq_true, if_false] at hrun
    refine ⟨fun hen hdesc hroute hroom hfits => goes_of_eq hrun ?enters,
      fun hen hdesc hroute hfull => goes_of_eq hrun ?dropped, fun hen => goes_of_eq hrun ?disabled,
      fun hen hdesc => goes_of_eq hrun ?rejected, fun hen hdesc hroute => goes_of_eq hrun ?unrouted⟩
    case enters =>
      simp only [hen, hdesc, hroute, hfits, ge_iff_le, Nat.not_le.mpr hroom, decide_false, Bool.not_true, Bool.or_self,
        Bool.false_eq_true, if_false, trace_fp, count_fp, frameDescAddr]
    case dropped =>
      have hfull : (decide (4096 ≤ s.fp.table.length) || !templateFits { s with mem := wrCells s.mem outside }
          (mget [] s.fp.templates (bits (routeOf { s with mem := wrCells s.mem outside }
            (descStream (frameDesc { s with mem := wrCells s.mem outside } h))) 5 6).toNat)) = true := by
        simpa using hfull
      simp only [hen, hdesc, hroute, ge_iff_le, hfull, Bool.not_true, Bool.false_eq_true, if_false, if_true]
    case disabled => simp only [hen, Bool.not_false, if_true]
    case rejected => simp only [hen, hdesc, Bool.not_true, Bool.not_false, Bool.false_eq_true, if_false, if_true]
    case unrouted => simp only [hen, hdesc, hroute, Bool.not_true, Bool.not_false, Bool.false_eq_true, if_false, if_true]
  case held => exact goes_of_eq hrun (if_pos (Option.isSome_iff_ne_none.mpr hheld))

theorem frameReleases : Says.FrameReleases := by
  intro s h
  dsimp only
  refine ⟨fun e ecc he harmed hrefs hecc => goes_of_eq rfl ?released, fun e he => goes_of_eq rfl ?lost,
    fun ecc hnone => goes_of_eq rfl ?unknown, goes_of_eq rfl rfl, fun e he hlimit hlate hst => goes_of_eq rfl ?stale⟩
  case released =>
    simp only [frameRelease, he, harmed, hrefs, beq_eq_false_iff_ne.mpr hecc, decide_true, Bool.and_self,
      Bool.false_eq_true, if_false, if_true, frameFree, releaseWrite]
  case lost => simp only [frameRelease, he, beq_self_eq_true, if_true]
  case unknown => simp only [frameRelease, hnone]
  case stale =>
    have hst' : (e.st == .owned || e.st == .borrowed) = true := by simpa using hst
    simp only [frameStale, he, hst', gt_iff_lt, hlate, ne_eq, hlimit, not_false_eq_true, decide_true, Bool.and_self,
      if_true, beq_iff_eq]

/-- Settles O13: handles, then releases and stale frames. -/
theorem frames : Obligations.Frames := by
  unfold Obligations.Frames
  exact ⟨frameHandles, frameReleases⟩

-- ---------------------------------------------------------------- Region commands (R198 to R210, R343)

/-- A block that can be read is accepted without a second one, unless it chains a DECODE. -/
theorem readBlock_of_single {s u : State} {r : RegionCmd}
    (hpages : xlatPages r.basket (slotOfCtx s r.ctx) false (pagesOf (span r.req.toNat 64)) s = (none, u))
    (hsingle : rqChain (BitVec.ofNat 512 (virtWord u r.basket (slotOfCtx s r.ctx) r.req.toNat 64)) = false ∨
      rqOp (BitVec.ofNat 512 (virtWord u r.basket (slotOfCtx s r.ctx) r.req.toNat 64)) ≠ 2) :
    readBlock s r = acceptBlock (takeCredit u r.basket 1)
      { r with block := BitVec.ofNat 512 (virtWord u r.basket (slotOfCtx s r.ctx) r.req.toNat 64) }
      (slotOfCtx s r.ctx) := by
  simp only [readBlock, hpages]
  refine if_neg fun h => ?_
  rw [Bool.and_eq_true, decide_eq_true_eq] at h
  obtain ⟨hchain, hop⟩ := h
  exact hsingle.elim (fun h => absurd hchain (ne_true_of_eq_false h)) (fun h => h hop)

/-- Settles O14: the ring's command, then the oldest that is not held. -/
theorem regionSubmission : Obligations.RegionSubmission := by
  unfold Obligations.RegionSubmission
  refine ⟨fun s ctx req hcur hstart => ?region, fun s r ecc hfirst hread => ?accept⟩
  case region =>
    dsimp only
    exact fun hring => goes_of_eq rfl (by simp only [regionStart, hcur, hstart, hring, Bool.false_eq_true, if_false, if_true])
  case accept =>
    dsimp only
    have hrun : exec (.regionAccept ecc) s = .next (regionAccept ecc s) := rfl
    simp only [regionAccept, hfirst, hread, Bool.not_true, Bool.false_eq_true, if_false] at hrun
    refine ⟨fun hecc => goes_of_eq hrun (if_pos (beq_iff_eq.mpr hecc)), fun u hecc hpages hsingle => ?_⟩
    rw [if_neg (mt beq_iff_eq.mp hecc), readBlock_of_single hpages hsingle] at hrun
    refine ⟨fun hgood => goes_of_eq hrun ?_, fun k hbad => goes_of_eq hrun ?_⟩
    · simp only [acceptBlock, hgood]
    · simp only [acceptBlock, hbad]

/-- A free pipeline that takes the next command runs it. -/
def PipelineForm (p : Instr × Nat × (State → RegionCmd → RunRes × State)) : Prop :=
  ∀ (s : State) (r : RegionCmd), mget none s.ru.running p.2.1 = none → nextCmd s p.2.1 = some r →
    mayRead s r = true →
    let x := p.2.2 { tookCmd s p.2.1 r with freeCount := s.freeCount + 1 } r
    (∀ reads out items dropped, x.1 = .done reads out items dropped →
      Goes p.1 s (runDone x.2 p.2.1 r reads out items dropped)) ∧
    (∀ k, x.1 = .bad k → Goes p.1 s (runBad x.2 r k)) ∧
    (∀ va y, x.1 = .fault va y → Goes p.1 s (regionFault x.2 r va false y))

theorem pipelineForm_of_runPipe {p : Instr × Nat × (State → RegionCmd → RunRes × State)}
    (hexec : ∀ s, exec p.1 s = .next (runPipe p.2.1 p.2.2 s)) : PipelineForm p := by
  intro s r hfree hnext hread
  have hrun := hexec s
  simp only [runPipe, hfree, hnext, hread, Bool.not_true, Bool.false_eq_true, if_false] at hrun
  refine ⟨fun reads out items dropped h => goes_of_eq hrun ?_, fun k h => goes_of_eq hrun ?_,
    fun va y h => goes_of_eq hrun ?_⟩
  · rw [h]
  · rw [h]
  · rw [h]

theorem regionPipelines : Says.RegionPipelines := by
  show ∀ p ∈ _, PipelineForm p
  simp only [List.forall_mem_cons]
  refine ⟨?_, ?_, ?_, ?_, fun _ hp => absurd hp List.not_mem_nil⟩ <;> exact pipelineForm_of_runPipe fun _ => rfl

theorem writeRecord_of_translated {s u : State} {pipe : Nat} {x : RegionRun}
    (h : xlatPages x.cmd.basket (slotOfCtx s x.cmd.ctx) true (pagesOf (span (rqStatus x.cmd.block) 16)) s = (none, u)) :
    writeRecord s pipe x = regionEnd (putOut (takeCredit u x.cmd.basket 1) x.cmd.ctx x.cmd.basket
      (slotOfCtx s x.cmd.ctx) (rqStatus x.cmd.block, recordBytes s 0 x.items x.dropped)) x := by
  simp only [writeRecord, h]

theorem writeRecord_of_fault {s u : State} {pipe va : Nat} {x : RegionRun} {y : Xlat}
    (h : xlatPages x.cmd.basket (slotOfCtx s x.cmd.ctx) true (pagesOf (span (rqStatus x.cmd.block) 16)) s =
      (some (va, y), u)) : writeRecord s pipe x = recordFault u pipe x.cmd va y := by
  simp only [writeRecord, h]

theorem regionCompletion : Says.RegionCompletion := by
  intro s pipe x hx hlinks hread
  dsimp only
  have hrun (resp) : exec (.regionComplete pipe resp) s = .next (regionComplete pipe.toNat resp s) := rfl
  simp only [regionComplete, hx, hlinks, hread, Bool.not_true, Bool.or_self, Bool.false_eq_true, if_false] at hrun
  refine ⟨fun u hpages => goes_of_eq (hrun .ok) (writeRecord_of_translated hpages),
    fun u va y hpages => goes_of_eq (hrun .ok) (writeRecord_of_fault hpages),
    fun pa hlast => ⟨goes_of_eq (hrun .error) ?error, fun hlate => goes_of_eq (hrun .none) ?silent⟩⟩
  case error =>
    rw [hlast]
    exact if_pos rfl
  case silent =>
    rw [hlast]
    refine if_pos ?_
    rw [mayFail, decide_eq_true (show respLimit ≤ _ from hlate), Bool.or_true]

/-- Settles O15: the pipelines, then their completion. -/
theorem regionRuns : Obligations.RegionRuns := by
  unfold Obligations.RegionRuns
  exact ⟨regionPipelines, regionCompletion⟩

end Sys2Proof.Proofs
end

section
/-! PROOF. The Pannier's upkeep and its host window (08: O16, O17). -/

namespace Sys2Proof.Proofs

open Sys2Proof Sys2Proof.Machine Sys2Proof.Says Sys2Proof.Laws

-- ---------------------------------------------------------------- the host window (R238, R239)

/-- Settles O16: the read, by what stands before it; the write; the write performed. -/
theorem pannierWindow : Obligations.PannierWindow := by
  unfold Obligations.PannierWindow
  intro s init off size
  dsimp only
  refine ⟨fun ecc hopen => ⟨fun htakes hfree => goes_of_eq rfl ?read, fun htakes hbuffered => goes_of_eq rfl ?waits,
      fun hrefused => goes_of_eq rfl ?refused⟩, fun ecc hheld => goes_of_eq rfl (if_pos hheld),
    fun data hwait htakes hroom => goes_of_eq rfl ?write, fun data hwait hrefused => goes_of_eq rfl ?writeRefused,
    fun core w hw => goes_of_eq rfl ?perform⟩
  case read => simp only [panWindowRead, hopen, htakes, hfree, Bool.not_true, Bool.false_eq_true, if_false]
  case waits =>
    simp only [panWindowRead, hopen, htakes, hbuffered, Bool.not_true, Bool.false_eq_true, if_false, if_true, winWaits]
  case refused => simp only [panWindowRead, hopen, hrefused, Bool.not_false, Bool.false_eq_true, if_false, if_true]
  case write =>
    simp only [panWindowWrite, hwait, htakes, ge_iff_le, Nat.not_le.mpr hroom, Option.isSome_none, Bool.not_true,
      Bool.false_eq_true, if_false]
  case writeRefused =>
    simp only [panWindowWrite, hwait, hrefused, Option.isSome_none, Bool.not_false, Bool.false_eq_true, if_false, if_true]
  case perform => simp only [panWindowWritePerform, hw]

-- ---------------------------------------------------------------- scrubs, spares and groups (R217, R220, R221, R236)

theorem scrubsAndSweeps : Says.ScrubsAndSweeps := by
  intro s core seg
  dsimp only
  refine ⟨fun ecc hen hon hready hdue => ?scrub, fun hon hready => goes_of_eq rfl ?sweep⟩
  case scrub =>
    have hrun : exec (.scrubVisit core seg ecc) s = .next (scrubVisit s core.toNat seg.toNat ecc) := rfl
    have hdue : scrubDue s (coreOf s core.toNat).pan seg.toNat = true := decide_eq_true hdue
    simp only [scrubVisit, hen, hon, hready, hdue, Bool.and_self, if_true] at hrun
    refine ⟨fun h => goes_of_eq hrun ?_, fun h => goes_of_eq hrun ?_, fun h => goes_of_eq hrun ?_⟩
    · rw [h, scrubbed]
    · rw [h, scrubbed]
    · rw [h, scrubbed]
  case sweep => simp only [segmentSweep, hon, hready, Bool.not_false, Bool.and_self, if_true]

theorem copyRow_of_spare {s : State} {c g i k : Nat} (h : spareFree (coreOf s c).pan g = some k) :
    copyRow s c g i = updPan (readPhys s c (4096 * g + i) .clean).2.2 c
      (fun p => copyPut p g i k (readPhys s c (4096 * g + i) .clean).1) := by
  simp only [copyRow, h]

/-- Where PAN_GROUP of a core stands (R217). -/
theorem panGroup_off (c : CoreId) :
    (BitVec.ofNat 25 (0x1005008 + 0x10000 * c.toNat) : RegOff).toNat = 0x1005008 + 0x10000 * c.toNat :=
  toNat_ofNat_off (by have := c.isLt; omega)

theorem mapCopiesAndGroups : Says.MapCopiesAndGroups := by
  refine ⟨fun s core seg i k hcopying hspare => goes_of_eq rfl ?copy, fun s c v hon hlegal hfree => ?group⟩
  case copy =>
    simp only [mapOutCopy, hcopying, if_true]
    exact copyRow_of_spare hspare
  case group =>
    refine goes_of_eq rfl ?_
    have hlt := c.isLt
    have hcore : (0x1005008 + 0x10000 * c.toNat - 0x1000000) / 0x10000 = c.toNat := by omega
    have hplace : 0x1000000 ≤ 0x1005008 + 0x10000 * c.toNat ∧ 0x1005008 + 0x10000 * c.toNat < 0x1100000 ∧
        (0x1005008 + 0x10000 * c.toNat) % 0x10000 / 4 = 0x5008 / 4 := by omega
    have halign : (0x1005008 + 0x10000 * c.toNat) % 4 = 0 := by omega
    simp only [panGroupWrite, plainAccess, panGroup_off, hcore, hplace, halign, and_self, decide_true, if_true,
      panGroupSet, hlegal, Bool.not_true, Bool.false_eq_true, if_false]
    exact (gated_of_allowed rfl hon).trans (if_pos hfree)

-- ---------------------------------------------------------------- row repair (R223)

theorem rowRepair : Says.RowRepair := by
  intro s core seg index listed
  dsimp only
  intro hforge hretired hindex hfaulty
  have hrun : exec (.forgeRowRepair core seg index listed) s =
    .next (forgeRowRepair s core.toNat seg.toNat index.toNat listed) := rfl
  simp only [forgeRowRepair, hforge, hretired, hindex, hfaulty, decide_true, Bool.and_self, Bool.not_true,
    Bool.false_eq_true, if_false, if_true] at hrun
  refine ⟨fun n hentry hspare hallowed => goes_of_eq hrun ?repaired, fun hfull => goes_of_eq hrun ?retired⟩
  case repaired => simp only [hentry, Option.isNone_iff_eq_none, hspare, if_false, hallowed, if_true]
  case retired =>
    cases hentry : freeListEntry s core.toNat with
    | none => rfl
    | some n =>
      have hspare := hfull.resolve_left (by simp [hentry])
      simp only [hspare, Option.isNone_none, if_true]

/-- Settles O17: scrubs and sweeps, copies and groups, row repair. -/
theorem pannierUpkeep : Obligations.PannierUpkeep := by
  unfold Obligations.PannierUpkeep
  exact ⟨scrubsAndSweeps, mapCopiesAndGroups, rowRepair⟩

end Sys2Proof.Proofs
end

section
/-! PROOF. Commands and fences (12: O19, O20). -/

namespace Sys2Proof.Proofs

open Sys2Proof Sys2Proof.Machine Sys2Proof.Says Sys2Proof.Laws

-- ---------------------------------------------------------------- commands (R340 to R344)

/-- What a context holds once its command is complete (R344). -/
def pastCommand (k : Ctx) : Ctx :=
  { k with rd := k.rd + 1, done := k.done + 1, cur := none, started := false, finished := false, task := none }

/-- Whether its host is gone, a context's Basket says; a command that is over leaves it in its Basket. -/
theorem hostGone_pastCommand (s : State) (c : Nat) :
    hostGone (setCtx s c (pastCommand (ctxOf s c))) c = hostGone s c := by
  simp only [hostGone, ctxStanding, ctxOf_setCtx_same]
  rfl

theorem fromWait_of_hosted {s : State} {c : Nat} (h : hostGone s c = false) :
    fromWait s c = setState s c (if (ctxOf s c).rd = (ctxOf s c).wr then .idle else .running) := by
  simp only [fromWait, h, Bool.false_eq_true, if_false]
  split
  · rfl
  · rfl

theorem toIdle_of_hosted {s : State} {c : Nat} (hstop : (ctxOf s c).stopPend = false) (h : hostGone s c = false) :
    toIdle s c = setState s c (if (ctxOf s c).rd = (ctxOf s c).wr then .idle else .ready) := by
  simp only [toIdle, hstop, h, Bool.false_eq_true, if_false]

/-- A command of a context with its host that is over gives its place to the next (R344). -/
theorem commandComplete_of_hosted {ctx : CtxId} {s : State} (hstarted : (ctxOf s ctx.toNat).started = true)
    (hfinished : (ctxOf s ctx.toNat).finished = true) (hcopy : copyWaits s ctx.toNat = false)
    (hhost : hostGone s ctx.toNat = false) :
    commandComplete ctx s = if (ctxOf s ctx.toNat).state == .fenceWait
      then fromWait (setCtx s ctx.toNat (pastCommand (ctxOf s ctx.toNat))) ctx.toNat
      else toIdle (setCtx s ctx.toNat (pastCommand (ctxOf s ctx.toNat))) ctx.toNat := by
  have hgone : hostGone (updCtx s ctx.toNat pastCommand) ctx.toNat = false :=
    (hostGone_pastCommand s ctx.toNat).trans hhost
  refine (if_pos (by rw [hfinished, hstarted, hcopy]; rfl)).trans ((if_neg ?_).trans rfl)
  show ¬(_ && hostGone (updCtx s ctx.toNat pastCommand) ctx.toNat && _ && _ && _) = true
  simp only [hgone, Bool.and_false, Bool.false_and, Bool.false_eq_true, not_false_eq_true]

/-- Settles O19: the fetch, the start of EXEC, COPY and BARRIER, the wait of a BARRIER, completion. -/
theorem commandsRun : Obligations.CommandsRun := by
  unfold Obligations.CommandsRun
  intro s ctx
  dsimp only
  refine ⟨fun ecc hstate hcur hring hrun => ?fetch, fun hstart => ⟨fun e hcur => ?exec, fun src dst len hcur hlook => ?copy,
    fun target count limit hcur => ?barrier⟩, fun target count limit hcur hstate hstarted hfinished => ?wait,
    fun hstarted hfinished hcopy hhost => ?complete⟩
  case fetch =>
    have hgo : exec (.commandFetch ctx ecc) s = .next (commandFetch ctx ecc s) := rfl
    have hstate : ((ctxOf s ctx.toNat).state == .ready || (ctxOf s ctx.toNat).state == .running) = true := by
      simpa using hstate
    simp only [commandFetch, hstate, hcur, ne_eq, hring, hrun, Option.isNone_none, not_false_eq_true, decide_true,
      Bool.and_self, if_true] at hgo
    refine ⟨fun hecc => goes_of_eq hgo (if_pos hecc), fun hecc hphys => goes_of_eq hgo ?outside, fun hecc hphys =>
      ⟨fun hnone => goes_of_eq hgo ?undefined, fun x hsome => goes_of_eq hgo ?taken⟩⟩
    case outside => simp only [hecc, hphys, Bool.not_false, if_false, if_true]
    case undefined => simp only [hecc, hphys, hnone, Bool.not_true, Bool.false_eq_true, if_false]
    case taken => simp only [hecc, hphys, hsome, Bool.not_true, Bool.false_eq_true, if_false, updCtx]
  case exec =>
    have hgo : exec (.cmdExec ctx) s = .next (startExec ctx s) := rfl
    simp only [startExec, hcur, hstart, if_true, beginExec] at hgo
    refine ⟨fun r hbad => goes_of_eq hgo ?bad, fun hgood => goes_of_eq hgo ?good⟩
    case bad => simp only [hbad]
    case good => simp only [hgood, updCtx]
  case copy =>
    refine goes_of_eq rfl ?_
    simp only [copyStart, hcur, hstart, hlook, Bool.and_self, if_true]
  case barrier =>
    refine goes_of_eq rfl ?_
    simp only [barrierStart, hcur, hstart, if_true, beginCmd, updCtx]
  case wait =>
    refine ⟨fun hmet => goes_of_eq rfl ?met, fun hunmet hgone => goes_of_eq rfl ?failed,
      fun hunmet hlimit hlate => goes_of_eq rfl ?late⟩
    case met =>
      simp only [barrierRelease, hcur, hstate, hstarted, hfinished, barrierMet, hmet, beq_self_eq_true, decide_true,
        Bool.not_false, Bool.and_self, if_true, finishCmd, updCtx]
    case failed =>
      have hgone : ((ctxOf s target).state == .error || (ctxOf s target).state == .free) = true := by simpa using hgone
      simp only [barrierRelease, hcur, hstate, hstarted, hfinished, barrierMet, hunmet, hgone, beq_self_eq_true,
        decide_false, Bool.not_false, Bool.and_self, Bool.false_eq_true, if_true, if_false]
    case late =>
      simp only [barrierTimeout, hcur, hstate, hstarted, hfinished, barrierMet, hunmet, ne_eq, hlimit, ge_iff_le, hlate,
        beq_self_eq_true, not_false_eq_true, decide_true, decide_false, Bool.not_false, Bool.and_self, if_true]
  case complete =>
    have hgo : exec (.commandComplete ctx) s = .next (commandComplete ctx s) := rfl
    rw [commandComplete_of_hosted hstarted hfinished hcopy hhost] at hgo
    have hgone : hostGone (setCtx s ctx.toNat (pastCommand (ctxOf s ctx.toNat))) ctx.toNat = false :=
      (hostGone_pastCommand s ctx.toNat).trans hhost
    refine ⟨fun hwait => goes_of_eq hgo ?waited, fun hran hgoing => goes_of_eq hgo ?ran,
      fun hran hstop => goes_of_eq hgo ?stops⟩
    case waited =>
      rw [if_pos (beq_iff_eq.mpr hwait), fromWait_of_hosted hgone]
      simp only [setState, updCtx, ctxOf_setCtx_same, pastCommand]
    case ran =>
      rw [if_neg (mt beq_iff_eq.mp hran), toIdle_of_hosted (by rw [ctxOf_setCtx_same]; exact hgoing) hgone]
      simp only [setState, updCtx, ctxOf_setCtx_same, pastCommand]
    case stops =>
      rw [if_neg (mt beq_iff_eq.mp hran)]
      simp only [toIdle, ctxOf_setCtx_same, pastCommand, hstop, if_true]

-- ---------------------------------------------------------------- fence commands (R343, R347, R349)

theorem fenceCommands : Says.FenceCommands := by
  intro s ctx
  dsimp only
  refine ⟨fun addr value limit hcur hstart => ?wait, fun addr value limit hcur hstate hstarted hfinished hlimit hlate =>
    goes_of_eq rfl ?late, fun intr fail addr value hcur hstart hlinks => ?signal⟩
  case wait =>
    have hgo : exec (.fenceWait ctx) s = .next (fenceWaitStart ctx s) := rfl
    simp only [fenceWaitStart, hcur, hstart, Bool.not_true, Bool.false_eq_true, if_false] at hgo
    refine ⟨fun hbit => goes_of_eq hgo (if_pos hbit), fun hbit hlocal hphys => goes_of_eq hgo ?reads,
      fun hbit hlocal hphys => goes_of_eq hgo ?refused⟩
    case reads => simp only [hbit, hlocal, hphys, Option.isSome_none, Bool.not_true, Bool.false_eq_true, if_false]
    case refused =>
      simp only [hbit, hlocal, hphys, Option.isSome_none, Bool.not_false, Bool.false_eq_true, if_false, if_true]
  case late =>
    simp only [fenceTimeout, hcur, hstate, hstarted, hfinished, ne_eq, hlimit, ge_iff_le, hlate, beq_self_eq_true,
      not_false_eq_true, decide_true, Bool.not_false, Bool.and_self, if_true]
  case signal =>
    have hgo : exec (.fenceSignal ctx) s = .next (fenceSignalStart ctx s) := rfl
    simp only [fenceSignalStart, hcur, hstart, hlinks, Bool.not_true, Bool.or_self, Bool.false_eq_true, if_false] at hgo
    refine ⟨fun hfail hbit => goes_of_eq hgo ?bad, fun hword hphys => goes_of_eq hgo ?handed⟩
    case bad => simp only [hfail, hbit, Bool.not_false, Bool.and_self, if_true]
    case handed =>
      have hword : (!fail && value.getLsbD 63) = false := by
        cases hword with
        | inl h =>
          rw [h]
          rfl
        | inr h => rw [h, Bool.and_false]
      simp only [hword, hphys, Bool.not_true, Bool.false_eq_true, if_false]

-- ---------------------------------------------------------------- the Fence Unit (R347 to R350, R353)

section
variable {s : State} {c : Option Nat} {a w : DWord}

/-- A signal that is not below its fence raises it (R347). -/
theorem fenceRaise_of_le (h : (rd64 s.mem a.toNat).toNat ≤ w.toNat) :
    (fenceRaise s c a w).2 = testFence { s with mem := wr64 s.mem a.toNat w } a w := by
  simp only [fenceRaise, BitVec.le_def, BitVec.lt_def, h, Nat.not_lt.mpr h, if_true, if_false]

/-- A signal below its fence leaves it, and is reported (R347). -/
theorem fenceRaise_of_lt (h : w.toNat < (rd64 s.mem a.toNat).toNat) :
    (fenceRaise s c a w).2 = testFence (post
      { s with mem := wr64 s.mem a.toNat (rd64 s.mem a.toNat)
               fu := { s.fu with staleCnt := satAdd s.fu.staleCnt 1 } } 0x150 srcFu c a 0) a (rd64 s.mem a.toNat) := by
  simp only [fenceRaise, BitVec.le_def, BitVec.lt_def, h, Nat.not_le.mpr h, if_true, if_false]

end

theorem tableEcc_fu {s : State} {source : Nat} {c : Option Nat} {e : Ecc} (h : e ≠ .double) :
    (tableEcc s source c e).fu = s.fu := by
  cases e with
  | clean => rfl
  | single => rfl
  | double => exact absurd rfl h

theorem waitVerdict_of_failed {word : DWord} (w : FWait) (h : word.getLsbD 63 = true) : waitVerdict word w = some true :=
  if_pos h

theorem waitVerdict_of_met {word : DWord} {w : FWait} (h : word.getLsbD 63 = false) (hle : w.value.toNat ≤ word.toNat) :
    waitVerdict word w = some false :=
  (if_neg (ne_true_of_eq_false h)).trans (if_pos hle)

theorem waitVerdict_of_below {word : DWord} {w : FWait} (h : word.getLsbD 63 = false) (hlt : word.toNat < w.value.toNat) :
    waitVerdict word w = none :=
  (if_neg (ne_true_of_eq_false h)).trans (if_neg (Nat.not_le.mpr hlt))

/-- With no more than 512 fences beside its table, a poll reads them all (R349). -/
theorem watchPoll_of_short {s v : State} {outside : List Host.Cell}
    (hv : readWatched { s with mem := wrCells s.mem outside } = v) (hlen : v.fu.overflow.length ≤ 512)
    (hpos : v.fu.overflowPos = 0) :
    watchPoll outside s = (v.fu.overflow.map (·.1)).eraseDups.foldl readFence v := by
  have hall : (v.fu.overflow.drop 0 ++ v.fu.overflow.take 0).take 512 = v.fu.overflow := by
    simpa using List.take_of_length_le hlen
  have hstays : { v with fu := { v.fu with overflowPos := 0 } } = v := by rw [← hpos]
  simp only [watchPoll, hv, hpos, ite_self, hall, Nat.zero_add, if_neg (Nat.not_lt.mpr hlen), hstays]

theorem fenceUnit : Says.FenceUnit := by
  intro s outside
  dsimp only
  refine ⟨fun g l hsignals hallowed hlocal => ?atomic, fun addr w ecc hreading hecc => ?read,
    fun addr resp => goes_of_eq rfl ?lost, ⟨fun i => goes_of_eq rfl rfl, fun hlen hpos => goes_of_eq rfl ?poll⟩,
    fun i vec hvec hinit hon => ?unmask, fun vec => goes_of_eq rfl rfl⟩
  case atomic =>
    have hgo (resp) : exec (.fenceAtomicResponse resp) s = .next (fenceAtomicResponse resp s) := rfl
    simp only [fenceAtomicResponse, hsignals, hallowed, hlocal, Bool.not_true, Bool.false_eq_true, if_false] at hgo
    refine ⟨fun hle => goes_of_eq (hgo .ok) ?raised, fun hlt => goes_of_eq (hgo .ok) ?stale, hgo .error, hgo .none⟩
    case raised =>
      rw [if_pos hle]
      exact congrArg (fun v => sigOver (sigDone v g) g) (fenceRaise_of_le hle)
    case stale =>
      rw [if_neg (Nat.not_le.mpr hlt)]
      exact congrArg (fun v => sigOver (sigDone v g) g) (fenceRaise_of_lt hlt)
  case read =>
    have hgo : exec (.fenceReadResponse addr .ok ecc outside) s = .next (fenceReadResponse addr .ok ecc outside s) := rfl
    have hread : (tableEcc { s with mem := wrCells s.mem outside } srcFu none ecc).fu.reading = [(addr, w)] := by
      rw [tableEcc_fu hecc, hreading]
    simp only [fenceReadResponse, hecc, fenceRead, hread, decide_true, ne_eq, not_true_eq_false, decide_false,
      List.filter_cons_of_pos, List.filter_cons_of_neg, List.filter_nil, List.map_cons, List.map_nil, List.foldl_cons,
      List.foldl_nil, Bool.false_eq_true, not_false_eq_true, if_false] at hgo
    refine ⟨fun hbit => goes_of_eq hgo ?failed, fun hbit hle => goes_of_eq hgo ?met, fun hbit hlt => goes_of_eq hgo ?waits⟩
    case failed => simp only [waitVerdict_of_failed w hbit, releaseWait, Option.isSome_some, if_true]
    case met => simp only [waitVerdict_of_met hbit hle, releaseWait, Option.isSome_some, if_true]
    case waits =>
      simp only [waitVerdict_of_below hbit hlt, Option.isSome_none, Bool.false_eq_true, if_false]
  case lost => simp only [fenceReadResponse, if_true]
  case poll => exact watchPoll_of_short rfl hlen hpos
  case unmask =>
    refine goes_of_eq rfl ?_
    rw [vectorUnmask, if_pos hvec, gated_of_allowed (byHostForge_of_eq hinit) hon, unmaskVec]
    simp only [Bool.and_eq_true, sendMsi, mget_mset_same]

/-- Settles O20: the fence commands, then the Fence Unit. -/
theorem fences : Obligations.Fences := by
  unfold Obligations.Fences
  exact ⟨fenceCommands, fenceUnit⟩

end Sys2Proof.Proofs
end

section
/-! PROOF. Faults, invalidation, entries and the mailbox (11, 12: O22, O23, O24). -/

namespace Sys2Proof.Proofs

open Sys2Proof Sys2Proof.Machine Sys2Proof.Says Sys2Proof.Laws

-- ---------------------------------------------------------------- fault records (R322, R323)

theorem faultRecords : Says.FaultRecords := by
  intro s id i
  dsimp only
  refine ⟨?answer, fun r ecc hrec => ?timeout⟩
  case answer =>
    intro p hp hinit hon
    have hgo : exec (p.1 i id) s = .next (faultRespond s id p.2) := by
      have hgated : exec (p.1 i id) s = .next (faultAnswer s i id p.2) := by
        revert p
        simp only [List.forall_mem_cons]
        exact ⟨rfl, rfl, fun _ hp => absurd hp List.not_mem_nil⟩
      rw [hgated, faultAnswer, gated_of_allowed (byHostForge_of_eq hinit) hon]
    refine ⟨fun r hrec => goes_of_eq hgo ?_, fun hnone => goes_of_eq hgo (by simp only [faultRespond, hnone])⟩
    have hact : p.2 = 1 ∨ p.2 = 2 := by
      revert p
      simp
    rcases hact with hact | hact
    · simp only [faultRespond, hrec, hact, if_true]
    · simp only [faultRespond, hrec, hact, Nat.reduceEqDiff, if_false]
  case timeout =>
    have hgo : exec (.faultTimeout id ecc) s = .next (faultTimeout id ecc s) := rfl
    simp only [faultTimeout, hrec] at hgo
    exact ⟨fun hecc => goes_of_eq hgo (if_pos hecc),
      fun hecc hlate => goes_of_eq hgo ((if_neg hecc).trans (if_pos hlate))⟩

-- ---------------------------------------------------------------- failed requests (R320, R323, R324, R327)

theorem mayFail_of_aged {s : State} {silent : Bool} {t : DWord} (h : silent = true → 1000000 ≤ (now s - t).toNat) :
    mayFail s silent t = true := by
  cases hs : silent with
  | false => rfl
  | true => exact decide_eq_true (h hs)

theorem memoryErrors : Says.MemoryErrors := by
  intro p hp s
  have hexec : ∀ r, exec (p.1 r) s = .next (memFails s r p.2) := by
    revert p
    simp only [List.forall_mem_cons]
    exact ⟨fun _ => rfl, fun _ => rfl, fun _ hp => absurd hp List.not_mem_nil⟩
  dsimp only
  refine ⟨fun core tag line l hline haperture haged => ?load,
    fun core tag pa x i l htask hsent haged => goes_of_eq (hexec _) ?store, fun ctx =>
    ⟨fun hstate hcur hring => goes_of_eq (hexec _) ?ring, fun haged => ⟨fun t htask hphase pa hlo hhi =>
      goes_of_eq (hexec _) ?descriptors, fun t pa htask harea => ⟨fun hphase => goes_of_eq (hexec _) ?saves,
        fun hphase hkept => goes_of_eq (hexec _) ?restores⟩, fun pa hbusy => ?command, fun pa write hidle hunread =>
      goes_of_eq (hexec _) ?unread⟩⟩⟩
  case load =>
    have hgo := hexec (.load core tag line)
    simp only [memFails, loadFails, hline, haperture, mayFail_of_aged haged, Option.isSome_none, Bool.not_true,
      Bool.or_self, Bool.false_eq_true, if_false] at hgo
    refine ⟨fun x i htask hlive => goes_of_eq hgo ?_, fun hdead => goes_of_eq hgo ?_⟩
    · simp only [updMem, coreOf_updCore_same, htask, hlive, Bool.false_eq_true, if_false]
    · simp only [hdead, if_true]
      split
      · rfl
      · rfl
  case store => simp only [memFails, storeFails, htask, hsent, mayFail_of_aged haged, if_true]
  case ring =>
    have hstate : ((ctxOf s ctx.toNat).state == .ready || (ctxOf s ctx.toNat).state == .running) = true := by
      simpa using hstate
    simp only [memFails, hstate, hcur, ne_eq, hring, not_false_eq_true, decide_true, Option.isNone_none, Bool.and_self,
      if_true]
  case descriptors =>
    simp only [memFails, htask, beq_eq_false_iff_ne.mpr hphase, mayFail_of_aged haged, hlo, hhi, and_self, decide_true,
      Bool.not_true, Bool.or_self, Bool.false_eq_true, if_false]
  case saves =>
    simp only [memFails, mayFail_of_aged haged, saveFails, htask, harea, hphase, beq_self_eq_true, Bool.and_self, if_true]
  case restores =>
    have hkept : t.kept.isEmpty = false := by simpa using hkept
    simp only [memFails, mayFail_of_aged haged, saveFails, htask, harea, hphase, hkept, beq_self_eq_true, Bool.not_false,
      Bool.and_self, Bool.false_eq_true, if_true, if_false]
  case command =>
    refine ⟨goes_of_eq (hexec _) ?_, goes_of_eq (hexec _) ?_, goes_of_eq (hexec _) ?_⟩
    · simp only [memFails, mayFail_of_aged haged, commandFails, hbusy, if_true]
    · simp only [memFails, mayFail_of_aged haged, commandFails, hbusy, Bool.false_eq_true, if_true, if_false]
    · simp only [memFails, mayFail_of_aged haged, hbusy, Bool.and_self, if_true]
  case unread =>
    have hunread : (ctxOf s ctx.toNat).unread.any (fun l => decide (l.pa = pa)) = true := by simpa using hunread
    simp only [memFails, mayFail_of_aged haged, commandFails, hidle, hunread, Bool.false_eq_true, if_true, if_false]

/-- Settles O22: fault records, then failed requests. -/
theorem faultsAndErrors : Obligations.FaultsAndErrors := by
  unfold Obligations.FaultsAndErrors
  exact ⟨faultRecords, memoryErrors⟩

-- ---------------------------------------------------------------- invalidation and credit (R317, R331, R332)

/-- Where ATU_BW of a Basket stands (R332): a register of its own, the host's or the Forge's to write. -/
theorem bwOff_spec (b : BasketId) : twComplAt (bwOff b.toNat) = none ∧ twAt (bwOff b.toNat) = none ∧
    mayWrite .forge (bwOff b.toNat) = true ∧ regDom (bwOff b.toNat) = 209 := by
  revert b
  decide

theorem bwOff_bounds (b : BasketId) : 0x400080 ≤ bwOff b.toNat ∧ bwOff b.toNat < 0x4000C0 ∧ bwOff b.toNat % 4 = 0 := by
  have := b.isLt
  unfold bwOff
  omega

theorem rdReg_bwOff (s : State) (i : Initiator) {b : Nat} (h : b < 16) : rdReg s i (bwOff b) ≠ none := by
  interval_cases b <;> exact Option.some_ne_none _

theorem putReg_bwOff (s : State) (i : Initiator) {b : Nat} (h : b < 16) (v : Word) :
    putReg s i (bwOff b) v = bwWrite s i b v := by
  interval_cases b <;> rfl

/-- The Forge's write of ATU_BW reaches its register (R332). -/
theorem atuBwWrite_goes {s : State} (b : BasketId) (v : Word) (hon : domOn s 209 = true) :
    exec (.atuBwWrite { init := .forge, off := BitVec.ofNat 25 (bwOff b.toNat), size := 4, value := v }) s =
      .next (bwWrite s .forge b.toNat v) := by
  obtain ⟨hcompl, htw, hmay, hdom⟩ := bwOff_spec b
  obtain ⟨hlo, hhi, halign⟩ := bwOff_bounds b
  have hlt : bwOff b.toNat < 2 ^ 25 := by omega
  have hoff := toNat_ofNat_off hlt
  refine congrArg _ ((if_pos (by rw [wordOff_ofNat hlt halign]; exact ⟨hlo, hhi⟩)).trans ?_)
  rw [registerWrite_of_aligned (by rw [hoff, halign]), hoff,
    regWrite_of_accepted v (by omega) hcompl htw (rdReg_bwOff s _ b.isLt) hmay (by rw [hdom, hon]),
    putReg_bwOff s _ b.isLt]

theorem count_atu (s : State) (i n : Nat) : (count s i n).atu = s.atu := by
  obtain ⟨x, hx⟩ := count_eq s i n
  rw [hx]

/-- Settles O23: invalidation messages, their acknowledgement, the credit addition and ATU_BW. -/
theorem invalidationAndCredit : Obligations.InvalidationAndCredit := by
  unfold Obligations.InvalidationAndCredit
  refine ⟨fun s kind outside => ?message, fun s m rest hinv hlines hlinks => goes_of_eq rfl ?ack,
    fun s hdue => goes_of_eq rfl (if_pos hdue), fun s b v hon => ?rate⟩
  case message =>
    dsimp only
    intro hroom
    have hgo : exec (.invalidation kind outside) s = .next (invalidation kind outside s) := rfl
    simp only [invalidation, ge_iff_le, Nat.not_le.mpr hroom, if_false] at hgo
    generalize hv : count _ 261 1 = v at hgo ⊢
    have hinv : v.atu.inv = s.atu.inv := by rw [← hv, count_atu]
    refine ⟨fun hnone => goes_of_eq hgo (by simp only [hnone]), fun t htarget hidle => goes_of_eq hgo ?first,
      fun t htarget hbusy => goes_of_eq hgo ?queued⟩
    case first => simp only [htarget, hinv, hidle, List.isEmpty_nil, if_true, List.nil_append]
    case queued =>
      have hbusy : s.atu.inv.isEmpty = false := by simpa using hbusy
      simp only [htarget, hinv, hbusy, Bool.false_eq_true, if_false]
  case ack => simp only [invalidationAck, hinv, hlines, hlinks, Bool.or_self, Bool.false_eq_true, if_false]
  case rate =>
    dsimp only
    intro hrate hlo hhi
    have hgo := atuBwWrite_goes b v hon
    simp only [bwWrite, hrate, hlo, hhi, and_self, decide_true, if_true, Bool.and_self] at hgo
    exact ⟨fun hfits => goes_of_eq hgo (if_neg (Nat.not_lt.mpr hfits)), fun hover => goes_of_eq hgo (if_pos hover)⟩

-- ---------------------------------------------------------------- the GEQ's ring (R356, R357)

theorem tableEcc_cp_of_not_double {s : State} {source : Nat} {c : Option Nat} {e : Ecc} (h : e ≠ .double) :
    (tableEcc s source c e).cp = s.cp := by
  cases e with
  | clean => rfl
  | single => rfl
  | double => exact absurd rfl h

theorem count_mem (s : State) (i n : Nat) : (count s i n).mem = s.mem := by
  obtain ⟨x, hx⟩ := count_eq s i n
  rw [hx]

theorem count_cp (s : State) (i n : Nat) : (count s i n).cp = s.cp := by
  obtain ⟨x, hx⟩ := count_eq s i n
  rw [hx]

/-- An event that is pending already writes nothing (R353). -/
theorem intEvent_mem_of_pending {s : State} {v : Nat} (h : s.cp.intPend.bits.getLsbD v = true) :
    (intEvent s v).mem = s.mem := by
  simp only [intEvent, h, Bool.true_or, if_true]
  split
  · rfl
  · rfl

/-- A state with another memory and another ring. -/
def setRing (t : State) (m : List Host.Cell) (q : Geq) : State := { t with mem := m, geq := q }

theorem setRing_cp (t : State) (m : List Host.Cell) (q : Geq) : (setRing t m q).cp = t.cp := rfl

theorem setRing_mem (t : State) (m : List Host.Cell) (q : Geq) : (setRing t m q).mem = m := rfl

/-- The state with an entry written at the ring's next place (R356). -/
def ringWritten (s : State) (ecc : Ecc) (e : GeqEntry) (l : List GeqEntry) : State :=
  setRing (tableEcc s srcGeq none ecc)
    (wrNat (tableEcc s srcGeq none ecc).mem (geqAddr s) 32 (entryNat e (decide (s.geq.wr.toNat / geqSize s % 2 = 0))))
    { (tableEcc s srcGeq none ecc).geq with staging := l, wr := (tableEcc s srcGeq none ecc).geq.wr + 1 }

theorem geqRingWrite_of_room {s : State} {ecc : Ecc} {e : GeqEntry} {l : List GeqEntry}
    (hstaging : s.geq.staging = e :: l) (hroom : geqRoom s = true) (hecc : ecc ≠ .double) :
    geqRingWrite ecc s = intEvent (count (ringWritten s ecc e l) 270 1) 0 := by
  simp only [geqRingWrite, hstaging, hroom, beq_eq_false_iff_ne.mpr hecc, Bool.not_true, Bool.false_eq_true, if_false]
  cases ecc with
  | clean => rfl
  | single => rfl
  | double => exact absurd rfl hecc

theorem rdNat_ringWritten (s : State) (ecc : Ecc) (e : GeqEntry) (l : List GeqEntry) :
    rdNat (ringWritten s ecc e l).mem (geqAddr s) 32 =
      entryNat e (decide (s.geq.wr.toNat / geqSize s % 2 = 0)) % 2 ^ 256 := by
  rw [ringWritten, setRing_mem, rdNat_wrNat]
  norm_num

theorem rdByte_ringWritten_other {s : State} {ecc : Ecc} {e : GeqEntry} {l : List GeqEntry} {b : Nat}
    (hecc : ecc ≠ .double) (hb : b < geqAddr s ∨ geqAddr s + 32 ≤ b) :
    rdByte (ringWritten s ecc e l).mem b = rdByte s.mem b := by
  rw [ringWritten, setRing_mem, rdByte_wrNat_other _ _ _ _ b hb, tableEcc_mem fun h => absurd h hecc]

/-- With its event pending already, a ring write changes nothing of memory but its entry's 32 bytes (R356). -/
theorem geqRingWrite_frame {s : State} {ecc : Ecc} {e : GeqEntry} {l : List GeqEntry}
    (hstaging : s.geq.staging = e :: l) (hroom : geqRoom s = true) (hecc : ecc ≠ .double)
    (hpending : s.cp.intPend.bits.getLsbD 0 = true) :
    ∃ t, Goes (.geqRingWrite ecc) s t ∧
      rdNat t.mem (geqAddr s) 32 = entryNat e (decide (s.geq.wr.toNat / geqSize s % 2 = 0)) % 2 ^ 256 ∧
      ∀ b, b < geqAddr s ∨ geqAddr s + 32 ≤ b → rdByte t.mem b = rdByte s.mem b := by
  have hcp : (ringWritten s ecc e l).cp = s.cp := by
    rw [ringWritten, setRing_cp, tableEcc_cp_of_not_double hecc]
  refine ⟨_, goes_of_eq rfl (geqRingWrite_of_room hstaging hroom hecc), ?_⟩
  rw [intEvent_mem_of_pending (by rw [count_cp, hcp, hpending]), count_mem]
  exact ⟨rdNat_ringWritten s ecc e l, fun b hb => rdByte_ringWritten_other hecc hb⟩

theorem eventRing : Says.EventRing := by
  intro s
  dsimp only
  refine ⟨fun e l ecc hstaging hen hroom => ?write, fun i hinit hon hoff => goes_of_eq rfl ?enable⟩
  case enable =>
    rw [gated_of_allowed (byHostForge_of_eq hinit) hon]
    exact if_neg (ne_true_of_eq_false hoff)
  case write =>
    have hroom : geqRoom s = true := by
      rw [geqRoom, hen, decide_eq_true (show _ < geqSize s from hroom)]
      rfl
    refine ⟨fun hecc => goes_of_eq rfl (geqRingWrite_of_room hstaging hroom hecc), fun hecc => goes_of_eq rfl ?lost,
      fun hecc hpending => ?frame, goes_of_eq rfl ?error⟩
    case lost =>
      simp only [geqRingWrite, hstaging, hroom, hecc, beq_self_eq_true, Bool.not_true, Bool.false_eq_true, if_false,
        if_true]
    case error =>
      simp only [geqWriteError, hstaging, hroom, List.isEmpty_cons, Bool.not_false, Bool.and_self, if_true, geqAddr,
        geqSize]
    case frame =>
      have hframe := geqRingWrite_frame hstaging hroom hecc hpending
      simp only [geqAddr, geqSize] at hframe
      exact hframe

-- ---------------------------------------------------------------- the mailbox (R358)

theorem mbxRow_of_taken {s : State} {op : Nat} {f : State → State} (htakes : mbxTakes s = true) (hop : mbxOp s = op) :
    mbxRow s op f = f s :=
  if_pos (by rw [htakes, decide_eq_true hop, Bool.and_self])

theorem mailbox : Says.Mailbox := by
  intro s
  refine ⟨fun htakes => ⟨fun hop ctx g => goes_of_eq rfl (mbxRow_of_taken htakes hop),
    fun hop => goes_of_eq rfl (mbxRow_of_taken htakes hop), fun hop => goes_of_eq rfl ?unsupported⟩,
    fun i hi hon => goes_of_eq rfl (gated_of_allowed ?init hon)⟩
  case unsupported =>
    exact if_pos (by rw [htakes, decide_eq_true hop, Bool.and_self])
  case init => simp [notSecp, hi]

/-- Settles O24: the ring, then the mailbox. -/
theorem eventsAndMailbox : Obligations.EventsAndMailbox := by
  unfold Obligations.EventsAndMailbox
  exact ⟨eventRing, mailbox⟩

end Sys2Proof.Proofs
end

section
/-! PROOF. Registers and Temper's commits (19: O25, O26, O30). -/

namespace Sys2Proof.Proofs

open Sys2Proof Sys2Proof.Machine Sys2Proof.Says Sys2Proof.Laws

-- ---------------------------------------------------------------- writes (R9, R525 to R527)

theorem plainWrite_of_plain {a : Access} {s : State} {f : State → State} (hsize : a.size = 4)
    (halign : a.off.toNat % 4 = 0) : plainWrite a s f = f s :=
  if_pos (decide_eq_true ⟨hsize, halign⟩)

theorem plainWrite_of_not_plain {a : Access} {s : State} {f : State → State} (h : a.size ≠ 4 ∨ a.off.toNat % 4 ≠ 0) :
    plainWrite a s f = regRefused s a.off.toNat a.value a.init :=
  if_neg (ne_true_of_eq_false (plainAccess_eq_false_iff.mpr h))

/-- A write of an assigned register that its initiator may not make, or whose domain is off (R526, R527). -/
theorem regWrite_of_refused {s : State} {i : Initiator} {o : Nat} (v : Word)
    (hbell : ¬ (0x280000 ≤ o ∧ o < 0x284000)) (hcompl : twComplAt o = none) (htw : twAt o = none)
    (hreg : rdReg s i o ≠ none) (h : mayWrite i o = false ∨ domOn s (regDom o) = false) :
    regWrite s i o v = regRefused s o v i := by
  rw [regWrite, if_neg hbell, hcompl, htw]
  dsimp only
  rw [if_neg (by simp [hreg])]
  refine if_neg ?_
  rcases h with h | h
  · rw [h, Bool.false_and]
    exact Bool.false_ne_true
  · rw [h, Bool.and_false]
    exact Bool.false_ne_true

/-- Settles O25, by what stands between a write and its register. -/
theorem registerWrites : Obligations.RegisterWrites := by
  unfold Obligations.RegisterWrites
  intro s a
  refine ⟨fun h => goes_of_eq rfl (plainWrite_of_not_plain h), fun hsize halign hcompl htw hbell => ?_⟩
  have hgo : exec (.registerWrite a) s = .next (regWrite s a.init a.off.toNat a.value) :=
    congrArg _ (plainWrite_of_plain hsize halign)
  exact ⟨fun hreg => goes_of_eq hgo (regWrite_of_unassigned _ hbell hcompl htw hreg),
    fun hreg h => goes_of_eq hgo (regWrite_of_refused _ hbell hcompl htw hreg h),
    fun hreg hmay hon => goes_of_eq hgo (regWrite_of_accepted _ hbell hcompl htw hreg hmay hon)⟩

-- ---------------------------------------------------------------- sequence-cleared registers (R10, R528)

/-- A sequence-cleared register's write reaches it. -/
theorem scWrite_goes {s t : State} {i : Initiator} {o : Nat} {v : Word} (hlt : o < 2 ^ 25) (halign : o % 4 = 0)
    (hsc : isSc o = true) (hbell : ¬ (0x280000 ≤ o ∧ o < 0x284000)) (hcompl : twComplAt o = none) (htw : twAt o = none)
    (hreg : rdReg s i o ≠ none) (hmay : mayWrite i o = true) (hon : domOn s (regDom o) = true)
    (hput : putReg s i o v = t) :
    Goes (.scWrite { init := i, off := BitVec.ofNat 25 o, size := 4, value := v }) s t := by
  have hoff := toNat_ofNat_off hlt
  refine goes_of_eq rfl ((if_pos (by rw [wordOff_ofNat hlt halign, hsc])).trans ?_)
  rw [registerWrite_of_aligned (by rw [hoff, halign]), hoff, regWrite_of_accepted v hbell hcompl htw hreg hmay hon, hput]

/-- TA_EVENT and PAN_EVENT of a core are sequence-cleared registers of its domain. -/
theorem coreEvent_spec : ∀ c : CoreId, ∀ o ∈ [0x1001004 + 0x10000 * c.toNat, 0x1005004 + 0x10000 * c.toNat],
    isSc o = true ∧ twComplAt o = none ∧ twAt o = none ∧ regDom o = 13 * c.toNat ∧ o < 2 ^ 25 ∧ o % 4 = 0 := by
  decide

section
variable (s : State) (i : Initiator) {c : Nat} (h : c < 16) (v : Word)
include h

theorem rdReg_taEvent : rdReg s i (0x1001004 + 0x10000 * c) ≠ none := by
  interval_cases c <;> exact Option.some_ne_none _

theorem rdReg_panEvent : rdReg s i (0x1005004 + 0x10000 * c) ≠ none := by
  interval_cases c <;> exact Option.some_ne_none _

theorem putReg_taEvent : putReg s i (0x1001004 + 0x10000 * c) v =
    updTa s c (fun t => { t with event := scClear t.event v }) := by
  interval_cases c <;> rfl

theorem putReg_panEvent : putReg s i (0x1005004 + 0x10000 * c) v =
    updPan s c (fun p => { p with event := scClear p.event v }) := by
  interval_cases c <;> rfl

theorem mayWrite_taEvent : mayWrite i (0x1001004 + 0x10000 * c) = notSecp i := by
  interval_cases c <;> rfl

theorem mayWrite_panEvent : mayWrite i (0x1005004 + 0x10000 * c) = notSecp i := by
  interval_cases c <;> rfl

end

/-- Settles O26: INT_PEND, then the two event registers of a core. -/
theorem sequenceClearedWrites : Obligations.SequenceClearedWrites := by
  unfold Obligations.SequenceClearedWrites
  intro s i v hi
  refine ⟨fun hon => ?pend, fun c hon => ⟨?ta, ?pan⟩⟩
  case pend =>
    exact scWrite_goes (o := 0x200010) (by decide) (by decide) (by decide) (by decide) (by decide) (by decide)
      (Option.some_ne_none _) (notSecp_of_ne hi) hon rfl
  case ta =>
    obtain ⟨hsc, hcompl, htw, hdom, hlt, halign⟩ := coreEvent_spec c _ (List.mem_cons_self ..)
    exact scWrite_goes hlt halign hsc (by omega) hcompl htw (rdReg_taEvent s i c.isLt)
      ((mayWrite_taEvent i c.isLt).trans (notSecp_of_ne hi)) (by rw [hdom, hon]) (putReg_taEvent s i c.isLt v)
  case pan =>
    obtain ⟨hsc, hcompl, htw, hdom, hlt, halign⟩ :=
      coreEvent_spec c _ (List.mem_cons_of_mem _ (List.mem_cons_self ..))
    exact scWrite_goes hlt halign hsc (by omega) hcompl htw (rdReg_panEvent s i c.isLt)
      ((mayWrite_panEvent i c.isLt).trans (notSecp_of_ne hi)) (by rw [hdom, hon]) (putReg_panEvent s i c.isLt v)

-- ---------------------------------------------------------------- Temper's commits (R539, R541)

theorem temperTry_of_free {s : State} {i : Initiator} {value data : Word} (hbusy : s.temper.busy = none)
    (hsoon : tooSoon s (value.toNat % 4096) = false) (hassigned : temperAssigned (value.toNat % 4096) = true)
    (hlock : temperFactory (value.toNat % 4096) = false ∨ factoryLock s = false) :
    temperTry s i value data = temperBegin s (value.toNat % 4096) data := by
  have hlock : (temperFactory (value.toNat % 4096) && factoryLock s) = false := by
    rcases hlock with h | h
    · rw [h, Bool.false_and]
    · rw [h, Bool.and_false]
  simp only [temperTry, hbusy, hsoon, hassigned, hlock, Option.isSome_none, Bool.or_self, Bool.not_true,
    Bool.false_eq_true, if_false]

theorem tword_setTword (s : State) (w j : Nat) (x : TWord) :
    tword (setTword s w x) j = if w = j then x else tword s j :=
  mget_mset _ s.temper.words w j x

/-- A word whose commit of `v` verifies in every copy. -/
def verifiedWord (s : State) (x : TWord) (v : Word) : TWord :=
  { x with c0 := some v, c1 := some v, c2 := some v, failed := x.failed ||| 0, lastTick := some (now s) }

/-- The state after a commit that verifies and leaves its word below its wear (R541). -/
def committed (s : State) (w : Nat) (v : Word) : State :=
  { s with temper := { s.temper with
    words := mset {} s.temper.words w (verifiedWord s (tword s w) v)
    shadow := mset 0 s.temper.shadow w v, busy := none, last := BitVec.ofNat 12 w, lastFail := false } }

theorem temperCommitDone_of_verified {s : State} {w : Nat} {v : Word} (hbusy : s.temper.busy = some (w, v))
    (hwait : s.temper.wait = []) (hfailed : (tword s w).failed = 0) (hcount : (tword s w).count ≠ 90000000) :
    temperCommitDone 0 0 s = committed s w v := by
  have hpump : temperPump (committed s w v) = committed s w v := by
    simp only [temperPump, committed, hwait, List.find?_nil, Option.isSome_none]
    exact ite_self _
  have hnone : ((List.range 3).filter (fun k => ((tword s w).failed ||| (0 &&& 0 : BitVec 3)).getLsbD k)).length = 0 := by
    rw [hfailed]
    rfl
  simp only [temperCommitDone, hbusy]
  rw [hnone]
  exact (congrArg temperPump ((if_neg hcount).trans (if_neg Bool.false_ne_true))).trans hpump

/-- Settles O30: a commit's start and its completion. -/
theorem temperCommits : Obligations.TemperCommits := by
  unfold Obligations.TemperCommits
  refine ⟨fun s i value data hbusy hsoon hassigned hlock => ?start,
    fun s w v hbusy hwait hdue hfailed hcount => ?done⟩
  case start =>
    dsimp only
    rw [temperTry_of_free hbusy hsoon hassigned hlock]
    refine ⟨rfl, ?_, rfl, rfl⟩
    exact congrArg TWord.count ((tword_setTword s _ _ _).trans (if_pos rfl))
  case done =>
    have hgo : exec (.temperCommitDone 0 0) s = .next (temperCommitDone 0 0 s) := congrArg _ (if_pos (decide_eq_true hdue))
    have hword (j : Nat) : tword (committed s w v) j = if w = j then verifiedWord s (tword s w) v else tword s j :=
      mget_mset _ _ _ _ _
    have hshadow (j : Nat) : temperWord (committed s w v) j = if w = j then v else temperWord s j :=
      mget_mset _ _ _ _ _
    refine ⟨committed s w v, goes_of_eq hgo (temperCommitDone_of_verified hbusy hwait hfailed hcount), rfl, ?_⟩
    simp only [hword, hshadow, if_true, true_and]
    exact ⟨rfl, rfl, rfl, rfl, rfl, fun j hj => by simp [Ne.symm hj]⟩

end Sys2Proof.Proofs
end

section
/-! PROOF. Scheduling and the service of cores (03, 13, 17, 18: O32, O33, O34). -/

namespace Sys2Proof.Proofs

open Sys2Proof Sys2Proof.Machine Sys2Proof.Says Sys2Proof.Laws

-- ---------------------------------------------------------------- scheduling (R271, R313, R371 to R374, R386)

theorem placeCandidate_of_fault {s v : State} {x : Nat} {t : Machine.Task} {cores : List Nat}
    (h : placeFault s x t cores = some v) : placeCandidate s x t cores = v := by
  simp only [placeCandidate, h]

section
variable {s : State} {x : Nat} {t : Machine.Task} {cores : List Nat} (hfault : placeFault s x t cores = none)
  (hwalker : walkerFree s = true) (hcredit : hasCredit s (ctxBsk s x) = true)
include hfault hwalker hcredit

theorem placeCandidate_of_translated
    (h : (translateAll s (ctxBsk s x) (slotOfCtx s x) false (imagePages t.cmd) t.cmd.image.toNat).1 = none) :
    placeCandidate s x t cores = runTask
      (translateAll s (ctxBsk s x) (slotOfCtx s x) false (imagePages t.cmd) t.cmd.image.toNat).2 x t cores := by
  simp only [placeCandidate, hfault, hwalker, hcredit, h, Bool.not_true, Bool.or_self, Bool.false_eq_true, if_false]

theorem placeCandidate_of_untranslated {va : Nat} {y : Xlat}
    (h : (translateAll s (ctxBsk s x) (slotOfCtx s x) false (imagePages t.cmd) t.cmd.image.toNat).1 = some (va, y)) :
    placeCandidate s x t cores = xlatFault
      (translateAll s (ctxBsk s x) (slotOfCtx s x) false (imagePages t.cmd) t.cmd.image.toNat).2 x none va false false
      y := by
  simp only [placeCandidate, hfault, hwalker, hcredit, h, Bool.not_true, Bool.or_self, Bool.false_eq_true, if_false]

end

/-- Settles O32: dispatch, the lists, the barrier, the end of a task and its slice. -/
theorem scheduling : Obligations.Scheduling := by
  unfold Obligations.Scheduling
  refine ⟨fun s b x ecc => ?dispatch, fun s ctx t => ?running⟩
  case dispatch =>
    dsimp only
    intro hvalid hdrain hfirst
    have hgo : exec (.dispatch b ecc) s = .next (dispatch b ecc s) := rfl
    simp only [dispatch, hvalid, hdrain, hfirst, Bool.not_true, Bool.or_self, Bool.false_eq_true, if_false] at hgo
    refine ⟨fun hecc => goes_of_eq hgo (if_pos hecc), fun t hecc htask => ?_⟩
    simp only [hecc, htask, gt_iff_lt, if_false] at hgo
    refine ⟨fun hmany => goes_of_eq hgo (if_pos hmany), fun hfits => ?_⟩
    rw [if_neg (Nat.not_lt.mpr hfits)] at hgo
    refine ⟨fun hfew => goes_of_eq hgo (if_pos hfew), fun hfree hgone => goes_of_eq hgo
      ((if_neg (Nat.not_lt.mpr hfree)).trans (if_pos hgone)), fun hfree hhost => ?_⟩
    rw [if_neg (Nat.not_lt.mpr hfree), if_neg (ne_true_of_eq_false hhost)] at hgo
    exact ⟨fun v hv => goes_of_eq hgo (placeCandidate_of_fault hv), fun hfault hwalker hcredit =>
      ⟨fun h => goes_of_eq hgo (placeCandidate_of_translated hfault hwalker hcredit h),
        fun va y h => goes_of_eq hgo (placeCandidate_of_untranslated hfault hwalker hcredit h)⟩⟩
  case running =>
    dsimp only
    intro htask hphase
    refine ⟨fun c l lost hcores hwalker hcredit => goes_of_eq rfl ?lists, fun ecc hcores hyield => ?barrier,
      fun hended hclosed => goes_of_eq rfl ?ended, fun hpreempt hslice => ?slice⟩
    case lists =>
      simp only [listBuild, htask, hcores, hphase, hwalker, hcredit, beq_self_eq_true, Bool.and_self, if_true]
    case barrier =>
      have hgo : exec (.yieldBarrier ctx ecc) s = .next (yieldBarrier ctx ecc s) := rfl
      have hcores : t.cores.isEmpty = false := by simpa using hcores
      simp only [yieldBarrier, htask, hphase, hcores, hyield, beq_self_eq_true, Bool.not_false, Bool.and_self,
        if_true] at hgo
      refine ⟨fun hwhole => goes_of_eq hgo ?passes, fun e he => goes_of_eq hgo (by simp only [he])⟩
      have hnone : (ecc.filter (fun e => t.cores.contains e.core.toNat)).find? (fun e => e.double.isSome) = none :=
        List.find?_eq_none.mpr fun e he => by simp [hwhole e he]
      simp only [hnone, passBarrier]
    case ended =>
      have hnone : t.cores.find? (fun c => (endsOpen (coreOf s c)).isSome) = none := by
        simpa [List.find?_eq_none] using hclosed
      simp only [taskEnd, htask, hphase, hended, hnone, beq_self_eq_true, Bool.and_self, if_true]
    case slice =>
      have hgo : exec (.sliceExpiry ctx) s = .next (sliceExpiry ctx s) := rfl
      have hslice : sliceTicks (bskOf s (ctxOf s ctx.toNat).basket.toNat) ≤ t.slice := by
        rw [sliceTicks, Nat.mul_comm]
        exact hslice
      have hdue : (t.phase == .running && !t.preempt &&
          decide (t.slice ≥ sliceTicks (bskOf s (ctxOf s ctx.toNat).basket.toNat))) = true := by
        rw [hphase, hpreempt, decide_eq_true hslice]
        rfl
      simp only [sliceExpiry, htask, hdue, if_true, BitVec.le_def] at hgo
      exact ⟨fun hwaits => goes_of_eq hgo (if_pos hwaits),
        fun hnone => goes_of_eq hgo (if_neg (ne_true_of_eq_false hnone))⟩

-- ---------------------------------------------------------------- runs (R85, R87, R95, R96, R484, R485)

theorem diagGo_of_allowed {s : State} {i : Initiator} {c : Nat} {cal : Bool} (h : runAllowed (coreOf s c) = true) :
    diagGo s i c cal = updTa s c (fun t => { t with
      diagBusy := true, diagKind := cal, calRun := cal, diagStatus := t.diagStatus ||| 1 }) :=
  if_pos h

theorem diagGo_of_refused {s : State} {i : Initiator} {c : Nat} {cal : Bool} (h : runAllowed (coreOf s c) = false) :
    diagGo s i c cal = regRefused s (coreOff c + 0x1050) (bitAt true 0 ||| bitAt cal 1) i :=
  if_neg (ne_true_of_eq_false h)

theorem forgeRuns_updCore (s : State) (c : Nat) (f : Core → Core) : forgeRuns (updCore s c f) = forgeRuns s := rfl

/-- The end of a vector run leaves the holds that the core counts (R485). -/
theorem recentHolds_updVu_diag (s : State) (c : Nat) (w : BitVec 13) :
    recentHolds (updCore s c (fun k => { k with vu := { k.vu with diagBusy := false, diagStatus := w } })) c =
      recentHolds s c := by
  simp only [recentHolds, coreOf_updCore_same]
  rfl

/-- Settles O33: the starts of the runs, then their ends. -/
theorem diagnosticRuns : Obligations.DiagnosticRuns := by
  unfold Obligations.DiagnosticRuns
  intro s core
  dsimp only
  refine ⟨fun hon => ⟨?runs, fun hst hidle => goes_of_gated rfl rfl hon ?vector⟩,
    fun fails hbusy hcal => goes_of_eq rfl ?diag, fun hbusy hcal => ⟨calPass s core.toNat, goes_of_eq rfl ?passes, ?_⟩,
    fun fails hbusy hcal hfails => ?fails, fun fail hbusy => ?vdone⟩
  case runs =>
    intro p hp
    have hgo : exec p.1 s = .next (diagGo s .forge core.toNat p.2) := by
      have hgated : exec p.1 s = .next (gated s (coreOff core.toNat + 0x1050) (if p.2 then 3 else 1) .forge
          (byForge .forge) (coreDom core.toNat) (fun s => diagGo s .forge core.toNat p.2)) := by
        revert p
        simp only [List.forall_mem_cons]
        exact ⟨rfl, rfl, fun _ hp => absurd hp List.not_mem_nil⟩
      exact hgated.trans (congrArg Host.Outcome.next (gated_of_allowed rfl hon))
    refine ⟨fun hallowed => goes_of_eq hgo (diagGo_of_allowed hallowed), fun hbar => goes_of_eq hgo ?_⟩
    rw [diagGo_of_refused hbar]
    cases p.2 with
    | false => exact congrArg (regRefused s · 1 .forge) (by unfold coreOff; omega)
    | true => exact congrArg (regRefused s · 3 .forge) (by unfold coreOff; omega)
  case vector =>
    have hst : ((coreOf s core.toNat).ta.st == .hold || (coreOf s core.toNat).ta.st == .uncal) = true := by
      simpa using hst
    exact if_pos (by rw [hst, hidle]; rfl)
  case diag => simp only [diagDone, hbusy, hcal, Bool.not_false, Bool.and_self, if_true, runEnd]
  case passes => simp only [calibrationDone, hbusy, hcal, Bool.and_self, List.isEmpty_nil, if_true]
  case fails =>
    have hgo : exec (.calibrationDone core fails) s = .next (calFail s core.toNat fails) := by
      have hfails : fails.isEmpty = false := by simpa using hfails
      show Host.Outcome.next (calibrationDone s core.toNat fails) = _
      simp only [calibrationDone, hbusy, hcal, hfails, Bool.and_self, Bool.false_eq_true, if_true, if_false]
    refine ⟨fun hforge hst => goes_of_eq hgo (if_pos ?_), fun h => goes_of_eq hgo (if_neg ?_)⟩
    · exact Bool.and_eq_true_iff.mpr ⟨hforge, by simpa using hst⟩
    · exact fun hboth => (Bool.and_eq_true_iff.mp hboth).elim fun hforge hst =>
        h.elim (fun h => absurd hforge (ne_true_of_eq_false h)) (fun h => absurd h (by simpa using hst))
  case vdone =>
    have hgo : exec (.vdiagDone core fail) s = .next (vdiagDone s core.toNat fail) := rfl
    simp only [vdiagDone, hbusy, if_true, forgeRuns_updCore, coreOf_updCore_same] at hgo
    refine ⟨fun hother => goes_of_eq hgo (if_neg (by rw [hother, Bool.and_false]; exact Bool.false_ne_true)),
      fun hforge hvector => ?_⟩
    rw [hforge, hvector, Bool.and_self, if_pos rfl] at hgo
    refine ⟨fun hpass hfew => goes_of_eq hgo (if_neg ?_), fun hfail => goes_of_eq hgo (if_pos ?_)⟩
    · rw [hpass, recentHolds_updVu_diag, decide_eq_false (Nat.not_le.mpr hfew)]
      exact Bool.false_ne_true
    · rw [Option.isSome_iff_ne_none.mpr hfail, Bool.true_or]
  simp only [calPass, runEnd, updTa, coreOf_updCore_same, beq_iff_eq, true_and]
  exact ⟨rfl, rfl⟩

-- ---------------------------------------------------------------- service (R84, R88, R90, R493, R494, R516)

theorem releasable_of_hold {s : State} {c : Nat} (hst : (coreOf s c).ta.st = .hold)
    (hidle : (coreOf s c).ta.diagBusy = false)
    (h : (coreOf s c).ta.repairHold ≠ none ∨ ((coreOf s c).task = none ∧ (coreOf s c).ta.calOk = true ∧
      (coreOf s c).ta.repairDue = false ∧ retirePending s c = false)) : releasable s c = true := by
  rcases h with h | ⟨htask, hcal, hdue, hpending⟩
  · simp [releasable, hst, hidle, Option.isSome_iff_ne_none.mpr h]
  · simp [releasable, hst, hidle, htask, hcal, hdue, hpending]

/-- A request of the mailbox to retire a core or to take one back that has no reserved field set (R494). -/
theorem readmitRow_of_clean {s : State} {m : Bool} {f : State → State} (htakes : mbxTakes s = true) (hop : mbxOp s = 9)
    (hclean : reqClean s [(1, 0x10F)] = true) (hbit : (reqW s 1).getLsbD 8 = m) : readmitRow s m f = f s :=
  (if_pos hbit).trans ((mbxRow_of_taken htakes hop).trans (if_pos hclean))

/-- Settles O34: release, repair, reset, then the mailbox's retirement and re-admission. -/
theorem coreService : Obligations.CoreService := by
  unfold Obligations.CoreService
  intro s core
  dsimp only
  refine ⟨fun hforge hst hidle h => goes_of_eq rfl (if_pos ?release), fun hard fails calFails hforge => ?repair,
    fun hon => ⟨fun htask hst => goes_of_gated rfl rfl hon (if_pos ?reset),
      fun htask => goes_of_gated rfl rfl hon (if_neg ?refused)⟩,
    fun htakes hop hclean hcore => ⟨fun hbit => ?retire, fun hbit fails vfails calFails => ?readmit⟩⟩
  case release => rw [hforge, releasable_of_hold hst hidle h, Bool.and_self]
  case repair =>
    have hgo : exec (.forgeRepair core hard fails calFails) s =
      .next (forgeRepair s core.toNat hard fails calFails) := rfl
    simp only [forgeRepair, hforge, Bool.not_true, Bool.false_eq_true, if_false] at hgo
    refine ⟨fun hhard hhold hidle => goes_of_eq hgo ?_, fun hhard hdue htask hidle => goes_of_eq hgo ?_,
      fun hhard hdue hst hmet => goes_of_eq hgo ?_⟩
    · simp only [hhard, hhold, hidle, decide_true, Bool.not_false, Bool.and_self, if_true]
    · simp only [hhard, hdue, htask, hidle, Option.isSome_none, Bool.or_self, Bool.false_eq_true, if_false, if_true]
    · simp only [hhard, hdue, hst, hmet, beq_self_eq_true, Bool.and_self, Bool.false_eq_true, if_false, if_true]
  case reset =>
    have hst : ((coreOf s core.toNat).ta.st == .retired || (coreOf s core.toNat).ta.st == .hold ||
        (bskOfCore s core.toNat).isNone) = true := by
      simpa [or_assoc] using hst
    exact Bool.and_eq_true_iff.mpr ⟨Option.isNone_iff_eq_none.mpr htask, hst⟩
  case refused => exact fun h => htask (Option.isNone_iff_eq_none.mp (Bool.and_eq_true_iff.mp h).1)
  case retire =>
    have hgo : exec .coreRetire s = .next (coreRetireReq s) := congrArg _ (readmitRow_of_clean htakes hop hclean hbit)
    simp only [coreRetireReq, hcore] at hgo
    refine ⟨fun h => goes_of_eq hgo (if_pos (by simpa using h)), fun hst hlast htask => goes_of_eq hgo ?_,
      fun hst hlast htask hhold => goes_of_eq hgo ?_⟩
    · simp only [beq_eq_false_iff_ne.mpr hst, hlast, htask, Option.isSome_none, Bool.or_self, Bool.false_and,
        Bool.false_eq_true, if_false]
    · simp only [beq_eq_false_iff_ne.mpr hst, hlast, Option.isSome_iff_ne_none.mpr htask, hhold, Option.isNone_none,
        Bool.or_self, Bool.and_self, Bool.false_eq_true, if_false, if_true]
  case readmit =>
    have hgo : exec (.coreReadmit fails vfails calFails) s = .next (coreReadmitReq s fails vfails calFails) :=
      congrArg _ (readmitRow_of_clean htakes hop hclean hbit)
    simp only [coreReadmitReq, coreRetiredTa, hcore] at hgo
    refine ⟨fun hst => goes_of_eq hgo ?_, fun hst hmany => goes_of_eq hgo ?_, fun hst hfew => goes_of_eq hgo ?_⟩
    · simp only [beq_eq_false_iff_ne.mpr hst, Bool.not_false, if_true]
    · simp only [hst, beq_self_eq_true, Bool.not_true, Bool.false_eq_true, if_false, ge_iff_le, hmany, if_true]
    · simp only [hst, beq_self_eq_true, Bool.not_true, Bool.false_eq_true, if_false, ge_iff_le, Nat.not_le.mpr hfew]

end Sys2Proof.Proofs
end

section
/-! PROOF. Requests of the peer and the other flits of a link (15: O36, O37). -/

namespace Sys2Proof.Proofs

open Sys2Proof Sys2Proof.Machine Sys2Proof.Says Sys2Proof.Laws

-- ---------------------------------------------------------------- requests of the peer (R429, R431, R435 to R437)

section
variable {s u : State} {l : LinkId} {b : BitVec 1024} (hinb : (linkOf s l.toNat).inb = none)
  (hhead : headRequest s l.toNat = (some b, u))
include hinb hhead

theorem winWrite_of_write (resp : Resp) (ecc : Ecc) (ht : bType b = txWinWrite) :
    winWrite l resp ecc s =
      let x := tableEcc (updLink u l.toNat (takeFlits 1 vcRequest)) (srcLink l.toNat) none ecc
      let st := tableStatus (winTest x l.toNat b 0) ecc
      inbGo (setInb (if st = 0 then x else winRefused x l.toNat b st) l.toNat (some {
        body := b, total := bLines b, applied := 0, status := st })) l.toNat resp := by
  have hwrite : ¬(txWinWrite = txWinRead ∨ txWinWrite = txFenceSig) := by decide
  simp only [winWrite, hinb, hhead, ht, hwrite, Option.isSome_none, Bool.false_eq_true, if_false, if_true]

theorem winWrite_of_unknown (resp : Resp) (ecc : Ecc) (ht : bType b ∉ [txWinWrite, txWinRead, txFenceSig]) :
    winWrite l resp ecc s =
      let x := tableEcc (updLink u l.toNat (takeFlits 1 vcRequest)) (srcLink l.toNat) none ecc
      inbGo (setInb (winRefused x l.toNat b 7) l.toNat (some {
        body := b, total := 0, applied := 0, status := 7 })) l.toNat resp := by
  simp only [List.mem_cons, List.not_mem_nil, or_false, not_or] at ht
  obtain ⟨hwrite, hread, hsig⟩ := ht
  have hseven : ¬((7 : Byte) = 0) := by decide
  simp only [winWrite, hinb, hhead, hwrite, hread, hsig, hseven, Option.isSome_none, Bool.false_eq_true, or_self,
    if_false]

theorem winRead_of_read (resp : Resp) (ht : bType b = txWinRead) :
    winRead l resp s =
      let t := updLink u l.toNat (takeFlits 1 vcRequest)
      let st := winTest t l.toNat b 1
      if st ≠ 0 then sendCompletion (winRefused t l.toNat b st) l.toNat (bTag b) st 0 0 []
      else
        match (readLines t l.toNat b resp).1 with
        | .ok d => sendCompletion (readLines t l.toNat b resp).2 l.toNat (bTag b) 0 0 0 d
        | .error e => sendCompletion (winRefused (readLines t l.toNat b resp).2 l.toNat b e) l.toNat (bTag b) e 0 0
            [] := by
  simp only [winRead, hinb, hhead, ht, Option.isSome_none, Bool.false_eq_true, ne_eq, not_true_eq_false, if_false] <;>
    rfl

theorem fenceSig_of_signal (resp : Resp) (ht : bType b = txFenceSig) :
    fenceSig l resp s =
      let n := l.toNat
      let t := updLink u n (takeFlits 1 vcRequest)
      let st := winTest t n b 2
      let x := winOf t n (bWindow b)
      let pa := winPa t n x (bOffset b)
      if st ≠ 0 then sendCompletion (winRefused t n b st) n (bTag b) st 0 0 []
      else if !physOk t x.engine pa (pa + 7) then sendCompletion t n (bTag b) 6 0 0 []
      else if resp ≠ .ok then
        sendCompletion (fenceError (scramble t pa 8) none (BitVec.ofNat 64 pa)) n (bTag b) 6 0 0 []
      else
        sendCompletion (fenceRaise t none (BitVec.ofNat 64 pa) (bValue b)).2 n (bTag b) 0
          (fenceRaise t none (BitVec.ofNat 64 pa) (bValue b)).1 0 [] := by
  simp only [fenceSig, hinb, hhead, ht, Option.isSome_none, Bool.false_eq_true, ne_eq, not_true_eq_false, if_false]

end

theorem fenceRaise_old (s : State) (c : Option Nat) (a w : DWord) : (fenceRaise s c a w).1 = rd64 s.mem a.toNat := rfl

/-- Settles O36: the peer's writes, reads and fence signals, tested and performed. -/
theorem peerRequests : Obligations.PeerRequests := by
  unfold Obligations.PeerRequests
  intro s l resp ecc b u
  dsimp only
  intro hinb hhead
  refine ⟨fun ht => ?write, fun ht => ?read, fun ht => ?unknown, fun ht hst => ?refused, fun ht hst => ?signal⟩
  case write =>
    have hgo : exec (.winWrite l resp ecc) s = .next (winWrite l resp ecc s) := rfl
    rw [winWrite_of_write hinb hhead resp ecc ht] at hgo
    refine ⟨fun hst => goes_of_eq hgo ?_, fun hst => goes_of_eq hgo ?_⟩
    · simp only [hst, if_true]
    · simp only [hst, if_false]
  case unknown => exact goes_of_eq rfl (winWrite_of_unknown hinb hhead resp ecc ht)
  case read =>
    have hgo : exec (.winRead l resp) s = .next (winRead l resp s) := rfl
    rw [winRead_of_read hinb hhead resp ht] at hgo
    refine ⟨fun hst => goes_of_eq hgo (if_pos hst), fun hst => ⟨fun d v hd => ?_, fun e v he => ?_⟩⟩
    · exact goes_of_eq hgo (by simp only [hst, hd, ne_eq, not_true_eq_false, if_false])
    · exact goes_of_eq hgo (by simp only [hst, he, ne_eq, not_true_eq_false, if_false])
  case refused =>
    exact goes_of_eq rfl ((fenceSig_of_signal hinb hhead resp ht).trans (if_pos hst))
  case signal =>
    have hgo : exec (.fenceSig l resp) s = .next (fenceSig l resp s) := rfl
    rw [fenceSig_of_signal hinb hhead resp ht] at hgo
    refine ⟨fun hpa => goes_of_eq hgo ?_, fun hpa hresp => goes_of_eq hgo ?_⟩
    · simp only [hst, hpa, ne_eq, not_true_eq_false, Bool.not_false, if_false, if_true]
    · simp only [hst, hpa, hresp, ne_eq, not_true_eq_false, Bool.not_true, Bool.false_eq_true, if_false,
        fenceRaise_old]

-- ---------------------------------------------------------------- lines, messages and completions (R426, R430, R439)

section
variable {s : State} {l : LinkId} {a : ApLine} {rest : List ApLine} (hlines : (linkOf s l.toNat).apLines = a :: rest)
include hlines

theorem apertureLine_of_active (hst : (linkOf s l.toNat).st = .active) :
    apertureLine l s =
      let u := setLink s l.toNat { linkOf s l.toNat with apLines := rest }
      if a.store && decide (a.core < 16) then sentCheck (gatherLine u l.toNat a) a.core a.ref.tag.toNat
      else gatherLine u l.toNat a := by
  have hretrain : ((linkOf s l.toNat).st == LinkSt.retrain) = false := by rw [hst]; rfl
  have hactive : ((linkOf s l.toNat).st == LinkSt.active) = true := by rw [hst]; rfl
  simp only [apertureLine, hlines, hretrain, hactive, Bool.false_eq_true, if_false, if_true]

theorem apertureLine_of_down (hst : (linkOf s l.toNat).st = .down) :
    apertureLine l s = apLineLost l.toNat (setLink s l.toNat { linkOf s l.toNat with apLines := rest }) a := by
  have hretrain : ((linkOf s l.toNat).st == LinkSt.retrain) = false := by rw [hst]; rfl
  have hactive : ((linkOf s l.toNat).st == LinkSt.active) = false := by rw [hst]; rfl
  simp only [apertureLine, hlines, hretrain, hactive, Bool.false_eq_true, if_false]

theorem apertureLine_of_retrain (hst : (linkOf s l.toNat).st = .retrain) : apertureLine l s = s := by
  have hretrain : ((linkOf s l.toNat).st == LinkSt.retrain) = true := by rw [hst]; rfl
  simp only [apertureLine, hlines, hretrain, if_true]

end

section
variable {s : State} {l : LinkId} {f : Flit}
  (hhead : vcHead (linkOf (updLink s l.toNat (fun k => dropStray k vcControl)) l.toNat).rxBuf
    (BitVec.ofNat 2 vcControl) = some f)
include hhead

theorem msg_of_head :
    msg l s =
      let n := l.toNat
      let v := updLink (updLink s n (fun k => dropStray k vcControl)) n (takeFlits 1 vcControl)
      let b := f.body
      let e := geqEntry v 0x173 (srcLink n) none (bits b 128 64) (bits b 192 64) false false
      if !(decide (bType b = txMsg) && bodyOk b) then sendCompletion (winRefused v n b 7) n (bTag b) 7 0 0 []
      else if bForge b then
        if inboxRoom v then sendCompletion (inboxPut v e) n (bTag b) 0 0 0 []
        else sendCompletion v n (bTag b) 8 0 0 []
      else sendCompletion (geqPut v e) n (bTag b) (if geqFull v then 8 else 0) 0 0 [] := by
  simp only [msg, hhead]

end

section
variable {s : State} {l : LinkId} {f : Flit} {rest : List Flit}
  (hflits : vcFlits (linkOf (updLink s l.toNat (fun k => dropStray k vcResponse)) l.toNat) vcResponse = f :: rest)
include hflits

theorem completion_of_unmatched
    (h : bType f.body ≠ txCompletion ∨
      txnFor (linkOf (updLink s l.toNat (fun k => dropStray k vcResponse)) l.toNat) f.body = none) :
    completion l s = updLink (updLink s l.toNat (fun k => dropStray k vcResponse)) l.toNat (takeFlits 1 vcResponse) := by
  have hnone : (if bType f.body = txCompletion then
      txnFor (linkOf (updLink s l.toNat (fun k => dropStray k vcResponse)) l.toNat) f.body else none) = none := by
    rcases h with h | h
    · exact if_neg h
    · simp only [h, ite_self]
  simp only [completion, hflits, hnone]

theorem completion_without_data {tag : Nat} {t : Txn} (ht : bType f.body = txCompletion)
    (htxn : txnFor (linkOf (updLink s l.toNat (fun k => dropStray k vcResponse)) l.toNat) f.body = some (tag, t))
    (h : t.type.toNat ≠ txWinRead ∨ bStatus f.body ≠ 0) :
    completion l s = txnEnds (updLink (updLink s l.toNat (fun k => dropStray k vcResponse)) l.toNat
      (takeFlits 1 vcResponse)) l.toNat tag t (bStatus f.body) [] := by
  have hread : ¬(bStatus f.body = 0 ∧ t.type.toNat = txWinRead) := by
    rintro ⟨hok, hread⟩
    exact h.elim (fun h => h hread) (fun h => h hok)
  simp only [completion, hflits, ht, if_true, htxn, hread, if_false, List.take_zero, List.length_nil, Nat.lt_irrefl,
    ne_eq, not_true_eq_false, false_and, or_self, Nat.add_zero, List.map_nil]

end

/-- Settles O37: lines of an aperture, messages, completions and transactions that are lost. -/
theorem linkTransactions : Obligations.LinkTransactions := by
  unfold Obligations.LinkTransactions
  intro s l
  dsimp only
  refine ⟨fun a rest hlines => ?line, fun core hst => ?run, fun f hhead => ?message, fun f rest hflits => ?completes,
    fun tag t ht hage => ?timeout⟩
  case line =>
    have hgo : exec (.apertureLine l) s = .next (apertureLine l s) := rfl
    refine ⟨fun hst hload => goes_of_eq hgo ?_, fun hst hstore hcore => goes_of_eq hgo ?_, fun hst => ?_, fun hst => ?_⟩
    · simp only [apertureLine_of_active hlines hst, hload, Bool.false_and, Bool.false_eq_true, if_false]
    · simp only [apertureLine_of_active hlines hst, hstore, hcore, decide_true, Bool.and_self, if_true]
    · exact goes_of_eq hgo (apertureLine_of_down hlines hst)
    · exact goes_of_eq hgo (apertureLine_of_retrain hlines hst)
  case run =>
    have hgo : exec (.runTimeout l core) s = .next (runTimeout l core s) := rfl
    have hactive : ((linkOf s l.toNat).st == LinkSt.active) = true := by rw [hst]; rfl
    exact goes_of_eq hgo (by simp only [runTimeout, hactive, if_true, ge_iff_le])
  case message =>
    have hgo : exec (.msg l) s = .next (msg l s) := rfl
    rw [msg_of_head hhead] at hgo
    refine ⟨fun hbad => goes_of_eq hgo (if_pos ?bad), fun ht hok => ⟨fun hforge hroom => goes_of_eq hgo ?put,
      fun hforge hfull => goes_of_eq hgo ?full, fun hforge => goes_of_eq hgo ?geq⟩⟩
    case bad =>
      rcases hbad with hbad | hbad
      · simp only [hbad, decide_false, Bool.false_and, Bool.not_false]
      · simp only [hbad, Bool.and_false, Bool.not_false]
    case put =>
      simp only [ht, hok, hforge, hroom, decide_true, Bool.and_self, Bool.not_true, Bool.false_eq_true, if_false,
        if_true]
    case full =>
      simp only [ht, hok, hforge, hfull, decide_true, Bool.and_self, Bool.not_true, Bool.false_eq_true, if_false,
        if_true]
    case geq =>
      simp only [ht, hok, hforge, decide_true, Bool.and_self, Bool.not_true, Bool.false_eq_true, if_false]
  case completes =>
    exact ⟨fun h => goes_of_eq rfl (completion_of_unmatched hflits h),
      fun tag t ht htxn h => goes_of_eq rfl (completion_without_data hflits ht htxn h)⟩
  case timeout =>
    have hgo : exec (.transactionTimeout l tag) s = .next (transactionTimeout l tag s) := rfl
    exact goes_of_eq hgo (by simp only [transactionTimeout, ht, ge_iff_le, hage, if_true])

end Sys2Proof.Proofs
end

section
/-! PROOF. Service of the fabric and of the Forge (17: O41). -/

namespace Sys2Proof.Proofs

open Sys2Proof Sys2Proof.Machine Sys2Proof.Says Sys2Proof.Laws

-- ---------------------------------------------------------------- resends and the watchdog (R483, R489, R490)

theorem packetResend_of_live {s : State} {link : Nat} (again : Bool) (hlink : link < 40)
    (hretired : s.svc.meshRetired.getLsbD link = false) :
    packetResend s link again =
      let n := if again then mget 0 s.svc.resends link + 1 else 0
      if n ≥ 16 then retireLink s link
      else updSvc (count s 262 1) (fun v => { v with resends := mset 0 v.resends link n }) := by
  simp only [packetResend, hlink, hretired, decide_true, Bool.not_false, Bool.and_self, if_true]

/-- The store of a Forge that its watchdog stops: a commit that is under way has not started. -/
def commitDropped (x : Store) : Store :=
  { x with commitBusy := false, lastStart := if x.commitBusy then none else x.lastStart }

/-- The Forge started again, or held for a second expiry within 600 s. -/
def afterExpiry (s : State) (again : Bool) : State :=
  let s := { s with store := commitDropped s.store, mbx := { s.mbx with forgeReady := false } }
  if again then recoveredEntry (updSvc s (fun v => { v with halted := true })) true
  else updSvc s (fun v => { v with recovering := true, update := none })

/-- R490: whether the last recovery lies less than 600 s back. -/
def expiredAgain (s : State) : Bool :=
  match s.svc.lastRecovery with
  | some t => decide ((now s - t).toNat < 60000000000)
  | none => false

theorem expiredAgain_of_none {s : State} (h : s.svc.lastRecovery = none) : expiredAgain s = false := by
  simp only [expiredAgain, h]

theorem expiredAgain_of_recent {s : State} {r : DWord} (h : s.svc.lastRecovery = some r)
    (hage : (now s - r).toNat < 60000000000) : expiredAgain s = true := by
  simp only [expiredAgain, h, hage, decide_true]

theorem forgeWatchdogExpiry_of_silent {s : State} (hruns : forgeRuns s = true) (hready : s.mbx.forgeReady = true)
    (hsilent : 10000000 ≤ (now s - s.svc.wdog).toNat) :
    forgeWatchdogExpiry s = afterExpiry s (expiredAgain s) := by
  simp only [forgeWatchdogExpiry, hruns, hready, hsilent, decide_true, Bool.and_self, if_true]
  rfl

theorem recoveredEntry_frame (s : State) (halted : Bool) :
    (recoveredEntry s halted).mbx = s.mbx ∧ (recoveredEntry s halted).store = s.store ∧
      (recoveredEntry s halted).svc.halted = s.svc.halted ∧
      (recoveredEntry s halted).svc.recovering = s.svc.recovering := by
  cases halted
  · obtain ⟨g, m, b, hpost⟩ := post_eq s 0x1D2 srcForge none 0 0
    simp only [recoveredEntry, Bool.false_eq_true, if_false, hpost, and_self]
  · obtain ⟨g, m, b, hput⟩ := geqPut_eq s (geqEntry s 0x1D2 srcForge none 0 0 true false)
    simp only [recoveredEntry, if_true, postReplace, hput, and_self]

theorem afterExpiry_frame (s : State) (again : Bool) :
    (afterExpiry s again).mbx.forgeReady = false ∧ (afterExpiry s again).store.commitBusy = false ∧
      (again = true → (afterExpiry s again).svc.halted = true ∧
        (afterExpiry s again).svc.recovering = s.svc.recovering) := by
  cases again
  · exact ⟨rfl, rfl, nofun⟩
  · obtain ⟨hmbx, hstore, hhalted, hrecovering⟩ := recoveredEntry_frame (updSvc { s with
      store := commitDropped s.store, mbx := { s.mbx with forgeReady := false } }
      (fun v => { v with halted := true })) true
    exact ⟨(congrArg Mbx.forgeReady hmbx :), (congrArg Store.commitBusy hstore :), fun _ => ⟨hhalted, hrecovering⟩⟩

-- ---------------------------------------------------------------- update and handover (R491)

theorem handoverTimeout_of_due {s : State} {q : Update} (hupdate : s.svc.update = some q)
    (hhand : s.mbx.handover = true) (hage : 200000 ≤ (now s - q.since).toNat) :
    handoverTimeout s = updateReply (post { s with
      mbx := { s.mbx with handover := false, forgeReady := true }
      svc := { s.svc with wdog := now s } } 0x1D1 srcForge none 0 0) 5 [] := by
  unfold handoverTimeout
  split
  · next u hu =>
    cases hupdate.symm.trans hu
    exact if_pos (by rw [hhand, decide_eq_true (show _ ≥ _ from hage), Bool.and_self])
  · next hnone => exact absurd (hnone.symm.trans hupdate) nofun

theorem now_mbxKeep (s : State) : now (mbxKeep s) = now s := by
  unfold mbxKeep
  split <;> rfl

theorem fwUpdate_of_asked {s : State} (authentic : Bool) (version : Word) (hnone : s.svc.update = none)
    (htakes : mbxTakes s = true) (hop : mbxOp s = 8)
    (hclean : reqClean s [(1, 0xFFFFFFFF), (2, 0xFFFFFFFF), (3, 0xFFFFFFFF), (4, 1)] = true)
    (halign : reqW s 1 &&& 0xFFF = 0) (hlow : 1 ≤ (reqW s 3).toNat) (hhigh : (reqW s 3).toNat ≤ 524288) :
    fwUpdate s authentic version =
      let k := mbxKeep s
      let q : Update := { tag := mbxTag s, version := version, authentic := true, loaded := true, since := now s }
      if !authentic then mbxReply s 3 []
      else if quiescent k then handOver k q else updSvc k (fun v => { v with update := some q }) := by
  have hsize : ¬(reqW s 1 &&& 0xFFF ≠ 0 ∨ (reqW s 3).toNat = 0 ∨ (reqW s 3).toNat > 524288) := by
    rintro (h | h | h)
    · exact h halign
    · omega
    · omega
  simp only [fwUpdate, hnone, mbxOpRow, mbxRow_of_taken htakes hop, hclean, if_true, fwUpdateReq, hsize, if_false]

/-- Settles O41: resends, the watchdog, recovery, update, handover and reminders. -/
theorem forgeService : Obligations.ForgeService := by
  unfold Obligations.ForgeService
  intro s
  dsimp only
  refine ⟨fun link hlink hlive => ?resend, fun v hon hgo => ?kick, fun hruns hready hsilent => ?expiry,
    fun hrecovering => ?recovered,
    fun authentic version hnone htakes hop hclean halign hlow hhigh => ?asked,
    fun q authentic version hupdate hnot hruns hquiet => ?starts, fun q hupdate => ⟨fun hhand => ?hand,
    fun hhand hage => ?noQuiet⟩, fun hruns hdue hage => ?remind⟩
  case resend =>
    have hgo (again : Bool) : exec (.packetResend link again) s = .next (packetResend s link again) := rfl
    refine ⟨goes_of_eq (hgo false) ?_, fun hfew => goes_of_eq (hgo true) ?_, fun hmany => goes_of_eq (hgo true) ?_⟩
    · exact (packetResend_of_live false hlink hlive).trans (if_neg (Nat.not_le_of_lt (show 0 < 16 by decide)))
    · exact (packetResend_of_live true hlink hlive).trans (if_neg (Nat.not_le.mpr hfew))
    · exact (packetResend_of_live true hlink hlive).trans (if_pos hmany)
  case kick => exact goes_of_gated rfl rfl hon (if_pos hgo)
  case expiry =>
    have hgo : exec .forgeWatchdogExpiry s = .next (forgeWatchdogExpiry s) := rfl
    rw [forgeWatchdogExpiry_of_silent hruns hready hsilent] at hgo
    obtain ⟨hready, hbusy, hsvc⟩ := afterExpiry_frame s (expiredAgain s)
    refine ⟨_, hgo, hready, hbusy, fun hnone => ?_, fun r hr hage => ?_⟩
    · rw [expiredAgain_of_none hnone]
      exact ⟨rfl, rfl⟩
    · rw [expiredAgain_of_recent hr hage] at hsvc ⊢
      exact hsvc rfl
  case recovered => exact goes_of_eq rfl (if_pos hrecovering)
  case asked =>
    have hgo : exec (.fwUpdate authentic version) s = .next (fwUpdate s authentic version) := rfl
    rw [fwUpdate_of_asked authentic version hnone htakes hop hclean halign hlow hhigh] at hgo
    refine ⟨fun hauth => goes_of_eq hgo ?_, fun hauth hquiet => goes_of_eq hgo ?_,
      fun hauth hquiet => goes_of_eq hgo ?_⟩
    · simp only [hauth, Bool.not_false, if_true]
    · simp only [hauth, hquiet, Bool.not_true, Bool.false_eq_true, if_false]
      rfl
    · simp only [hauth, hquiet, Bool.not_true, Bool.false_eq_true, if_false, if_true]
      simp only [handOver, updSvc, now_mbxKeep]
  case starts =>
    have hgo : exec (.fwUpdate authentic version) s = .next (fwUpdate s authentic version) := rfl
    exact goes_of_eq hgo (by
      simp only [fwUpdate, hupdate, hnot, hruns, hquiet, Bool.not_false, Bool.and_self, if_true, handOver, updSvc])
  case hand =>
    have hready : exec .handoverReady s = .next (handoverReady s) := rfl
    refine ⟨goes_of_eq hready ?_, fun hage => goes_of_eq rfl (handoverTimeout_of_due hupdate hhand hage)⟩
    simp only [handoverReady, hupdate, hhand, if_true]
    rfl
  case noQuiet =>
    have hgo : exec .quiescenceTimeout s = .next (quiescenceTimeout s) := rfl
    exact goes_of_eq hgo (by
      simp only [quiescenceTimeout, hupdate, hhand, ge_iff_le, hage, decide_true, Bool.not_false, Bool.and_self,
        if_true, updateReply, updSvc])
  case remind =>
    have hgo : exec .replaceReminder s = .next (replaceReminder s) := rfl
    exact goes_of_eq hgo (by
      simp only [replaceReminder, hruns, ne_eq, hdue, not_false_eq_true, ge_iff_le, hage, decide_true, Bool.and_self,
        if_true, remind, if_false, updSvc])

end Sys2Proof.Proofs
end

section
/-! PROOF. Block resets and loss of power (18: O43). -/

namespace Sys2Proof.Proofs

open Sys2Proof Sys2Proof.Machine Sys2Proof.Says Sys2Proof.Laws

-- ---------------------------------------------------------------- what the start of a block leaves (R517 to R519)

/-- A block on its way from reset, with memory `m`: nothing but reset state in the parts that its start does not
reach, so that no entry goes to the event log of an absent host. -/
structure Starting (m : List Host.Cell) (t : State) : Prop where
  mem : t.mem = m
  hosted : t.cp.detached = false
  ctxs : t.cp.ctxs = []
  baskets : t.baskets = []
  atu : t.atu = State.reset.atu
  lock : t.pwr.lock = true
  loaded : t.temper.loaded = true

section
variable {m : List Host.Cell} {s : State} (h : Starting m s)
include h

/-- Entries, events, counters and the words of Temper are open while the block starts. -/
theorem Starting.with {g : Geq} {b : Sb} {p : Pwr} {v : Svc} {x : Temper} {y : Tel} {n : Nat}
    (hlock : p.lock = true) (hloaded : x.loaded = true) :
    Starting m { s with geq := g, sb := b, pwr := p, svc := v, temper := x, tel := y, freeCount := n } :=
  { h with lock := hlock, loaded := hloaded }

theorem Starting.updPwr {f : Pwr → Pwr} (hf : (f s.pwr).lock = true) : Starting m (updPwr s f) :=
  h.with hf h.loaded

theorem Starting.post (code source : Nat) (obj detail : DWord) : Starting m (post s code source none obj detail) := by
  have hmem : (Machine.post s code source none obj detail).mem = s.mem := post_mem nofun
  obtain ⟨g, n, b, hpost⟩ := post_eq s code source none obj detail
  rw [hpost] at hmem ⊢
  obtain rfl : n = s.mem := hmem
  exact h.with h.lock h.loaded

theorem Starting.toPoint (p : Nat × Nat) : Starting m (toPoint s p) := by
  unfold Machine.toPoint
  split
  · exact h
  · dsimp only
    obtain ⟨x, hx⟩ := trace_eq (Machine.updPwr s (fun w => { w with
      div := BitVec.ofNat 2 p.1, gate := BitVec.ofNat 3 p.2 })) 7 srcPwr none 0
      (BitVec.ofNat 128 (p.1 + p.2 * 256 + s.pwr.est.toNat * 65536))
    exact hx ▸ h.with h.lock h.loaded

theorem Starting.sense (l : List (BitVec 11)) (bad : BitVec 20) : Starting m (sense s l bad) :=
  h.with h.lock h.loaded

end

/-- What every step of a fold keeps, the fold keeps. -/
theorem Starting.foldl {α : Type} {m : List Host.Cell} {f : State → α → State}
    (hf : ∀ t a, Starting m t → Starting m (f t a)) (l : List α) {s : State} (h : Starting m s) :
    Starting m (l.foldl f s) := by
  induction l generalizing s with
  | nil => exact h
  | cons a l ih => exact ih (hf s a h)

theorem temperPump_eq (s : State) :
    ∃ x, temperPump s = { s with temper := x } ∧ x.loaded = s.temper.loaded := by
  unfold temperPump
  split
  · exact ⟨s.temper, rfl, rfl⟩
  · split
    · exact ⟨_, rfl, rfl⟩
    · exact ⟨s.temper, rfl, rfl⟩

/-- A word that stands already waits no longer; any other starts when the array is free. -/
theorem waitChanged_eq (s : State) (l n : List (Nat × Word)) (same : Bool) :
    ∃ x, (if same then { s with temper := { s.temper with wait := l } }
        else temperPump { s with temper := { s.temper with wait := n } }) = { s with temper := x } ∧
      x.loaded = s.temper.loaded := by
  cases same
  · exact temperPump_eq _
  · exact ⟨_, rfl, rfl⟩

theorem forgeTemper_eq (s : State) (w : Nat) (v : Word) (routine : Bool) :
    ∃ x, forgeTemper s w v routine = { s with temper := x } ∧ x.loaded = s.temper.loaded := by
  unfold forgeTemper
  dsimp only
  split
  · exact ⟨s.temper, rfl, rfl⟩
  · exact waitChanged_eq s _ _ _

section
variable {m : List Host.Cell} {s : State} (h : Starting m s)
include h

theorem Starting.forgeTemper (w : Nat) (v : Word) (routine : Bool) : Starting m (forgeTemper s w v routine) := by
  obtain ⟨x, hx, hloaded⟩ := forgeTemper_eq s w v routine
  exact hx ▸ h.with h.lock (hloaded.trans h.loaded)

theorem Starting.sensorBad (old : BitVec 20) : Starting m (sensorBad s old) :=
  Starting.foldl (fun _ _ ht => (ht.updPwr (by exact ht.lock)).post _ _ _ _) _ h

theorem Starting.thermTrip : Starting m (thermTrip s) := by
  unfold Machine.thermTrip
  split
  · split
    · exact h
    · exact (((h.toPoint slowest).updPwr (h.toPoint slowest).lock).post _ _ _ _).forgeTemper _ _ _
  · exact h

theorem Starting.thermHigh : Starting m (thermHigh s) := by
  unfold Machine.thermHigh
  split
  · split
    · exact h
    · exact ((h.updPwr h.lock).updPwr (by exact h.lock)).post _ _ _ _
  · exact h.updPwr h.lock

theorem Starting.thermRead (l : List (BitVec 11)) (bad : BitVec 20) : Starting m (thermRead s l bad) := by
  have hread := (h.sense l bad).sensorBad s.pwr.invalid
  unfold Machine.thermRead
  dsimp only
  split
  · exact (hread.toPoint slowest).thermHigh.thermTrip
  · exact hread.thermHigh.thermTrip

theorem Starting.resetCore (c : Nat) (enabled : Bool) : Starting m (resetCore s c enabled) :=
  { h with }

end

/-- Reset of every core leaves Temper's words, the Forge and the domains. -/
theorem foldl_resetCore_frame (l : List Nat) (s : State) :
    let t := l.foldl (fun s c => resetCore s c (coreEnabled s c)) s
    t.svc = s.svc ∧ t.pwr = s.pwr := by
  induction l generalizing s with
  | nil => exact ⟨rfl, rfl⟩
  | cons c l ih => exact ih (resetCore s c (coreEnabled s c))

/-- Temper, the mesh and the sensors at the start of a block, and the operating point that its heat asks for. -/
def startSensed (s : State) (i : StartInputs) : State :=
  let s := meshStart (temperStart s i.temper)
  let s := thermRead (updPwr s (fun w => { w with lock := true, div := 0, gate := 0 })) i.readings i.selfTestFail
  if thermAbove s 0 then toPoint s slowest else s

/-- The Forge's domain on, and the Forge held. -/
def forgeHeld (s : State) : State :=
  updSvc (setOn (setEn s 208 true) 208 true) (fun v => { v with held := true, version := 0 })

/-- The start of a block whose firmware is not authentic (R519). -/
theorem startUp_of_forged {s : State} {i : StartInputs} (hauth : i.authentic = false) :
    startUp s i = (List.range 16).foldl (fun s c => resetCore s c (coreEnabled s c)) (forgeHeld (startSensed s i)) := by
  simp only [startUp, hauth, Bool.false_eq_true, if_false]
  rfl

theorem domOn_forgeHeld (s : State) : domOn (forgeHeld s) 208 = true := by
  simp [domOn, forgeHeld, setOn, updSvc, Machine.updPwr, domBit]

theorem starting_startSensed (s : State) (i : StartInputs) : Starting s.mem (startSensed (cleared s) i) := by
  have hbase : Starting s.mem (updPwr (meshStart (temperStart (cleared s) i.temper))
      (fun w => { w with lock := true, div := 0, gate := 0 })) := ⟨rfl, rfl, rfl, rfl, rfl, rfl, rfl⟩
  have hread := hbase.thermRead i.readings i.selfTestFail
  unfold startSensed
  dsimp only
  split
  · exact hread.toPoint slowest
  · exact hread

theorem starting_forgeHeld {m : List Host.Cell} {s : State} (h : Starting m s) : Starting m (forgeHeld s) :=
  h.with h.lock h.loaded

/-- Settles O43: the three ways to the state after reset, and the start of a block whose Forge is held. -/
theorem blockResets : Obligations.BlockResets := by
  unfold Obligations.BlockResets
  intro s i
  dsimp only
  have hcold : exec (.blockColdReset i) s = .next (blockColdReset s i) := rfl
  refine ⟨fun hlock => goes_of_eq hcold (if_neg (ne_true_of_eq_false hlock)), fun hlock => goes_of_eq hcold (if_pos hlock),
    goes_of_eq rfl rfl, fun hlock hauth => ?held, fun step torn => goes_of_eq rfl rfl⟩
  have hstart : blockColdReset s i = startUp (cleared s) i := if_pos hlock
  have hforge := starting_forgeHeld (starting_startSensed s i)
  have hend := hforge.foldl (fun t c ht => ht.resetCore c (coreEnabled t c)) (List.range 16)
  obtain ⟨hsvc, hpwr⟩ := foldl_resetCore_frame (List.range 16) (forgeHeld (startSensed (cleared s) i))
  refine ⟨_, goes_of_eq hcold (hstart.trans (startUp_of_forged hauth)), hend.mem, congrArg Svc.held hsvc, hend.lock,
    ?_, hend.loaded, hend.atu, hend.ctxs, hend.baskets⟩
  exact (congrArg (fun p : Pwr => p.on.getLsbD 208) hpwr).trans (domOn_forgeHeld _)

end Sys2Proof.Proofs
end

section
/-! PROOF. Snapshots and the trace ring (20: O44). -/

namespace Sys2Proof.Proofs

open Sys2Proof Sys2Proof.Machine Sys2Proof.Says Sys2Proof.Laws

-- ---------------------------------------------------------------- a snapshot (R551 to R553)

theorem trace_tel_eq (s : State) (type source : Nat) (ctx : Option Nat) (mask : BitVec 16) (payload : BitVec 128) :
    ∃ q n b, trace s type source ctx mask payload =
      { s with tel := { s.tel with queue := q, lost := n, lostPend := b } } := by
  unfold trace
  split
  · split <;> exact ⟨_, _, _, rfl⟩
  · exact ⟨s.tel.queue, s.tel.lost, s.tel.lostPend, rfl⟩

theorem armNext_eq (n : DWord) (s : State) : armNext n s = { s with tel := { s.tel with
    pending := if s.tel.period = 0 then s.tel.pending else some (n + s.tel.period.setWidth 64) } } := by
  unfold armNext
  split <;> rfl

theorem takeSnapshot_frame (s : State) (t : DWord) :
    ∃ q n b, takeSnapshot s t = { copied s t with tel := { (copied s t).tel with
      queue := q, lost := n, lostPend := b
      pending := if s.tel.period = 0 then none else some (now s + s.tel.period.setWidth 64) } } := by
  obtain ⟨payload, htake⟩ := takeSnapshot_eq s t
  obtain ⟨q, n, b, htrace⟩ := trace_tel_eq (copied s t) 8 srcTel none 0 payload
  exact ⟨q, n, b, by rw [htake, htrace, armNext_eq]; rfl⟩

-- ---------------------------------------------------------------- the trace ring (R555, R558)

theorem rdByte_putRecords_other (m : List Host.Cell) (phase : Bool) (a b : Nat) (l : List TraceRec)
    (h : b < a ∨ a + 32 * l.length ≤ b) : rdByte (putRecords m phase a l) b = rdByte m b := by
  induction l generalizing m a with
  | nil => rfl
  | cons r l ih =>
    rw [List.length_cons] at h
    rw [putRecords, ih _ _ (by omega), rdByte_wrNat_other _ _ _ _ _ (by omega)]

section
variable {s : State} (hqueue : 4 ≤ s.tel.queue.length) (hen : s.tel.traceEn = true) (hclocks : s.pwr.lostSince = none)
  (hpaced : linePaced s = false) (hroom : traceRoom s = true)
include hqueue hen hclocks hpaced hroom

theorem traceLine_ready :
    (s.tel.traceEn && clocksRun s && decide ((s.tel.queue.take 4).length = 4) && traceRoom s && !linePaced s) = true := by
  have hline : (s.tel.queue.take 4).length = 4 := List.length_take_of_le hqueue
  rw [hen, clocksRun, hclocks, hline, hroom, hpaced]
  rfl

theorem traceLineWrite_of_ok (hpa : physOk s false (traceAddr s) (traceAddr s + 127) = true) :
    traceLineWrite s .ok = { s with
      mem := putRecords s.mem (tracePhase s) (traceAddr s) (s.tel.queue.take 4)
      tel := { s.tel with queue := s.tel.queue.drop 4, wr := s.tel.wr + 4, lineAt := some s.clk.fabCyc } } :=
  (if_pos (traceLine_ready hqueue hen hclocks hpaced hroom)).trans (if_neg (by
    rw [show physOk (updTel s (fun x => { x with lineAt := some s.clk.fabCyc })) false (traceAddr s)
      (traceAddr s + 127) = true from hpa]
    exact Bool.false_ne_true))

theorem traceLineWrite_of_barred (resp : Resp) (hpa : physOk s false (traceAddr s) (traceAddr s + 127) = false) :
    traceLineWrite s resp =
      traceFails { s with tel := { s.tel with lineAt := some s.clk.fabCyc } } (traceAddr s) :=
  (if_pos (traceLine_ready hqueue hen hclocks hpaced hroom)).trans (if_pos (by
    rw [show physOk (updTel s (fun x => { x with lineAt := some s.clk.fabCyc })) false (traceAddr s)
      (traceAddr s + 127) = false from hpa]
    rfl))

end

theorem traceLineTimeout_of_due {s : State} {r : TraceRec}
    (hlast : s.tel.queue[s.tel.queue.length / 4 * 4]? = some r) (hen : s.tel.traceEn = true)
    (hage : 1000 ≤ (now s - r.tick).toNat) :
    traceLineTimeout s = updTel s (fun x => { x with
      queue := x.queue ++ List.replicate (4 - s.tel.queue.length % 4) (padRec (now s)) }) := by
  simp only [traceLineTimeout, hlast, hen, ge_iff_le, hage, decide_true, Bool.and_self, if_true]

/-- Settles O44: GO and the ring's enable, a snapshot, a padded line and a line written. -/
theorem telemetry : Obligations.Telemetry := by
  unfold Obligations.Telemetry
  intro s hon
  dsimp only
  refine ⟨fun i hi => ⟨fun hcome => snapshotArm_goes hi hon (armAt_of_to_come hcome),
    fun hbegun => snapshotArm_goes hi hon (armAt_of_begun hbegun), fun hoff => ?enable⟩,
    fun t hpending hdue hclocks => ?snapshot,
    fun r hlast hen hage => goes_of_eq rfl (traceLineTimeout_of_due hlast hen hage),
    fun hqueue hen hclocks hpaced hroom => ⟨fun hpa => ?written, fun hpa resp => ?barred⟩⟩
  case enable =>
    exact goes_of_gated rfl (byHostForge_of_eq hi) hon (if_neg (ne_true_of_eq_false hoff))
  case snapshot =>
    obtain ⟨q, n, b, htake⟩ := takeSnapshot_frame s t
    exact ⟨_, goes_of_eq rfl ((snapshot_of_due hpending hclocks hon hdue).trans htake), rfl, rfl, rfl, rfl, rfl, rfl,
      rfl⟩
  case written =>
    have hroom : traceRoom s = true := decide_eq_true hroom
    have hgo := goes_of_eq (x := .traceLineWrite .ok) rfl (traceLineWrite_of_ok hqueue hen hclocks hpaced hroom hpa)
    refine ⟨hgo, _, hgo, fun b hb => rdByte_putRecords_other _ _ _ _ _ ?_⟩
    rwa [List.length_take_of_le hqueue]
  case barred =>
    have hroom : traceRoom s = true := decide_eq_true hroom
    exact goes_of_eq rfl (traceLineWrite_of_barred hqueue hen hclocks hpaced hroom resp hpa)

end Sys2Proof.Proofs
end

section
/-! PROOF. Requests to the store, and appends of a core (16, 10: O45). -/

namespace Sys2Proof.Proofs

open Sys2Proof Sys2Proof.Machine Sys2Proof.Says Sys2Proof.Laws

-- ---------------------------------------------------------------- the start of a STORE command (R342, R473)

theorem subListed_iff (sub : Nat) : subListed sub = true ↔ (1 ≤ sub ∧ sub ≤ 6) ∨ (0x10 ≤ sub ∧ sub ≤ 0x16) := by
  simp [subListed]

theorem storeCmd_of_started {s : State} {ctx : CtxId} {sub : Nat} {req : DWord}
    (hcur : (ctxOf s ctx.toNat).cur = some (.store sub req)) (hstart : canStart s ctx.toNat = true) :
    storeCmd ctx s = storeStart s ctx.toNat sub req := by
  simp only [storeCmd, hcur, hstart, if_true]

/-- The state in which a STORE command reads its request block: a SEARCH waits for a core, any other runs. -/
def storeBegun (s : State) (c sub : Nat) : State := if sub = subSearch then s else beginCmd s c .running

/-- Whether the request block of the command at `rd` has been read before. -/
def requestRead (s : State) (c : Nat) (rd : Word) : Bool :=
  match reqOf s c with
  | some r => r.rd == rd
  | none => false

theorem requestRead_of_first {s : State} {c sub : Nat} {rd : Word} (h : ∀ r, reqOf s c = some r → r.rd ≠ rd) :
    requestRead (storeBegun s c sub) c rd = false := by
  have hreq : reqOf (storeBegun s c sub) c = reqOf s c := by
    unfold storeBegun
    split <;> rfl
  cases hold : reqOf s c with
  | none => simp only [requestRead, hreq, hold]
  | some r => simp only [requestRead, hreq, hold, beq_eq_false_iff_ne.mpr (h r hold)]

/-- What the command does with its request block, in the state `v` that its lookup leaves. -/
def requestTaken (v : State) (c sub : Nat) (rd : Word) (again : Bool) (b : BitVec 512) : State :=
  if again then (if sub = subSearch then beginExec v c searchExec else v)
  else if !sqOk sub b then cmdFault v c tfCmdBad 9
  else if sub = subSearch then beginExec (setReq v c (some { rd := rd, block := b })) c searchExec
  else setReq v c (some { rd := rd, block := b })

/-- A listed command of a context with GRANT looks its request block up (R473). -/
def requestLookup (s u : State) (c sub : Nat) (req : DWord) : State :=
  let k := ctxOf s c
  let slot := slotOfCtx u c
  let t := xlatPages k.basket.toNat slot false (pagesOf (span req.toNat 64)) u
  match t.1 with
  | some (va, x) => if requestRead u c k.rd then t.2 else xlatFault t.2 c none va false false x
  | none => requestTaken t.2 c sub k.rd (requestRead u c k.rd)
      (BitVec.ofNat 512 (virtWord t.2 k.basket.toNat slot req.toNat 64))

section
variable {s u v : State} {c sub : Nat} {req : DWord}

theorem requestLookup_of_untranslated {va : Nat} {x : Xlat} (hnew : requestRead u c (ctxOf s c).rd = false)
    (hx : xlatPages (ctxOf s c).basket.toNat (slotOfCtx u c) false (pagesOf (span req.toNat 64)) u =
      (some (va, x), v)) :
    requestLookup s u c sub req = xlatFault v c none va false false x := by
  simp only [requestLookup, hx, hnew, Bool.false_eq_true, if_false]

theorem requestLookup_of_translated
    (hx : xlatPages (ctxOf s c).basket.toNat (slotOfCtx u c) false (pagesOf (span req.toNat 64)) u = (none, v)) :
    requestLookup s u c sub req = requestTaken v c sub (ctxOf s c).rd (requestRead u c (ctxOf s c).rd)
      (BitVec.ofNat 512 (virtWord v (ctxOf s c).basket.toNat (slotOfCtx u c) req.toNat 64)) := by
  simp only [requestLookup, hx]

end

theorem storeStart_of_granted {s : State} {c sub : Nat} {req : DWord} (hlisted : subListed sub = true)
    (hgrant : (ctxOf s c).grant = true)
    (hlook : mayLookup s (ctxOf s c).basket.toNat (slotOfCtx s c) (pagesOf (span req.toNat 64)) = true) :
    storeStart s c sub req = requestLookup s (storeBegun s c sub) c sub req := by
  simp only [storeStart, hlisted, hgrant, hlook, Bool.not_true, Bool.false_eq_true, if_false]
  rfl

-- ---------------------------------------------------------------- records that a core appends (R296 to R298, R474)

theorem sappAccept_of_call {s : State} {c x t n ord seq : Nat} {g : Bool} {va : Placement} {ac : AcId} {recs : List (List Byte)}
    (hcall : sappCall s c = some (x, t, .append g va n recs ac ord seq)) (hbehind : appendBehind s x ord seq = false) :
    sappAccept s c =
      let old := callOld s x t ord (isAppendCall ord seq)
      let take (s : State) : State := acIncCtx (callDone s x t (isAppendCall ord seq)) x t ac.toNat 1 old
      let mark (s : State) : State := updCtx s x (fun k => { k with sappPair := some (ord, seq) })
      if !pairAbove (ctxOf s x).sappPair ord seq then take s
      else if decide (s.store.st = 3) then
        take (mark (updStore s (fun t => { t with ueCnt := satAdd t.ueCnt n })))
      else if stMounted s && decide (n ≤ logRoom s.store g) then take (mark (appendRecs s g (appendClass s x) recs))
      else s := by
  simp only [sappAccept, hcall, hbehind, Bool.false_eq_true, if_false]

/-- Settles O45: a STORE command up to its request block, and the appends of a core in their order. -/
theorem storeRequests : Obligations.StoreRequests := by
  unfold Obligations.StoreRequests
  refine ⟨fun s ctx sub req => ?request, fun s core x t g va n recs ac ord seq => ?append⟩
  case request =>
    dsimp only
    intro hcur hstart
    rw [← subListed_iff]
    have hgo : exec (.store ctx) s = .next (storeCmd ctx s) := rfl
    rw [storeCmd_of_started hcur hstart] at hgo
    refine ⟨fun hlist => goes_of_eq hgo ?reserved, fun hlist hgrant => goes_of_eq hgo ?denied,
      fun hlist hgrant hfirst hlook => ?read⟩
    case reserved => exact if_pos (by simpa using hlist)
    case denied =>
      simp only [storeStart, hlist, hgrant, Bool.not_true, Bool.not_false, Bool.false_eq_true, if_false, if_true]
    case read =>
      have hnew := requestRead_of_first (sub := sub) hfirst
      rw [storeStart_of_granted hlist hgrant hlook] at hgo
      refine ⟨fun va x v hx => goes_of_eq hgo ?_, fun v hx => ?_⟩
      · exact requestLookup_of_untranslated hnew hx
      · rw [requestLookup_of_translated (u := storeBegun s ctx.toNat sub) hx, hnew] at hgo
        refine ⟨fun hbad => goes_of_eq hgo ?_, fun hok => goes_of_eq hgo ?_⟩
        · simp only [requestTaken, Bool.false_eq_true, if_false, storeBegun, hbad, Bool.not_false, if_true]
        · simp only [requestTaken, storeBegun, hok, Bool.not_true, Bool.false_eq_true, if_false]
  case append =>
    intro hcall
    dsimp only
    have hgo : exec (.sappAccept core) s = .next (sappAccept s core.toNat) := rfl
    refine ⟨fun hbehind => goes_of_eq hgo ?behind, fun hbehind => ?next⟩
    case behind => simp only [sappAccept, hcall, hbehind, if_true]
    case next =>
      rw [sappAccept_of_call hcall hbehind] at hgo
      refine ⟨fun hold => goes_of_eq hgo ?_, fun hnew hst => goes_of_eq hgo ?_, fun hnew hst hroom => goes_of_eq hgo ?_⟩
      · simp only [hold, Bool.not_false, if_true]
      · simp only [hnew, hst, Bool.not_true, Bool.false_eq_true, if_false, decide_true, if_true, updStore]
      · have hfailed : decide (s.store.st = 3) = false := by rw [hst]; rfl
        have hready : (stMounted s && decide (n ≤ logRoom s.store g)) = true := by
          rw [stMounted, hst, decide_eq_true hroom]
          rfl
        simp only [hnew, hfailed, hready, Bool.not_true, Bool.false_eq_true, if_false, if_true]

end Sys2Proof.Proofs
end

section
/-! PROOF. The host goes and comes back (14: O39). -/

namespace Sys2Proof.Proofs

open Sys2Proof Sys2Proof.Machine Sys2Proof.Says Sys2Proof.Laws

-- ---------------------------------------------------------------- what faults and teardowns leave (R401)

/-- What faults, teardowns and their entries leave as it is: the clocks, what the engine knows of its host, the
plan, of the store all but its requests and its time, of power the last start and the last reading. -/
structure KeptView where
  detached : Bool
  vecs : SMap Vec
  ring : Bool
  reqBusy : Bool
  taken : Option (SMap Word)
  rspValid : Bool
  quiet : Bool
  resetTick : Option DWord
  plan : Option Plan
  store : Store
  clk : Clock
  warm : Bool
  thermAt : DWord

def keptView (s : State) : KeptView where
  detached := s.cp.detached
  vecs := s.cp.vecs
  ring := s.geq.enable
  reqBusy := s.mbx.reqBusy
  taken := s.mbx.taken
  rspValid := s.mbx.rspValid
  quiet := s.sb.hostQuiet
  resetTick := s.sb.hostResetTick
  plan := s.sb.plan
  store := { s.store with reqs := [], anchor := none }
  clk := s.clk
  warm := s.pwr.warm
  thermAt := s.pwr.thermAt

theorem keptView_foldl {α : Type} {f : State → α → State} (hf : ∀ s a, keptView (f s a) = keptView s) (l : List α)
    (s : State) : keptView (l.foldl f s) = keptView s := by
  induction l generalizing s with
  | nil => rfl
  | cons a l ih => exact (ih _).trans (hf s a)

section
variable (s : State)

theorem keptView_geqPut (e : GeqEntry) : keptView (geqPut s e) = keptView s := by
  unfold geqPut eventLog
  split
  · rfl
  · split <;> rfl

theorem keptView_inboxPut (e : GeqEntry) : keptView (inboxPut s e) = keptView s := by
  unfold inboxPut
  split
  · rfl
  · exact keptView_geqPut s _

theorem keptView_trace (type source : Nat) (ctx : Option Nat) (mask : BitVec 16) (payload : BitVec 128) :
    keptView (trace s type source ctx mask payload) = keptView s := by
  obtain ⟨x, hx⟩ := trace_eq s type source ctx mask payload
  rw [hx]
  rfl

theorem keptView_count (i n : Nat) : keptView (count s i n) = keptView s := by
  obtain ⟨x, hx⟩ := count_eq s i n
  rw [hx]
  rfl

theorem keptView_endTeardown (c : Nat) : keptView (endTeardown s c) = keptView s := by
  unfold endTeardown
  split
  · rfl
  · split
    · rfl
    · exact ((keptView_trace ..).trans (keptView_count ..)).trans (keptView_geqPut ..)

theorem keptView_releaseCores (l : List Nat) : keptView (releaseCores s l) = keptView s :=
  keptView_foldl (f := fun s c => updCore s c coreRelease) (fun _ _ => rfl) l s

theorem keptView_dropRef (b : BitVec 512) : keptView (dropRef s b) = keptView s := by
  unfold dropRef
  split <;> rfl

theorem keptView_dropRegion (c : Nat) : keptView (dropRegion s c) = keptView s := by
  unfold dropRegion
  extract_lets gone dropped ru
  have hdropped : keptView dropped = keptView s :=
    keptView_foldl (f := fun s (e : Nat × RegionCmd) => dropRef (dropRef s e.2.block) e.2.block2)
      (fun _ _ => (keptView_dropRef _ _).trans (keptView_dropRef _ _)) gone s
  clear_value dropped ru
  exact hdropped

theorem keptView_closed (c : Nat) :
    keptView (closeWindows (dropOcc (armFrames (dropFaults s c) c) c) c) = keptView s := rfl

theorem keptView_updCtx_with_fu (x : Fu) (c : Nat) (f : Ctx → Ctx) :
    keptView (updCtx { s with fu := x } c f) = keptView s := rfl

theorem keptView_dropStoreReq (c : Nat) : keptView (dropStoreReq s c) = keptView s := rfl

theorem keptView_dropBundles (l : List Nat) : keptView (dropBundles s l) = keptView s := rfl

theorem keptView_tearDown (c code reason : Nat) (core : Option Nat) (detail : DWord) :
    keptView (tearDown s c code reason core detail) = keptView s := by
  unfold tearDown
  dsimp only
  split
  · rw [keptView_endTeardown, keptView_updCtx_with_fu, keptView_closed, keptView_dropRegion, keptView_dropStoreReq,
      keptView_releaseCores, keptView_dropBundles]
  · rfl

theorem keptView_abortCtxs (r : FaultRec) : keptView (abortCtxs s r) = keptView s :=
  keptView_foldl (f := fun s c => addrFault s c tfPageFault r.reason none r.page.toNat)
    (fun _ _ => keptView_tearDown ..) r.ctxs s

theorem keptView_abortLost (r : FaultRec) : keptView (abortLost s r) = keptView s :=
  (keptView_foldl (f := fun s c => updCtx s c (fun k =>
    if k.state = .error ∨ k.state = .teardown then { k with faultLost := true } else k)) (fun _ _ => rfl) r.ctxs
    (abortCtxs s r)).trans (keptView_abortCtxs s r)

theorem keptView_openRec (id : Nat) (h : FaultHit) (others : List FaultHit) :
    keptView (openRec s id h others) = keptView s := by
  unfold openRec
  extract_lets all r atu counted e waiting entered
  have hwaiting : keptView waiting = keptView s := keptView_foldl (f := fun s x => setState s x.ctx .faultWait)
    (fun _ _ => rfl) all counted
  have hentered : keptView entered = keptView s := by
    unfold entered
    split
    · exact (keptView_inboxPut ..).trans hwaiting
    · exact (keptView_geqPut ..).trans hwaiting
  split
  · exact (keptView_abortCtxs ..).trans hwaiting
  · split
    · exact (keptView_abortLost ..).trans hentered
    · exact hentered

theorem keptView_takePending (l : List FaultHit) : keptView (takePending s l).2 = keptView s :=
  (keptView_foldl (f := fun s (h : FaultHit) => updCtx s h.ctx (fun k => { k with state := .stopped, stopPend := false }))
    (fun _ _ => rfl) _ _).trans rfl

theorem keptView_assignPending (n id : Nat) : keptView (assignPending n s id) = keptView s := by
  induction n generalizing s with
  | zero => rfl
  | succ n ih =>
    rw [assignPending]
    split
    · rfl
    · dsimp only
      split
      · exact (ih _).trans (keptView_takePending s _)
      · next h _ _ _ x l _ =>
        have hopened : keptView (openRec (takePending s (pendingOn s h.slot h.page)).2 id x l) = keptView s :=
          (keptView_openRec ..).trans (keptView_takePending s _)
        split
        · exact (ih _).trans hopened
        · exact hopened

theorem keptView_closeRec (id : Nat) : keptView (closeRec s id) = keptView s :=
  keptView_assignPending (setRec s id none) _ id

theorem keptView_abortOpen : keptView (abortOpen s) = keptView s := by
  refine keptView_foldl (fun t i => ?_) _ s
  split
  · split
    · rfl
    · exact (keptView_closeRec ..).trans (keptView_abortCtxs ..)
  · rfl

theorem keptView_intEvent (v : Nat) : keptView (intEvent s v) = keptView s := by
  unfold intEvent
  split
  · dsimp only
    split <;> rfl
  · rfl

theorem keptView_mbxReply (status : Nat) (words : List Word) : keptView (mbxReply s status words) =
    { keptView s with reqBusy := s.mbx.reqBusy && s.mbx.taken.isSome, taken := none, rspValid := true } :=
  keptView_intEvent _ 1

theorem keptView_remind : keptView (remind s) = keptView s := by
  unfold remind
  split
  · rfl
  · exact keptView_geqPut s _

theorem keptView_markDays : keptView (markDays s) = keptView s := by
  unfold markDays
  split
  · rfl
  · refine keptView_foldl (fun t b => keptView_foldl (fun u e => ?_) _ t) _ s
    split <;> rfl

theorem keptView_adoptTime : keptView (adoptTime s) = keptView s := by
  unfold adoptTime
  dsimp only
  split
  · rfl
  · exact keptView_markDays _

theorem keptView_adoptReply : keptView (adoptReply s) =
    { keptView s with reqBusy := s.mbx.reqBusy && s.mbx.taken.isSome, taken := none, rspValid := true } := by
  have hkept : keptView (remind (adoptTime s)) = keptView s := (keptView_remind _).trans (keptView_adoptTime s)
  have hbusy : (remind (adoptTime s)).mbx.reqBusy = s.mbx.reqBusy := congrArg KeptView.reqBusy hkept
  have htaken : (remind (adoptTime s)).mbx.taken = s.mbx.taken := congrArg KeptView.taken hkept
  rw [adoptReply, keptView_mbxReply, hkept, hbusy, htaken]

theorem keptView_with_mem (m : List Host.Cell) : keptView { s with mem := m } = keptView s := rfl

theorem keptView_sealHeader : keptView (sealHeader s) = keptView s := by
  unfold sealHeader
  exact keptView_with_mem s _

theorem keptView_planRoutes (p : Plan) (sel : Nat → Bool) : keptView (planRoutes s p sel) = keptView s := by
  refine keptView_foldl (fun t r => ?_) _ s
  dsimp only
  split
  · split
    · exact keptView_foldl (f := fun u i => setRoute u (r.first.toNat + i) _) (fun _ _ => rfl) _ t
    · rfl
  · rfl

end

-- ---------------------------------------------------------------- the host's absence (R401, R402, R405)

theorem mget_of_all {α : Type} {P : α → Prop} {d : α} {m : SMap α} (hd : P d) (hm : ∀ e ∈ m, P e.2) (k : Nat) :
    P (mget d m k) := by
  induction m with
  | nil => exact hd
  | cons e m ih =>
    simp only [mget]
    split
    · exact hm e List.mem_cons_self
    · exact ih (fun x hx => hm x (List.mem_cons_of_mem e hx))

/-- The vectors of an absent host: every one masked (R401). -/
def maskedVecs (m : SMap Vec) : SMap Vec :=
  ((List.range 24).map (fun v => (v, { mget {} m v with mask := true }))).filter (fun e => !decide (e.2 = {}))

theorem mask_maskedVecs (m : SMap Vec) (v : Nat) : (mget {} (maskedVecs m) v).mask = true := by
  refine mget_of_all (P := fun x : Vec => x.mask = true) rfl (fun e he => ?_) v
  obtain ⟨n, -, rfl⟩ := List.mem_map.mp (List.mem_filter.mp he).1
  rfl

theorem keptView_hostReset {s : State} (h : s.cp.detached = false) : keptView (hostReset s) =
    { keptView s with
      detached := true, vecs := maskedVecs s.cp.vecs, ring := false, reqBusy := false, rspValid := false, quiet := false
      resetTick := some (now s) } := by
  rw [hostReset, if_neg (ne_true_of_eq_false h)]
  exact keptView_abortOpen _

theorem quietLimitExpiry_of_due {s : State} {t : DWord} (ht : s.sb.hostResetTick = some t)
    (h : s.cp.detached = true) (hage : s.sb.quietLimit.toNat ≤ (now s - t).toNat) :
    quietLimitExpiry s = (hostCtxs s).foldl (fun s c =>
      if (ctxOf s c).state = .running then cmdFault s c tfTeardown 3 else s) s := by
  simp only [quietLimitExpiry, ht, h, ge_iff_le, hage, decide_true, Bool.and_self, if_true, beq_iff_eq]

-- ---------------------------------------------------------------- ADOPT (R406, R413)

section
variable {s : State} {m : Nat} {f : State → State}

theorem adoptRow_of_asked (htakes : mbxTakes s = true) (hop : mbxOp s = 7)
    (hclean : reqClean s [(1, 3), (2, 0xFFFFFFFF), (3, 0xFFFFFFFF)] = true)
    (hmode : (bits (reqW s 1) 0 2).toNat = m) (hm : m ≠ 3) : adoptRow s m f = f s := by
  rw [adoptRow, mbxOpRow, mbxRow_of_taken htakes hop, if_pos hclean]
  exact (if_neg (fun h => hm (hmode.symm.trans h))).trans (if_pos hmode)

end

section
variable {s : State} {f : ForgeInputs} {p : Plan} (hidle : s.sb.switching.any (fun e => e.2.isSome) = false)
  (hcarve : carveOk s = true) (hread : planRead s f = some p)
include hidle hcarve hread

/-- A plan that changes no Basket is in force at once. -/
theorem adoptPlan_of_same (hsame : changedBaskets s p = []) (halloc : s.sb.alloc ≠ 0) :
    ∃ templates, adoptPlan s f = adoptReply (sealHeader (planRoutes { s with
      sb := { s.sb with plan := some p, planValid := true }
      fp := { s.fp with templates := templates } } p (fun _ => false))) := by
  refine ⟨f.templates.foldl (fun m e => mset [] m e.1 e.2) s.fp.templates, ?_⟩
  simp only [adoptPlan, hidle, hcarve, hread, hsame, halloc, Bool.false_eq_true, if_false, if_true,
    List.filter_nil, List.foldl_nil, List.all_nil, List.contains_nil, List.filter_false, updSb]

/-- A plan that changes one Basket, still draining, is kept. -/
theorem adoptPlan_of_draining {x : Nat} (hone : changedBaskets s p = [x]) (hvalid : (bskOf s x).valid = true)
    (hstanding : (bskOf s x).standing = true) (hdrain : (bskOf s x).drain = true) (hover : drainOver s x = false) :
    adoptPlan s f = mbxKeep s := by
  have hlive : [x].filter (fun b => (bskOf s b).valid && (bskOf s b).standing) = [x] := by
    rw [List.filter_cons, hvalid, hstanding]
    rfl
  simp only [adoptPlan, hidle, hcarve, hread, hone, hlive, hdrain, hover, Bool.false_eq_true, if_false, if_true,
    List.foldl_cons, List.foldl_nil, List.all_cons, Bool.false_and]

end

/-- Settles O39: the host gone, its quiet limit and the quiet, and the three modes of ADOPT. -/
theorem hostAbsence : Obligations.HostAbsence := by
  unfold Obligations.HostAbsence
  intro s
  dsimp only
  refine ⟨fun hhere => ?reset, fun haway => goes_of_eq rfl (if_pos haway),
    fun t ht haway hage => goes_of_eq rfl (quietLimitExpiry_of_due ht haway hage),
    fun haway hnot hquiet => goes_of_eq rfl ?quiet, fun htakes hop hclean => ?adopt⟩
  case reset =>
    have hview := keptView_hostReset hhere
    refine ⟨_, goes_of_eq rfl rfl, congrArg KeptView.detached hview, congrArg KeptView.ring hview,
      congrArg KeptView.rspValid hview, congrArg KeptView.reqBusy hview, congrArg KeptView.quiet hview,
      congrArg KeptView.resetTick hview, fun v _ => ?_, congrArg KeptView.plan hview⟩
    rw [show (hostReset s).cp.vecs = maskedVecs s.cp.vecs from congrArg KeptView.vecs hview]
    exact mask_maskedVecs s.cp.vecs v
  case quiet =>
    exact if_pos (by rw [haway, hnot, hquiet]; rfl)
  case adopt =>
    have hfresh : exec .adoptFresh s = .next (adoptRow s 0 adoptFresh) := rfl
    have hresume : exec .adoptResume s = .next (adoptRow s 1 adoptResume) := rfl
    have hplan (f : ForgeInputs) : exec (.adoptPlan f) s = .next (adoptRow s 2 (fun s => adoptPlan s f)) := rfl
    have hrow (m : Nat) (hm : m ≠ 3) (f : State → State) (hmode : (bits (reqW s 1) 0 2).toNat = m) :
        adoptRow s m f = f s := adoptRow_of_asked htakes hop hclean hmode hm
    refine ⟨fun hm hnot => goes_of_eq hfresh ((hrow 0 nofun _ hm).trans (if_pos (by rw [hnot]; rfl))),
      fun hm hnot => goes_of_eq hresume ((hrow 1 nofun _ hm).trans (if_pos (by rw [hnot]; rfl))),
      fun hm hquiet => goes_of_eq hfresh ((hrow 0 nofun _ hm).trans (if_neg (by rw [hquiet]; nofun))),
      fun hm hquiet => goes_of_eq hresume ((hrow 1 nofun _ hm).trans ?resume),
      fun f p hm hidle hcarve hread hsame halloc => ?same,
      fun f p x hm hidle hcarve hread hone hvalid hstanding hdrain hover => goes_of_eq (hplan f)
        ((hrow 2 nofun _ hm).trans (adoptPlan_of_draining hidle hcarve hread hone hvalid hstanding hdrain hover)),
      fun f hm hbusy => goes_of_eq (hplan f) ((hrow 2 nofun _ hm).trans (if_pos hbusy))⟩
    case resume =>
      simp only [adoptResume, hquiet, Bool.not_true, Bool.false_eq_true, if_false, beq_iff_eq, updSb]
    case same =>
      obtain ⟨templates, hadopt⟩ := adoptPlan_of_same hidle hcarve hread hsame halloc
      have hview := (keptView_sealHeader _).trans (keptView_planRoutes { s with
        sb := { s.sb with plan := some p, planValid := true }
        fp := { s.fp with templates := templates } } p (fun _ => false))
      generalize sealHeader _ = u at hadopt hview
      have hbusy : u.mbx.reqBusy = s.mbx.reqBusy := congrArg KeptView.reqBusy hview
      have htaken : u.mbx.taken = s.mbx.taken := congrArg KeptView.taken hview
      have hplanned : u.sb.plan = some p := congrArg KeptView.plan hview
      have hreply := keptView_adoptReply u
      rw [hbusy, htaken] at hreply
      exact ⟨_, goes_of_eq (hplan f) ((hrow 2 nofun _ hm).trans hadopt),
        (congrArg KeptView.plan hreply :).trans hplanned, congrArg KeptView.rspValid hreply,
        congrArg KeptView.taken hreply, congrArg KeptView.reqBusy hreply⟩

end Sys2Proof.Proofs
end

section
/-! PROOF. What a link and a space hold after their operations (11, 15; for O38). -/

namespace Sys2Proof.Proofs

open Sys2Proof Sys2Proof.Machine Sys2Proof.Says Sys2Proof.Laws

-- ---------------------------------------------------------------- the links after an operation

@[simp] theorem linkOf_setLink_same (s : State) (l : Nat) (k : Link) : linkOf (setLink s l k) l = k :=
  mget_mset_same ..

theorem linkOf_congr {s t : State} (h : t.links = s.links) (l : Nat) : linkOf t l = linkOf s l := by
  rw [linkOf, linkOf, h]

theorem post_links (s : State) (code source : Nat) (ctx : Option Nat) (obj detail : DWord) :
    (post s code source ctx obj detail).links = s.links := by
  obtain ⟨g, m, b, h⟩ := post_eq s code source ctx obj detail
  rw [h]

theorem count_links (s : State) (i n : Nat) : (count s i n).links = s.links := by
  obtain ⟨x, h⟩ := count_eq s i n
  rw [h]

theorem forgeHourly_links (s : State) (w : Nat) (v : Word) : (forgeHourly s w v).links = s.links := by
  have hword : (forgeTemper s w v true).links = s.links := by
    obtain ⟨x, hx, -⟩ := forgeTemper_eq s w v true
    rw [hx]
  unfold forgeHourly
  split
  · rfl
  · split
    · split
      · rfl
      · exact hword
    · exact hword

theorem storeDeskew_links (s : State) (l : Nat) (skew : List (BitVec 6)) :
    (storeDeskew s l skew).links = s.links :=
  (forgeHourly_links _ _ _).trans (forgeHourly_links _ _ _)

-- ---------------------------------------------------------------- what sending touches

/-- The part of a link that the sending of flits moves. -/
structure SendPart where
  txQueue : List Flit
  retryBuf : List Flit
  nextSeq : Byte
  credits : SMap Nat
  txCnt : Word
  scr : SMap (BitVec 58)
  txLane : BitVec 3
  out : List LaneBlock
  credTurn : BitVec 2
  retryDue : Bool
  ackAt : Nat

def withSend (k : Link) (p : SendPart) : Link := { k with
  txQueue := p.txQueue, retryBuf := p.retryBuf, nextSeq := p.nextSeq, credits := p.credits, txCnt := p.txCnt
  scr := p.scr, txLane := p.txLane, out := p.out, credTurn := p.credTurn, retryDue := p.retryDue, ackAt := p.ackAt }

/-- `k'` is `k` but for what sending moves. -/
def Sent (k k' : Link) : Prop := ∃ p, k' = withSend k p

theorem Sent.rfl' (k : Link) : Sent k k := ⟨⟨_, _, _, _, _, _, _, _, _, _, _⟩, rfl⟩

theorem Sent.trans {a b c : Link} (h : Sent a b) (k : Sent b c) : Sent a c := by
  obtain ⟨p, rfl⟩ := h
  obtain ⟨q, rfl⟩ := k
  exact ⟨q, rfl⟩

theorem sent_putLaneWord (k : Link) (w : DWord) : Sent k (putLaneWord k w) := ⟨⟨_, _, _, _, _, _, _, _, _, _, _⟩, rfl⟩

theorem sent_foldl_putLaneWord (l : List DWord) (k : Link) : Sent k (l.foldl putLaneWord k) := by
  induction l generalizing k with
  | nil => exact .rfl' k
  | cons w l ih => exact (sent_putLaneWord k w).trans (ih _)

theorem sent_transmit (k : Link) (f : Flit) : Sent k (transmit k f) :=
  (sent_foldl_putLaneWord _ k).trans ⟨⟨_, _, _, _, _, _, _, _, _, _, _⟩, rfl⟩

theorem sent_pumpFlits (m : Nat) (k : Link) (n : Nat) : Sent k (pumpFlits m k n).1 := by
  induction m generalizing k n with
  | zero => exact .rfl' k
  | succ m ih =>
    rw [pumpFlits]
    split
    · split
      · exact .rfl' k
      · exact ((sent_transmit k _).trans ⟨⟨_, _, _, _, _, _, _, _, _, _, _⟩, rfl⟩).trans (ih _ _)
    · exact .rfl' k

/-- `t` is `s` but for telemetry and for what sending moves on link `l`. -/
structure Sends (l : Nat) (s t : State) : Prop where
  frame : ∃ m x, t = { s with links := m, tel := x }
  link : Sent (linkOf s l) (linkOf t l)

theorem Sends.trans {l : Nat} {s t u : State} (h : Sends l s t) (k : Sends l t u) : Sends l s u := by
  obtain ⟨m, x, hframe⟩ := h.frame
  obtain ⟨n, y, hnext⟩ := k.frame
  exact ⟨⟨n, y, by rw [hnext, hframe]⟩, h.link.trans k.link⟩

theorem sends_setLink {s : State} {l : Nat} {k : Link} (h : Sent (linkOf s l) k) : Sends l s (setLink s l k) :=
  ⟨⟨_, _, rfl⟩, (linkOf_setLink_same s l k).symm ▸ h⟩

theorem sends_count (s : State) (l i n : Nat) : Sends l s (count s i n) := by
  obtain ⟨x, hx⟩ := count_eq s i n
  exact ⟨⟨s.links, x, hx⟩, linkOf_congr (count_links s i n) l ▸ .rfl' _⟩

theorem sends_linkPump (s : State) (l : Nat) : Sends l s (linkPump s l) := by
  unfold linkPump
  extract_lets link k r pumped k'
  have hk : Sent (linkOf s l) k := ⟨⟨_, _, _, _, _, _, _, _, _, _, _⟩, rfl⟩
  have hr : Sent (linkOf s l) r.1 := hk.trans (sent_pumpFlits _ k 0)
  have hk' : Sent (linkOf s l) k' := by
    unfold k'
    split
    · exact hr.trans ⟨⟨_, _, _, _, _, _, _, _, _, _, _⟩, rfl⟩
    · exact hr
  split
  · split
    · exact sends_setLink (hk.trans (sent_transmit _ _))
    · exact ⟨⟨_, _, rfl⟩, .rfl' _⟩
  · exact (sends_setLink hk').trans (sends_count _ l _ _)

theorem sends_queueFlits (s : State) (l : Nat) (fs : List Flit) : Sends l s (queueFlits s l fs) :=
  Sends.trans (sends_setLink ⟨⟨_, _, _, _, _, _, _, _, _, _, _⟩, rfl⟩) (sends_linkPump _ l)

theorem sends_sendCompletion (s : State) (l tag : Nat) (status : Byte) (old : DWord) (written : Nat)
    (data : List (BitVec 1024)) : Sends l s (sendCompletion s l tag status old written data) :=
  sends_queueFlits _ _ _

section
variable {l : Nat} {s t : State} (h : Sends l s t)
include h

theorem Sends.mem : t.mem = s.mem := by
  obtain ⟨m, x, hframe⟩ := h.frame
  rw [hframe]

theorem Sends.geq : t.geq = s.geq := by
  obtain ⟨m, x, hframe⟩ := h.frame
  rw [hframe]

theorem Sends.runs : (linkOf t l).runs = (linkOf s l).runs := by
  obtain ⟨p, hp⟩ := h.link
  rw [hp]
  rfl

theorem Sends.apLines : (linkOf t l).apLines = (linkOf s l).apLines := by
  obtain ⟨p, hp⟩ := h.link
  rw [hp]
  rfl

theorem Sends.msgBusy : (linkOf t l).msgBusy = (linkOf s l).msgBusy := by
  obtain ⟨p, hp⟩ := h.link
  rw [hp]
  rfl

theorem Sends.retryAt : (linkOf t l).retryAt = (linkOf s l).retryAt := by
  obtain ⟨p, hp⟩ := h.link
  rw [hp]
  rfl

end

-- ---------------------------------------------------------------- transactions and runs (R426, R429)

section
variable (s : State) (l vc : Nat) (t : Txn) (value : Nat) (data : List (BitVec 1024))

theorem startTxn_runs : (linkOf (startTxn s l vc t value data) l).runs = (linkOf s l).runs := by
  unfold startTxn
  split
  · rfl
  · exact (sends_queueFlits _ l _).runs.trans (by rw [linkOf_updLink_same])

theorem startTxn_apLines : (linkOf (startTxn s l vc t value data) l).apLines = (linkOf s l).apLines := by
  unfold startTxn
  split
  · rfl
  · exact (sends_queueFlits _ l _).apLines.trans (by rw [linkOf_updLink_same])

theorem startTxn_msgBusy : (linkOf (startTxn s l vc t value data) l).msgBusy = (linkOf s l).msgBusy := by
  unfold startTxn
  split
  · rfl
  · exact (sends_queueFlits _ l _).msgBusy.trans (by rw [linkOf_updLink_same])

end

theorem sendRun_apLines (s : State) (l : Nat) (r : Run) : (linkOf (sendRun s l r) l).apLines = (linkOf s l).apLines := by
  unfold sendRun
  split
  · rfl
  · split
    · rfl
    · exact (startTxn_apLines ..).trans (by rw [linkOf_updLink_same])

/-- A run of a link with a tag free is sent, and is gathered no longer. -/
theorem sendRun_runs {s : State} {l : Nat} {r : Run} (hlines : r.lines ≠ []) (htag : freeTag (linkOf s l) ≠ none) :
    (linkOf (sendRun s l r) l).runs = (linkOf s l).runs.erase r := by
  unfold sendRun
  split
  · next h => exact absurd h hlines
  · exact (congrArg (fun t => (linkOf t l).runs) (if_neg (by simpa using htag))).trans
      ((startTxn_runs ..).trans (by rw [linkOf_updLink_same]))

theorem foldl_sendRun_apLines (l : Nat) (rs : List Run) (s : State) :
    (linkOf (rs.foldl (fun s r => sendRun s l r) s) l).apLines = (linkOf s l).apLines := by
  induction rs generalizing s with
  | nil => rfl
  | cons r rs ih => exact (ih _).trans (sendRun_apLines s l r)

theorem gatherLine_apLines (s : State) (l : Nat) (a : ApLine) :
    (linkOf (gatherLine s l a) l).apLines = (linkOf s l).apLines := by
  unfold gatherLine
  dsimp only
  split
  · split
    · exact (sendRun_apLines ..).trans (by rw [linkOf_setLink_same])
    · rw [linkOf_setLink_same]
  · rw [linkOf_updLink_same]
    exact foldl_sendRun_apLines l _ s

theorem sentCheck_links (s : State) (c tg : Nat) : (sentCheck s c tg).links = s.links := by
  unfold sentCheck
  dsimp only
  split <;> rfl

-- ---------------------------------------------------------------- a link that goes down (R420, R439)

theorem linkDown_st (s : State) (l reason : Nat) : (linkOf (linkDown s l reason) l).st = .down := by
  unfold linkDown
  extract_lets k down
  split
  · next h => exact eq_of_beq h
  · split
    · rw [linkOf_congr (post_links ..), linkOf_updLink_same]
    · rw [linkOf_updLink_same]

theorem linkDown_lastDown {s : State} {l : Nat} (reason : Nat) (h : (linkOf s l).st ≠ .down) :
    (linkOf (linkDown s l reason) l).lastDown = BitVec.ofNat 3 reason := by
  unfold linkDown
  extract_lets k down
  have hup : ¬((k.st == LinkSt.down) = true) := fun hst => h (eq_of_beq hst)
  rw [if_neg hup]
  split
  · rw [linkOf_congr (post_links ..), linkOf_updLink_same]
  · rw [linkOf_updLink_same]

/-- A link whose training is done keeps what it learnt of its peer (R418, R419). -/
theorem linkActive_peerId {s : State} {l : Nat} (h : (linkOf s l).st = .train) :
    (linkOf (linkActive s l) l).peerId = (linkOf s l).peerId := by
  have htrain : ((linkOf s l).st == LinkSt.train) = true := by rw [h]; rfl
  unfold linkActive
  dsimp only
  split
  · rfl
  · rw [storePresets, linkOf_congr (forgeHourly_links ..), linkOf_setLink_same]
    rfl

-- ---------------------------------------------------------------- the slots of spaces (R306, R561)

theorem freeWalker_slots (s : State) (i : Nat) : (freeWalker s i).atu.slots = s.atu.slots := by
  unfold freeWalker
  split <;> rfl

theorem fillWalkers_slots (n : Nat) (s : State) : (fillWalkers n s).atu.slots = s.atu.slots := by
  induction n generalizing s with
  | zero => rfl
  | succ n ih =>
    rw [fillWalkers]
    split
    · exact (ih _).trans (freeWalker_slots s _)
    · rfl

theorem purgeSlots_slots (s : State) (p : Nat → Bool) : (purgeSlots s p).atu.slots = s.atu.slots :=
  fillWalkers_slots 16 _

/-- A slot that is written starts a new epoch (R306). -/
theorem spaceOf_putSpace_same (s : State) (slot : Nat) (x : Space) :
    spaceOf (putSpace s slot x) slot = { x with epoch := (spaceOf s slot).epoch + 1 } := by
  rw [putSpace, newEpoch, spaceOf, purgeSlots_slots, mget_mset_same, spaceOf, mget_mset_same]

theorem intEvent_atu (s : State) (v : Nat) : (intEvent s v).atu = s.atu := by
  unfold intEvent
  split
  · dsimp only
    split <;> rfl
  · rfl

theorem mbxReply_atu (s : State) (status : Nat) (words : List Word) : (mbxReply s status words).atu = s.atu :=
  intEvent_atu _ 1

end Sys2Proof.Proofs
end

section
/-! PROOF. Links and walks complete (11, 15: O38). -/

namespace Sys2Proof.Proofs

open Sys2Proof Sys2Proof.Machine Sys2Proof.Says Sys2Proof.Laws

-- ---------------------------------------------------------------- one line of a peer's write or read (R435)

theorem winOf_setInb (s : State) (l w : Nat) (i : Option Inbound) : winOf (setInb s l i) l w = winOf s l w := by
  rw [winOf, setInb, linkOf_updLink_same]
  rfl

theorem winPa_setInb (s : State) (l : Nat) (i : Option Inbound) (x : PltWin) (o : Nat) :
    winPa (setInb s l i) l x o = winPa s l x o := by
  have htable : (linkOf (setInb s l i) l).table = (linkOf s l).table := by rw [setInb, linkOf_updLink_same]
  simp only [winPa, winEntry, htable]

theorem applyLines_of_done {m l : Nat} {resp : Resp} {s : State} {i : Inbound} (hinb : (linkOf s l).inb = some i)
    (hdone : i.total = 0) : applyLines m l resp s = s := by
  cases m with
  | zero => rfl
  | succ m =>
    rw [applyLines, hinb]
    split
    · next h _ =>
      cases h
      exact if_pos (Or.inr (Or.inl hdone))
    · rfl

/-- The state after one line of the write `i` has been stored at `pa`. -/
def lineTaken (s : State) (l : Nat) (i : Inbound) (pa : Nat) (f : Flit) : State :=
  updLink { s with mem := wrLine s.mem pa f.body } l (fun k => { takeFlits 1 vcRequest k with
    inb := some { i with total := i.total - 1, applied := i.applied + 1 } })

theorem lineTaken_inb (s : State) (l : Nat) (i : Inbound) (pa : Nat) (f : Flit) :
    (linkOf (lineTaken s l i pa f) l).inb = some { i with total := i.total - 1, applied := i.applied + 1 } := by
  rw [lineTaken, linkOf_updLink_same]

theorem applyLines_of_line {m l pa : Nat} {s : State} {i : Inbound} {x : PltWin} {f : Flit}
    (hinb : (linkOf s l).inb = some i) (hhead : vcHead (linkOf s l).rxBuf (BitVec.ofNat 2 vcRequest) = some f)
    (hopen : i.status = 0) (hleft : i.total ≠ 0) (hkind : f.kind = 2) (hx : winOf s l (bWindow i.body) = x)
    (hat : winPa s l x (bOffset i.body + 128 * i.applied) = pa) (hpa : physOk s x.engine pa (pa + 127) = true)
    (hacen : x.acen = false) : applyLines (m + 1) l .ok s = applyLines m l .ok (lineTaken s l i pa f) := by
  have hgo : ¬(i.status ≠ 0 ∨ i.total = 0 ∨ f.kind ≠ 2) := by
    rintro (h | h | h)
    · exact h hopen
    · exact hleft h
    · exact h hkind
  rw [applyLines, hinb, hhead]
  simp only [hgo, hx, hat, hpa, hacen, Bool.not_true, Bool.false_and, Bool.false_eq_true, if_false, ne_eq,
    not_true_eq_false, lineTaken]

theorem inbDiscard_mem (s : State) (l : Nat) (i : Inbound) : (inbDiscard s l i).mem = s.mem := by
  unfold inbDiscard
  dsimp only
  split
  · exact (sends_sendCompletion _ l _ _ _ _ _).mem
  · rfl

theorem inbGo_of_memory {s : State} {l : Nat} {resp : Resp} {i j : Inbound} (hinb : (linkOf s l).inb = some i)
    (hkind : (winOf s l (bWindow i.body)).kind = true)
    (hj : (linkOf (applyLines 64 l resp s) l).inb = some j) (hdone : j.total = 0) :
    inbGo s l resp = inbDiscard (applyLines 64 l resp s) l j := by
  simp only [inbGo, hinb, hkind, if_true, hj, hdone, or_true]

/-- A write of one line to memory that arrives whole is performed at once. -/
theorem inbGo_of_line {s : State} {l pa : Nat} {b : BitVec 1024} {f : Flit} {x : PltWin}
    (hx : winOf s l (bWindow b) = x) (hat : winPa s l x (bOffset b) = pa) (hkind : x.kind = true)
    (hacen : x.acen = false) (hpa : physOk s x.engine pa (pa + 127) = true)
    (hhead : vcHead (linkOf s l).rxBuf (BitVec.ofNat 2 vcRequest) = some f) (hdata : f.kind = 2) :
    (inbGo (setInb s l (some { body := b, total := 1, applied := 0, status := 0 })) l .ok).mem =
      wrLine s.mem pa f.body := by
  let i : Inbound := { body := b, total := 1, applied := 0, status := 0 }
  have hlink : linkOf (setInb s l (some i)) l = { linkOf s l with inb := some i } := linkOf_updLink_same ..
  have hinb : (linkOf (setInb s l (some i)) l).inb = some i := by rw [hlink]
  have hwin : winOf (setInb s l (some i)) l (bWindow i.body) = x := (winOf_setInb ..).trans hx
  have happly : applyLines 64 l .ok (setInb s l (some i)) = lineTaken (setInb s l (some i)) l i pa f :=
    (applyLines_of_line (m := 63) hinb (by rw [hlink]; exact hhead) rfl Nat.one_ne_zero hdata hwin
      ((winPa_setInb ..).trans hat) hpa hacen).trans (applyLines_of_done (lineTaken_inb ..) rfl)
  have hgo := inbGo_of_memory (resp := .ok) hinb (hwin ▸ hkind)
    (happly ▸ lineTaken_inb (setInb s l (some i)) l i pa f) rfl
  rw [hgo, inbDiscard_mem, happly]
  rfl

theorem readLines_of_line {s : State} {l : Nat} {b : BitVec 1024} (hkind : (winOf s l (bWindow b)).kind = true)
    (hlines : bLines b = 1)
    (hpa : physOk s (winOf s l (bWindow b)).engine (winPa s l (winOf s l (bWindow b)) (bOffset b))
      (winPa s l (winOf s l (bWindow b)) (bOffset b) + 127) = true) :
    ∃ d, readLines s l b .ok = (.ok d, s) := by
  have hpas : (List.range (bLines b)).map (fun i => winPa s l (winOf s l (bWindow b)) (bOffset b + 128 * i)) =
      [winPa s l (winOf s l (bWindow b)) (bOffset b)] := by rw [hlines]; rfl
  have hbar : ¬(Resp.ok ≠ Resp.ok ∨ [winPa s l (winOf s l (bWindow b)) (bOffset b)].any
      (fun pa => !physOk s (winOf s l (bWindow b)).engine pa (pa + 127)) = true) := by
    simp [hpa]
  refine ⟨[winPa s l (winOf s l (bWindow b)) (bOffset b)].map (rdLine s.mem), ?_⟩
  unfold readLines
  dsimp only
  rw [if_pos hkind, hpas, if_neg hbar]

theorem winWrite_of_clean {s u : State} {l : LinkId} {b : BitVec 1024} (hinb : (linkOf s l.toNat).inb = none)
    (hhead : headRequest s l.toNat = (some b, u)) (resp : Resp) (ht : bType b = txWinWrite)
    (hst : winTest (updLink u l.toNat (takeFlits 1 vcRequest)) l.toNat b 0 = 0) :
    winWrite l resp .clean s = inbGo (setInb (updLink u l.toNat (takeFlits 1 vcRequest)) l.toNat (some {
      body := b, total := bLines b, applied := 0, status := 0 })) l.toNat resp := by
  have hstatus : tableStatus 0 .clean = 0 := rfl
  rw [winWrite_of_write hinb hhead resp .clean ht]
  simp only [tableEcc, hst, hstatus, if_true]

-- ---------------------------------------------------------------- a transaction that ends (R426, R439)

theorem foldl_lineWritten_links (c : Nat) (l : List LineRef) (s : State) :
    (l.foldl (lineWritten c) s).links = s.links := by
  induction l generalizing s with
  | nil => rfl
  | cons r l ih => exact ih (lineWritten c s r)

theorem linesWritten_links (s : State) (t : Txn) : (linesWritten s t).links = s.links := by
  unfold linesWritten
  split
  · exact foldl_lineWritten_links t.core t.refs s
  · split <;> rfl

theorem dropTxn_txns (s : State) (l tag : Nat) : mget none (linkOf (dropTxn s l tag) l).txns tag = none := by
  rw [dropTxn, linkOf_updLink_same, mget_mset_same]

theorem txnEnds_of_written {s : State} {l tag : Nat} {t : Txn} (h : t.type.toNat = txWinWrite) :
    txnEnds s l tag t 0 [] = linesWritten (dropTxn s l tag) t := by
  have hmsg : ¬(t.type.toNat = txMsg) := by rw [h]; decide
  have hsig : ¬(t.type.toNat = txFenceSig) := by rw [h]; decide
  have hread : ¬(t.type.toNat = txWinRead) := by rw [h]; decide
  simp only [txnEnds, hmsg, hsig, hread, if_false, ne_eq, not_true_eq_false]

theorem txnLost_of_msg {s : State} {l tag : Nat} {t : Txn} (ht : mget none (linkOf s l).txns tag = some t)
    (h : t.type.toNat = txMsg) :
    txnLost s l tag = msgEnds { dropTxn s l tag with freeCount := (dropTxn s l tag).freeCount + 1 } l
      (Config.lostStatus (dropTxn s l tag).freeCount) := by
  have hsig : ¬(t.type.toNat = txFenceSig) := by rw [h]; decide
  unfold txnLost
  rw [ht]
  exact (if_neg hsig).trans (if_pos h)

-- ---------------------------------------------------------------- the skews of an alignment (R418)

/-- A table built from a list of distinct keys holds its values; a default one is not stored. -/
theorem mget_tabulated {α : Type} [DecidableEq α] (d : α) (f : Nat → α) {l : List Nat} (hl : l.Nodup) (j : Nat) :
    mget d ((l.map (fun j => (j, f j))).filter (fun e => !decide (e.2 = d))) j = if j ∈ l then f j else d := by
  induction l with
  | nil => rfl
  | cons a l ih =>
    obtain ⟨ha, hl⟩ := List.nodup_cons.mp hl
    rw [List.map_cons, List.filter_cons]
    by_cases hd : f a = d
    · rw [if_neg (by simp [hd]), ih hl]
      by_cases hj : j = a
      · rw [hj, if_neg ha, if_pos List.mem_cons_self, hd]
      · simp [hj]
    · rw [if_pos (by simp [hd]), mget]
      by_cases hj : a = j
      · rw [if_pos hj, ← hj, if_pos List.mem_cons_self]
      · rw [if_neg hj, ih hl]
        simp [Ne.symm hj]

theorem winOf_setWin_same (s : State) (l w : Nat) (x : PltWin) : winOf (setWin s l w x) l w = x := by
  rw [winOf, setWin, linkOf_updLink_same, mget_mset_same]

-- ---------------------------------------------------------------- the states of a link (R416 to R420, R440)

theorem linkTry_of_down {s : State} {l : Nat} (hst : (linkOf s l).st = .down) (hen : (linkOf s l).enable = true)
    (hon : domOn s (linkDom l) = true) (hspent : (linkOf s l).spent = false) :
    linkTry s l = setLink s l { linkOf s l with st := .detect, since := now s } :=
  if_pos (by rw [hst, hen, hon, hspent]; rfl)

theorem linkRetrain_of_active {s : State} {l : Nat} (hst : (linkOf s l).st = .active) :
    linkRetrain s l = setLink s l { laneClear (linkOf s l) with
      st := .retrain, since := now s, got := [], echoed := 0, doneIn := false, doneOut := false
      aligned := false, retrainCnt := satAdd (linkOf s l).retrainCnt 1 } :=
  if_pos (by rw [hst]; rfl)

section
variable {s : State} {l : LinkId}

theorem linkAlign_of_measured {skew : List (BitVec 6)} (hst : (linkOf s l.toNat).st = .align)
    (hlen : skew.length = 8) (hskew : ∀ x ∈ skew, x.toNat ≤ 32) :
    linkAlign l skew s = storeDeskew (setLink s l.toNat { linkOf s l.toNat with
      st := .train, since := now s
      skew := ((List.range 8).map (fun j => (j, laneSkew skew j))).filter (fun e => !decide (e.2 = 0))
      got := [], echoed := 0, doneIn := false, doneOut := false
      preset := presetsOf (temperWord s (presetWord l.toNat)) }) l.toNat skew := by
  have hbad : ¬(skew.length ≠ 8 ∨ skew.any (fun x => decide (x.toNat > 32)) = true) := by
    simp only [hlen, ne_eq, not_true_eq_false, false_or, List.any_eq_true, decide_eq_true_eq, not_exists, not_and,
      Nat.not_lt]
    exact hskew
  have halign : ((linkOf s l.toNat).st == LinkSt.align) = true := by rw [hst]; rfl
  exact (if_neg hbad).trans (if_pos halign)

theorem trainFrame_of_field {f : TrainFrame} (hst : (linkOf s l.toNat).st = .train) (hecho : f.echo = false)
    (hfield : f.field.toNat < 6) (hlane : f.lane.toNat < 8) :
    trainFrame l f s = doneCheck (trainField s l.toNat f.field.toNat f.lane.toNat f.value) l.toNat := by
  have htrain : ((linkOf s l.toNat).st == LinkSt.train) = true := by rw [hst]; rfl
  simp only [trainFrame, htrain, hecho, hfield, hlane, and_self, decide_true, Bool.true_or, Bool.and_self, if_true,
    Bool.false_eq_true, if_false]

theorem trainTimeout_of_late (hst : (linkOf s l.toNat).st = .train)
    (hage : 40000000 ≤ (now s - (linkOf s l.toNat).since).toNat) :
    trainTimeout l s = post (updLink (linkDown s l.toNat 2) l.toNat (fun k => { k with
      trainFails := (linkOf s l.toNat).trainFails + 1
      spent := k.spent || decide ((linkOf s l.toNat).trainFails + 1 ≥ 3) })) 0x176 (srcLink l.toNat) none
      (linkObj l.toNat) 0 :=
  if_pos (by rw [hst, decide_eq_true (show _ ≥ _ from hage)]; rfl)

end

theorem sendMsg_of_free {s : State} {l : Nat} {forge : Bool} (hholds : linkHolds (linkOf s l) = true)
    (htag : freeTag (linkOf s l) ≠ none) :
    sendMsg s l forge = startTxn (updLink s l (fun k => { k with msgBusy := true })) l vcControl
      (txnOf txMsg (if forge then 256 else 0) 0 0)
      ((List.range 4).foldr (fun i v => (mget 0 (linkOf s l).msgData i).toNat + 2 ^ 32 * v) 0) [] :=
  (if_neg (by rw [hholds]; nofun)).trans (if_neg (by simpa using htag))

theorem transactionTimeout_of_late {s : State} {l : LinkId} {tag : BitVec 10} {t : Txn}
    (ht : mget none (linkOf s l.toNat).txns tag.toNat = some t) (hage : 1000000 ≤ (now s - t.sent).toNat) :
    transactionTimeout l tag s = txnLost s l.toNat tag.toNat := by
  simp only [transactionTimeout, ht, ge_iff_le, hage, if_true]

theorem headRequest_mem {s u : State} {l : Nat} {b : Option (BitVec 1024)} (h : headRequest s l = (b, u)) :
    u.mem = s.mem := by
  have hsnd : (headRequest s l).2.mem = s.mem := by
    unfold headRequest
    dsimp only
    split <;> rfl
  rwa [h] at hsnd

theorem pltMsgGo_of_free {s : State} {i : Initiator} {l : Nat} {forge : Bool} (hok : byHostForge i = true)
    (hon : domOn s (linkDom l) = true) (hbusy : (linkOf s l).msgBusy = false) :
    pltMsgGo s i l forge = sendMsg (updLink s l (fun k => { k with msgForge := forge })) l forge := by
  unfold pltMsgGo
  dsimp only
  rw [gated_of_allowed hok hon]
  exact if_neg (ne_true_of_eq_false hbusy)

theorem windowOpen_of_closed {s : State} {i : Initiator} {l w : Nat}
    (hmay : (byHostForge i && (byForge i || !(winOf s l w).engine)) = true) (hon : domOn s (linkDom l) = true)
    (hclosed : (winOf s l w).opened = false) :
    windowOpen s i l w = setWin s l w { winOf s l w with opened := true, late := 0 } := by
  unfold windowOpen
  dsimp only
  rw [gated_of_allowed hmay hon]
  exact if_neg (ne_true_of_eq_false hclosed)

-- ---------------------------------------------------------------- spaces and walks (R306, R309, R561)

theorem spaceCommit_of_forge {s : State} {i : Initiator} (hi : i = .forge)
    (hfree : idTaken s s.atu.sel.toNat (stagedSpace s) = false)
    (hvalid : (stagedSpace s).valid = false ∨ (stagedSpace s).root.extractLsb' 60 4 = 9) :
    spaceCommit s i = putSpace s s.atu.sel.toNat (stagedSpace s) := by
  have hmode : ((stagedSpace s).valid && decide (bits (stagedSpace s).root 60 4 ≠ 9)) = false := by
    rcases hvalid with h | h
    · rw [h, Bool.false_and]
    · rw [decide_eq_false (not_not.mpr h), Bool.and_false]
  simp only [spaceCommit, hi, byForge, beq_self_eq_true, Bool.not_true, Bool.false_and, Bool.false_eq_true, if_false,
    hfree, hmode]

/-- A step of a walk takes one credit of its Basket. -/
def walkPaid (s : State) (w : Walk) : State :=
  match walkBsk s w with
  | some b => takeCredit s b 1
  | none => s

theorem walkPaid_mem (s : State) (w : Walk) : (walkPaid s w).mem = s.mem := by
  unfold walkPaid
  split <;> rfl

theorem pteReadResponse_of_next {s : State} {walker : BitVec 4} {w : Walk} {table : Nat}
    (hw : mget none s.atu.walks walker.toNat = some w) (hdis : s.atu.disable = false)
    (hpa : physOkOf s w.pa (spaceOf s w.slot).engine (pteAddr w.table w.va.toNat w.level)
      (pteAddr w.table w.va.toNat w.level + 7) = true) (hwaits : walkWaits s w = false)
    (hstep : pteStep (rd64 s.mem (pteAddr w.table w.va.toNat w.level)) w.level = .next table) :
    pteReadResponse walker .ok s =
      setWalk (walkPaid s w) walker.toNat (some { w with level := w.level - 1, table := table }) := by
  have hpaid : walkStep s walker.toNat w .ok =
      setWalk (walkPaid s w) walker.toNat (some { w with level := w.level - 1, table := table }) := by
    cases hb : walkBsk s w with
    | none => simp only [walkStep, walkPaid, hb, hstep]
    | some b => simp only [walkStep, walkPaid, hb, takeCredit, setBw, hstep]
  simp only [pteReadResponse, hw, hdis, hpa, hwaits, Bool.not_true, Bool.false_eq_true, if_false, hpaid]

/-- Settles O38: the states of a link, its windows, flits and transactions, and the slots and walks of the ATU. -/
theorem walksAndLinksComplete : Obligations.WalksAndLinksComplete := by
  unfold Obligations.WalksAndLinksComplete
  intro s l i hi hon
  have hok : byHostForge i = true := byHostForge_of_eq hi
  dsimp only
  refine ⟨fun hst => ?enable, ?disable, fun hst => ⟨?retrain, ?lock, fun hbuf hold => ?stall, fun hout hold => ?retry,
      fun core r hruns hcore hold hlines htag => ?run, fun a rest hap => ?line⟩, fun hst => ?detect,
    fun hst => ⟨fun skew hlen hskew => ?align, fun hage => ?unaligned⟩,
    fun hst => ⟨fun f hecho hfield hlane => ?field, fun hage => ?untrained⟩, fun hst hage => ?unretrained,
    fun hauto hage hst hen hspent => ?restart, fun b hsync h4B h55 h78 h1E => ?block,
    fun forge hbusy hholds htag => ?message, fun w => ⟨fun hby hclosed => ?opens, ?closes⟩, fun hi' hfree => ?entry,
    fun b u hinb hhead => ⟨fun ht hst hone hkind hacen hpa f hf hdata => ?write,
      fun ht hst hone hkind hpa => ?read, fun ht hst hpa => ?signal⟩, fun f hf ht hbody hforge => ?arrives,
    fun f rest tag x hflits ht htxn htype hstatus => ?completes, fun tag x hx ht hage => ?lost,
    fun hon' hforge hfree hvalid => ?space, fun slot engine forge htakes hop hvalid => ?flags,
    fun walker w table hw hdis hpa hwaits hstep => ?walk⟩
  case enable =>
    refine ⟨_, goes_of_gated rfl hok hon (linkTry_of_down ?_ ?_ hon ?_), ?_⟩ <;>
      simp only [linkOf_updLink_same, linkOf_setLink_same, hst, and_self]
  case disable =>
    refine ⟨_, goes_of_gated rfl hok hon rfl, ?_⟩
    simp only [linkDisableTo, linkOf_updLink_same, linkDown_st, and_self]
  case retrain =>
    exact ⟨_, goes_of_gated rfl hok hon (linkRetrain_of_active hst), by rw [linkOf_setLink_same]⟩
  case lock =>
    exact ⟨_, goes_of_eq rfl (linkRetrain_of_active hst), by rw [linkOf_setLink_same], by rw [linkOf_setLink_same]⟩
  case stall =>
    have hstall : (!(linkOf s l.toNat).retryBuf.isEmpty && decide (s.clk.fabCyc ≥ (linkOf s l.toNat).ackAt + 4096)) =
        true := by
      rw [decide_eq_true (show _ ≥ _ from hold)]
      simpa using hbuf
    exact ⟨_, goes_of_eq rfl ((if_pos hstall).trans (linkRetrain_of_active hst)), by rw [linkOf_setLink_same]⟩
  case retry =>
    have hsends := sends_linkPump (setLink s l.toNat { linkOf s l.toNat with
      retryAt := s.clk.fabCyc, retryDue := true }) l.toNat
    refine ⟨_, goes_of_eq rfl (if_pos ?_), hsends.retryAt.trans ?_, hsends.mem⟩
    · rw [hst, hout, decide_eq_true (show _ ≥ _ from hold)]
      rfl
    · rw [linkOf_setLink_same]
  case run =>
    have hactive : ((linkOf s l.toNat).st == LinkSt.active) = true := by rw [hst]; rfl
    have hdue : [r].filter (fun r => decide (r.core = core.toNat ∧ s.clk.fabCyc ≥ r.last + 4096)) = [r] :=
      List.filter_eq_self.mpr (fun q hq => by
        rw [List.mem_singleton.mp hq]
        exact decide_eq_true ⟨hcore, hold⟩)
    refine ⟨sendRun s l.toNat r, goes_of_eq rfl ?_, ?_⟩
    · simp only [runTimeout, hactive, if_true, hruns, hdue, List.foldl_cons, List.foldl_nil]
    · rw [sendRun_runs hlines htag, hruns, List.erase_cons_head]
  case line =>
    refine ⟨_, goes_of_eq rfl (apertureLine_of_active hap hst), ?_⟩
    dsimp only
    split
    · rw [linkOf_congr (sentCheck_links ..), gatherLine_apLines, linkOf_setLink_same]
    · rw [gatherLine_apLines, linkOf_setLink_same]
  case detect =>
    exact ⟨_, goes_of_eq rfl (if_pos (by rw [hst]; rfl)), by rw [linkOf_setLink_same]⟩
  case align =>
    refine ⟨_, goes_of_eq rfl (linkAlign_of_measured hst hlen hskew), ?_, fun j hj => ?_⟩
    · rw [linkOf_congr (storeDeskew_links ..), linkOf_setLink_same]
    · rw [linkOf_congr (storeDeskew_links ..), linkOf_setLink_same]
      exact (mget_tabulated 0 (laneSkew skew) List.nodup_range j).trans (if_pos (List.mem_range.mpr hj))
  case unaligned =>
    exact ⟨_, goes_of_eq rfl (if_pos (by rw [hst, decide_eq_true (show _ ≥ _ from hage)]; rfl)),
      by rw [linkOf_setLink_same]⟩
  case field =>
    refine ⟨_, goes_of_eq rfl (trainFrame_of_field hst hecho (by rw [hfield]; decide) hlane), ?_⟩
    rw [doneCheck, linkActive_peerId]
    · rw [linkOf_updLink_same, trainField, linkOf_updLink_same, hfield]
      rfl
    · rw [linkOf_updLink_same, trainField, linkOf_updLink_same, hfield]
      exact hst
  case untrained =>
    refine ⟨_, goes_of_eq rfl (trainTimeout_of_late hst hage), ?_⟩
    rw [linkOf_congr (post_links ..), linkOf_updLink_same]
    exact ⟨linkDown_st .., rfl⟩
  case unretrained =>
    exact ⟨_, goes_of_eq rfl (if_pos (by rw [hst, decide_eq_true (show _ ≥ _ from hage)]; rfl)), linkDown_st ..,
      linkDown_lastDown 3 (by rw [hst]; nofun)⟩
  case restart =>
    refine ⟨_, goes_of_eq rfl ((if_pos ?_).trans (linkTry_of_down hst hen hon hspent)), by rw [linkOf_setLink_same]⟩
    rw [hauto, decide_eq_true (show _ ≥ _ from hage)]
    rfl
  case block =>
    have hword : takeLaneBlock l.toNat s b = updLink (updLink s l.toNat (fun k => { k with
        descr := mset 0 k.descr b.lane.toNat
          (descrambleWord b.payload (mget 0 (linkOf s l.toNat).descr b.lane.toNat)).2 })) l.toNat (fun k => { k with
        blockErrs := mset 0 k.blockErrs b.lane.toNat (satAdd (mget 0 k.blockErrs b.lane.toNat) 1) }) := by
      unfold takeLaneBlock
      dsimp only
      rw [if_neg (by rw [hsync]; decide), if_pos hsync, controlBlock]
      exact (if_neg h4B).trans (if_neg (by rintro (h | h | h) <;> contradiction))
    refine ⟨_, goes_of_eq rfl hword, ?_⟩
    rw [linkOf_updLink_same, linkOf_updLink_same, mget_mset_same]
  case message =>
    have hlink := linkOf_updLink_same s l.toNat (fun k => { k with msgForge := forge })
    refine ⟨sendMsg (updLink s l.toNat (fun k => { k with msgForge := forge })) l.toNat forge,
      goes_of_eq rfl (pltMsgGo_of_free hok hon hbusy), ?_⟩
    have hsent : sendMsg (updLink s l.toNat (fun k => { k with msgForge := forge })) l.toNat forge = _ :=
      sendMsg_of_free (by rw [hlink]; exact hholds) (by rw [hlink]; exact htag)
    rw [hsent, startTxn_msgBusy, linkOf_updLink_same]
  case opens =>
    have hmay : (byHostForge i && (byForge i || !(winOf s l.toNat w.toNat).engine)) = true := by
      rcases hby with rfl | hby
      · rfl
      · rw [hok, hby, Bool.not_false, Bool.or_true, Bool.and_self]
    exact ⟨_, goes_of_eq rfl (windowOpen_of_closed hmay hon hclosed), congrArg PltWin.opened (winOf_setWin_same ..)⟩
  case closes =>
    exact ⟨setWin s l.toNat w.toNat { winOf s l.toNat w.toNat with opened := false }, goes_of_gated rfl hok hon (by rfl),
      congrArg PltWin.opened (winOf_setWin_same s l.toNat w.toNat _)⟩
  case entry =>
    refine ⟨_, goes_of_gated rfl hok hon (if_neg (ne_true_of_eq_false hfree)), ?_⟩
    rw [linkOf_setLink_same, mget_mset_same]
  case write =>
    have hmem : (updLink u l.toNat (takeFlits 1 vcRequest)).mem = s.mem := headRequest_mem (u := u) hhead
    refine ⟨_, goes_of_eq rfl (winWrite_of_clean hinb hhead .ok ht hst), ?_⟩
    rw [hone, inbGo_of_line rfl rfl hkind hacen hpa hf hdata]
    exact congrArg (fun m => wrLine m _ _) hmem
  case read =>
    obtain ⟨d, hd⟩ := readLines_of_line hkind hone hpa
    refine ⟨_, goes_of_eq rfl ((winRead_of_read hinb hhead .ok ht).trans ?_),
      (sends_sendCompletion (updLink u l.toNat (takeFlits 1 vcRequest)) l.toNat (bTag b) 0 0 0 d).mem.trans
        (headRequest_mem (u := u) hhead)⟩
    simp only [hst, hd, ne_eq, not_true_eq_false, if_false]
  case signal =>
    have hgo := (fenceSig_of_signal hinb hhead .ok ht).trans ((if_neg (not_not.mpr hst)).trans
      ((if_neg (by rw [hpa]; nofun)).trans (if_neg (not_not.mpr rfl))))
    exact ⟨_, goes_of_eq rfl hgo, (sends_sendCompletion ..).mem⟩
  case arrives =>
    have hgo := (msg_of_head hf).trans ((if_neg (by simp [ht, hbody])).trans (if_neg (ne_true_of_eq_false hforge)))
    exact ⟨_, goes_of_eq rfl hgo, (sends_sendCompletion ..).geq⟩
  case completes =>
    have hplain : x.type.toNat ≠ txWinRead := by rw [htype]; decide
    refine ⟨_, goes_of_eq rfl (completion_without_data hflits ht htxn (Or.inl hplain)), ?_⟩
    rw [hstatus, txnEnds_of_written htype, linkOf_congr (linesWritten_links ..), dropTxn_txns]
  case lost =>
    have hlost := txnLost_of_msg hx ht
    refine ⟨_, goes_of_eq rfl (transactionTimeout_of_late hx hage), ?_⟩
    rw [hlost, msgEnds, linkOf_updLink_same]
    exact ⟨dropTxn_txns s l.toNat tag.toNat, rfl⟩
  case space =>
    refine ⟨_, goes_of_gated rfl hok hon' (spaceCommit_of_forge hforge hfree hvalid), ?_⟩
    rw [spaceOf_putSpace_same]
  case flags =>
    refine ⟨_, goes_of_eq rfl ((mbxRow_of_taken htakes hop).trans (if_pos hvalid)), ?_⟩
    rw [spaceOf, mbxReply_atu, ← spaceOf, spaceOf_putSpace_same]
    exact ⟨rfl, rfl, rfl⟩
  case walk =>
    exact ⟨_, goes_of_eq rfl (pteReadResponse_of_next hw hdis hpa hwaits hstep),
      by rw [setWalk, mget_mset_same], walkPaid_mem s w⟩

end Sys2Proof.Proofs
end

section
/-! PROOF. What lookups, stores and completions of a context leave of the store (for O47). -/

namespace Sys2Proof.Proofs

open Sys2Proof Sys2Proof.Machine Sys2Proof.Says Sys2Proof.Laws

-- ---------------------------------------------------------------- lookups (R311)

section
variable (s : State)

theorem keptView_freeWalker (i : Nat) : keptView (freeWalker s i) = keptView s := by
  unfold freeWalker
  split <;> rfl

theorem keptView_walkDone : keptView (walkDone s) = keptView s := keptView_count ..

theorem keptView_takeCredit (b n : Nat) : keptView (takeCredit s b n) = keptView s := rfl

theorem keptView_with_atu (x : Atu) : keptView { s with atu := x } = keptView s := rfl

theorem keptView_walkNow (b slot va : Nat) : keptView (walkNow s b slot va).2 = keptView s := by
  unfold walkNow
  extract_lets k w r freed paid
  clear_value w
  have hfreed : keptView freed = keptView s := by
    cases w with
    | none => rfl
    | some e => exact keptView_freeWalker s e.1
  have hpaid : keptView paid = keptView s := (keptView_walkDone _).trans hfreed
  clear_value paid
  split <;> exact hpaid

theorem keptView_stlbMiss : keptView (stlbMiss s) = keptView s := keptView_count ..

theorem keptView_lookupLeaf (b : Nat) (slot : Option Nat) (va : Nat) (fits : DWord → Bool) :
    keptView (lookupLeaf s b slot va fits).2 = keptView s := by
  unfold lookupLeaf
  split
  · rfl
  · split
    · rfl
    · split
      · rfl
      · split
        · split
          · rfl
          · exact keptView_walkNow ..
        · exact (keptView_walkNow ..).trans (keptView_stlbMiss s)

theorem keptView_translate (b : Nat) (slot : Option Nat) (va : Nat) (store : Bool) :
    keptView (Machine.translate s b slot va store).2 = keptView s := by
  unfold Machine.translate
  dsimp only
  split <;> exact keptView_lookupLeaf ..

theorem keptView_xlatPages (b : Nat) (slot : Option Nat) (store : Bool) (l : List Nat) :
    keptView (xlatPages b slot store l s).2 = keptView s := by
  induction l generalizing s with
  | nil => rfl
  | cons p l ih =>
    rw [xlatPages]
    split
    · exact (ih _).trans (keptView_translate ..)
    · exact keptView_translate ..

-- ---------------------------------------------------------------- a task that stops (R313, R322)

theorem keptView_landRow (c tg i : Nat) (counts : Bool) : keptView (landRow s c tg i counts) = keptView s := by
  unfold landRow
  dsimp only
  split
  · unfold tagCount
    split <;> rfl
  · rfl

theorem keptView_lineBack (c tg n : Nat) (data : BitVec 1024) (counts : Bool) :
    keptView (lineBack s c tg n data counts) = keptView s := by
  unfold lineBack
  dsimp only
  split
  · exact (keptView_landRow ..).trans rfl
  · rfl

theorem keptView_landLines (c : Nat) : keptView (landLines s c) = keptView s := by
  refine keptView_foldl (fun t l => ?_) _ s
  split
  · rfl
  · exact keptView_lineBack ..

theorem keptView_updMem (c : Nat) (f : MemUnit → MemUnit) : keptView (updMem s c f) = keptView s := rfl

theorem keptView_completeLines (c : Nat) : keptView (completeLines s c) = keptView s :=
  (keptView_updMem _ _ _).trans (keptView_foldl (f := fun s (l : InLine) => lineBack s c l.tag.toNat l.line l.data false)
    (fun t _ => keptView_lineBack t ..) _ s)

theorem keptView_stopCore (full : Bool) (c : Nat) : keptView (stopCore full s c) = keptView s := by
  unfold stopCore
  split
  · exact keptView_landLines s c
  · exact keptView_completeLines s c

theorem keptView_updCtx (c : Nat) (f : Ctx → Ctx) : keptView (updCtx s c f) = keptView s := rfl

theorem keptView_with_ru (x : Ru) : keptView { s with ru := x } = keptView s := rfl

theorem keptView_writeSave (c : Nat) (t : Machine.Task) (full : Bool) : keptView (writeSave s c t full) = keptView s := by
  unfold writeSave
  extract_lets k a n saved ord m m' kept u
  exact (keptView_updCtx _ _ _).trans (keptView_with_mem s _)

theorem keptView_freedCores (l : List Nat) : keptView (releaseCores (dropBundles s l) l) = keptView s :=
  (keptView_releaseCores ..).trans (keptView_dropBundles ..)

theorem keptView_switchOut (c : Nat) (rollback full : Bool) : keptView (switchOut s c rollback full) = keptView s := by
  unfold switchOut
  split
  · next t _ =>
    extract_lets stopped calls noted muted a n
    have hstopped : keptView stopped = keptView s := keptView_foldl (fun u d => keptView_stopCore u full d) t.cores s
    have hmuted : keptView muted = keptView s := by
      unfold muted
      split
      · exact ((keptView_with_ru _ _).trans (keptView_updCtx ..)).trans hstopped
      · exact (keptView_updCtx ..).trans hstopped
    split
    · exact (keptView_freedCores ..).trans ((keptView_updCtx ..).trans hmuted)
    · split
      · exact (keptView_freedCores ..).trans ((keptView_writeSave ..).trans ((keptView_takeCredit ..).trans hmuted))
      · exact (keptView_tearDown ..).trans hmuted
  · rfl

theorem keptView_joinRec (id : Nat) (h : FaultHit) : keptView (joinRec s id h) = keptView s := by
  unfold joinRec
  split <;> rfl

theorem keptView_pageFault (h : FaultHit) : keptView (pageFault s h) = keptView s := by
  unfold pageFault
  extract_lets k key reps noted running stopped
  have hstopped : keptView stopped = keptView s := by
    unfold stopped
    split
    · exact (keptView_switchOut ..).trans (keptView_updCtx ..)
    · exact keptView_updCtx ..
  clear_value stopped
  split
  · exact (keptView_tearDown ..).trans (keptView_updCtx ..)
  · split
    · split
      · exact (keptView_joinRec ..).trans hstopped
      · split
        · exact (keptView_openRec ..).trans ((keptView_takePending ..).trans hstopped)
        · exact hstopped
    · exact hstopped

theorem keptView_xlatFault (x : Nat) (core : Option Nat) (va : Nat) (store region : Bool) (y : Xlat) :
    keptView (xlatFault s x core va store region y) = keptView s := by
  unfold xlatFault
  split
  · rfl
  · exact keptView_tearDown ..
  · exact keptView_pageFault ..

-- ---------------------------------------------------------------- results and completion (R473, R475)

theorem keptView_updLink (l : Nat) (f : Link → Link) : keptView (updLink s l f) = keptView s := rfl

theorem keptView_putLine (c pa : Nat) (d : BitVec 1024) : keptView (putLine s c pa d) = keptView s := by
  rw [show putLine = delta% putLine from rfl]
  dsimp only
  split
  · exact keptView_updLink ..
  · exact keptView_with_mem s _

theorem keptView_putPart (c pa : Nat) (l : List Byte) : keptView (putPart s c pa l) = keptView s := by
  unfold putPart
  extract_lets a old new
  split
  · exact keptView_putLine s c a _
  · exact keptView_with_mem s _

theorem keptView_putVirt (c b : Nat) (slot : Option Nat) (n va : Nat) (l : List Byte) :
    keptView (putVirt c b slot n va l s) = keptView s := by
  induction n generalizing s va l with
  | zero => rfl
  | succ n ih =>
    unfold putVirt
    split
    · rfl
    · refine (ih _ _ _).trans ?_
      split
      · exact keptView_putPart ..
      · rfl

theorem keptView_setReq (c : Nat) (r : Option StoreReq) : keptView (setReq s c r) = keptView s := rfl

theorem keptView_storeFinish (c : Nat) (r : StoreReq) (q : Nat × Nat × Nat) :
    keptView (storeFinish s c r q) = keptView s := by
  unfold storeFinish
  extract_lets bsk slot a asked t l written ended
  have hlooked : keptView t.2 = keptView s := (keptView_xlatPages ..).trans (keptView_setReq ..)
  have hended : keptView ended = keptView s :=
    (keptView_setReq ..).trans ((keptView_putVirt ..).trans hlooked)
  clear_value ended
  split
  · exact (keptView_xlatFault ..).trans hlooked
  · split
    · exact hended
    · exact (keptView_updCtx ..).trans hended

theorem keptView_writeBuf (c : Nat) (r : StoreReq) (l : List Byte) (q : Nat × Nat × Nat) :
    keptView (writeBuf s c r l q) = keptView s := by
  unfold writeBuf
  extract_lets bsk w counted t
  have hlooked : keptView t.2 = keptView s := keptView_xlatPages ..
  split
  · exact (keptView_xlatFault ..).trans hlooked
  · exact (keptView_storeFinish ..).trans ((keptView_putVirt ..).trans hlooked)

end

end Sys2Proof.Proofs
end

section
/-! PROOF. What the operations of the Ingot Store hold (16; for O47). -/

namespace Sys2Proof.Proofs

open Sys2Proof Sys2Proof.Machine Sys2Proof.Says Sys2Proof.Laws

-- ---------------------------------------------------------------- what changes blocks alone (R454, R468)

/-- `t` is `s` but for the records of the store's blocks. -/
def BlocksOnly (s t : State) : Prop := ∃ b, t = { s with store := { s.store with blocks := b } }

theorem BlocksOnly.rfl' (s : State) : BlocksOnly s s := ⟨s.store.blocks, rfl⟩

theorem BlocksOnly.trans {s t u : State} (h : BlocksOnly s t) (k : BlocksOnly t u) : BlocksOnly s u := by
  obtain ⟨b, rfl⟩ := h
  obtain ⟨d, rfl⟩ := k
  exact ⟨d, rfl⟩

theorem BlocksOnly.foldl {α : Type} {f : State → α → State} (hf : ∀ s a, BlocksOnly s (f s a)) (l : List α)
    (s : State) : BlocksOnly s (l.foldl f s) := by
  induction l generalizing s with
  | nil => exact .rfl' s
  | cons a l ih => exact (hf s a).trans (ih _)

theorem blocksOnly_eraseBlock (s : State) (k : Nat) : BlocksOnly s (eraseBlock s k) := ⟨_, rfl⟩

theorem blocksOnly_useBlock (s : State) (k region : Nat) : BlocksOnly s (useBlock s k region) := ⟨_, rfl⟩

theorem blocksOnly_formatBlock (s : State) (bad : List Nat) (k : Nat) : BlocksOnly s (formatBlock s bad k) := by
  unfold formatBlock
  split
  · exact ⟨_, rfl⟩
  · split
    · exact blocksOnly_eraseBlock s k
    · exact .rfl' s

theorem blocksOnly_takeStripe (region : Nat) (cs : List Nat) (s : State) (l : List Nat) :
    BlocksOnly s (takeStripe region cs s l).2 := by
  induction cs generalizing s l with
  | nil => exact .rfl' s
  | cons c cs ih =>
    rw [takeStripe]
    split
    · exact (blocksOnly_useBlock s _ _).trans (ih _ _)
    · exact ih _ _

theorem blocksOnly_ingotPool (n : Nat) (s : State) : BlocksOnly s (ingotPool n s) := by
  induction n generalizing s with
  | zero => exact .rfl' s
  | succ n ih => exact (blocksOnly_takeStripe 1 _ s []).trans (ih _)

theorem blocksOnly_restripe (region : Nat) (b : Bool) (l : List Stripe) (s : State) (acc : List Stripe) :
    BlocksOnly s (restripe region b l s acc).2 := by
  induction l generalizing s acc with
  | nil => exact .rfl' s
  | cons a l ih => exact (blocksOnly_takeStripe region _ s []).trans (ih _ _)

-- ---------------------------------------------------------------- the store after an entry (R480)

theorem post_store (s : State) (code source : Nat) (ctx : Option Nat) (obj detail : DWord) :
    (post s code source ctx obj detail).store = s.store := by
  obtain ⟨g, m, b, h⟩ := post_eq s code source ctx obj detail
  rw [h]

theorem postReplace_store (s : State) (code source : Nat) (obj detail : DWord) (bit : Nat) :
    (postReplace s code source obj detail bit).store = s.store := by
  obtain ⟨g, m, b, h⟩ := geqPut_eq s (geqEntry s code source none obj detail true false)
  rw [postReplace, h]

theorem count_store (s : State) (i n : Nat) : (count s i n).store = s.store := by
  obtain ⟨x, h⟩ := count_eq s i n
  rw [h]

theorem trace_store (s : State) (type source : Nat) (ctx : Option Nat) (mask : BitVec 16) (payload : BitVec 128) :
    (trace s type source ctx mask payload).store = s.store := by
  obtain ⟨x, h⟩ := trace_eq s type source ctx mask payload
  rw [h]

theorem forgeTemper_store (s : State) (w : Nat) (v : Word) (routine : Bool) :
    (forgeTemper s w v routine).store = s.store := by
  obtain ⟨x, h, -⟩ := forgeTemper_eq s w v routine
  rw [h]

-- ---------------------------------------------------------------- mount and commit (R461, R464)

theorem spareCheck_st (s : State) : (spareCheck s).store.st = s.store.st := by
  unfold spareCheck
  split
  · rw [postReplace_store]
    rfl
  · rfl

theorem mountRoot_st (s : State) (errs : List PageErr) : (mountRoot s errs).store.st = 2 := by
  unfold mountRoot
  dsimp only
  split
  · rw [blankStore, stPost, post_store]
    rfl
  · rw [spareCheck_st, stPost, post_store]
    rfl

theorem rootWrite_store (s : State) (w : Nat) (v : Word) : (rootWrite s w v).store = s.store := by
  unfold rootWrite
  split
  · rfl
  · dsimp only
    split
    · rw [temperWear, postReplace_store]
      rfl
    · rfl

theorem mapStripe_eq (s : State) :
    ∃ b m, mapStripe s = { s with store := { s.store with blocks := b, mapStripes := m } } := by
  unfold mapStripe
  extract_lets t freed x
  have hfreed : ∃ b m, freed = { s with store := { s.store with blocks := b, mapStripes := m } } := by
    unfold freed
    split
    · obtain ⟨b, hb⟩ := BlocksOnly.foldl blocksOnly_eraseBlock
        (t.mapStripes.headD { first := 0, cap := 0, blocks := [] }).blocks s
      rw [hb]
      exact ⟨_, _, rfl⟩
    · exact ⟨_, _, rfl⟩
  obtain ⟨b, m, hfreed⟩ := hfreed
  have hx : BlocksOnly freed x.2 := blocksOnly_takeStripe 0 (chansIn freed.store) freed []
  clear_value freed x
  obtain ⟨d, hx⟩ := hx
  refine iteInduction (motive := fun u : State => ∃ b m, u =
    { s with store := { s.store with blocks := b, mapStripes := m } }) (fun _ => ⟨s.store.blocks, s.store.mapStripes, rfl⟩)
    (fun _ => ?_)
  rw [hx, hfreed]
  exact ⟨d, _, rfl⟩

theorem stEvent_store (s : State) (bit : Nat) :
    (stEvent s bit).store = { s.store with event := scEvent s.store.event (1#24 <<< bit) } := rfl

theorem commitEnd_store (s : State) : (commitEnd s).store.gen = s.store.gen + 1 ∧
    (commitEnd s).store.commitBusy = false ∧ (commitEnd s).store.reqs = s.store.reqs := by
  obtain ⟨b, m, hmap⟩ := mapStripe_eq s
  have hgen : (mapStripe s).store.gen = s.store.gen := by rw [hmap]
  have hreqs : (mapStripe s).store.reqs = s.store.reqs := by rw [hmap]
  rw [← hgen, ← hreqs, commitEnd]
  clear hgen hreqs hmap
  generalize mapStripe s = u
  rw [trace_store, count_store, stEvent_store, updStore, rootWrite_store, rootWrite_store, rootWrite_store,
    rootWrite_store]
  exact ⟨rfl, rfl, rfl⟩

theorem finishCovered_of_none {s : State} (h : s.store.reqs = []) : finishCovered s = s := by
  rw [finishCovered, h]
  rfl

/-- R461: the pages of a commit all done, its end follows at once. -/
theorem journalCommit_of_done {s : State} (hst : s.store.st = 2) (hblank : s.store.blank = false)
    (hruns : forgeRuns s = true) (hfree : s.temper.busy = none) (hbusy : s.store.commitBusy = true)
    (hdone : pagesDone s.store = true) (hreqs : s.store.reqs = []) : journalCommit s = commitEnd s := by
  have hmounted : stMounted s = true := decide_eq_true hst
  have hready : (stMounted s && !s.store.blank && forgeRuns s && s.temper.busy.isNone) = true := by
    rw [hmounted, hblank, hruns, hfree]
    rfl
  simp only [journalCommit, hready, if_true, hbusy, hdone, Bool.and_self]
  exact finishCovered_of_none ((commitEnd_store s).2.2.trans hreqs)

-- ---------------------------------------------------------------- operations of a LUN (R446, R447)

theorem lunOf_of_lt {ch ce lun : Nat} (hch : ch < 4) (hce : ce < 4) (hlun : lun < 2) :
    lunOf ch ce lun = some (ch * 8 + ce * 2 + lun) := if_pos ⟨hch, hce, hlun⟩

theorem mem_of_foldl_pick {α : Type} {f : Option α → α → Option α}
    (hf : ∀ b a o, f b a = some o → o = a ∨ b = some o) (l : List α) (b : Option α) {o : α}
    (h : l.foldl f b = some o) : o ∈ l ∨ b = some o := by
  induction l generalizing b with
  | nil => exact Or.inr h
  | cons a l ih =>
    rcases ih _ h with hl | hb
    · exact Or.inl (List.mem_cons_of_mem a hl)
    · rcases hf b a o hb with rfl | hb
      · exact Or.inl List.mem_cons_self
      · exact Or.inr hb

theorem nextOp_mem {t : Store} {lun : Nat} {o : NandOp} (h : nextOp t lun = some o) : o ∈ t.ops := by
  unfold nextOp at h
  dsimp only at h
  split at h
  · next x hx =>
    cases h
    exact (List.mem_filter.mp (List.mem_of_find?_eq_some hx)).1
  · refine (mem_of_foldl_pick (fun b a o hb => ?_) _ none h).elim (fun hmem => (List.mem_filter.mp hmem).1) nofun
    cases b with
    | none => exact Or.inl (Option.some.inj hb).symm
    | some x =>
      dsimp only at hb
      split at hb
      · exact Or.inl (Option.some.inj hb).symm
      · exact Or.inr hb

section
variable {s : State} {lun : Nat} {o : NandOp} {x : DWord} (hnext : nextOp s.store lun = some o)
  (hstarted : o.started = some x)
include hnext hstarted

theorem nandDone_of_erased (herase : o.erase = true) :
    nandDone s lun false = pumpOps { s with store := { s.store with ops := s.store.ops.erase o } } := by
  simp only [nandDone, hnext, hstarted, herase, Option.isNone_some, Bool.false_eq_true, if_false, if_true, updStore]

theorem nandOpTimeout_of_first {ch ce k : Nat} (hlun : lunOf ch ce k = some lun)
    (hlate : 2 * profTime s o.erase < (now s - x).toNat) (hfirst : o.retried = false) :
    nandOpTimeout s ch ce k = updStore s (fun t => { t with ops := t.ops.map (fun y =>
      if y = o then { y with started := some (now s), retried := true } else y) }) := by
  simp only [nandOpTimeout, hlun, Option.bind_some, hnext, hstarted, gt_iff_lt, hlate, if_true, hfirst,
    Bool.false_eq_true, if_false]

end

end Sys2Proof.Proofs
end

section
/-! PROOF. The store's own events: mount, operations of a LUN, upkeep (16; for O47). -/

namespace Sys2Proof.Proofs

open Sys2Proof Sys2Proof.Machine Sys2Proof.Says Sys2Proof.Laws

-- ---------------------------------------------------------------- mount and unmount (R453, R480)

theorem storeMount_of_up {s u : State} {bad : BitVec 16} {errs : List PageErr} (hoff : s.store.enable = false)
    (hu : u = { s with store := { storeForget s.store with enable := true, st := 1 } }) (hok : profOk u = true)
    (ha : (bringUp u bad).store.outA = false) (hb : (bringUp u bad).store.outB = false) :
    storeMount s bad errs = mountRoot (bringUp u bad) errs := by
  have hu' : updStore s (fun t => { storeForget t with enable := true, st := 1 }) = u := hu.symm
  simp only [storeMount, hoff, hu', hok, ha, hb, Bool.false_eq_true, if_false, Bool.not_true, Bool.or_self,
    Bool.and_self]

theorem storeUnmount_of_on {s : State} (hon : s.store.enable = true) : storeUnmount s =
    updStore (finishOps s (fun _ => true)) (fun t => { storeForget t with enable := false, st := 0 }) := if_pos hon

theorem storePower_goes {s : State} (hdom : domOn s 210 = true) :
    (∀ bad errs,
      let u := { s with store := { storeForget s.store with enable := true, st := 1 } }
      s.store.enable = false → profOk u = true → (bringUp u bad).store.outA = false →
      (bringUp u bad).store.outB = false → ∃ t, Goes (.storeMount bad errs) s t ∧ t.store.st = 2) ∧
    (s.store.enable = true → ∃ t, Goes .storeUnmount s t ∧ t.store.enable = false ∧ t.store.st = 0) := by
  constructor
  · intro bad errs u hoff hok ha hb
    exact ⟨_, goes_of_gated rfl rfl hdom (storeMount_of_up hoff rfl hok ha hb), mountRoot_st _ _⟩
  · intro hon
    exact ⟨_, goes_of_gated rfl rfl hdom (storeUnmount_of_on hon), rfl, rfl⟩

-- ---------------------------------------------------------------- operations of a LUN (R446, R447, R448)

theorem nandOpComplete_of_lun {s : State} {ch ce lun l : Nat} {fail : Bool} (h : lunOf ch ce lun = some l) :
    Goes (.nandOpComplete ch ce lun fail) s (nandDone s l fail) :=
  goes_of_eq rfl (by rw [h])

theorem statusPoll_of_lun {s : State} {ch ce lun l : Nat} {status : Byte} (h : lunOf ch ce lun = some l)
    (hready : status.getLsbD 6 = true) (hpass : status.getLsbD 0 = false) :
    statusPoll s ch ce lun status = nandDone s l false := by
  simp only [statusPoll, h, hready, hpass, if_true]

theorem nandOps_goes {s : State} {ch ce lun : Nat} {o : NandOp} {x : DWord} (hch : ch < 4) (hce : ce < 4)
    (hlun : lun < 2) (hnext : nextOp s.store (ch * 8 + ce * 2 + lun) = some o) (hstarted : o.started = some x) :
    let u := pumpOps { s with store := { s.store with ops := s.store.ops.erase o } }
    (o.erase = true → Goes (.nandOpComplete ch ce lun false) s u ∧
      ∀ status : Byte, status.getLsbD 6 = true → status.getLsbD 0 = false →
        Goes (.statusPoll ch ce lun status) s u) ∧
    (2 * profTime s o.erase < (now s - x).toNat → o.retried = false →
      ∃ t, Goes (.nandOpTimeout ch ce lun) s t ∧
        { o with started := some (now s), retried := true } ∈ t.store.ops) := by
  intro u
  have hl := lunOf_of_lt hch hce hlun
  refine ⟨fun herase => ?_, fun hlate hfirst => ?_⟩
  · have hdone : nandDone s (ch * 8 + ce * 2 + lun) false = u := nandDone_of_erased hnext hstarted herase
    refine ⟨?_, fun status hready hpass => ?_⟩
    · rw [← hdone]
      exact nandOpComplete_of_lun hl
    · exact goes_of_eq rfl ((statusPoll_of_lun hl hready hpass).trans hdone)
  · refine ⟨_, goes_of_eq rfl (nandOpTimeout_of_first hnext hstarted hl hlate hfirst), ?_⟩
    exact List.mem_map.mpr ⟨o, nextOp_mem hnext, if_pos rfl⟩

-- ---------------------------------------------------------------- upkeep of the store (R448, R461, R469, R472)

section
variable {s : State}

theorem zqTimer_of_due (hst : s.store.st = 2) (hdue : 1000000000 ≤ (now s - s.store.zqTick).toNat) :
    zqTimer s = updStore s (fun t => { t with zqTick := now s }) := by
  simp only [zqTimer, stMounted, hst, decide_true, Bool.true_and, ge_iff_le, hdue, if_true]

theorem mirrorRebuilt_of_uncopied (hst : s.store.st = 2) (hre : s.store.rebuilding = true)
    (ha : s.store.outA = false) (hb : s.store.outB = false) (hcopy : s.store.copiedGen = none) :
    mirrorRebuilt s = rebuildCopy s := by
  simp only [mirrorRebuilt, hre, stMounted, hst, decide_true, ha, hb, Bool.not_false, Bool.and_self, if_true, hcopy]

theorem storeRefresh_of_fresh {k corrected : Nat} {u : State} (hst : s.store.st = 2)
    (hu : u = updStore s (fun t => updBlk { t with ceCnt := satAdd t.ceCnt corrected } k
      (fun b => { b with corrected := b.corrected + corrected })))
    (hdue : refreshDue u k corrected = false) : storeRefresh s k corrected = u := by
  subst hu
  simp only [storeRefresh, stMounted, hst, decide_true, if_true, hdue, Bool.and_false, Bool.false_eq_true, if_false]

theorem mountedUpkeep_goes (hst : s.store.st = 2) :
    (1000000000 ≤ (now s - s.store.zqTick).toNat →
      ∃ t, Goes .zqCalibrationTimer s t ∧ t.store.zqTick = now s ∧ t.mem = s.mem) ∧
    (s.store.blank = false → forgeRuns s = true → s.temper.busy = none → s.store.commitBusy = true →
      pagesDone s.store = true → s.store.reqs = [] →
      ∃ t, Goes .journalCommit s t ∧ t.store.gen = s.store.gen + 1 ∧ t.store.commitBusy = false) ∧
    (s.store.rebuilding = true → s.store.outA = false → s.store.outB = false → s.store.copiedGen = none →
      ∃ t, Goes .mirrorRebuilt s t ∧ t.store.copiedGen = some s.store.gen) ∧
    (∀ k corrected,
      refreshDue (updStore s (fun t => updBlk { t with ceCnt := satAdd t.ceCnt corrected } k
        (fun b => { b with corrected := b.corrected + corrected }))) k corrected = false →
      ∃ t, Goes (.storeRefresh k corrected) s t ∧ t.store.ceCnt = satAdd s.store.ceCnt corrected) := by
  refine ⟨fun hdue => ?_, fun hblank hruns hfree hbusy hdone hreqs => ?_, fun hre ha hb hcopy => ?_,
    fun k corrected hdue => ?_⟩
  · exact ⟨_, goes_of_eq rfl (zqTimer_of_due hst hdue), rfl, rfl⟩
  · obtain ⟨hgen, hended, -⟩ := commitEnd_store s
    exact ⟨_, goes_of_eq rfl (journalCommit_of_done hst hblank hruns hfree hbusy hdone hreqs), hgen, hended⟩
  · exact ⟨_, goes_of_eq rfl (mirrorRebuilt_of_uncopied hst hre ha hb hcopy), rfl⟩
  · exact ⟨_, goes_of_eq rfl (storeRefresh_of_fresh hst rfl hdue), rfl⟩

theorem eraseArmExpiry_goes {x : DWord} (harm : s.store.armedUntil = some x) (hpast : (now s - x).toNat < 2 ^ 63) :
    ∃ t, Goes .eraseArmExpiry s t ∧ t.store.armedUntil = none := by
  refine ⟨updStore s (fun x => { x with armedUntil := none }), goes_of_eq rfl ?_, rfl⟩
  simp only [eraseArmExpiry, harm, hpast, if_true]

theorem storeHoursTick_goes (hruns : forgeRuns s = true) (hdue : 360000000000 ≤ (now s - s.store.hoursTick).toNat) :
    ∃ t, Goes .storeHoursTick s t ∧ t.store.hoursTick = now s := by
  refine ⟨_, goes_of_eq rfl (if_pos ?_), ?_⟩
  · rw [hruns, Bool.true_and]
    exact decide_eq_true hdue
  · rw [forgeTemper_store]
    rfl

end

end Sys2Proof.Proofs
end

section
/-! PROOF. The STORE subops of a context (R473 to R477; for O47). -/

namespace Sys2Proof.Proofs

open Sys2Proof Sys2Proof.Machine Sys2Proof.Says Sys2Proof.Laws

-- ---------------------------------------------------------------- the row of a subop (R473)

/-- What the store holds beside the requests of its commands. -/
def heldStore (s : State) : Store := { s.store with reqs := [], anchor := none }

theorem heldStore_of_keptView {s t : State} (h : keptView t = keptView s) : heldStore t = heldStore s :=
  congrArg KeptView.store h

theorem heldStore_storeFinish (s : State) (c : Nat) (r : StoreReq) (q : Nat × Nat × Nat) :
    heldStore (storeFinish s c r q) = heldStore s := heldStore_of_keptView (keptView_storeFinish s c r q)

theorem heldStore_writeBuf (s : State) (c : Nat) (r : StoreReq) (l : List Byte) (q : Nat × Nat × Nat) :
    heldStore (writeBuf s c r l q) = heldStore s := heldStore_of_keptView (keptView_writeBuf s c r l q)

theorem heldStore_count (s : State) (i n : Nat) : heldStore (count s i n) = heldStore s :=
  heldStore_of_keptView (keptView_count s i n)

theorem logOf_of_heldStore {s t : State} (h : heldStore t = heldStore s) (g : Bool) :
    logOf t.store g = logOf s.store g := by
  cases g
  · exact (congrArg Store.journal h :)
  · exact (congrArg Store.gallery h :)

section
variable {s : State} {ctx : CtxId} {sub : Nat} {r : StoreReq}

theorem mountedRow_of_serves (h : Serves s ctx.toNat sub r) (f : Nat → StoreReq → State → State) :
    mountedRow ctx sub f s = f ctx.toNat r s := by
  obtain ⟨⟨req, hcmd⟩, hreq, hstarted, hunfin, hrun, hsame, hfree, hopen, hst, hserved⟩ := h
  have hmounted : stMounted s = true := decide_eq_true hst
  simp only [mountedRow, subopRow, hcmd, hreq, hstarted, hunfin, hrun, hsame, hfree, hopen, hserved, hmounted,
    decide_true, Bool.not_false, beq_self_eq_true, Bool.and_self, if_true]

/-- A read of the request's data that a lookup of every page admits (R473). -/
theorem readBuf_of_found {c a n : Nat} {u : State} (f : State → State)
    (h : xlatPages (ctxBsk s c) (slotOfCtx s c) false (pagesOf (span a n)) s = (none, u)) :
    readBuf s c [(a, n)] f = f u := by
  simp only [readBuf, List.flatMap_cons, List.flatMap_nil, List.append_nil, h]

theorem readBuf_nil (c : Nat) (f : State → State) : readBuf s c [] f = f s := rfl

end

-- ---------------------------------------------------------------- appends and the early commit (R459, R460, R474)

theorem appendMore_log {s : State} {c : Nat} {g : Bool} {r : StoreReq} (hroom : r.left.length ≤ logRoom s.store g) :
    logOf (appendMore s c g r).store g = logOf (appendRecs s g (appendClass s c) r.left).store g := by
  have hall : r.left.take (min r.left.length (logRoom s.store g)) = r.left := by
    rw [Nat.min_eq_left hroom, List.take_length]
  unfold appendMore
  dsimp only
  rw [hall]
  split
  · split
    · rfl
    · exact logOf_of_heldStore (heldStore_storeFinish ..) g
  · rfl

theorem append_goes {s : State} {c : Nat} {g : Bool} {r : StoreReq} (htaken : r.taken = true)
    (hroom : r.left.length ≤ logRoom s.store g) :
    logOf (appendSub g c r s).store g = logOf (appendRecs s g (appendClass s c) r.left).store g := by
  rw [appendSub, if_pos htaken, appendMore_log hroom]

theorem appends_goes {s : State} {ctx : CtxId} {r : StoreReq} :
    ∀ p ∈ ([(.journalAppend ctx, subJournalAppend, false), (.galleryAppend ctx, subGalleryAppend, true)] :
      List (Instr × Nat × Bool)), Serves s ctx.toNat p.2.1 r → r.taken = true →
      r.left.length ≤ logRoom s.store p.2.2 → ∃ t, Goes p.1 s t ∧
        logOf t.store p.2.2 = logOf (appendRecs s p.2.2 (appendClass s ctx.toNat) r.left).store p.2.2 := by
  intro p hp hserves htaken hroom
  rcases List.mem_pair.mp hp with rfl | rfl
  · exact ⟨_, goes_of_eq rfl (mountedRow_of_serves hserves _), append_goes htaken hroom⟩
  · exact ⟨_, goes_of_eq rfl (mountedRow_of_serves hserves _), append_goes htaken hroom⟩

theorem commit_goes {s : State} {ctx : CtxId} {r : StoreReq} (h : Serves s ctx.toNat subCommit r) :
    ∃ t, Goes (.commit ctx) s t ∧ t.store.early = true :=
  ⟨_, goes_of_eq rfl (mountedRow_of_serves h _), (congrArg Store.early (heldStore_storeFinish ..) :)⟩

-- ---------------------------------------------------------------- reads of a log (R476, R477)

theorem readLogPage_nil_copies (s : State) (g : Bool) (e : Nat × LogPage) :
    (readLogPage s [] g e).2.copies = [] := by
  simp only [readLogPage, List.any_nil, Bool.false_eq_true, if_false]

theorem foldl_scanRec_outs (start cap : Nat) (pass : List Byte → Bool) (l : List (Nat × List Byte)) (z : Scan) :
    (l.foldl (scanRec start cap pass) z).outs = z.outs := by
  induction l generalizing z with
  | nil => rfl
  | cons e l ih =>
    refine (ih _).trans ?_
    unfold scanRec
    split <;> rfl

theorem scanPage_nil_outs (s : State) (g : Bool) (start cap : Nat) (pass : List Byte → Bool) (z : Scan)
    (e : Nat × LogPage) : (scanPage s [] g start cap pass z e).outs = z.outs := by
  unfold scanPage
  dsimp only
  rw [readLogPage_nil_copies]
  split
  · rfl
  · split
    · exact foldl_scanRec_outs ..
    · rfl

theorem foldl_scanPage_nil_outs (s : State) (g : Bool) (start cap : Nat) (pass : List Byte → Bool)
    (l : List (Nat × LogPage)) (z : Scan) : (l.foldl (scanPage s [] g start cap pass) z).outs = z.outs := by
  induction l generalizing z with
  | nil => rfl
  | cons e l ih => exact (ih _).trans (scanPage_nil_outs ..)

/-- A scan that meets no wrong bit has nothing to note (R454). -/
theorem scanLog_nil_outs (s : State) (g : Bool) (start cap t0 t1 : Nat) (mask : Option (List Byte)) :
    (scanLog s [] g start cap t0 t1 mask).outs = [] := by
  unfold scanLog
  dsimp only
  split <;> exact foldl_scanPage_nil_outs ..

theorem noteScan_of_nil {z : Scan} (h : z.outs = []) (s : State) (g : Bool) : noteScan s g z = s := by
  rw [noteScan, h]
  rfl

theorem maskRange_of_zero {b : BitVec 512} (h : sqA3 b = 0) : maskRange b = [] := if_pos h

theorem heldStore_readSub {s : State} {g : Bool} {c : Nat} {r : StoreReq} (hlen : 64 ≤ sqLen r.block)
    (hspan : spanRecs s.store g (sqA0 r.block) ≤ 2 ^ 32) (hmask : sqA3 r.block = 0) :
    heldStore (readSub [] g c r s) = heldStore s := by
  have hfits : ¬ (sqLen r.block < 64 ∨ spanRecs s.store g (sqA0 r.block) > 2 ^ 32) :=
    not_or.mpr ⟨Nat.not_lt.mpr hlen, Nat.not_lt.mpr hspan⟩
  rw [readSub, if_neg hfits, maskRange_of_zero hmask, readBuf_nil]
  dsimp only
  rw [noteScan_of_nil (scanLog_nil_outs ..)]
  exact (heldStore_writeBuf ..).trans (heldStore_count ..)

theorem reads_goes {s : State} {ctx : CtxId} {r : StoreReq} :
    ∀ p ∈ ([(.journalRead ctx [], subJournalRead, false), (.galleryRead ctx [], subGalleryRead, true)] :
      List (Instr × Nat × Bool)), Serves s ctx.toNat p.2.1 r → 64 ≤ sqLen r.block →
      spanRecs s.store p.2.2 (sqA0 r.block) ≤ 2 ^ 32 → sqA3 r.block = 0 →
      ∃ t, Goes p.1 s t ∧ t.store.journal = s.store.journal ∧ t.store.gallery = s.store.gallery := by
  intro p hp hserves hlen hspan hmask
  have hheld := heldStore_readSub (c := ctx.toNat) hlen hspan hmask
  rcases List.mem_pair.mp hp with rfl | rfl
  · exact ⟨_, goes_of_eq rfl (mountedRow_of_serves hserves _), (congrArg Store.journal hheld :),
      (congrArg Store.gallery hheld :)⟩
  · exact ⟨_, goes_of_eq rfl (mountedRow_of_serves hserves _), (congrArg Store.journal hheld :),
      (congrArg Store.gallery hheld :)⟩

theorem heldStore_endSearch (s : State) (c : Nat) : heldStore (endSearch s c) = heldStore s := by
  unfold endSearch
  split
  · split
    · exact heldStore_of_keptView (keptView_foldl (f := fun u d => updSeq u d (fun q => { q with ended := true }))
        (fun _ _ => rfl) _ s)
    · rfl
  · rfl

theorem search_goes {s u : State} {ctx : CtxId} {r : StoreReq} {x : Machine.Task}
    (htask : (ctxOf s ctx.toNat).task = some x) (hreq : reqOf s ctx.toNat = some r) (hsearch : x.cmd.search = true)
    (hrun : x.phase = .running) (hst : s.store.st = 2) (hlen : 64 + 8 * sqNq r.block * sqK r.block ≤ sqLen r.block)
    (hspan : spanRecs s.store true 0 ≤ 2 ^ 32) (hmask : sqA3 r.block = 0)
    (hreads : xlatPages (ctxBsk s ctx.toNat) (slotOfCtx s ctx.toNat) false
      (pagesOf (span (sqA0 r.block) (256 * sqNq r.block))) s = (none, u)) :
    ∃ t, Goes (.search ctx []) s t ∧ t.store.gallery = s.store.gallery := by
  have hmounted : stMounted s = true := decide_eq_true hst
  have hfits : ¬ (sqLen r.block < 64 + 8 * sqNq r.block * sqK r.block ∨ spanRecs s.store true 0 > 2 ^ 32) :=
    not_or.mpr ⟨Nat.not_lt.mpr hlen, Nat.not_lt.mpr hspan⟩
  have hlooked : heldStore u = heldStore s := heldStore_of_keptView (by
    rw [← keptView_xlatPages s _ _ false (pagesOf (span (sqA0 r.block) (256 * sqNq r.block))), hreads])
  have hsearched : search ctx [] s = searchRun s [] ctx.toNat r := by
    simp only [search, htask, hreq, hsearch, hrun, beq_self_eq_true, Bool.and_self, if_true]
  have hheld : heldStore (searchRun s [] ctx.toNat r) = heldStore s := by
    rw [searchRun, hmounted, Bool.not_true, if_neg Bool.false_ne_true, if_neg hfits, maskRange_of_zero hmask,
      readBuf_of_found _ hreads, heldStore_endSearch]
    unfold searchOut
    dsimp only
    rw [noteScan_of_nil (scanLog_nil_outs ..)]
    exact (heldStore_writeBuf ..).trans ((heldStore_count ..).trans hlooked)
  exact ⟨_, goes_of_eq rfl hsearched, (congrArg Store.gallery hheld :)⟩

end Sys2Proof.Proofs
end

section
/-! PROOF. Ingots, FORMAT and modules (R470, R467, R472; for O47). -/

namespace Sys2Proof.Proofs

open Sys2Proof Sys2Proof.Machine Sys2Proof.Says Sys2Proof.Laws

-- ---------------------------------------------------------------- Ingots and the plan (R470, R474)

theorem ingotOf_of_ingots {t : Store} {m : SMap (Option Image)} {id : Nat} {i : Option Image}
    (h : t.ingots = mset none m id i) : ingotOf t id = i := by
  rw [ingotOf, h, mget_mset_same]

/-- The image that a write of `n` bytes from `a` makes, once its pages are found (R470). -/
def writtenImage (u : State) (c a n : Nat) : Image where
  md := nextMeta u 1 0 u.store.ingotNext
  bytes := bufBytes u c a n
  onA := !u.store.outA
  onB := !u.store.outB

section
variable {s u : State} {ctx : CtxId} {r : StoreReq}

theorem imageWrite_of_found {id c : Nat} (f : Store → Store) (hroom : ingotRoom s id (sqLen r.block) = true)
    (hreads : xlatPages (ctxBsk s c) (slotOfCtx s c) false (pagesOf (span (sqBuf r.block) (sqLen r.block))) s =
      (none, u)) :
    ∃ w : State, imageWrite id f c r s = setReq (updStore w (fun t => f { t with
      ingotNext := t.ingotNext + imagePages16 (sqLen r.block)
      ingots := mset none t.ingots id (some (writtenImage u c (sqBuf r.block) (sqLen r.block))) })) c
      (some { r with waits := true }) := by
  rw [imageWrite, hroom, Bool.not_true, if_neg Bool.false_ne_true, readBuf_of_found _ hreads]
  exact ⟨_, rfl⟩

theorem ingotWrite_goes
    (hreads : xlatPages (ctxBsk s ctx.toNat) (slotOfCtx s ctx.toNat) false
      (pagesOf (span (sqBuf r.block) (sqLen r.block))) s = (none, u)) :
    (Serves s ctx.toNat subIngotWrite r → ingotRoom s (sqA0 r.block) (sqLen r.block) = true →
      ∃ t i, Goes (.ingotWrite ctx) s t ∧ ingotOf t.store (sqA0 r.block) = some i ∧
        i.bytes = bufBytes u ctx.toNat (sqBuf r.block) (sqLen r.block)) ∧
    (∀ p, Serves s ctx.toNat subPlanWrite r → ingotRoom s planId (sqLen r.block) = true →
      ∃ t, Goes (.planWrite ctx p) s t ∧ t.store.plan = some p) := by
  constructor
  · intro hserves hroom
    obtain ⟨w, hw⟩ := imageWrite_of_found (fun t => { t with early := true }) hroom hreads
    refine ⟨_, writtenImage u ctx.toNat (sqBuf r.block) (sqLen r.block),
      goes_of_eq rfl ((mountedRow_of_serves hserves _).trans hw), ingotOf_of_ingots rfl, rfl⟩
  · intro p hserves hroom
    obtain ⟨w, hw⟩ := imageWrite_of_found (fun t => { t with plan := some p }) hroom hreads
    exact ⟨_, goes_of_eq rfl ((mountedRow_of_serves hserves _).trans hw), rfl⟩

theorem ingotRead_goes {i : Image} (hserves : Serves s ctx.toNat subIngotRead r)
    (hof : ingotOf s.store (sqA0 r.block) = some i) (hlen : i.bytes.length ≤ sqLen r.block)
    (hon : onPresent s.store i.onA i.onB = true) :
    ∃ t, Goes (.ingotRead ctx []) s t ∧ t.store.ingots = s.store.ingots := by
  have hheld : heldStore (ingotReadSub [] ctx.toNat r s) = heldStore s := by
    simp only [ingotReadSub, hof, gt_iff_lt, Nat.not_lt.mpr hlen, if_false, hon, Bool.not_true, Bool.false_eq_true,
      List.any_nil]
    exact (heldStore_writeBuf ..).trans (heldStore_count ..)
  exact ⟨_, goes_of_eq rfl (mountedRow_of_serves hserves _), (congrArg Store.ingots hheld :)⟩

theorem ingotDelete_goes (hserves : Serves s ctx.toNat subIngotDelete r)
    (hof : ingotOf s.store (sqA0 r.block) ≠ none) (hidle : ingotInForce s (sqA0 r.block) = false) :
    ∃ t, Goes (.ingotDelete ctx) s t ∧ ingotOf t.store (sqA0 r.block) = none := by
  have hkept : (ingotOf s.store (sqA0 r.block)).isNone = false := Option.isNone_eq_false_iff.mpr
    (Option.isSome_iff_ne_none.mpr hof)
  have hheld : heldStore (ingotDeleteSub ctx.toNat r s) = heldStore (updStore s (fun t =>
      { t with ingots := mset none t.ingots (sqA0 r.block) none })) := by
    simp only [ingotDeleteSub, hkept, hidle, Bool.false_eq_true, if_false]
    exact heldStore_storeFinish ..
  exact ⟨_, goes_of_eq rfl (mountedRow_of_serves hserves _), ingotOf_of_ingots (congrArg Store.ingots hheld :)⟩

end

-- ---------------------------------------------------------------- FORMAT (R455, R467)

theorem formatStore_held (s : State) (bad : List Nat) (q : Nat × Nat × Nat) :
    (formatStore s bad q).store.armedUntil = s.store.armedUntil ∧ (formatStore s bad q).store.blank = false := by
  unfold formatStore
  extract_lets emptied formatted pooled
  have hformatted : BlocksOnly emptied formatted := BlocksOnly.foldl (fun t k => blocksOnly_formatBlock t bad k) _ _
  have hpooled : BlocksOnly formatted pooled := blocksOnly_ingotPool q.1 formatted
  obtain ⟨b, hb⟩ := hformatted.trans hpooled
  refine ⟨?_, rfl⟩
  rw [hb]
  rfl

/-- `s` with its arming of erasure spent (R467). -/
def disarmed (s : State) : State := updStore s (fun t => { t with armedUntil := none })

theorem formatSub_of_armed {s : State} {c : Nat} {r : StoreReq} {bad : List Nat} {q : Nat × Nat × Nat}
    (harm : eraseArmed s = true) (hparked : standingUnparked s = false)
    (hshares : formatShares ((allBlocks s).filter (fun k => isGood s.store k && !bad.contains k)).length
      (sqA0 r.block) = some q) :
    formatSub bad c r s = storeFinish (formatStore (disarmed s) bad q) c r (0, 0, 0) := by
  have hparked' : standingUnparked (disarmed s) = false := hparked
  have hshares' : formatShares ((allBlocks (disarmed s)).filter (fun k => isGood (disarmed s).store k &&
    !bad.contains k)).length (sqA0 r.block) = some q := hshares
  unfold formatSub
  rw [harm, Bool.not_true, if_neg Bool.false_ne_true, ← disarmed]
  generalize disarmed s = d at *
  dsimp only
  rw [hparked', if_neg Bool.false_ne_true, hshares']

theorem format_goes {s : State} {ctx : CtxId} {r : StoreReq} {bad : List Nat} {q : Nat × Nat × Nat}
    (hserves : Serves s ctx.toNat subFormat r) (harmed : s.store.armedUntil ≠ none)
    (hparked : standingUnparked s = false)
    (hshares : formatShares ((allBlocks s).filter (fun k => isGood s.store k && !bad.contains k)).length
      (sqA0 r.block) = some q) :
    ∃ t, Goes (.format ctx bad) s t ∧ t.store.armedUntil = none ∧ t.store.blank = false := by
  have harm : eraseArmed s = true := Option.isSome_iff_ne_none.mpr harmed
  have hheld := heldStore_storeFinish (formatStore (disarmed s) bad q) ctx.toNat r (0, 0, 0)
  obtain ⟨harmed', hblank⟩ := formatStore_held (disarmed s) bad q
  exact ⟨_, goes_of_eq rfl ((mountedRow_of_serves hserves _).trans (formatSub_of_armed harm hparked hshares)),
    (congrArg Store.armedUntil hheld).trans harmed', (congrArg Store.blank hheld).trans hblank⟩

-- ---------------------------------------------------------------- modules (R472)

/-- Which modules are out, and whether a new one is being filled. -/
def modules (s : State) : Bool × Bool × Bool := (s.store.outA, s.store.outB, s.store.rebuilding)

theorem modules_of_heldStore {s t : State} (h : heldStore t = heldStore s) : modules t = modules s :=
  (congrArg (fun x : Store => (x.outA, x.outB, x.rebuilding)) h :)

theorem BlocksOnly.modules_eq {s t : State} (h : BlocksOnly s t) : modules t = modules s := by
  obtain ⟨b, rfl⟩ := h
  rfl

theorem modOut_of_modules {s t : State} (h : modules t = modules s) (b : Bool) :
    modOut t.store b = modOut s.store b := by
  obtain ⟨ha, hb⟩ := Prod.mk.inj h
  unfold modOut
  rw [ha, (Prod.mk.inj hb).1]

theorem modules_updLog (s : State) (g : Bool) (f : LogRegion → LogRegion) : modules (updLog s g f) = modules s := by
  cases g <;> rfl

theorem modules_stPost (s : State) (code : Nat) : modules (stPost s code) = modules s := by
  rw [modules, stPost, post_store]
  rfl

theorem modOut_dropModule (s : State) (b : Bool) : modOut (dropModule s b).store b = true := by
  cases b
  · exact Bool.or_true _
  · exact Bool.or_true _

theorem moduleOut_goes {s : State} {ctx : CtxId} {r : StoreReq} (hserves : Serves s ctx.toNat subModuleOut r)
    (hother : modOut s.store (!decide (sqA0 r.block = 1)) = false) (hwhole : s.store.rebuilding = false) :
    ∃ t, Goes (.moduleOut ctx) s t ∧ modOut t.store (decide (sqA0 r.block = 1)) = true := by
  refine ⟨_, goes_of_eq rfl (mountedRow_of_serves hserves _), ?_⟩
  unfold moduleOutSub
  dsimp only
  rw [hother, hwhole, Bool.or_self, if_neg Bool.false_ne_true]
  generalize decide (sqA0 r.block = 1) = b
  split
  · next hout => exact (modOut_of_modules (modules_of_heldStore (heldStore_storeFinish ..)) b).trans hout
  · refine (modOut_of_modules (modules_of_heldStore (heldStore_storeFinish ..)) b).trans ?_
    exact modOut_dropModule _ b

theorem modules_moduleFresh (s : State) (b : Bool) (bad : List Nat) : modules (moduleFresh s b bad) = modules s := by
  unfold moduleFresh
  extract_lets ks cut formatted g capped x mapped y
  have hformatted : modules formatted = modules s :=
    (BlocksOnly.foldl (fun t k => blocksOnly_formatBlock t bad k) ks (eraseCopies cut b)).modules_eq
  have hcapped : modules capped = modules s := (modules_updLog ..).trans hformatted
  have hmapped : modules mapped = modules s := (blocksOnly_restripe 0 b _ capped []).modules_eq.trans hcapped
  exact (modules_updLog ..).trans ((blocksOnly_restripe 2 b _ mapped []).modules_eq.trans hmapped)

/-- `s` with module `b` switched on and its targets `m` up (R472). -/
def fitted (s : State) (b : Bool) (m : BitVec 16) : State :=
  updStore (setDom s (nandDom b) true) (fun t => { t with
    targets := t.targets ||| m, outA := t.outA && b, outB := t.outB && !b })

/-- `s` with its new module to be filled. -/
def filling (s : State) : State := updStore s (fun t => { t with rebuilding := true, copiedGen := none })

theorem modOut_filling (s : State) (b : Bool) : modOut (filling s).store b = modOut s.store b := rfl

theorem modOut_fitted (s : State) (b : Bool) (m : BitVec 16) : modOut (fitted s b m).store b = false := by
  cases b
  · exact Bool.and_false _
  · exact Bool.and_false _

theorem moduleIn_goes {s : State} {ctx : CtxId} {r : StoreReq} {badT : BitVec 16} {bad : List Nat}
    (hserves : Serves s ctx.toNat subModuleIn r) (hout : modOut s.store (decide (sqA0 r.block = 1)) = true)
    (hany : profTargets s &&& (if decide (sqA0 r.block = 1) then 0xFF00 else 0x00FF) ≠ 0)
    (hgood : profTargets s &&& (if decide (sqA0 r.block = 1) then 0xFF00 else 0x00FF) &&& badT = 0) :
    ∃ t, Goes (.moduleIn ctx badT bad) s t ∧ t.store.rebuilding = true ∧
      modOut t.store (decide (sqA0 r.block = 1)) = false := by
  refine ⟨_, goes_of_eq rfl (mountedRow_of_serves hserves _), ?_⟩
  unfold moduleInSub
  extract_lets b m on up fails failed rebuilt
  rw [show modOut s.store b = true from hout, Bool.not_true, if_neg Bool.false_ne_true,
    if_neg (not_or.mpr ⟨not_not.mpr hgood, hany⟩)]
  have hfresh : modOut rebuilt.store b = modOut up.store b :=
    (modOut_filling (moduleFresh up b bad) b).trans (modOut_of_modules (modules_moduleFresh up b bad) b)
  have hfilling : rebuilt.store.rebuilding = true := rfl
  clear_value rebuilt
  have hmods : modules (storeFinish (stPost rebuilt 0x18A) ctx.toNat r (0, 0, 0)) = modules rebuilt :=
    (modules_of_heldStore (heldStore_storeFinish ..)).trans (modules_stPost rebuilt 0x18A)
  exact ⟨((Prod.mk.inj (Prod.mk.inj hmods).2).2).trans hfilling,
    (modOut_of_modules hmods b).trans (hfresh.trans (modOut_fitted s b m))⟩

end Sys2Proof.Proofs
end

section
/-! PROOF. Power: domains, budget, sensors and the root clock (18; for O47). -/

namespace Sys2Proof.Proofs

open Sys2Proof Sys2Proof.Machine Sys2Proof.Says Sys2Proof.Laws

-- ---------------------------------------------------------------- the sequencer (R502, R503)

/-- The sequencer moves its queue and its requests alone. -/
theorem pumpSeq_eq (n : Nat) (s : State) :
    ∃ q r, pumpSeq n s = { s with pwr := { s.pwr with queue := q, reqs := r } } := by
  induction n generalizing s with
  | zero => exact ⟨s.pwr.queue, s.pwr.reqs, rfl⟩
  | succ n ih =>
    rw [pumpSeq]
    split
    · exact ⟨s.pwr.queue, s.pwr.reqs, rfl⟩
    · dsimp only
      split
      · exact ⟨s.pwr.queue, s.pwr.reqs, rfl⟩
      · next q _ =>
        obtain ⟨l, r, h⟩ := ih (updPwr s (fun p => { p with
          queue := p.queue.erase q
          reqs := p.reqs ++ [{ domain := q.1, on := q.2, since := s.clk.tb }] }))
        exact ⟨l, r, h.trans rfl⟩

theorem pumpSeq_en (n : Nat) (s : State) : (pumpSeq n s).pwr.en = s.pwr.en := by
  obtain ⟨q, r, h⟩ := pumpSeq_eq n s
  rw [h]

theorem pumpSeq_event (n : Nat) (s : State) : (pumpSeq n s).pwr.event = s.pwr.event := by
  obtain ⟨q, r, h⟩ := pumpSeq_eq n s
  rw [h]

theorem domOn_pumpSeq (n : Nat) (s : State) (d : Nat) : domOn (pumpSeq n s) d = domOn s d := by
  obtain ⟨q, r, h⟩ := pumpSeq_eq n s
  rw [h]
  rfl

theorem post_pwr (s : State) (code source : Nat) (ctx : Option Nat) (obj detail : DWord) :
    (post s code source ctx obj detail).pwr = s.pwr := by
  obtain ⟨g, m, b, h⟩ := post_eq s code source ctx obj detail
  rw [h]

theorem trace_pwr (s : State) (type source : Nat) (ctx : Option Nat) (mask : BitVec 16) (payload : BitVec 128) :
    (trace s type source ctx mask payload).pwr = s.pwr := by
  obtain ⟨x, h⟩ := trace_eq s type source ctx mask payload
  rw [h]

theorem getLsbD_domBit {d : Nat} (hd : d < 224) : (domBit d).getLsbD d = true := by
  simp [domBit, hd]

theorem setEn_getLsbD (s : State) {d : Nat} (hd : d < 224) : (setEn s d true).pwr.en.getLsbD d = true := by
  simp only [setEn, updPwr, if_true, BitVec.getLsbD_or, getLsbD_domBit hd, Bool.or_true]

theorem domOn_setOn (s : State) {d : Nat} (hd : d < 224) : domOn (setOn s d true) d = true := by
  simp only [domOn, setOn, updPwr, if_true, BitVec.getLsbD_or, getLsbD_domBit hd, Bool.or_true]

theorem enableDomain_en {s : State} {d : Nat} (hd : d < 224)
    (hparent : domParent d = none ∨ ∃ p, domParent d = some p ∧ domOn s p = true) (hret : domRetired s d = false) :
    (enableDomain s d).pwr.en.getLsbD d = true := by
  have hup : (match domParent d with | some p => domOn s p | none => true) = true := by
    rcases hparent with h | ⟨p, h, hp⟩
    · rw [h]
    · rw [h]
      exact hp
  unfold enableDomain
  split
  · next hon => exact hon
  · dsimp only
    have hgo : ¬ ((!(match domParent d with | some p => domOn s p | none => true) || domRetired s d) = true) := by
      rw [hup, hret]
      nofun
    refine iteInduction (motive := fun t : State => t.pwr.en.getLsbD d = true) (fun h => absurd h hgo) (fun _ => ?_)
    rw [askSeq, pumpSeq_en]
    exact setEn_getLsbD s hd

theorem domainOn_goes {s : State} (hon : domOn s 209 = true) (d : Byte) (hd : d.toNat < 217)
    (hparent : domParent d.toNat = none ∨ ∃ p, domParent d.toNat = some p ∧ domOn s p = true)
    (hret : domRetired s d.toNat = false) : ∃ t, Goes (.domainOn .forge d) s t ∧ t.pwr.en.getLsbD d.toNat = true := by
  have hlt : ¬ d.toNat ≥ 224 := by omega
  refine ⟨_, goes_of_eq rfl ?_, enableDomain_en (by omega) hparent hret⟩
  rw [domainOn]
  exact (if_neg hlt).trans ((gated_of_allowed rfl hon).trans (if_pos hd))

-- ---------------------------------------------------------------- the store's reset (R516)

theorem programDone_enable (s : State) (o : NandOp) : (programDone s o).store.enable = s.store.enable := by
  have hpage (f : LogPage → LogPage) : (updPage (count s 266 1) o.gallery o.page f).store.enable =
      (count s 266 1).store.enable := by
    cases o.gallery <;> rfl
  exact (hpage _).trans (congrArg Store.enable (count_store s 266 1))

theorem finishOps_enable (s : State) (p : NandOp → Bool) : (finishOps s p).store.enable = s.store.enable := by
  have hfold : ∀ (l : List NandOp) (t : State),
      (l.foldl (fun s o => if o.erase then s else programDone s o) t).store.enable = t.store.enable := by
    intro l
    induction l with
    | nil => exact fun _ => rfl
    | cons o l ih =>
      intro t
      refine (ih _).trans ?_
      dsimp only
      split
      · rfl
      · exact programDone_enable t o
  exact hfold _ _

theorem storeReset_goes {s : State} (hon : domOn s 209 = true) (hstore : domOn s 210 = true)
    (hoff : s.store.enable = false) :
    ∃ t, Goes (.storeReset .forge) s t ∧ t.store.enable = false ∧ t.store.st = 0 := by
  have hdone : storeResetDone s = updStore (finishOps s (fun o => o.started.isSome))
      (fun x => { storeForget x with enable := false, st := 0 }) :=
    if_neg (by rw [finishOps_enable, hoff]; exact Bool.false_ne_true)
  exact ⟨_, goes_of_gated rfl rfl hon ((if_pos hstore).trans hdone), rfl, rfl⟩

-- ---------------------------------------------------------------- operating points and the budget (R508, R510, R512)

theorem toPoint_budget (s : State) (p : Nat × Nat) : (toPoint s p).pwr.budget = s.pwr.budget := by
  unfold toPoint
  split
  · rfl
  · dsimp only
    rw [trace_pwr]
    rfl

theorem unmetCheck_budget (s : State) : (unmetCheck s).pwr.budget = s.pwr.budget := by
  unfold unmetCheck
  dsimp only
  split
  · rw [post_pwr]
    exact toPoint_budget s slowest
  · rfl

theorem pwrBudgetWrite_goes {s : State} (hon : domOn s 209 = true) (v : Word) (hv : v.toNat % 1024 ≤ 600) :
    ∃ t, Goes (.pwrBudgetWrite .pmgr v) s t ∧ t.pwr.budget = BitVec.ofNat 10 (v.toNat % 1024) := by
  refine ⟨_, goes_of_gated rfl rfl hon (if_neg (Nat.not_lt.mpr hv)), ?_⟩
  dsimp only
  split
  · rw [unmetCheck_budget, toPoint_budget]
    rfl
  · rfl

-- ---------------------------------------------------------------- acknowledgement and timeout (R503)

theorem linkTry_pwr (s : State) (l : Nat) : (linkTry s l).pwr = s.pwr := by
  unfold linkTry
  dsimp only
  split <;> rfl

theorem domainUp_pwr (s : State) (d : Nat) : (domainUp s d).pwr = (setOn s d true).pwr := by
  unfold domainUp
  dsimp only
  split
  · exact linkTry_pwr ..
  · rfl

section
variable {s : State} {d : Byte} {r : SeqReq}
  (hreq : s.pwr.reqs.find? (fun r => decide (r.domain = d.toNat)) = some r)
include hreq

theorem powerAck_goes (hr : r.on = true) (hnot : (d.toNat, false) ∉ s.pwr.queue) (hd : d.toNat < 217) :
    ∃ t, Goes (.powerAck d) s t ∧ domOn t d.toNat = true := by
  refine ⟨powerAck s d.toNat, rfl, ?_⟩
  simp only [powerAck, hreq, hr, if_true]
  generalize hu : updPwr s (fun p => { p with reqs := p.reqs.erase r }) = u
  have hkept : (d.toNat, false) ∉ (domainUp u d.toNat).pwr.queue := by
    rw [domainUp_pwr, ← hu]
    exact hnot
  rw [domOn_pumpSeq, offAfterOn, if_neg (by simpa using hkept), domOn, domainUp_pwr]
  exact domOn_setOn u (by omega)

theorem pwrSeqTimeout_goes (hlate : 5000 ≤ (now s - r.since).toNat) :
    ∃ t, Goes (.pwrSeqTimeout d) s t ∧ t.pwr.event = scEvent s.pwr.event 1 := by
  refine ⟨pwrSeqTimeout s d.toNat, rfl, ?_⟩
  simp only [pwrSeqTimeout, hreq, ge_iff_le, hlate, if_true]
  rw [pumpSeq_event]
  split
  · exact congrArg Pwr.event (post_pwr ..)
  · exact congrArg Pwr.event (post_pwr ..)

end

-- ---------------------------------------------------------------- the root clock (R514)

section
variable {s : State}

theorem pllUnlock_goes (h : s.pwr.lostSince = none) :
    ∃ t, Goes .pllUnlock s t ∧ t.pwr.lock = false ∧ t.pwr.lostSince = some (now s) :=
  ⟨_, goes_of_eq rfl (if_neg (by rw [h]; nofun)), rfl, rfl⟩

theorem pllReturn_goes {x : DWord} (h : s.pwr.lostSince = some x) :
    (∃ t, Goes .pllRelock s t ∧ t.pwr.lock = true ∧ t.pwr.lostSince = none) ∧
    (1000000 ≤ (now s - x).toNat → ∃ t, Goes .pllUnlockTimeout s t ∧ t.pwr.coldAsk = true) := by
  refine ⟨⟨pllRelock s, rfl, ?_⟩, fun hlate => ⟨pllUnlockTimeout s, rfl, ?_⟩⟩
  · simp only [pllRelock, h, post_pwr]
    exact ⟨rfl, rfl⟩
  · simp only [pllUnlockTimeout, h, ge_iff_le, hlate, if_true, updPwr]

end

end Sys2Proof.Proofs
end

section
/-! PROOF. What the sensors and the start of a block leave of the clocks (R509, R517 to R519; for O47). -/

namespace Sys2Proof.Proofs

open Sys2Proof Sys2Proof.Machine Sys2Proof.Says Sys2Proof.Laws

section
variable (s : State)

theorem keptView_post (code source : Nat) (ctx : Option Nat) (obj detail : DWord) :
    keptView (post s code source ctx obj detail) = keptView s := keptView_geqPut ..

theorem keptView_forgeTemper (w : Nat) (v : Word) (routine : Bool) :
    keptView (forgeTemper s w v routine) = keptView s := by
  obtain ⟨x, h, -⟩ := forgeTemper_eq s w v routine
  rw [h]
  rfl

-- ---------------------------------------------------------------- readings of the sensors (R509 to R513)

theorem keptView_toPoint (p : Nat × Nat) : keptView (toPoint s p) = keptView s := by
  unfold toPoint
  split
  · rfl
  · exact (keptView_trace ..).trans rfl

theorem keptView_pwrEvent (bit : Nat) : keptView (pwrEvent s bit) = keptView s := rfl

theorem keptView_sensorBad (old : BitVec 20) : keptView (sensorBad s old) = keptView s :=
  keptView_foldl (f := fun t (_ : Nat) => post (pwrEvent t 3) 0x1E5 srcPwr none 0 0)
    (fun t _ => (keptView_post ..).trans (keptView_pwrEvent t 3)) _ s

theorem keptView_thermHigh : keptView (thermHigh s) = keptView s := by
  unfold thermHigh
  split
  · split
    · rfl
    · exact (keptView_post ..).trans rfl
  · rfl

theorem keptView_tripped : keptView (updPwr (toPoint s slowest) (fun w => { w with trip := true })) = keptView s :=
  keptView_toPoint s slowest

theorem keptView_thermTrip : keptView (thermTrip s) = keptView s := by
  unfold thermTrip
  split
  · split
    · rfl
    · exact (keptView_forgeTemper ..).trans ((keptView_post ..).trans (keptView_tripped s))
  · rfl

theorem keptView_thermRead (l : List (BitVec 11)) (bad : BitVec 20) :
    keptView (thermRead s l bad) = keptView (sense s l bad) := by
  unfold thermRead
  refine (keptView_thermTrip _).trans ((keptView_thermHigh _).trans ?_)
  split
  · exact (keptView_toPoint ..).trans (keptView_sensorBad ..)
  · exact keptView_sensorBad ..

theorem thermalSample_goes (readings : List (BitVec 11)) (bad : BitVec 20)
    (hdue : 1000 ≤ (now s - s.pwr.thermAt).toNat) :
    ∃ t, Goes (.thermalSample readings bad) s t ∧ t.pwr.thermAt = now s :=
  ⟨_, goes_of_eq rfl (if_neg (Nat.not_lt.mpr hdue)), (congrArg KeptView.thermAt (keptView_thermRead ..) :)⟩

-- ---------------------------------------------------------------- cores at the start of a block (R519)

theorem keptView_updCore (c : Nat) (f : Core → Core) : keptView (updCore s c f) = keptView s := rfl

theorem keptView_resetCore (c : Nat) (enabled : Bool) : keptView (resetCore s c enabled) = keptView s := rfl

theorem keptView_domainStarted (d : Nat) : keptView (setOn (setEn s d true) d true) = keptView s := rfl

theorem keptView_startUpCore (c : Nat) : keptView (startUpCore s c) = keptView s := by
  unfold startUpCore
  dsimp only
  split
  · exact (keptView_updCore ..).trans ((keptView_foldl
      (f := fun t i => setOn (setEn t (13 * c + i) true) (13 * c + i) true) (fun t _ => keptView_domainStarted t _)
      _ _).trans (keptView_resetCore ..))
  · exact keptView_resetCore ..

theorem keptView_updBsk (b : Nat) (f : Basket → Basket) : keptView (updBsk s b f) = keptView s := rfl

theorem keptView_fullSave (c : Nat) : keptView (fullSave s c) = keptView s := by
  unfold fullSave
  split
  · next x _ _ =>
    dsimp only
    have hout := keptView_switchOut s x false true
    split
    · exact (keptView_updCtx ..).trans ((keptView_updBsk ..).trans hout)
    · exact hout
  · rfl

theorem keptView_stopCtx (c : Nat) : keptView (stopCtx s c) = keptView s := by
  unfold stopCtx
  dsimp only
  split <;> rfl

theorem keptView_dropRoutes (b : Nat) : keptView (dropRoutes s b) = keptView s := rfl

theorem keptView_with_sb_parked (p : BitVec 16) :
    keptView { s with sb := { s.sb with parked := p } } = keptView s := rfl

theorem keptView_parkBasket (b : Nat) : keptView (parkBasket s b) = keptView s :=
  (keptView_with_sb_parked ..).trans ((keptView_dropRoutes ..).trans (keptView_foldl keptView_stopCtx _ s))

theorem keptView_parkIfShort (b : Nat) : keptView (parkIfShort s b) = keptView s := by
  unfold parkIfShort
  dsimp only
  split
  · exact keptView_parkBasket ..
  · rfl

theorem keptView_dropFromBasket (c : Nat) : keptView (dropFromBasket s c) = keptView s := by
  unfold dropFromBasket
  split
  · exact (keptView_parkIfShort ..).trans ((keptView_geqPut ..).trans (keptView_updBsk ..))
  · rfl

theorem keptView_retireCore (c : Nat) : keptView (retireCore s c) = keptView s := by
  unfold retireCore
  extract_lets w written stopped noted
  have hnoted : keptView noted = keptView s := (keptView_geqPut ..).trans (keptView_forgeTemper ..)
  exact (keptView_dropFromBasket ..).trans ((keptView_updCore ..).trans ((keptView_fullSave ..).trans hnoted))

theorem keptView_calFail (c : Nat) (fails : List (Nat × Nat)) : keptView (calFail s c fails) = keptView s := by
  unfold calFail
  dsimp only
  split
  · exact (keptView_retireCore ..).trans rfl
  · rfl

theorem keptView_calPass (c : Nat) : keptView (calPass s c) = keptView s := rfl

theorem keptView_startUpCal (calFails : List (CoreId × List (Nat × Nat))) (c : Nat) :
    keptView (startUpCal calFails s c) = keptView s := by
  unfold startUpCal
  dsimp only
  split
  · split
    · exact (keptView_calFail ..).trans (keptView_updCore ..)
    · exact (keptView_updCore ..).trans ((keptView_calPass ..).trans (keptView_updCore ..))
  · rfl

theorem keptView_carveWindow : keptView (carveWindow s) = keptView s := by
  unfold carveWindow
  split
  · exact keptView_with_atu s _
  · rfl

theorem keptView_updSvc (f : Svc → Svc) : keptView (updSvc s f) = keptView s := rfl

theorem keptView_startSensed (i : StartInputs) : keptView (startSensed s i) =
    keptView (sense (updPwr (meshStart (temperStart s i.temper)) (fun w => { w with lock := true, div := 0, gate := 0 }))
      i.readings i.selfTestFail) := by
  unfold startSensed
  dsimp only
  split
  · exact (keptView_toPoint ..).trans (keptView_thermRead ..)
  · exact keptView_thermRead ..

theorem clocks_startSensed (i : StartInputs) :
    (keptView (startSensed s i)).clk = s.clk ∧ (keptView (startSensed s i)).warm = s.pwr.warm := by
  rw [keptView_startSensed]
  exact ⟨rfl, rfl⟩

/-- The Forge's domain on, and the Forge as its image is authentic or not (R519). -/
def forgeStarted (s : State) (i : StartInputs) : State :=
  updSvc (setOn (setEn s 208 true) 208 true) (fun v =>
    { v with held := !i.authentic, version := if i.authentic then i.version else 0 })

theorem keptView_forgeStarted (i : StartInputs) : keptView (forgeStarted s i) = keptView s := rfl

/-- The cores of a block with an authentic image: reset, powered and calibrated (R519). -/
def coresStarted (s : State) (i : StartInputs) : State :=
  let t := now s
  let s := updSvc (carveWindow s) (fun v => { v with wdog := t, reminder := t })
  let s := (List.range 16).foldl startUpCore s
  (List.range 16).foldl (startUpCal i.calFails) s

theorem keptView_coresStarted (i : StartInputs) : keptView (coresStarted s i) = keptView s :=
  (keptView_foldl (fun u c => keptView_startUpCal u i.calFails c) _ _).trans
    ((keptView_foldl keptView_startUpCore _ _).trans ((keptView_updSvc ..).trans (keptView_carveWindow s)))

theorem startUp_eq (i : StartInputs) : startUp s i =
    if i.authentic then coresStarted (forgeStarted (startSensed s i) i) i
    else (List.range 16).foldl (fun s c => resetCore s c (coreEnabled s c)) (forgeStarted (startSensed s i) i) := rfl

/-- The block's start leaves the clocks, and whether its reset was warm (R518). -/
theorem keptView_startUp (i : StartInputs) : keptView (startUp s i) = keptView (startSensed s i) := by
  rw [startUp_eq, ← keptView_forgeStarted (startSensed s i) i]
  generalize forgeStarted (startSensed s i) i = u
  split
  · exact keptView_coresStarted u i
  · exact keptView_foldl (f := fun u c => resetCore u c (coreEnabled u c))
      (fun u c => keptView_resetCore u c _) _ u

theorem blockWarmReset_goes (i : StartInputs) :
    ∃ t, Goes (.blockWarmReset i) s t ∧ t.clk = s.clk ∧ t.pwr.warm = true := by
  obtain ⟨hclk, hwarm⟩ := clocks_startSensed (updPwr { cleared s with clk := s.clk } (fun w =>
    { w with unlocks := s.pwr.unlocks, warm := true })) i
  rw [← keptView_startUp] at hclk hwarm
  exact ⟨blockWarmReset s i, rfl, hclk, hwarm⟩

end

end Sys2Proof.Proofs
end

section
/-! PROOF. Where the store, power, the resets and telemetry complete (O47). -/

namespace Sys2Proof.Proofs

open Sys2Proof Sys2Proof.Machine Sys2Proof.Says Sys2Proof.Laws

section
variable {s : State}

theorem blockColdReset_goes {i : StartInputs} (h : i.lock = false) :
    ∃ t, Goes (.blockColdReset i) s t ∧ t.mem = s.mem ∧ t.pending = s.pending ∧ t.cp = State.reset.cp := by
  have hcleared : blockColdReset s i = cleared s := if_neg (by rw [h]; exact Bool.false_ne_true)
  exact ⟨_, goes_of_eq rfl hcleared, rfl, rfl, rfl⟩

-- ---------------------------------------------------------------- telemetry (R551, R552, R555, R558)

theorem traceEnable_goes {i : Initiator} (hi : i = .host ∨ i = .forge) (hon : domOn s 216 = true) :
    ∃ t, Goes (.traceEnable i) s t ∧ t.tel.traceEn = true := by
  refine ⟨_, goes_of_gated rfl (byHostForge_of_eq hi) hon rfl, ?_⟩
  unfold traceEnableTo
  split
  · next hen => exact hen
  · rfl

theorem snapshot_goes {x : DWord} (hon : domOn s 216 = true) (hpending : s.tel.pending = some x)
    (hdue : x.toNat ≤ (now s).toNat) (hclocks : s.pwr.lostSince = none) :
    ∃ t, Goes .snapshot s t ∧ t.tel.shadows = s.tel.counters ∧ t.tel.taken = now s := by
  obtain ⟨q, n, b, htake⟩ := takeSnapshot_frame s x
  exact ⟨_, goes_of_eq rfl ((snapshot_of_due hpending hclocks hon hdue).trans htake), rfl, rfl⟩

/-- The line that a timeout fills is whole (R558). -/
theorem traceLineTimeout_goes {r : TraceRec} (hlast : s.tel.queue[s.tel.queue.length / 4 * 4]? = some r)
    (hen : s.tel.traceEn = true) (hage : 1000 ≤ (now s - r.tick).toNat) :
    ∃ t, Goes .traceLineTimeout s t ∧ t.tel.queue.length % 4 = 0 := by
  refine ⟨_, goes_of_eq rfl (traceLineTimeout_of_due hlast hen hage), ?_⟩
  have hlength : (s.tel.queue ++ List.replicate (4 - s.tel.queue.length % 4) (padRec (now s))).length =
      s.tel.queue.length + (4 - s.tel.queue.length % 4) := by rw [List.length_append, List.length_replicate]
  show (s.tel.queue ++ List.replicate (4 - s.tel.queue.length % 4) (padRec (now s))).length % 4 = 0
  omega

theorem traceLineWrite_goes (hqueue : 4 ≤ s.tel.queue.length) (hen : s.tel.traceEn = true)
    (hclocks : s.pwr.lostSince = none) (hpaced : linePaced s = false) (hroom : traceRoom s = true)
    (hpa : physOk s false (traceAddr s) (traceAddr s + 127) = true) :
    ∃ t, Goes (.traceLineWrite .ok) s t ∧ t.tel.wr = s.tel.wr + 4 ∧ t.tel.queue = s.tel.queue.drop 4 :=
  ⟨_, goes_of_eq rfl (traceLineWrite_of_ok hqueue hen hclocks hpaced hroom hpa), rfl, rfl⟩

end

/-- Settles O47: the store's mount, operations, upkeep and subops, power, the resets and telemetry. -/
theorem storeAndPowerComplete : Obligations.StoreAndPowerComplete := by
  unfold Obligations.StoreAndPowerComplete
  intro s
  refine ⟨storePower_goes, fun ch ce lun o x hch hce hlun => nandOps_goes hch hce hlun, mountedUpkeep_goes,
    fun x => eraseArmExpiry_goes, storeHoursTick_goes, fun ctx r => ?subops, fun hon => ?power,
    fun d r hreq => ⟨powerAck_goes hreq, pwrSeqTimeout_goes hreq⟩, thermalSample_goes s, pllUnlock_goes,
    fun x => pllReturn_goes, fun i => blockColdReset_goes, blockWarmReset_goes s,
    fun step torn => ⟨powerLoss s step torn, rfl, rfl, rfl⟩, fun hon => ?telemetry⟩
  case subops =>
    exact ⟨appends_goes, reads_goes, fun x u => search_goes, commit_goes, fun u => ingotWrite_goes,
      fun i => ingotRead_goes, ingotDelete_goes, fun bad q => format_goes, moduleOut_goes,
      fun badT bad => moduleIn_goes⟩
  case power =>
    exact ⟨domainOn_goes hon, storeReset_goes hon, pwrBudgetWrite_goes hon⟩
  case telemetry =>
    exact ⟨fun i hi => ⟨fun hcome => ⟨_, snapshotArm_goes hi hon (armAt_of_to_come hcome), rfl⟩,
      traceEnable_goes hi hon⟩, fun x hpending => snapshot_goes hon hpending, fun r => traceLineTimeout_goes,
      traceLineWrite_goes⟩

end Sys2Proof.Proofs
end
